-- ==== Sys2Proof/Word.lean ====
section
/-! DEFINITION. The word types of the Amlos and the fixed-size register file they are kept in. -/

namespace Sys2Proof

/-- A byte of memory. -/
abbrev Byte := BitVec 8

/-- The 64-bit scalar word (R67). -/
abbrev Word := BitVec 64

/-- The 1,024-bit vector register, operand latch and result port (R67, R128). -/
abbrev Vec := BitVec 1024

/-- A register file of `2 ^ n` registers, named by an `n`-bit index. -/
abbrev RF (n : Nat) (α : Type) := Vector α (2 ^ n)

/-- The value of register `i`. -/
def RF.get {n : Nat} {α : Type} (r : RF n α) (i : BitVec n) : α := Vector.get r ⟨i.toNat, i.isLt⟩

/-- The file with register `i` holding `x`. -/
def RF.put {n : Nat} {α : Type} (r : RF n α) (i : BitVec n) (x : α) : RF n α :=
  Vector.set r i.toNat x i.isLt

/-- The file with every register holding `x`. -/
def RF.fill {n : Nat} {α : Type} (x : α) : RF n α := Vector.replicate (2 ^ n) x

/-- A sparse table by number: the entries written so far, in rising order of their key. -/
abbrev Tbl (α : Type) := List (Nat × α)

/-- The entry of `k`, or `d` where the table lists none. -/
def Tbl.get {α : Type} (d : α) : Tbl α → Nat → α
  | [], _ => d
  | (k', x) :: r, k => if k = k' then x else Tbl.get d r k

/-- The table with the entry of `k` holding `x`. -/
def Tbl.put {α : Type} (k : Nat) (x : α) : Tbl α → Tbl α
  | [] => [(k, x)]
  | (k', y) :: r => if k = k' then (k, x) :: r else if k < k' then (k, x) :: (k', y) :: r else (k', y) :: Tbl.put k x r

/-- The bits `hi:lo` of `x`, as a word of `w` bits. -/
abbrev bits {n : Nat} (x : BitVec n) (lo w : Nat) : BitVec w := x.extractLsb' lo w

end Sys2Proof
end

