-- ==== Sys2Proof/Syntax.lean ====
section
/-! DEFINITION. The instructions of the Amlos: every row of the opcode table, as one inductive. -/

namespace Sys2Proof

/-- A core number 0-1791 (R13); the numbers above name no core. -/
abbrev CoreNo := BitVec 11

/-- A router: 0-223 are the on-package routers `28 * die + cluster` (R14), 224-229 the edge routers of ports
0-5 (R17); the numbers above name no router. -/
abbrev RouterNo := BitVec 8

/-- The slot-word formats of ANB-1, with the fields of R161, R163, R165 and R166. A 7-bit source field is a wait
bit above a 6-bit index (R160). `sub` tells the opcodes of one operation apart (R156). -/
inductive Fmt where
  | sr (d : BitVec 6) (a b : BitVec 7) (x : BitVec 1)
  | sk (p : BitVec 4) (c : BitVec 2) (a b : BitVec 7) (x : BitVec 1)
  | sb (off : BitVec 21)
  | sd (d : BitVec 6) (off : BitVec 15)
  | sc (cr : BitVec 8) (a : BitVec 7) (d : BitVec 6)
  | sg (imm : BitVec 8) (a : BitVec 7)
  | sl (n : BitVec 2) (a : BitVec 7) (pb : BitVec 4) (nstm1 : BitVec 3) (len : BitVec 9)
  | sp (d : BitVec 6) (a b : BitVec 7) (ext : BitVec 5)
  | se (d : BitVec 6) (a : BitVec 7) (imm : BitVec 32)
  | vr (d : BitVec 5) (a b : BitVec 7) (t : BitVec 2)
  | vx (d : BitVec 5) (a b c : BitVec 7) (et : BitVec 4) (w : BitVec 2) (rm : BitVec 3) (me : BitVec 1)
      (mk : BitVec 3) (uf : BitVec 6)
  | xb (a b : BitVec 7) (c : BitVec 1) (t : BitVec 3)
  | xr (d row : BitVec 5) (a : BitVec 7)
  | xs (d : BitVec 5) (a : BitVec 7)
  | ma (sub : BitVec 4) (d : BitVec 6) (a b : BitVec 7) (x : BitVec 1)
  | mw (sub : BitVec 4) (v a b : BitVec 7)
  | ms (d : BitVec 6) (a : BitVec 7) (q sz : BitVec 2)
  | mu (v a : BitVec 7) (sz : BitVec 2)
  | mg (sub : BitVec 4) (d : BitVec 5) (a b : BitVec 7)
  | mq (q : BitVec 3) (a : BitVec 7) (d : BitVec 6)
  | mc (a : BitVec 7)
  | mn (n : BitVec 3) (a : BitVec 7)
  | mt (a b : BitVec 7) (k l : BitVec 2)
  | mf (k : BitVec 2) (sc : BitVec 3)
  | mk (p : BitVec 4) (a b : BitVec 7)
  | atm (sub : BitVec 4) (d : BitVec 6) (a b : BitVec 7) (z : BitVec 1)
  | me (sub : BitVec 4) (d : BitVec 6) (a : BitVec 7) (off : BitVec 32)
  | my (sub : BitVec 4) (v a : BitVec 7) (off : BitVec 32)
  deriving DecidableEq, Repr

/-- The two ways an operation is started: by a Wyilo move to the trigger port of unit `inst` (R128), or
by slot `slot` of a native bundle under guard `g`, negated by `gn` (R73, R74). -/
inductive Form where
  | wy (inst : BitVec 2)
  | nat (slot : BitVec 3) (gn : BitVec 1) (g : BitVec 4) (f : Fmt)
  deriving DecidableEq, Repr

/-- What a vendor-defined message inside a secured session of a tenant's interface says to install a key slot (R363): the tenant is the
session's, and the message names the handle, the slot, the key, the stream identifier and the initial counter. -/
structure KeyMessage where
  tenant : BitVec 5
  handle : BitVec 32
  slot : BitVec 8
  key : BitVec 256
  strm : BitVec 32
  counter : Word
  deriving DecidableEq, Repr

/-- What stops the package (R416): the SRC and the UNIT of the structure that failed. -/
structure FailCause where
  src : BitVec 8
  unit : BitVec 16
  deriving DecidableEq, Repr

/-- What a junction's temperature asks for (R368, R416): a clock step, and at 110 degrees, `hot`, the lowest one. -/
structure Throttle where
  step : BitVec 8
  hot : Bool
  deriving DecidableEq, Repr

/-- What a supervisor's pre-emption request names (R59). -/
inductive PreemptTarget where
  | core (n : CoreNo)
  | launch (t : BitVec 5) (handle : BitVec 32)
  | tenant (t : BitVec 5)
  deriving DecidableEq, Repr

/-- What starts a run of a router (R274): an arrival over the link of direction `dir` as the move that brought it
names it, an inward arrival, an injection, the release of a park entry, or a combine release. -/
inductive RunSource where
  | arrival (dir : BitVec 4)
  | inward (die : BitVec 3)
  | injection
  | park (entry : BitVec 4)
  | combine
  deriving DecidableEq, Repr

/-- A fabric link, by the router that sends on it and the direction code of R271 (10 is the inward or outward
base-die link of an edge router toward the die of `die`). -/
structure LinkNo where
  router : RouterNo
  dir : BitVec 4
  die : BitVec 3
  deriving DecidableEq, Repr

/-- A cache that can evict a line (R294). -/
inductive CacheLevel where
  | l1 (core : CoreNo)
  | die (die : BitVec 3)
  deriving DecidableEq, Repr

/-- One constructor per row of the opcode table, in its order; those without operands stand last. -/
inductive Instr where
  /-- A native bundle issues and commits in the first cycle its wait conditions allow, with all executing slots taking effect together or none (R76). -/
  | bundleIssue (core : CoreNo)
  /-- After outstanding producers land, the core writes the trap frame, raises DEPTH and continues at TVEC or SVEC (R89). -/
  | trapEntry (core : CoreNo)
  /-- A long-latency producer's result lands and sets its destination's full bit (R68). -/
  | resultLanding (core : CoreNo) (i : Nat)
  /-- A read stream's transfer unit fetches the next element, up to eight ahead of the program (R82). -/
  | streamFetch (core : CoreNo) (q : BitVec 3)
  /-- A write stream's transfer unit writes a buffered element to memory in index order (R83). -/
  | streamWriteElement (core : CoreNo) (q : BitVec 3)
  /-- A committed gated entry leaves the core's gated store buffer in program order (R339). -/
  | gatedEntryDrain (core : CoreNo)
  /-- The Cartographer finishes translating a region into a sheet in the atlas, and the waiting core proceeds (R334). -/
  | translationComplete (die : BitVec 3) (core : CoreNo) (groups : Nat)
  /-- A failed or timed-out translation pipeline is retried on another pipeline, with a fault point after all have failed (R441). -/
  | translationRetry (die : BitVec 3) (core : CoreNo)
  /-- The descriptor cache fills the entries a grouped beat needs, releasing the held bundle (R236). -/
  | descriptorCacheFill (core : CoreNo)
  /-- The distributor takes a queue head whose DEPS is 0, checks it, advances LQHEAD and adds its tasks to the live count (R51). -/
  | launchTake (t : BitVec 5) (q : BitVec 3)
  /-- The distributor applies a wake atomically to a continuation record word, enqueuing a suspended record or setting W (R43). -/
  | wake (i : Nat)
  /-- A task's time slice expires and a pre-emption request arises once a dispatchable candidate for its core exists (R59). -/
  | timeSliceExpiry (core : CoreNo)
  /-- The supervisor names a core, launch or tenant whose running tasks are to be pre-empted (R59). -/
  | preemptionRequest (who : PreemptTarget)
  /-- At the first boundary after a request the core quiesces copies and streams, writes the context to SAVEA and frees the core (R62). -/
  | preemptionSave (core : CoreNo)
  /-- A page fault at DEPTH 0 with holding enabled saves the task at its sheet entry and writes a held-fault ring entry (R447). -/
  | pageFaultHold (core : CoreNo)
  /-- A write of a handle to CANCEL discards the launch's waiting tasks and marks its running tasks cancel pending (R57). -/
  | cancel (t : BitVec 5) (handle : BitVec 32)
  /-- A write of a queue's tail index makes launch records visible, or is ignored and reported when out of range (R361). -/
  | lqtailWrite (t : BitVec 5) (q : BitVec 3) (tail : Word)
  /-- Clearing TCTL.EN cancels every active or visible launch of the tenant in queue order (R362). -/
  | tenantDisable (t : BitVec 5)
  /-- A fired send reads its descriptor, base-table entry and payload and injects the packet (R270). -/
  | armedSend (core : CoreNo)
  /-- A fired copy action reads its command, checks it and queues it on the core's copy engine or fails its barrier (R259). -/
  | armedCopyQueue (core : CoreNo)
  /-- The copy engine starts a queued copy, adding an arm-queued copy's length to its barrier and checking decryption conditions (R259). -/
  | copyStart (core : CoreNo)
  /-- A 16-byte copy granule is read and lands single-copy atomically, lowering its barrier count and setting scratchpad full bits (R255). -/
  | copyGranule (core : CoreNo) (i : Nat) (g : Nat)
  /-- A sent packet receives its device header fields and enters its cluster's router, which runs its program with arrival code 10 (R270). -/
  | packetInjection (core : CoreNo)
  /-- A router runs a packet's transit program from instruction 0 after its last flit arrives or on injection or park release (R274). -/
  | transitRun (router : RouterNo) (src : RunSource)
  /-- An open combine slot reaching its deadline releases the children present and becomes closed with a missing mask (R284). -/
  | combineDeadlineRelease (router : RouterNo) (slot : BitVec 6)
  /-- A delivery writes its payload granules to the target and then increments the target core's counter as a system release (R285). -/
  | delivery (i : Nat)
  /-- A flit failing its CRC is refused and the sender resends from that flit, keeping order (R475). -/
  | linkCrcRetry (link : LinkNo)
  /-- After eight retries of one flit a link retrains and spares lanes or wires (R475). -/
  | linkRetrain (link : LinkNo) (spared : Bool)
  /-- Every 64 ticks each connected torus link exchanges timing messages and MTIME is slewed toward the parent (R347). -/
  | bearingExchange (port : BitVec 3) (dist : BitVec 16) (bound : BitVec 32) (t1 t2 t3 t4 : Word)
  /-- An atomic request is performed single-copy atomically at its home once its clock hold is met, returning the old value (R267). -/
  | atomicAtHome (i : Nat) (merge : Bool)
  /-- A pile applies a stamped write from a die's ordered channel and raises its observed clock (R317). -/
  | pileWriteApply (die pile : BitVec 3)
  /-- A pile applies a release marker from a die and raises that die's entry of its applied clock (R317). -/
  | pileMarkerApply (die pile : BitVec 3)
  /-- A read held at a pile is performed once its applied clock reaches the read's vector clock (R318). -/
  | pileHeldRead (i : Nat)
  /-- A read held at a pile for 2^24 cycles is answered uncorrectable and recorded with SRC 0x19 (R463). -/
  | pileHoldTimeout (i : Nat)
  /-- A pile whose logic die cannot serve it is marked lost, tagging reads and dropping writes (R464). -/
  | pileLost (pile : BitVec 3)
  /-- The device evicts an L1 or die-cache line, writing back only its dirty bytes (R294). -/
  | cacheEviction (level : CacheLevel) (line : Nat)
  /-- The pile logic die and second-tier controller scrub each block every 8 hours, rewriting corrected blocks (R393). -/
  | patrolScrub (block : Nat)
  /-- A core held without issue for 2^HLOG cycles records an error and requests pre-emption of its task (R399). -/
  | hangWatchdogExpiry (core : CoreNo)
  /-- A save not finished 65,536 cycles after a watchdog expiry is stopped, the header marked incomplete and the core reset (R400). -/
  | saveGraceExpiry (core : CoreNo)
  /-- A self-test of an erring location ends, returning it to service as transient or sparing it as lasting (R410). -/
  | selfTestComplete (i : Nat) (lasting : Bool)
  /-- A spare core takes over a core number once the core's private state and copy queue have moved to it (R414). -/
  | coreSpareMove (core : CoreNo)
  /-- The package stops all issue and runs, sets PKGERR.FAIL, drops its torus links and limits its PCIe function (R416). -/
  | failStop (cause : FailCause)
  /-- A junction temperature at or above 105 degrees C lowers the clocks as a cap would (R368). -/
  | thermalThrottle (step : Throttle)
  /-- Writing GO starts an invalidation of a tenant's or the supervisor root's translations and discards affected open sheets (R305). -/
  | tlbinvcGo (v : Word)
  /-- Writing GO raises the tenant's notice vector and starts the notice period before lock revocation (R345). -/
  | atrevGo (t : BitVec 5) (die : BitVec 3) (v : Word)
  /-- At the end of the notice period every atlas lock of the tenant on the die is removed and BUSY clears (R345). -/
  | atrevNoticeExpiry (t : BitVec 5) (die : BitVec 3)
  /-- A REL command releases a parked packet into a run at instruction 0 with arrival code 12 (R286). -/
  | pkcmdRelease (router : RouterNo) (entry : BitVec 4)
  /-- A DISC command removes a parked packet from the park area (R469). -/
  | pkcmdDiscard (router : RouterNo) (entry : BitVec 4)
  /-- A write to CSFREE frees combine slots, discarding stored contributions of open slots with a record (R474). -/
  | csfree (router : RouterNo) (t : BitVec 5) (v : Word)
  /-- A PFRES write with KILL 0 releases a held task into the Pre-empted state (R447). -/
  | pfresResume (t : BitVec 5) (savea : Word)
  /-- A PFRES write with KILL 1 loses the named held task (R447). -/
  | pfresKill (t : BitVec 5) (savea : Word)
  /-- Writing 1 to CRCLR sets the crash-record count NCR and WARM to 0 (R417). -/
  | crclr (v : Word)
  /-- A write of STGOWN changing a slice's owner lets in-flight accesses land and starts clearing the slice (R243). -/
  | stgownWrite (cluster : BitVec 8) (v : Word)
  /-- The zeroing of a staging slice after an ownership change ends and waiting accesses proceed (R243). -/
  | stagingClearComplete (cluster : BitVec 8) (slice : BitVec 3)
  /-- A write of the power cap sets the cap and starts a clock change to the highest compliant step (R367). -/
  | pcapWrite (v : Word)
  /-- The core and router clocks change together at a slot boundary, changing no result (R367). -/
  | clockChange (step : BitVec 8)
  /-- A tenant interface entering CONFIG_LOCKED or RUN makes the tenant's configuration registers ignore writes (R358). -/
  | tdispConfigLock (t : BitVec 5) (run : Bool)
  /-- A tenant interface returning to CONFIG_UNLOCKED ends the locks and erases every key slot of the tenant (R358). -/
  | tdispUnlock (t : BitVec 5)
  /-- A vendor-defined secured SPDM message installs or is refused an AES key slot for a running launch (R363). -/
  | keyInstall (msg : KeyMessage)
  /-- An SPDM request over DOE is answered with a doubly signed response or an SPDM error (R486). -/
  | spdmRequest (msg : List Byte)
  /-- A firmware image staged over DOE is verified under both signatures before use, or discarded (R485). -/
  | firmwareUpdate (image : List Byte)
  /-- A host commit in a secured SPDM message advances the rollback counter after the new image booted (R485). -/
  | firmwareCommit (msg : List Byte)
  /-- A write to a device register without behaviour of its own stores its value when it is one aligned 8-byte access (R359). -/
  | deviceRegisterWrite (addr : BitVec 52) (size : Nat) (v : Word)
  /-- A Wyilo move of FORM 0 copies a register or result port to a register, latch or trigger port (R139). -/
  | moveRegister (e n : BitVec 1) (g : BitVec 4) (d s : BitVec 12)
  /-- A Wyilo move of FORM 1 writes a sign-extended 12-bit immediate to its destination (R139). -/
  | moveImmediate12 (e n : BitVec 1) (g : BitVec 4) (d s : BitVec 12)
  /-- A Wyilo move of FORM 2 writes the following 32-bit signed immediate word to its destination (R139). -/
  | moveImmediate32 (e n : BitVec 1) (g : BitVec 4) (d : BitVec 12) (imm : BitVec 32)
  /-- A Wyilo move of FORM 3 writes the following two-word 64-bit immediate to its destination (R139). -/
  | moveImmediate64 (e n : BitVec 1) (g : BitVec 4) (d : BitVec 12) (imm : Word)
  /-- Scalar 64-bit sum (R174). -/
  | add (f : Form)
  /-- Scalar 64-bit difference (R174). -/
  | sub (f : Form)
  /-- Low 64 bits of the scalar product (R174). -/
  | mul (f : Form)
  /-- High 64 bits of the signed product (R174). -/
  | mulh (f : Form)
  /-- High 64 bits of the unsigned product (R174). -/
  | mulhu (f : Form)
  /-- Signed quotient truncated toward zero with fixed borderline results (R175). -/
  | div (f : Form)
  /-- Unsigned quotient with fixed result for division by zero (R175). -/
  | divu (f : Form)
  /-- Signed remainder with the sign of the dividend (R175). -/
  | rem (f : Form)
  /-- Unsigned remainder (R175). -/
  | remu (f : Form)
  /-- Signed scalar minimum (R174). -/
  | imin (f : Form)
  /-- Signed scalar maximum (R174). -/
  | imax (f : Form)
  /-- Unsigned scalar minimum (R174). -/
  | minu (f : Form)
  /-- Unsigned scalar maximum (R174). -/
  | maxu (f : Form)
  /-- Scalar magnitude, wrapping for the most negative value (R174). -/
  | iabs (f : Form)
  /-- 32-bit sum sign-extended to 64 bits (R174). -/
  | addw (f : Form)
  /-- 32-bit difference sign-extended to 64 bits (R174). -/
  | subw (f : Form)
  /-- 32-bit product sign-extended to 64 bits (R174). -/
  | mulw (f : Form)
  /-- Adds b shifted left by a 2-bit amount to a (R177). -/
  | lea (f : Form)
  /-- Compares a with b under a condition code and writes the result to a predicate or .y (R176). -/
  | cmp (f : Form)
  /-- Native opcode 0x15 writes the negation of a compare condition to a predicate (R161). -/
  | cmpn (f : Form)
  /-- Selects a or b by a predicate or c[0] (R177). -/
  | sel (f : Form)
  /-- Scalar bitwise AND (R178). -/
  | bitAnd (f : Form)
  /-- Scalar bitwise OR; the carrying move form copies tags (R178). -/
  | bitOr (f : Form)
  /-- Scalar bitwise XOR (R178). -/
  | bitXor (f : Form)
  /-- Scalar shift left, 0 for counts of 64 or more (R178). -/
  | shl (f : Form)
  /-- Scalar logical shift right, 0 for counts of 64 or more (R178). -/
  | shr (f : Form)
  /-- Scalar arithmetic shift right by at most 63 (R178). -/
  | sar (f : Form)
  /-- Scalar rotate right by b[5:0] (R178). -/
  | rotr (f : Form)
  /-- Extracts a bit field zero-extended, cut at bit 63 (R179). -/
  | extu (f : Form)
  /-- Extracts a bit field sign-extended, cut at bit 63 (R179). -/
  | exts (f : Form)
  /-- Inserts a bit field into a base value (R179). -/
  | insf (f : Form)
  /-- Counts population, leading zeros or trailing zeros (R180). -/
  | cnt (f : Form)
  /-- Reverses the eight bytes of a (R180). -/
  | bswap (f : Form)
  /-- Transfers control to a link-time target (R182). -/
  | br (f : Form)
  /-- Transfers control to a register target (R182). -/
  | jmp (f : Form)
  /-- Writes the return virtual PC to a link register and transfers to a fixed target (R182). -/
  | call (f : Form)
  /-- Writes the return virtual PC to a link register and transfers to a register target (R182). -/
  | callr (f : Form)
  /-- Returns to a register target (R182). -/
  | ret (f : Form)
  /-- Starts a loop engine on the following software-pipelined kernel (R183). -/
  | loop (f : Form)
  /-- Leaves the innermost active loop at once (R184). -/
  | lexit (f : Form)
  /-- Suspends the task on a continuation record, or returns at once if a wake or cancel is pending (R42). -/
  | susp (f : Form)
  /-- Adds a written continuation record to the launch's ready list as a new task (R46). -/
  | spawn (f : Form)
  /-- Waits for the task's copies and gated stores, releases and frees the core, ending the task (R47). -/
  | exit (f : Form)
  /-- Reads a control register (R186). -/
  | crrd (f : Form)
  /-- Writes a control register under its access and privilege rules (R186). -/
  | crwr (f : Form)
  /-- Returns a control register and sets the masked bits (R186). -/
  | crset (f : Form)
  /-- Raises software trap n after its move group completes (R188). -/
  | trap (f : Form)
  /-- Returns from a trap, restoring the frame at the lower depth (R91). -/
  | tret (f : Form)
  /-- Holds the next bundle until SFC equals a stamp (R190). -/
  | issueat (f : Form)
  /-- Holds the next bundle until the (N+1)th slot boundary and zeroes SFC there (R191). -/
  | frmwait (f : Form)
  /-- Holds the next bundle until the first slot boundary at or after a meridian time (R192). -/
  | timeat (f : Form)
  /-- Privileged spill of the accumulator to 4,096 bytes of memory (R193). -/
  | accsp (f : Form)
  /-- Privileged fill of the accumulator from memory, or zeroing with address 0 (R193). -/
  | accfl (f : Form)
  /-- Privileged spill of the 64-byte matrix state image (R193). -/
  | msps (f : Form)
  /-- Privileged fill of the matrix state image, or reset with address 0 (R193). -/
  | msfl (f : Form)
  /-- Writes a trace marker record to the core's trace buffer (R194). -/
  | mark (f : Form)
  /-- Loads a 128-byte send descriptor and optionally replaces its destination (R198). -/
  | pbld (f : Form)
  /-- Sends a traverse packet from a descriptor and payload, then increments a local counter (R199). -/
  | psend (f : Form)
  /-- Holds its bundle until a delivery counter reaches a value, acquiring at system scope (R200). -/
  | dwait (f : Form)
  /-- Releases and writes an arm slot of a delivery counter, then tests it (R201). -/
  | darm (f : Form)
  /-- Reads a delivery counter, acquiring at system scope (R200). -/
  | dread (f : Form)
  /-- Releases and adds to a delivery counter, then tests its arm slots (R202). -/
  | dadd (f : Form)
  /-- Releases and sets a delivery counter without testing arms (R202). -/
  | dset (f : Form)
  /-- Integer lane sum, wrapping or saturating (R213). -/
  | vaiAdd (f : Form)
  /-- Integer lane difference, wrapping or saturating (R213). -/
  | vaiSub (f : Form)
  /-- Integer lane product, wrapping or saturating (R213). -/
  | vaiMul (f : Form)
  /-- High half of the integer lane product (R213). -/
  | vaiMulh (f : Form)
  /-- Integer lane minimum (R213). -/
  | vaiMin (f : Form)
  /-- Integer lane maximum (R213). -/
  | vaiMax (f : Form)
  /-- Integer lane magnitude (R213). -/
  | vaiAbs (f : Form)
  /-- Lane bitwise AND (R213). -/
  | vaiAnd (f : Form)
  /-- Lane bitwise OR; the carrying move form copies tags (R213). -/
  | vaiOr (f : Form)
  /-- Lane bitwise XOR (R213). -/
  | vaiXor (f : Form)
  /-- Integer lane shift left (R214). -/
  | vaiShl (f : Form)
  /-- Integer lane logical shift right (R214). -/
  | vaiShr (f : Form)
  /-- Integer lane arithmetic shift right (R214). -/
  | vaiSar (f : Form)
  /-- Integer lane compare into a lane mask (R215). -/
  | vaiCmp (f : Form)
  /-- Floating lane sum with one rounding (R216). -/
  | vfpAdd (f : Form)
  /-- Floating lane difference with one rounding (R216). -/
  | vfpSub (f : Form)
  /-- Floating lane product with one rounding (R216). -/
  | vfpMul (f : Form)
  /-- Fused a*b+c with one rounding (R216). -/
  | vfpFma (f : Form)
  /-- Fused a*b-c with one rounding (R216). -/
  | vfpFms (f : Form)
  /-- Fused -(a*b)+c with one rounding (R216). -/
  | vfpFnma (f : Form)
  /-- Floating lane minimum with -0 below +0 (R217). -/
  | vfpMin (f : Form)
  /-- Floating lane maximum with +0 above -0 (R217). -/
  | vfpMax (f : Form)
  /-- Clears the sign bit of each floating lane (R217). -/
  | vfpAbs (f : Form)
  /-- Inverts the sign bit of each floating lane (R217). -/
  | vfpNeg (f : Form)
  /-- Floating lane compare into a lane mask (R219). -/
  | vfpCmp (f : Form)
  /-- Scales each floating lane by 2^b with one rounding (R218). -/
  | vfpScal (f : Form)
  /-- Rounds each floating lane to an integral value (R218). -/
  | vfpRint (f : Form)
  /-- Copies the sign of b into each floating lane of a (R217). -/
  | vfpCpsgn (f : Form)
  /-- Permutes lanes by an index vector (R220). -/
  | vperm (f : Form)
  /-- Compresses active lanes to the low end (R221). -/
  | vcmpr (f : Form)
  /-- Expands consecutive lanes into active lanes (R221). -/
  | vexpd (f : Form)
  /-- Finds the lowest lane of b bitwise equal to each lane of a (R222). -/
  | vmatch (f : Form)
  /-- Sums lanes by the fixed pairwise tree (R223). -/
  | vredsum (f : Form)
  /-- Minimum over lanes by the fixed tree (R223). -/
  | vredmin (f : Form)
  /-- Maximum over lanes by the fixed tree (R223). -/
  | vredmax (f : Form)
  /-- Running sums of lanes in the fixed scan order (R224). -/
  | vscan (f : Form)
  /-- Converts lanes between element types (R225). -/
  | vcvt (f : Form)
  /-- Quantises one group to codes and a descriptor using the Legend (R226). -/
  | vquant (f : Form)
  /-- Dequantises one group of codes using its descriptor and the Legend (R227). -/
  | vdqnt (f : Form)
  /-- Broadcasts one lane to every active lane (R220). -/
  | vbcst (f : Form)
  /-- Table-based 2^x in every lane (R229). -/
  | vexp2 (f : Form)
  /-- Table-based log2 in every lane (R229). -/
  | vlog2 (f : Form)
  /-- Table-based reciprocal in every lane (R229). -/
  | vrcp (f : Form)
  /-- Table-based reciprocal square root in every lane (R229). -/
  | vrsqrt (f : Form)
  /-- Table-based square root in every lane (R229). -/
  | vsqrt (f : Form)
  /-- Table-based sin(pi x) in every lane (R229). -/
  | vsinpi (f : Form)
  /-- Table-based cos(pi x) in every lane (R229). -/
  | vcospi (f : Form)
  /-- Table-based tanh in every lane (R229). -/
  | vtanh (f : Form)
  /-- Table-based erf in every lane (R229). -/
  | verf (f : Form)
  /-- Writes the matrix configuration MCFG (R235). -/
  | mcfg (f : Form)
  /-- Reads the matrix configuration (R235). -/
  | mcfgr (f : Form)
  /-- Loads the 16-entry Legend (R235). -/
  | mlgd (f : Form)
  /-- Reads the Legend (R235). -/
  | mlgs (f : Form)
  /-- Binds a descriptor plane and removes its tensor's descriptor-cache entries (R235). -/
  | mdsc (f : Form)
  /-- Sets every accumulator element to +0.0 (R235). -/
  | mzero (f : Form)
  /-- Adds a 32xK by Kx32 product into acc in recombined or classical order (R238). -/
  | mbeat (f : Form)
  /-- Grouped INT8 or INT4 beat in classical order using descriptor planes (R239). -/
  | mbeatq (f : Form)
  /-- Drains one accumulator row to a vector (R240). -/
  | mdrn (f : Form)
  /-- Fills one accumulator row from a vector (R240). -/
  | mfil (f : Form)
  /-- Clears MSTAT's zero-group count and flags (R235). -/
  | mstc (f : Form)
  /-- Loads 1-8 bytes to a scalar or 32-128 bytes to a vector (R244). -/
  | ld (f : Form)
  /-- Long-form load in M0 with a 32-bit offset from M1 (R166). -/
  | ldLong (f : Form)
  /-- Stores 1-8 bytes from a scalar or 32-128 bytes from a vector (R244). -/
  | st (f : Form)
  /-- Long-form store in M0 with a 32-bit offset from M1 (R166). -/
  | stLong (f : Form)
  /-- Loads from the own scratchpad under a full/empty qualifier (R247). -/
  | ldsp (f : Form)
  /-- Stores to the own scratchpad and sets covered full bits (R247). -/
  | stsp (f : Form)
  /-- Loads from a cluster core's scratchpad through its port (R248). -/
  | ldrs (f : Form)
  /-- Stores to a cluster core's scratchpad through its port (R248). -/
  | strs (f : Form)
  /-- Gathers 4- or 8-byte elements from base plus index lanes (R246). -/
  | gath (f : Form)
  /-- Scatters 4- or 8-byte elements in ascending lane order (R246). -/
  | scat (f : Form)
  /-- Looks up an address in the scratchpad tag table (R249). -/
  | tagl (f : Form)
  /-- Writes a scratchpad tag-table entry (R249). -/
  | tagw (f : Form)
  /-- Sets the full bits of a scratchpad range (R250). -/
  | fes (f : Form)
  /-- Clears the full bits of a scratchpad range (R250). -/
  | fec (f : Form)
  /-- Binds a stream register to a descriptor and starts fetching (R252). -/
  | sbind (f : Form)
  /-- Drains or drops a stream and unbinds it (R252). -/
  | sfree (f : Form)
  /-- Returns a stream's status (R252). -/
  | sstat (f : Form)
  /-- Checks and queues an asynchronous copy command, adding its length to a bound barrier (R254). -/
  | copy (f : Form)
  /-- Sets a byte barrier's wake action and clears its FAIL flag (R257). -/
  | bbset (f : Form)
  /-- Holds its bundle until a byte barrier's count is 0, or raises its stored copy failure (R257). -/
  | bbwait (f : Form)
  /-- Cleans, invalidates or both over a range at L1, DIE or PKG (R260). -/
  | cmnt (f : Form)
  /-- Acquire, release or both at a scope (R261). -/
  | fence (f : Form)
  /-- Invalidates cached native code and sheets for a range within a scope (R262). -/
  | icinv (f : Form)
  /-- Translates and locks a range's sheets in the atlas, or reports refusal (R263). -/
  | tclk (f : Form)
  /-- Releases the tenant's atlas locks in a range (R263). -/
  | tculk (f : Form)
  /-- Atomic integer, FP32 or BF16 add at the home (R265). -/
  | aadd (f : Form)
  /-- Atomic minimum at the home (R265). -/
  | amin (f : Form)
  /-- Atomic maximum at the home (R265). -/
  | amax (f : Form)
  /-- Atomic bitwise AND at the home (R265). -/
  | aand (f : Form)
  /-- Atomic bitwise OR at the home (R265). -/
  | aor (f : Form)
  /-- Atomic bitwise XOR at the home (R265). -/
  | axor (f : Form)
  /-- Atomic exchange at the home (R265). -/
  | axchg (f : Form)
  /-- Atomic compare-and-swap at the home (R265). -/
  | acas (f : Form)
  /-- Pushes a sign-extended 10-bit immediate (R277). -/
  | pushi (n : BitVec 10)
  /-- Shifts the top entry left by 10 and ORs in an immediate (R277). -/
  | xtnd (n : BitVec 10)
  /-- Pushes packet register w[i] (R277). -/
  | ldw (i : BitVec 2)
  /-- Pops into packet register w[i] (R277). -/
  | stw (i : BitVec 2)
  /-- Adds a sign-extended 10-bit immediate to the top entry (R277). -/
  | addi (n : BitVec 10)
  /-- Pushes a value of the router's environment chosen by its selector (R278). -/
  | env (s : BitVec 10)
  /-- Pushes payload word i (R280). -/
  | pld (i : BitVec 6)
  /-- Pops into payload word i (R280). -/
  | pst (i : BitVec 6)
  /-- Adds n waypoint window words into payload words, as i32 or f32 (R280). -/
  | pvadd (t : BitVec 1) (s : BitVec 6)
  /-- Places the packet's payload in a combine slot and releases the summed set when complete (R284). -/
  | comb (t : BitVec 1)
  /-- Pops a value and skips n instructions if it is zero (R281). -/
  | skz (n : BitVec 4)
  /-- Pops a value and skips n instructions if it is nonzero (R281). -/
  | sknz (n : BitVec 4)
  /-- Skips n instructions (R281). -/
  | skip (n : BitVec 4)
  /-- Sends a copy of the packet in each direction of a mask (R282). -/
  | clon (m : BitVec 10)
  /-- Moves the packet in a direction, a popped direction or its default route, ending the run (R283). -/
  | fwd (d : BitVec 4)
  /-- Moves the packet in the least occupied direction of a mask, ending the run (R283). -/
  | least (m : BitVec 10)
  /-- Parks the whole packet in the router's park area with a reason code (R286). -/
  | park (c : BitVec 10)
  /-- The SYS operation crclr returns a control register's old value and clears the bits set in its mask, under R7 and the privilege rules of R70 (R186). -/
  | sysCrclr (f : Form)
  /-- The distributor grants a task or ready record to an idle core of its home and the core begins it with the dispatch register state (R40). -/
  | taskDispatch
  /-- A pre-empted task is granted to a core of its home, which restores its save area and re-issues its unfinished copies (R65). -/
  | taskResume
  /-- When a record's merge window closes and its self-test ends, the record is written to the package log and tenant queue (R405). -/
  | errorRecordWrite
  /-- An invalidation completes package-wide and TLBINVC.BUSY falls to 0 (R305). -/
  | tlbInvalidationComplete
  /-- A package reset runs the verified boot sequence, recording progress in BOOTST (R366). -/
  | packageReset
  /-- A warm reset keeps the crash registers and sets WARM when records are held (R417). -/
  | warmReset
  /-- Duplicates the top stack entry (R277). -/
  | dup
  /-- Discards the top stack entry (R277). -/
  | drop
  /-- Exchanges the top two stack entries (R277). -/
  | swap
  /-- Pops two values and pushes their 32-bit sum (R277). -/
  | transitAdd
  /-- Pops two values and pushes their 32-bit difference (R277). -/
  | transitSub
  /-- Pops two values and pushes their bitwise AND (R277). -/
  | transitAnd
  /-- Pops two values and pushes their bitwise OR (R277). -/
  | transitOr
  /-- Pops two values and pushes their bitwise XOR (R277). -/
  | transitXor
  /-- Pops two values and pushes a shifted left by b (R277). -/
  | transitShl
  /-- Pops two values and pushes a shifted right by b, zero-filled (R277). -/
  | transitShr
  /-- Pushes 1 if the two popped values are equal (R277). -/
  | ceq
  /-- Pushes 1 if a is below b, signed (R277). -/
  | clt
  /-- Pushes 1 if a is below b, unsigned (R277). -/
  | cltu
  /-- Pushes a word of the tenant's waypoint window (R279). -/
  | wpld
  /-- Stores a value to a waypoint window word (R279). -/
  | wpst
  /-- Adds to a waypoint word and pushes its old value (R279). -/
  | wpadd
  /-- Claims a zero waypoint word with a value and pushes whether it succeeded (R279). -/
  | wpclm
  /-- Checks and delivers the payload to its target at this package, ending the run (R285). -/
  | dlvr
  /-- Discards the packet (R283). -/
  | kill
  deriving DecidableEq, Repr

end Sys2Proof
end

