-- ==== Sys2Proof/Machine/Catalogue.lean ====
section
/-! DEFINITION. The operation catalogue of R156: for each operation its unit, Wyilo trigger code, native opcode and
the shape its slot word must have (R158, R160-R168). -/

namespace Sys2Proof

/-- The thirteen unit types of R127. -/
inductive Unit13 where
  | INT | BIT | BRC | SYS | VAI | VFP | VPM | SFN | MTX | LDS | XFR | PKT | ATM
  deriving DecidableEq, Repr

namespace Machine

/-- The type code of a unit (R127). -/
def unitCode : Unit13 → BitVec 4
  | .INT => 0 | .BIT => 1 | .BRC => 2 | .SYS => 3 | .VAI => 4 | .VFP => 5 | .VPM => 6 | .SFN => 7 | .MTX => 8
  | .LDS => 9 | .XFR => 10 | .PKT => 11 | .ATM => 12

/-- The unit of a type code; 13-15 are reserved (R127). -/
def unitOfCode (c : BitVec 4) : Option Unit13 :=
  match c with
  | 0 => some .INT | 1 => some .BIT | 2 => some .BRC | 3 => some .SYS | 4 => some .VAI | 5 => some .VFP
  | 6 => some .VPM | 7 => some .SFN | 8 => some .MTX | 9 => some .LDS | 10 => some .XFR | 11 => some .PKT
  | 12 => some .ATM | _ => none

/-- How many instances of a unit a program may name (R127). -/
def unitInstances : Unit13 → Nat
  | .BRC | .SYS | .SFN | .MTX | .PKT => 1
  | _ => 4

/-- The four native slot classes. -/
inductive SlotClass where
  | s | v | x | m
  deriving DecidableEq, Repr

/-- The class of a slot number (R72). -/
def slotClass (n : BitVec 3) : SlotClass :=
  match n with
  | 0 | 1 => .s
  | 2 | 3 | 4 => .v
  | 5 => .x
  | _ => .m

/-- The class a unit's operations issue in (R156). -/
def unitClass : Unit13 → SlotClass
  | .INT | .BIT | .BRC | .SYS | .PKT => .s
  | .VAI | .VFP | .VPM | .SFN => .v
  | .MTX => .x
  | .LDS | .XFR | .ATM => .m

/-- What an SR word's D field carries. -/
inductive DUse where
  | none | sreg | link | vreg | dc
  deriving DecidableEq, Repr

/-- What an SR word's B and X fields carry. -/
inductive BUse where
  | none | any | cnt
  deriving DecidableEq, Repr

/-- Which element types and rounding fields a vector operation takes (R163, R209). -/
inductive VKind where
  | intg | flt | fltR | perm | red | cvt | quant
  deriving DecidableEq, Repr

/-- What an XS word's A field carries. -/
inductive XsA where
  | none | vec | scal
  deriving DecidableEq, Repr

/-- The shape of an operation's slot word: its format and which of the format's fields it uses. -/
inductive Shape where
  | sr (d : DUse) (a : Bool) (b : BUse)
  | srv
  | sk | sb | sd
  | sc (a d : Bool)
  | sg (n a : Bool)
  | sl | sel | lea
  | v (k : VKind) (b : Bool)
  | vfma
  | vcmp (k : VKind)
  | sfn
  | xb (grouped : Bool)
  | xr (drain : Bool)
  | xs (d : Bool) (a : XsA)
  | mdsc
  | ld | ldLong | st | stLong | ma | mw | ms | mu | mg
  | mq (a d : Bool)
  | mc
  | mn (a : Bool)
  | mt (k l : Nat)
  | mf
  | mk (p : Bool)
  | atm (noBf : Bool)
  deriving DecidableEq, Repr

/-- One row of the catalogue: `op` is the first native opcode of the operation, `nsub` how many it has, and `fn` the
FN field of an SG word. A `code` of 0 means no Wyilo trigger (R156). -/
structure OpRow where
  unit : Unit13
  code : BitVec 5
  op : BitVec 6
  fn : BitVec 4
  nsub : Nat
  shape : Shape
  deriving DecidableEq, Repr

/-- The catalogue row of an operation and the form it is used in; `none` for the rows of the opcode table that are
no operation of the catalogue. -/
def opRow (i : Instr) : Option (OpRow × Form) :=
  match i with
  | .add f => some (⟨.INT, 4, 0x1, 0, 1, .sr .sreg true .any⟩, f)
  | .sub f => some (⟨.INT, 5, 0x2, 0, 1, .sr .sreg true .any⟩, f)
  | .mul f => some (⟨.INT, 6, 0x3, 0, 1, .sr .sreg true .any⟩, f)
  | .mulh f => some (⟨.INT, 7, 0x4, 0, 1, .sr .sreg true .any⟩, f)
  | .mulhu f => some (⟨.INT, 8, 0x5, 0, 1, .sr .sreg true .any⟩, f)
  | .div f => some (⟨.INT, 9, 0x6, 0, 1, .sr .sreg true .any⟩, f)
  | .divu f => some (⟨.INT, 10, 0x7, 0, 1, .sr .sreg true .any⟩, f)
  | .rem f => some (⟨.INT, 11, 0x8, 0, 1, .sr .sreg true .any⟩, f)
  | .remu f => some (⟨.INT, 12, 0x9, 0, 1, .sr .sreg true .any⟩, f)
  | .imin f => some (⟨.INT, 13, 0xa, 0, 1, .sr .sreg true .any⟩, f)
  | .imax f => some (⟨.INT, 14, 0xb, 0, 1, .sr .sreg true .any⟩, f)
  | .minu f => some (⟨.INT, 15, 0xc, 0, 1, .sr .sreg true .any⟩, f)
  | .maxu f => some (⟨.INT, 16, 0xd, 0, 1, .sr .sreg true .any⟩, f)
  | .iabs f => some (⟨.INT, 17, 0xe, 0, 1, .sr .sreg true .none⟩, f)
  | .addw f => some (⟨.INT, 18, 0xf, 0, 1, .sr .sreg true .any⟩, f)
  | .subw f => some (⟨.INT, 19, 0x10, 0, 1, .sr .sreg true .any⟩, f)
  | .mulw f => some (⟨.INT, 20, 0x11, 0, 1, .sr .sreg true .any⟩, f)
  | .lea f => some (⟨.INT, 21, 0x12, 0, 1, .lea⟩, f)
  | .cmp f => some (⟨.INT, 22, 0x13, 0, 1, .sk⟩, f)
  | .sel f => some (⟨.INT, 23, 0x14, 0, 1, .sel⟩, f)
  | .cmpn f => some (⟨.INT, 0, 0x15, 0, 1, .sk⟩, f)
  | .bitAnd f => some (⟨.BIT, 4, 0x18, 0, 1, .sr .sreg true .any⟩, f)
  | .bitOr f => some (⟨.BIT, 5, 0x19, 0, 1, .sr .sreg true .any⟩, f)
  | .bitXor f => some (⟨.BIT, 6, 0x1a, 0, 1, .sr .sreg true .any⟩, f)
  | .shl f => some (⟨.BIT, 7, 0x1b, 0, 1, .sr .sreg true .any⟩, f)
  | .shr f => some (⟨.BIT, 8, 0x1c, 0, 1, .sr .sreg true .any⟩, f)
  | .sar f => some (⟨.BIT, 9, 0x1d, 0, 1, .sr .sreg true .any⟩, f)
  | .rotr f => some (⟨.BIT, 10, 0x1e, 0, 1, .sr .sreg true .any⟩, f)
  | .extu f => some (⟨.BIT, 11, 0x1f, 0, 1, .sr .sreg true .any⟩, f)
  | .exts f => some (⟨.BIT, 12, 0x20, 0, 1, .sr .sreg true .any⟩, f)
  | .insf f => some (⟨.BIT, 13, 0x21, 0, 1, .sr .sreg true .any⟩, f)
  | .cnt f => some (⟨.BIT, 14, 0x22, 0, 1, .sr .sreg true .cnt⟩, f)
  | .bswap f => some (⟨.BIT, 15, 0x23, 0, 1, .sr .sreg true .none⟩, f)
  | .br f => some (⟨.BRC, 4, 0x28, 0, 1, .sb⟩, f)
  | .jmp f => some (⟨.BRC, 5, 0x29, 0, 1, .sr .none true .any⟩, f)
  | .call f => some (⟨.BRC, 6, 0x2a, 0, 1, .sd⟩, f)
  | .callr f => some (⟨.BRC, 7, 0x2b, 0, 1, .sr .link true .any⟩, f)
  | .ret f => some (⟨.BRC, 8, 0x2c, 0, 1, .sr .none true .any⟩, f)
  | .loop f => some (⟨.BRC, 9, 0x2d, 0, 1, .sl⟩, f)
  | .lexit f => some (⟨.BRC, 10, 0x2e, 0, 1, .sr .none false .none⟩, f)
  | .susp f => some (⟨.BRC, 11, 0x2f, 0, 1, .sr .none true .any⟩, f)
  | .spawn f => some (⟨.BRC, 12, 0x30, 0, 1, .sr .none true .any⟩, f)
  | .exit f => some (⟨.BRC, 13, 0x31, 0, 1, .sr .none false .none⟩, f)
  | .crrd f => some (⟨.SYS, 4, 0x34, 0, 1, .sc false true⟩, f)
  | .crwr f => some (⟨.SYS, 5, 0x35, 0, 1, .sc true false⟩, f)
  | .crset f => some (⟨.SYS, 6, 0x36, 0, 1, .sc true true⟩, f)
  | .sysCrclr f => some (⟨.SYS, 7, 0x37, 0, 1, .sc true true⟩, f)
  | .trap f => some (⟨.SYS, 8, 0x38, 0, 1, .sg true false⟩, f)
  | .tret f => some (⟨.SYS, 9, 0x38, 1, 1, .sg false false⟩, f)
  | .issueat f => some (⟨.SYS, 10, 0x38, 2, 1, .sg false true⟩, f)
  | .frmwait f => some (⟨.SYS, 11, 0x38, 3, 1, .sg true false⟩, f)
  | .timeat f => some (⟨.SYS, 12, 0x38, 4, 1, .sg false true⟩, f)
  | .accsp f => some (⟨.SYS, 13, 0x38, 5, 1, .sg false true⟩, f)
  | .accfl f => some (⟨.SYS, 14, 0x38, 6, 1, .sg false true⟩, f)
  | .msps f => some (⟨.SYS, 15, 0x38, 7, 1, .sg false true⟩, f)
  | .msfl f => some (⟨.SYS, 16, 0x38, 8, 1, .sg false true⟩, f)
  | .mark f => some (⟨.SYS, 17, 0x38, 9, 1, .sg true true⟩, f)
  | .pbld f => some (⟨.PKT, 4, 0x39, 0, 1, .sr .vreg true .any⟩, f)
  | .psend f => some (⟨.PKT, 5, 0x3a, 0, 1, .srv⟩, f)
  | .dwait f => some (⟨.PKT, 6, 0x3b, 0, 1, .sr .dc false .any⟩, f)
  | .darm f => some (⟨.PKT, 7, 0x3c, 0, 1, .sr .dc true .any⟩, f)
  | .dread f => some (⟨.PKT, 8, 0x3d, 0, 1, .sr .sreg false .any⟩, f)
  | .dadd f => some (⟨.PKT, 9, 0x3e, 0, 1, .sr .dc false .any⟩, f)
  | .dset f => some (⟨.PKT, 10, 0x3f, 0, 1, .sr .dc false .any⟩, f)
  | .vaiAdd f => some (⟨.VAI, 4, 0x1, 0, 1, .v .intg true⟩, f)
  | .vaiSub f => some (⟨.VAI, 5, 0x2, 0, 1, .v .intg true⟩, f)
  | .vaiMul f => some (⟨.VAI, 6, 0x3, 0, 1, .v .intg true⟩, f)
  | .vaiMulh f => some (⟨.VAI, 7, 0x4, 0, 1, .v .intg true⟩, f)
  | .vaiMin f => some (⟨.VAI, 8, 0x5, 0, 1, .v .intg true⟩, f)
  | .vaiMax f => some (⟨.VAI, 9, 0x6, 0, 1, .v .intg true⟩, f)
  | .vaiAbs f => some (⟨.VAI, 10, 0x7, 0, 1, .v .intg false⟩, f)
  | .vaiAnd f => some (⟨.VAI, 11, 0x8, 0, 1, .v .intg true⟩, f)
  | .vaiOr f => some (⟨.VAI, 12, 0x9, 0, 1, .v .intg true⟩, f)
  | .vaiXor f => some (⟨.VAI, 13, 0xa, 0, 1, .v .intg true⟩, f)
  | .vaiShl f => some (⟨.VAI, 14, 0xb, 0, 1, .v .intg true⟩, f)
  | .vaiShr f => some (⟨.VAI, 15, 0xc, 0, 1, .v .intg true⟩, f)
  | .vaiSar f => some (⟨.VAI, 16, 0xd, 0, 1, .v .intg true⟩, f)
  | .vaiCmp f => some (⟨.VAI, 17, 0xe, 0, 1, .vcmp .intg⟩, f)
  | .vfpAdd f => some (⟨.VFP, 4, 0x10, 0, 1, .v .fltR true⟩, f)
  | .vfpSub f => some (⟨.VFP, 5, 0x11, 0, 1, .v .fltR true⟩, f)
  | .vfpMul f => some (⟨.VFP, 6, 0x12, 0, 1, .v .fltR true⟩, f)
  | .vfpFma f => some (⟨.VFP, 7, 0x13, 0, 1, .vfma⟩, f)
  | .vfpFms f => some (⟨.VFP, 8, 0x14, 0, 1, .vfma⟩, f)
  | .vfpFnma f => some (⟨.VFP, 9, 0x15, 0, 1, .vfma⟩, f)
  | .vfpMin f => some (⟨.VFP, 10, 0x16, 0, 1, .v .flt true⟩, f)
  | .vfpMax f => some (⟨.VFP, 11, 0x17, 0, 1, .v .flt true⟩, f)
  | .vfpAbs f => some (⟨.VFP, 12, 0x18, 0, 1, .v .flt false⟩, f)
  | .vfpNeg f => some (⟨.VFP, 13, 0x19, 0, 1, .v .flt false⟩, f)
  | .vfpCmp f => some (⟨.VFP, 14, 0x1a, 0, 1, .vcmp .flt⟩, f)
  | .vfpScal f => some (⟨.VFP, 15, 0x1b, 0, 1, .v .fltR true⟩, f)
  | .vfpRint f => some (⟨.VFP, 16, 0x1c, 0, 1, .v .fltR false⟩, f)
  | .vfpCpsgn f => some (⟨.VFP, 17, 0x1d, 0, 1, .v .flt true⟩, f)
  | .vperm f => some (⟨.VPM, 4, 0x20, 0, 1, .v .perm true⟩, f)
  | .vcmpr f => some (⟨.VPM, 5, 0x21, 0, 1, .v .perm false⟩, f)
  | .vexpd f => some (⟨.VPM, 6, 0x22, 0, 1, .v .perm false⟩, f)
  | .vmatch f => some (⟨.VPM, 7, 0x23, 0, 1, .v .perm true⟩, f)
  | .vredsum f => some (⟨.VPM, 8, 0x24, 0, 1, .v .red false⟩, f)
  | .vredmin f => some (⟨.VPM, 9, 0x25, 0, 1, .v .red false⟩, f)
  | .vredmax f => some (⟨.VPM, 10, 0x26, 0, 1, .v .red false⟩, f)
  | .vscan f => some (⟨.VPM, 11, 0x27, 0, 1, .v .red false⟩, f)
  | .vcvt f => some (⟨.VPM, 12, 0x28, 0, 1, .v .cvt false⟩, f)
  | .vquant f => some (⟨.VPM, 13, 0x29, 0, 1, .v .quant true⟩, f)
  | .vdqnt f => some (⟨.VPM, 14, 0x2a, 0, 1, .v .quant true⟩, f)
  | .vbcst f => some (⟨.VPM, 15, 0x2b, 0, 1, .v .perm true⟩, f)
  | .vexp2 f => some (⟨.SFN, 4, 0x30, 0, 1, .sfn⟩, f)
  | .vlog2 f => some (⟨.SFN, 5, 0x31, 0, 1, .sfn⟩, f)
  | .vrcp f => some (⟨.SFN, 6, 0x32, 0, 1, .sfn⟩, f)
  | .vrsqrt f => some (⟨.SFN, 7, 0x33, 0, 1, .sfn⟩, f)
  | .vsqrt f => some (⟨.SFN, 8, 0x34, 0, 1, .sfn⟩, f)
  | .vsinpi f => some (⟨.SFN, 9, 0x35, 0, 1, .sfn⟩, f)
  | .vcospi f => some (⟨.SFN, 10, 0x36, 0, 1, .sfn⟩, f)
  | .vtanh f => some (⟨.SFN, 11, 0x37, 0, 1, .sfn⟩, f)
  | .verf f => some (⟨.SFN, 12, 0x38, 0, 1, .sfn⟩, f)
  | .mcfg f => some (⟨.MTX, 4, 0x1, 0, 1, .xs false .scal⟩, f)
  | .mcfgr f => some (⟨.MTX, 5, 0x2, 0, 1, .xs true .none⟩, f)
  | .mlgd f => some (⟨.MTX, 6, 0x3, 0, 1, .xs false .vec⟩, f)
  | .mlgs f => some (⟨.MTX, 7, 0x4, 0, 1, .xs true .none⟩, f)
  | .mdsc f => some (⟨.MTX, 8, 0x5, 0, 1, .mdsc⟩, f)
  | .mzero f => some (⟨.MTX, 9, 0x6, 0, 1, .xs false .none⟩, f)
  | .mbeat f => some (⟨.MTX, 10, 0x7, 0, 1, .xb false⟩, f)
  | .mbeatq f => some (⟨.MTX, 11, 0x8, 0, 1, .xb true⟩, f)
  | .mdrn f => some (⟨.MTX, 12, 0x9, 0, 1, .xr true⟩, f)
  | .mfil f => some (⟨.MTX, 13, 0xa, 0, 1, .xr false⟩, f)
  | .mstc f => some (⟨.MTX, 14, 0xb, 0, 1, .xs false .none⟩, f)
  | .ld f => some (⟨.LDS, 4, 0x1, 0, 10, .ld⟩, f)
  | .ldLong f => some (⟨.LDS, 0, 0x1, 0, 10, .ldLong⟩, f)
  | .st f => some (⟨.LDS, 5, 0xb, 0, 7, .st⟩, f)
  | .stLong f => some (⟨.LDS, 0, 0xb, 0, 7, .stLong⟩, f)
  | .ldsp f => some (⟨.LDS, 6, 0x12, 0, 1, .ms⟩, f)
  | .stsp f => some (⟨.LDS, 7, 0x13, 0, 1, .mu⟩, f)
  | .ldrs f => some (⟨.LDS, 8, 0x14, 0, 1, .ms⟩, f)
  | .strs f => some (⟨.LDS, 9, 0x15, 0, 1, .mu⟩, f)
  | .gath f => some (⟨.LDS, 10, 0x16, 0, 2, .mg⟩, f)
  | .scat f => some (⟨.LDS, 11, 0x18, 0, 2, .mw⟩, f)
  | .tagl f => some (⟨.LDS, 12, 0x1a, 0, 1, .ma⟩, f)
  | .tagw f => some (⟨.LDS, 13, 0x1b, 0, 1, .mw⟩, f)
  | .fes f => some (⟨.LDS, 14, 0x1c, 0, 1, .mt 1 1⟩, f)
  | .fec f => some (⟨.LDS, 15, 0x1d, 0, 1, .mt 1 1⟩, f)
  | .sbind f => some (⟨.XFR, 4, 0x20, 0, 1, .mq true false⟩, f)
  | .sfree f => some (⟨.XFR, 5, 0x21, 0, 1, .mq false false⟩, f)
  | .sstat f => some (⟨.XFR, 6, 0x22, 0, 1, .mq false true⟩, f)
  | .copy f => some (⟨.XFR, 7, 0x23, 0, 1, .mc⟩, f)
  | .bbset f => some (⟨.XFR, 8, 0x24, 0, 1, .mn true⟩, f)
  | .bbwait f => some (⟨.XFR, 9, 0x25, 0, 1, .mn false⟩, f)
  | .cmnt f => some (⟨.XFR, 10, 0x26, 0, 1, .mt 3 3⟩, f)
  | .fence f => some (⟨.XFR, 11, 0x27, 0, 1, .mf⟩, f)
  | .icinv f => some (⟨.XFR, 12, 0x28, 0, 1, .mt 1 4⟩, f)
  | .tclk f => some (⟨.XFR, 13, 0x29, 0, 1, .mk true⟩, f)
  | .tculk f => some (⟨.XFR, 14, 0x2a, 0, 1, .mk false⟩, f)
  | .aadd f => some (⟨.ATM, 4, 0x30, 0, 3, .atm false⟩, f)
  | .amin f => some (⟨.ATM, 5, 0x33, 0, 3, .atm true⟩, f)
  | .amax f => some (⟨.ATM, 6, 0x36, 0, 3, .atm true⟩, f)
  | .aand f => some (⟨.ATM, 7, 0x39, 0, 1, .atm false⟩, f)
  | .aor f => some (⟨.ATM, 8, 0x3a, 0, 1, .atm false⟩, f)
  | .axor f => some (⟨.ATM, 9, 0x3b, 0, 1, .atm false⟩, f)
  | .axchg f => some (⟨.ATM, 10, 0x3c, 0, 1, .atm false⟩, f)
  | .acas f => some (⟨.ATM, 11, 0x3d, 0, 1, .atm false⟩, f)  | _ => none

/-- The integer element types (R129, R209). -/
def etInt (et : BitVec 4) : Bool := et = 5 || et = 6 || et = 7 || et = 8 || et = 9 || et = 10 || et = 13 || et = 14

/-- The floating element types of a lane operation: f32, f16 and bf16. -/
def etFlt (et : BitVec 4) : Bool := et = 0 || et = 1 || et = 2

/-- The two FP8 element types. -/
def etFp8 (et : BitVec 4) : Bool := et = 3 || et = 4

/-- The element types an operation of a kind accepts (R209). -/
def etOk (k : VKind) (et : BitVec 4) : Bool :=
  match k with
  | .intg => etInt et
  | .flt | .fltR | .quant => etFlt et
  | .red => etInt et || etFlt et
  | .perm | .cvt => etInt et || etFlt et || etFp8 et

/-- The kinds whose operations round (R209). -/
def kindRounds (k : VKind) : Bool :=
  match k with
  | .fltR | .red | .cvt | .quant => true
  | _ => false

/-- The T values a VR word of a kind may hold (R163). -/
def tOk (k : VKind) (t : BitVec 2) : Bool :=
  match k with
  | .flt | .fltR => t ≠ 3
  | _ => true

/-- Whether an EXT word's fields suit a kind: the type, the width, no rounding field where nothing rounds (of the reductions and scans the
integer ones, R209), and no width or mask register in the quantising operations, which use none (R160, R226; DEDUCED, log entry 77). An RM
of 5 or 6 is let through here, and reported by the operation (R425). -/
def extOk (k : VKind) (et : BitVec 4) (w : BitVec 2) (rm mk : BitVec 3) (uf : BitVec 6) : Bool :=
  etOk k et && w ≠ 3 && ((kindRounds k && (k ≠ .red || decide (et.toNat < 5))) || rm = 0) && (k ≠ .quant || (mk = 0 && w = 0)) &&
  (k ≠ .cvt || etOk .cvt (bits uf 1 4))

/-- Whether a 7-bit field is the unused 0. -/
def unused (x : BitVec 7) : Bool := x = 0

/-- Whether the fields of a slot word suit the shape of its operation: the unused ones are 0, the indices lie in
their ranges, and no field holds a value the format reserves (R160-R166, R422 CODE 0x0002). `sub` runs below `nsub`. -/
def shapeOk (nsub : Nat) (sh : Shape) (f : Fmt) : Bool :=
  match sh, f with
  | .sr d a b, .sr fd fa fb fx =>
      (match d with
        | .none => fd = 0
        | .sreg | .link => true
        | .vreg | .dc => fd.toNat < 32) &&
      (a || unused fa) &&
      (match b with
        | .none => unused fb && fx = 0
        | .any => true
        | .cnt => fx = 1 && fb.toNat ≤ 2)
  | .sr d a b, .se _ _ _ => d = .sreg && a && b = .any
  | .srv, .sr fd _ _ _ => fd.toNat < 32
  | .sk, .sk _ c _ _ _ => c ≠ 3
  | .sk, .se d _ _ => bits d 0 2 ≠ (3 : BitVec 2)
  | .sb, .sb _ => true
  | .sd, .sd _ _ => true
  | .sc a d, .sc _ fa fd => (a || unused fa) && (d || fd = 0)
  | .sg n a, .sg fn fa => (n || fn = 0) && (a || unused fa)
  | .sl, .sl _ _ _ _ _ => true
  | .sel, .sp _ _ _ _ => true
  | .lea, .sp _ _ _ e => e.toNat < 4
  | .v k b, .vr d _ fb t => (b || unused fb) && tOk k t && (k ≠ .quant || d.toNat % 2 = 0)
  | .v k b, .vx d _ fb fc et w rm _ mk uf =>
      (b || unused fb) && unused fc && extOk k et w rm mk uf && (k ≠ .quant || d.toNat % 2 = 0)
  | .vfma, .vr _ _ _ t => t ≠ 3
  | .vfma, .vx _ _ _ _ et w _ _ _ _ => etFlt et && w ≠ 3
  | .vcmp k, .vr _ _ _ t => tOk k t
  | .vcmp k, .vx _ _ _ fc et w rm _ mk uf => unused fc && extOk k et w rm mk uf && uf = 0
  | .sfn, .vr _ _ fb t => unused fb && t ≠ 3
  | .xb grouped, .xb _ _ _ t => !grouped || t = 5 || t = 7
  | .xr drain, .xr d _ a => if drain then unused a else d = 0
  | .xs d a, .xs fd fa =>
      (d || fd = 0) &&
      (match a with
        | .none => unused fa
        | .vec => true
        | .scal => 32 ≤ (bits fa 0 6 : BitVec 6).toNat)
  | .mdsc, .xs fd _ => fd.toNat < 2
  | .ld, .ma sub d _ _ _ => sub.toNat < nsub && (sub.toNat < 7 || d.toNat < 32)
  | .ldLong, .me sub d _ _ => sub.toNat < nsub && (sub.toNat < 7 || d.toNat < 32)
  | .st, .mw sub _ _ _ => sub.toNat < nsub
  | .stLong, .my sub _ _ _ => sub.toNat < nsub
  | .ma, .ma sub _ _ _ _ => sub.toNat < nsub
  | .mw, .mw sub _ _ _ => sub.toNat < nsub
  | .ms, .ms d _ q sz => q ≠ 3 && (sz = 0 || d.toNat < 32)
  | .mu, .mu _ _ _ => true
  | .mg, .mg sub _ a _ => sub.toNat < nsub && 32 ≤ (bits a 0 6 : BitVec 6).toNat
  | .mq a d, .mq _ fa fd => (a || unused fa) && (d || fd = 0)
  | .mc, .mc _ => true
  | .mn a, .mn _ fa => a || unused fa
  | .mt k l, .mt _ _ fk fl => fk.toNat < k && fl.toNat < l
  | .mf, .mf k sc => k ≠ 3 && sc.toNat < 5
  | .mk p, .mk fp _ _ => p || fp = 0
  | .atm noBf, .atm sub _ _ _ z => sub.toNat < nsub && (!noBf || sub ≠ 2 || z = 0)
  | _, _ => false

/-- A pair destination D, D + 1 that a source names in its upper half (R424). -/
def partialOverlap (sh : Shape) (f : Fmt) : Bool :=
  match sh, f with
  | .v .quant _, .vr d a b _ => bits a 0 6 = (d.setWidth 6 + 1) || bits b 0 6 = (d.setWidth 6 + 1)
  | .v .quant _, .vx d a b _ _ _ _ _ _ _ => bits a 0 6 = (d.setWidth 6 + 1) || bits b 0 6 = (d.setWidth 6 + 1)
  | _, _ => false

/-- Whether a format takes over the right slot of its pair (R75). -/
def longForm (f : Fmt) : Bool :=
  match f with
  | .sl .. | .sp .. | .se .. | .vx .. | .me .. | .my .. => true
  | _ => false

/-- Whether an operation may issue in a slot in a format (R158). -/
def slotOk (u : Unit13) (slot : BitVec 3) (f : Fmt) : Bool :=
  slotClass slot = unitClass u &&
  (if longForm f then slot = 0 || slot = 2 || slot = 6
   else if u = .PKT then slot = 1
   else if u = .SFN then slot = 4
   else true)

/-- The opcode of a row for one of its forms: the base plus the form's `sub`. -/
def subOf (f : Fmt) : BitVec 4 :=
  match f with
  | .ma sub .. | .mw sub .. | .mg sub .. | .atm sub .. | .me sub .. | .my sub .. => sub
  | _ => 0

/-! ## Links (R14-R18) -/

/-- Whether a router is an edge router (R17), and its port. -/
def isEdge (r : RouterNo) : Bool := decide (224 ≤ r.toNat)
def edgePort (r : RouterNo) : Nat := r.toNat - 224

/-- The attach router of a die for a port (R18). -/
def attachAt (die port : Nat) : RouterNo :=
  let (u, v) := match port with | 0 => (1, 1) | 1 => (5, 1) | 2 => (1, 2) | 3 => (5, 2) | 4 => (3, 0) | _ => (3, 3)
  BitVec.ofNat 8 (28 * die + 7 * v + u)

/-- Whether a link exists (R15, R17, R18). -/
def linkOk (l : LinkNo) : Bool :=
  if isEdge l.router then decide (l.router.toNat < 230) && (l.dir = 10 || (l.dir.toNat == edgePort l.router && l.die = 0))
  else l.die = 0 && ((6 ≤ l.dir.toNat && l.dir.toNat ≤ 9) ||
    (decide (l.dir.toNat < 6) && attachAt (l.router.toNat / 28) l.dir.toNat == l.router))

end Machine
end Sys2Proof
end

