-- ==== Sys2Proof/WellFormed.lean ====
section
/-! DEFINITION. Well-formed instructions: the checks of R141 on a move word, the checks of R158 and R160-R168 on a
native slot word, and the ranges of what a machine event names. -/

namespace Sys2Proof
open Machine

/-- A guard: negation with predicate 0 is illegal (R74, R131). -/
def guardOk (n : BitVec 1) (g : BitVec 4) : Bool := !(n = 1 && g = 0)

/-- A register reference (R140): its class is none of the reserved ones and its index lies in its class's range. -/
def regRefOk (r : BitVec 12) : Bool :=
  let i := (bits r 0 8 : BitVec 8).toNat
  match (bits r 8 3 : BitVec 3) with
  | 0 => i < 64
  | 1 => i < 32
  | 2 => i < 16
  | 3 => i < 8
  | 4 => i < 8
  | 5 => true
  | 6 => i < 32
  | _ => false

/-- Whether a unit instance exists (R127). -/
def instOk (u : Unit13) (inst : BitVec 2) : Bool := inst.toNat < unitInstances u

/-- The trigger codes a unit assigns, as the first code above the last (R156). -/
def triggerEnd : Unit13 → Nat
  | .INT => 24 | .BIT => 16 | .BRC => 14 | .SYS => 18 | .VAI => 18 | .VFP => 18 | .VPM => 16 | .SFN => 13
  | .MTX => 15 | .LDS => 16 | .XFR => 15 | .PKT => 11 | .ATM => 12

/-- A port reference in a destination field (R140, R141): an existing instance, and a latch or an assigned trigger. -/
def portRefOk (r : BitVec 12) : Bool :=
  match unitOfCode (bits r 7 4) with
  | none => false
  | some u => instOk u (bits r 5 2) && (bits r 0 5 : BitVec 5).toNat < triggerEnd u

/-- A result-port reference in a source field (R140, R141). -/
def resultRefOk (r : BitVec 12) : Bool :=
  match unitOfCode (bits r 7 4) with
  | none => false
  | some u => instOk u (bits r 5 2) && (bits r 0 5 : BitVec 5).toNat < 3

/-- A destination field. -/
def dstOk (d : BitVec 12) : Bool := if d.getLsbD 11 then portRefOk d else regRefOk d

/-- A source field of form 0. -/
def srcOk (s : BitVec 12) : Bool := if s.getLsbD 11 then resultRefOk s else regRefOk s

/-- An operation in one of its forms: an existing instance of a unit with a Wyilo trigger, or a slot word that suits
the operation in a slot that R158 allows. -/
def formOk (row : OpRow) (f : Form) : Bool :=
  match f with
  | .wy inst => row.code ≠ 0 && instOk row.unit inst
  | .nat slot gn g fm =>
      guardOk gn g && slotOk row.unit slot fm && shapeOk row.nsub row.shape fm && !partialOverlap row.shape fm

/-- A core number that names a core (R13). -/
def coreOk (n : CoreNo) : Bool := n.toNat < 1792

/-- A router number that names a router. -/
def routerOk (n : RouterNo) : Bool := n.toNat < 230

/-- Whether an instruction is one the machine's encodings admit. -/
def WellFormed (i : Instr) : Bool :=
  match i with
  | .moveRegister _ n g d s => guardOk n g && dstOk d && srcOk s
  | .moveImmediate12 _ n g d _ | .moveImmediate32 _ n g d _ | .moveImmediate64 _ n g d _ => guardOk n g && dstOk d
  | .bundleIssue c | .trapEntry c | .resultLanding c _ | .streamFetch c _ | .streamWriteElement c _
  | .gatedEntryDrain c | .descriptorCacheFill c | .timeSliceExpiry c | .preemptionSave c | .pageFaultHold c
  | .armedSend c | .armedCopyQueue c | .copyStart c | .copyGranule c _ _ | .packetInjection c
  | .hangWatchdogExpiry c | .saveGraceExpiry c | .coreSpareMove c | .translationComplete _ c _
  | .translationRetry _ c => coreOk c
  | .linkCrcRetry l | .linkRetrain l _ => linkOk l
  | .cacheEviction (.l1 c) _ => coreOk c
  | .transitRun r _ | .combineDeadlineRelease r _ | .pkcmdRelease r _ | .pkcmdDiscard r _ | .csfree r _ _ => routerOk r
  | i => match opRow i with
    | some (row, f) => formOk row f
    | none => true

end Sys2Proof
end

