-- ==== Sys2Proof/Decode.lean ====
section
/-! DEFINITION. The decoders of the three encodings: Wyilo move words (R139-R141), native slot words (R160-R168) and
transit instructions (R275-R286); and the encoder of each, written from the same tables. -/

namespace Sys2Proof
open Machine

/-- Why a word is refused. -/
inductive Reject where
  /-- A word or its immediate reaches past the end of the bytes. -/
  | truncated
  /-- GN or N = 1 with predicate 0 (R74, R131). -/
  | illegalGuard
  /-- A malformed destination reference (R141). -/
  | malformedDst
  /-- A malformed source reference (R141). -/
  | malformedSrc
  /-- SRC is not 0 in form 2 or 3 (R139). -/
  | srcNotZero
  /-- An unassigned opcode, or one in a slot R158 does not allow (R168, R422 CODE 0x0001). -/
  | undefinedOpcode
  /-- A field that breaks the format (R168, R422 CODE 0x0002). -/
  | undefinedEncoding
  /-- A partial overlap of a register group (R424). -/
  | partialOverlap
  /-- An unassigned transit opcode (R275). -/
  | unassignedTransit
  /-- A transit operand bit that the opcode does not use is set (R275). -/
  | reservedOperand
  deriving DecidableEq, Repr

/-- The 16-bit, 32-bit and wider words of bytes, little-endian (R4). -/
def wordOfBytes : List Byte → Nat
  | [] => 0
  | b :: r => b.toNat + 256 * wordOfBytes r

/-- The `n` bytes of a word, little-endian (R4). -/
def bytesOfWord : Nat → Nat → List Byte
  | 0, _ => []
  | n + 1, w => BitVec.ofNat 8 w :: bytesOfWord n (w / 256)

/-- Takes `n` bytes off the front, as one little-endian number. -/
def takeWord (n : Nat) (bs : List Byte) : Except Reject (Nat × List Byte) :=
  if n ≤ bs.length then .ok (wordOfBytes (bs.take n), bs.drop n) else .error .truncated

/-! ## Wyilo move words -/

/-- The move instruction of a move word and the immediate words that follow it (R139). -/
def moveOfWords (w : BitVec 32) (lit : Nat) : Instr :=
  let e : BitVec 1 := bits w 31 1
  let n : BitVec 1 := bits w 30 1
  let g : BitVec 4 := bits w 26 4
  let d : BitVec 12 := bits w 12 12
  let s : BitVec 12 := bits w 0 12
  match (bits w 24 2 : BitVec 2) with
  | 0 => .moveRegister e n g d s
  | 1 => .moveImmediate12 e n g d s
  | 2 => .moveImmediate32 e n g d (BitVec.ofNat 32 lit)
  | _ => .moveImmediate64 e n g d (BitVec.ofNat 64 lit)

/-- How many bytes of immediate follow a move word (R139). -/
def litBytes (w : BitVec 32) : Nat :=
  match (bits w 24 2 : BitVec 2) with
  | 0 | 1 => 0
  | 2 => 4
  | _ => 8

/-- Whether a move word is well formed, by the list of R141. -/
def moveWordCheck (w : BitVec 32) : Except Reject Unit :=
  if ¬ guardOk (bits w 30 1) (bits w 26 4) then .error .illegalGuard
  else if ¬ dstOk (bits w 12 12) then .error .malformedDst
  else match (bits w 24 2 : BitVec 2) with
    | 0 => if srcOk (bits w 0 12) then .ok () else .error .malformedSrc
    | 1 => .ok ()
    | _ => if (bits w 0 12 : BitVec 12) = 0 then .ok () else .error .srcNotZero

/-- Decodes one move at the front of the bytes, and gives the bytes that follow it. -/
def decodeMove (bs : List Byte) : Except Reject (Instr × List Byte) :=
  match takeWord 4 bs with
  | .error r => .error r
  | .ok (n, rest) =>
    let w := BitVec.ofNat 32 n
    match moveWordCheck w with
    | .error r => .error r
    | .ok _ =>
      match takeWord (litBytes w) rest with
      | .error r => .error r
      | .ok (lit, rest') => .ok (moveOfWords w lit, rest')

/-- The move word of a move: E, N, G, FORM, DST and SRC (R139). -/
def moveWord (e n : BitVec 1) (g : BitVec 4) (form : BitVec 2) (d s : BitVec 12) : BitVec 32 :=
  (e ++ n ++ g ++ form ++ d ++ s : BitVec 32)

/-- The bytes of a move, its immediate words included. -/
def encodeMove (i : Instr) : Option (List Byte) :=
  match i with
  | .moveRegister e n g d s => some (bytesOfWord 4 (moveWord e n g 0 d s).toNat)
  | .moveImmediate12 e n g d s => some (bytesOfWord 4 (moveWord e n g 1 d s).toNat)
  | .moveImmediate32 e n g d imm => some (bytesOfWord 4 (moveWord e n g 2 d 0).toNat ++ bytesOfWord 4 imm.toNat)
  | .moveImmediate64 e n g d imm => some (bytesOfWord 4 (moveWord e n g 3 d 0).toNat ++ bytesOfWord 8 imm.toNat)
  | _ => none

/-! ## Wyilo triggers -/

/-- The operation a trigger code of a unit starts (R156). -/
def triggerCtor (u : Unit13) (code : BitVec 5) : Option (Form → Instr) :=
  match u, code with
  | .INT, 4 => some .add
  | .INT, 5 => some .sub
  | .INT, 6 => some .mul
  | .INT, 7 => some .mulh
  | .INT, 8 => some .mulhu
  | .INT, 9 => some .div
  | .INT, 10 => some .divu
  | .INT, 11 => some .rem
  | .INT, 12 => some .remu
  | .INT, 13 => some .imin
  | .INT, 14 => some .imax
  | .INT, 15 => some .minu
  | .INT, 16 => some .maxu
  | .INT, 17 => some .iabs
  | .INT, 18 => some .addw
  | .INT, 19 => some .subw
  | .INT, 20 => some .mulw
  | .INT, 21 => some .lea
  | .INT, 22 => some .cmp
  | .INT, 23 => some .sel
  | .BIT, 4 => some .bitAnd
  | .BIT, 5 => some .bitOr
  | .BIT, 6 => some .bitXor
  | .BIT, 7 => some .shl
  | .BIT, 8 => some .shr
  | .BIT, 9 => some .sar
  | .BIT, 10 => some .rotr
  | .BIT, 11 => some .extu
  | .BIT, 12 => some .exts
  | .BIT, 13 => some .insf
  | .BIT, 14 => some .cnt
  | .BIT, 15 => some .bswap
  | .BRC, 4 => some .br
  | .BRC, 5 => some .jmp
  | .BRC, 6 => some .call
  | .BRC, 7 => some .callr
  | .BRC, 8 => some .ret
  | .BRC, 9 => some .loop
  | .BRC, 10 => some .lexit
  | .BRC, 11 => some .susp
  | .BRC, 12 => some .spawn
  | .BRC, 13 => some .exit
  | .SYS, 4 => some .crrd
  | .SYS, 5 => some .crwr
  | .SYS, 6 => some .crset
  | .SYS, 7 => some .sysCrclr
  | .SYS, 8 => some .trap
  | .SYS, 9 => some .tret
  | .SYS, 10 => some .issueat
  | .SYS, 11 => some .frmwait
  | .SYS, 12 => some .timeat
  | .SYS, 13 => some .accsp
  | .SYS, 14 => some .accfl
  | .SYS, 15 => some .msps
  | .SYS, 16 => some .msfl
  | .SYS, 17 => some .mark
  | .PKT, 4 => some .pbld
  | .PKT, 5 => some .psend
  | .PKT, 6 => some .dwait
  | .PKT, 7 => some .darm
  | .PKT, 8 => some .dread
  | .PKT, 9 => some .dadd
  | .PKT, 10 => some .dset
  | .VAI, 4 => some .vaiAdd
  | .VAI, 5 => some .vaiSub
  | .VAI, 6 => some .vaiMul
  | .VAI, 7 => some .vaiMulh
  | .VAI, 8 => some .vaiMin
  | .VAI, 9 => some .vaiMax
  | .VAI, 10 => some .vaiAbs
  | .VAI, 11 => some .vaiAnd
  | .VAI, 12 => some .vaiOr
  | .VAI, 13 => some .vaiXor
  | .VAI, 14 => some .vaiShl
  | .VAI, 15 => some .vaiShr
  | .VAI, 16 => some .vaiSar
  | .VAI, 17 => some .vaiCmp
  | .VFP, 4 => some .vfpAdd
  | .VFP, 5 => some .vfpSub
  | .VFP, 6 => some .vfpMul
  | .VFP, 7 => some .vfpFma
  | .VFP, 8 => some .vfpFms
  | .VFP, 9 => some .vfpFnma
  | .VFP, 10 => some .vfpMin
  | .VFP, 11 => some .vfpMax
  | .VFP, 12 => some .vfpAbs
  | .VFP, 13 => some .vfpNeg
  | .VFP, 14 => some .vfpCmp
  | .VFP, 15 => some .vfpScal
  | .VFP, 16 => some .vfpRint
  | .VFP, 17 => some .vfpCpsgn
  | .VPM, 4 => some .vperm
  | .VPM, 5 => some .vcmpr
  | .VPM, 6 => some .vexpd
  | .VPM, 7 => some .vmatch
  | .VPM, 8 => some .vredsum
  | .VPM, 9 => some .vredmin
  | .VPM, 10 => some .vredmax
  | .VPM, 11 => some .vscan
  | .VPM, 12 => some .vcvt
  | .VPM, 13 => some .vquant
  | .VPM, 14 => some .vdqnt
  | .VPM, 15 => some .vbcst
  | .SFN, 4 => some .vexp2
  | .SFN, 5 => some .vlog2
  | .SFN, 6 => some .vrcp
  | .SFN, 7 => some .vrsqrt
  | .SFN, 8 => some .vsqrt
  | .SFN, 9 => some .vsinpi
  | .SFN, 10 => some .vcospi
  | .SFN, 11 => some .vtanh
  | .SFN, 12 => some .verf
  | .MTX, 4 => some .mcfg
  | .MTX, 5 => some .mcfgr
  | .MTX, 6 => some .mlgd
  | .MTX, 7 => some .mlgs
  | .MTX, 8 => some .mdsc
  | .MTX, 9 => some .mzero
  | .MTX, 10 => some .mbeat
  | .MTX, 11 => some .mbeatq
  | .MTX, 12 => some .mdrn
  | .MTX, 13 => some .mfil
  | .MTX, 14 => some .mstc
  | .LDS, 4 => some .ld
  | .LDS, 5 => some .st
  | .LDS, 6 => some .ldsp
  | .LDS, 7 => some .stsp
  | .LDS, 8 => some .ldrs
  | .LDS, 9 => some .strs
  | .LDS, 10 => some .gath
  | .LDS, 11 => some .scat
  | .LDS, 12 => some .tagl
  | .LDS, 13 => some .tagw
  | .LDS, 14 => some .fes
  | .LDS, 15 => some .fec
  | .XFR, 4 => some .sbind
  | .XFR, 5 => some .sfree
  | .XFR, 6 => some .sstat
  | .XFR, 7 => some .copy
  | .XFR, 8 => some .bbset
  | .XFR, 9 => some .bbwait
  | .XFR, 10 => some .cmnt
  | .XFR, 11 => some .fence
  | .XFR, 12 => some .icinv
  | .XFR, 13 => some .tclk
  | .XFR, 14 => some .tculk
  | .ATM, 4 => some .aadd
  | .ATM, 5 => some .amin
  | .ATM, 6 => some .amax
  | .ATM, 7 => some .aand
  | .ATM, 8 => some .aor
  | .ATM, 9 => some .axor
  | .ATM, 10 => some .axchg
  | .ATM, 11 => some .acas
  | _, _ => none

/-- The operation that a move to a trigger port starts (R128, R140). -/
def decodeTrigger (d : BitVec 12) : Option Instr :=
  if dstOk d && d.getLsbD 11 then
    match unitOfCode (bits d 7 4) with
    | none => none
    | some u => (triggerCtor u (bits d 0 5)).map fun c => c (.wy (bits d 5 2))
  else none

/-- The destination field that triggers an operation. -/
def encodeTrigger (i : Instr) : Option (BitVec 12) :=
  match opRow i with
  | some (row, .wy inst) => some ((1 : BitVec 1) ++ unitCode row.unit ++ inst ++ row.code)
  | _ => none

/-! ## Native slot words -/

/-- The three parts of a packed slot word: its opcode, bits 25:5, and the right slot's word of a long form. -/
structure Packed where
  op : BitVec 6
  body : BitVec 21
  ext : Option (BitVec 32)
  deriving DecidableEq, Repr

/-- Packs the fields of a slot word: `op` is the operation's opcode and `fn` its FN field (R161, R163, R165, R166). -/
def packFmt (op : BitVec 6) (fn : BitVec 4) (f : Fmt) : Packed :=
  match f with
  | .sr d a b x => ⟨op, d ++ a ++ b ++ x, none⟩
  | .sk p c a b x => ⟨op, p ++ c ++ a ++ b ++ x, none⟩
  | .sb off => ⟨op, off, none⟩
  | .sd d off => ⟨op, d ++ off, none⟩
  | .sc cr a d => ⟨op, cr ++ a ++ d, none⟩
  | .sg imm a => ⟨op, fn ++ imm ++ a ++ (0 : BitVec 2), none⟩
  | .sl n a pb nst len => ⟨op, n ++ a ++ pb ++ nst ++ (0 : BitVec 5), some (len.setWidth 32)⟩
  | .sp d a b e => ⟨op, d ++ a ++ b ++ (0 : BitVec 1), some (e.setWidth 32)⟩
  | .se d a imm => ⟨0x33, d ++ a ++ op ++ (0 : BitVec 2), some imm⟩
  | .vr d a b t => ⟨op, d ++ a ++ b ++ t, none⟩
  | .vx d a b c et w rm me mk uf =>
      ⟨0x3F, d ++ a ++ b ++ (0 : BitVec 2), some (op ++ c ++ et ++ w ++ rm ++ me ++ mk ++ uf)⟩
  | .xb a b c t => ⟨op, a ++ b ++ c ++ t ++ (0 : BitVec 3), none⟩
  | .xr d row a => ⟨op, d ++ row ++ a ++ (0 : BitVec 4), none⟩
  | .xs d a => ⟨op, d ++ a ++ (0 : BitVec 9), none⟩
  | .ma _ d a b x => ⟨op, d ++ a ++ b ++ x, none⟩
  | .mw _ v a b => ⟨op, v ++ a ++ b, none⟩
  | .ms d a q sz => ⟨op, d ++ a ++ q ++ sz ++ (0 : BitVec 4), none⟩
  | .mu v a sz => ⟨op, v ++ a ++ sz ++ (0 : BitVec 5), none⟩
  | .mg _ d a b => ⟨op, d ++ a ++ b ++ (0 : BitVec 2), none⟩
  | .mq q a d => ⟨op, q ++ a ++ d ++ (0 : BitVec 5), none⟩
  | .mc a => ⟨op, a ++ (0 : BitVec 14), none⟩
  | .mn n a => ⟨op, n ++ a ++ (0 : BitVec 11), none⟩
  | .mt a b k l => ⟨op, a ++ b ++ k ++ l ++ (0 : BitVec 3), none⟩
  | .mf k sc => ⟨op, k ++ sc ++ (0 : BitVec 16), none⟩
  | .mk p a b => ⟨op, p ++ a ++ b ++ (0 : BitVec 3), none⟩
  | .atm _ d a b z => ⟨op, d ++ a ++ b ++ z, none⟩
  | .me _ d a off => ⟨0x3E, d ++ a ++ op ++ (0 : BitVec 2), some off⟩
  | .my _ v a off => ⟨0x3F, v ++ a ++ op ++ (0 : BitVec 1), some off⟩

/-- Reads the fields of a slot word of a shape: `long` tells the long-immediate form, `sub` the opcode within the
operation, `b` bits 25:5 of the word and `x` the right slot's word. -/
def parseFmt (sh : Shape) (long : Bool) (sub : BitVec 4) (b : BitVec 21) (x : BitVec 32) : Fmt :=
  match sh with
  | .sr .. | .srv => if long then .se (bits b 15 6) (bits b 8 7) x else .sr (bits b 15 6) (bits b 8 7) (bits b 1 7) (bits b 0 1)
  | .sk => if long then .se (bits b 15 6) (bits b 8 7) x
      else .sk (bits b 17 4) (bits b 15 2) (bits b 8 7) (bits b 1 7) (bits b 0 1)
  | .sb => .sb b
  | .sd => .sd (bits b 15 6) (bits b 0 15)
  | .sc .. => .sc (bits b 13 8) (bits b 6 7) (bits b 0 6)
  | .sg .. => .sg (bits b 9 8) (bits b 2 7)
  | .sl => .sl (bits b 19 2) (bits b 12 7) (bits b 8 4) (bits b 5 3) (bits x 0 9)
  | .sel | .lea => .sp (bits b 15 6) (bits b 8 7) (bits b 1 7) (bits x 0 5)
  | .v .. | .vfma | .vcmp _ | .sfn =>
      if long then .vx (bits b 16 5) (bits b 9 7) (bits b 2 7) (bits x 19 7) (bits x 15 4) (bits x 13 2) (bits x 10 3)
        (bits x 9 1) (bits x 6 3) (bits x 0 6)
      else .vr (bits b 16 5) (bits b 9 7) (bits b 2 7) (bits b 0 2)
  | .xb _ => .xb (bits b 14 7) (bits b 7 7) (bits b 6 1) (bits b 3 3)
  | .xr _ => .xr (bits b 16 5) (bits b 11 5) (bits b 4 7)
  | .xs .. | .mdsc => .xs (bits b 16 5) (bits b 9 7)
  | .ld | .ldLong | .ma =>
      if long then .me sub (bits b 15 6) (bits b 8 7) x else .ma sub (bits b 15 6) (bits b 8 7) (bits b 1 7) (bits b 0 1)
  | .st | .stLong | .mw =>
      if long then .my sub (bits b 14 7) (bits b 7 7) x else .mw sub (bits b 14 7) (bits b 7 7) (bits b 0 7)
  | .ms => .ms (bits b 15 6) (bits b 8 7) (bits b 6 2) (bits b 4 2)
  | .mu => .mu (bits b 14 7) (bits b 7 7) (bits b 5 2)
  | .mg => .mg sub (bits b 16 5) (bits b 9 7) (bits b 2 7)
  | .mq .. => .mq (bits b 18 3) (bits b 11 7) (bits b 5 6)
  | .mc => .mc (bits b 14 7)
  | .mn _ => .mn (bits b 18 3) (bits b 11 7)
  | .mt .. => .mt (bits b 14 7) (bits b 7 7) (bits b 5 2) (bits b 3 2)
  | .mf => .mf (bits b 19 2) (bits b 16 3)
  | .mk _ => .mk (bits b 17 4) (bits b 10 7) (bits b 3 7)
  | .atm _ => .atm sub (bits b 15 6) (bits b 8 7) (bits b 1 7) (bits b 0 1)

/-- The S operation of an opcode, and which of the operation's opcodes it is (R162). -/
def ctorS (op : BitVec 6) : Option ((Form → Instr) × BitVec 4) :=
  match op with
  | 0x1 => some (.add, 0)
  | 0x2 => some (.sub, 0)
  | 0x3 => some (.mul, 0)
  | 0x4 => some (.mulh, 0)
  | 0x5 => some (.mulhu, 0)
  | 0x6 => some (.div, 0)
  | 0x7 => some (.divu, 0)
  | 0x8 => some (.rem, 0)
  | 0x9 => some (.remu, 0)
  | 0xa => some (.imin, 0)
  | 0xb => some (.imax, 0)
  | 0xc => some (.minu, 0)
  | 0xd => some (.maxu, 0)
  | 0xe => some (.iabs, 0)
  | 0xf => some (.addw, 0)
  | 0x10 => some (.subw, 0)
  | 0x11 => some (.mulw, 0)
  | 0x12 => some (.lea, 0)
  | 0x13 => some (.cmp, 0)
  | 0x14 => some (.sel, 0)
  | 0x15 => some (.cmpn, 0)
  | 0x18 => some (.bitAnd, 0)
  | 0x19 => some (.bitOr, 0)
  | 0x1a => some (.bitXor, 0)
  | 0x1b => some (.shl, 0)
  | 0x1c => some (.shr, 0)
  | 0x1d => some (.sar, 0)
  | 0x1e => some (.rotr, 0)
  | 0x1f => some (.extu, 0)
  | 0x20 => some (.exts, 0)
  | 0x21 => some (.insf, 0)
  | 0x22 => some (.cnt, 0)
  | 0x23 => some (.bswap, 0)
  | 0x28 => some (.br, 0)
  | 0x29 => some (.jmp, 0)
  | 0x2a => some (.call, 0)
  | 0x2b => some (.callr, 0)
  | 0x2c => some (.ret, 0)
  | 0x2d => some (.loop, 0)
  | 0x2e => some (.lexit, 0)
  | 0x2f => some (.susp, 0)
  | 0x30 => some (.spawn, 0)
  | 0x31 => some (.exit, 0)
  | 0x34 => some (.crrd, 0)
  | 0x35 => some (.crwr, 0)
  | 0x36 => some (.crset, 0)
  | 0x37 => some (.sysCrclr, 0)
  | 0x39 => some (.pbld, 0)
  | 0x3a => some (.psend, 0)
  | 0x3b => some (.dwait, 0)
  | 0x3c => some (.darm, 0)
  | 0x3d => some (.dread, 0)
  | 0x3e => some (.dadd, 0)
  | 0x3f => some (.dset, 0)
  | _ => none

/-- The SYS operation of an FN field (R156). -/
def ctorFn (fn : BitVec 4) : Option (Form → Instr) :=
  match fn with
  | 0 => some .trap
  | 1 => some .tret
  | 2 => some .issueat
  | 3 => some .frmwait
  | 4 => some .timeat
  | 5 => some .accsp
  | 6 => some .accfl
  | 7 => some .msps
  | 8 => some .msfl
  | 9 => some .mark
  | _ => none

/-- The V operation of an opcode (R164). -/
def ctorV (op : BitVec 6) : Option ((Form → Instr) × BitVec 4) :=
  match op with
  | 0x1 => some (.vaiAdd, 0)
  | 0x2 => some (.vaiSub, 0)
  | 0x3 => some (.vaiMul, 0)
  | 0x4 => some (.vaiMulh, 0)
  | 0x5 => some (.vaiMin, 0)
  | 0x6 => some (.vaiMax, 0)
  | 0x7 => some (.vaiAbs, 0)
  | 0x8 => some (.vaiAnd, 0)
  | 0x9 => some (.vaiOr, 0)
  | 0xa => some (.vaiXor, 0)
  | 0xb => some (.vaiShl, 0)
  | 0xc => some (.vaiShr, 0)
  | 0xd => some (.vaiSar, 0)
  | 0xe => some (.vaiCmp, 0)
  | 0x10 => some (.vfpAdd, 0)
  | 0x11 => some (.vfpSub, 0)
  | 0x12 => some (.vfpMul, 0)
  | 0x13 => some (.vfpFma, 0)
  | 0x14 => some (.vfpFms, 0)
  | 0x15 => some (.vfpFnma, 0)
  | 0x16 => some (.vfpMin, 0)
  | 0x17 => some (.vfpMax, 0)
  | 0x18 => some (.vfpAbs, 0)
  | 0x19 => some (.vfpNeg, 0)
  | 0x1a => some (.vfpCmp, 0)
  | 0x1b => some (.vfpScal, 0)
  | 0x1c => some (.vfpRint, 0)
  | 0x1d => some (.vfpCpsgn, 0)
  | 0x20 => some (.vperm, 0)
  | 0x21 => some (.vcmpr, 0)
  | 0x22 => some (.vexpd, 0)
  | 0x23 => some (.vmatch, 0)
  | 0x24 => some (.vredsum, 0)
  | 0x25 => some (.vredmin, 0)
  | 0x26 => some (.vredmax, 0)
  | 0x27 => some (.vscan, 0)
  | 0x28 => some (.vcvt, 0)
  | 0x29 => some (.vquant, 0)
  | 0x2a => some (.vdqnt, 0)
  | 0x2b => some (.vbcst, 0)
  | 0x30 => some (.vexp2, 0)
  | 0x31 => some (.vlog2, 0)
  | 0x32 => some (.vrcp, 0)
  | 0x33 => some (.vrsqrt, 0)
  | 0x34 => some (.vsqrt, 0)
  | 0x35 => some (.vsinpi, 0)
  | 0x36 => some (.vcospi, 0)
  | 0x37 => some (.vtanh, 0)
  | 0x38 => some (.verf, 0)
  | _ => none

/-- The MX operation of an opcode (R165). -/
def ctorX (op : BitVec 6) : Option ((Form → Instr) × BitVec 4) :=
  match op with
  | 0x1 => some (.mcfg, 0)
  | 0x2 => some (.mcfgr, 0)
  | 0x3 => some (.mlgd, 0)
  | 0x4 => some (.mlgs, 0)
  | 0x5 => some (.mdsc, 0)
  | 0x6 => some (.mzero, 0)
  | 0x7 => some (.mbeat, 0)
  | 0x8 => some (.mbeatq, 0)
  | 0x9 => some (.mdrn, 0)
  | 0xa => some (.mfil, 0)
  | 0xb => some (.mstc, 0)
  | _ => none

/-- The M operation of an opcode, in its short forms (R167). -/
def ctorM (op : BitVec 6) : Option ((Form → Instr) × BitVec 4) :=
  match op with
  | 0x1 => some (.ld, 0)
  | 0x2 => some (.ld, 1)
  | 0x3 => some (.ld, 2)
  | 0x4 => some (.ld, 3)
  | 0x5 => some (.ld, 4)
  | 0x6 => some (.ld, 5)
  | 0x7 => some (.ld, 6)
  | 0x8 => some (.ld, 7)
  | 0x9 => some (.ld, 8)
  | 0xa => some (.ld, 9)
  | 0xb => some (.st, 0)
  | 0xc => some (.st, 1)
  | 0xd => some (.st, 2)
  | 0xe => some (.st, 3)
  | 0xf => some (.st, 4)
  | 0x10 => some (.st, 5)
  | 0x11 => some (.st, 6)
  | 0x12 => some (.ldsp, 0)
  | 0x13 => some (.stsp, 0)
  | 0x14 => some (.ldrs, 0)
  | 0x15 => some (.strs, 0)
  | 0x16 => some (.gath, 0)
  | 0x17 => some (.gath, 1)
  | 0x18 => some (.scat, 0)
  | 0x19 => some (.scat, 1)
  | 0x1a => some (.tagl, 0)
  | 0x1b => some (.tagw, 0)
  | 0x1c => some (.fes, 0)
  | 0x1d => some (.fec, 0)
  | 0x20 => some (.sbind, 0)
  | 0x21 => some (.sfree, 0)
  | 0x22 => some (.sstat, 0)
  | 0x23 => some (.copy, 0)
  | 0x24 => some (.bbset, 0)
  | 0x25 => some (.bbwait, 0)
  | 0x26 => some (.cmnt, 0)
  | 0x27 => some (.fence, 0)
  | 0x28 => some (.icinv, 0)
  | 0x29 => some (.tclk, 0)
  | 0x2a => some (.tculk, 0)
  | 0x30 => some (.aadd, 0)
  | 0x31 => some (.aadd, 1)
  | 0x32 => some (.aadd, 2)
  | 0x33 => some (.amin, 0)
  | 0x34 => some (.amin, 1)
  | 0x35 => some (.amin, 2)
  | 0x36 => some (.amax, 0)
  | 0x37 => some (.amax, 1)
  | 0x38 => some (.amax, 2)
  | 0x39 => some (.aand, 0)
  | 0x3a => some (.aor, 0)
  | 0x3b => some (.axor, 0)
  | 0x3c => some (.axchg, 0)
  | 0x3d => some (.acas, 0)
  | _ => none

/-- The load or store that OPX of an ME or MY word names (R166). -/
def ctorLong (store : Bool) (opx : BitVec 6) : Option ((Form → Instr) × BitVec 4) :=
  if store then (if 0xB ≤ opx.toNat ∧ opx.toNat ≤ 0x11 then some (.stLong, BitVec.ofNat 4 (opx.toNat - 0xB)) else none)
  else (if 1 ≤ opx.toNat ∧ opx.toNat ≤ 0xA then some (.ldLong, BitVec.ofNat 4 (opx.toNat - 1)) else none)

/-- The opcodes that OPX of an SE word may name (R162). -/
def escapeOk (opx : BitVec 6) : Bool :=
  let n := opx.toNat
  (0x01 ≤ n && n ≤ 0x0D) || (0x0F ≤ n && n ≤ 0x11) || n = 0x13 || n = 0x15 || (0x18 ≤ n && n ≤ 0x21)

/-- The operation of a slot word: its constructor, its `sub`, and whether the word is a long-immediate form. -/
def ctorOf (slot : BitVec 3) (w ext : BitVec 32) : Option ((Form → Instr) × BitVec 4 × Bool) :=
  let op : BitVec 6 := bits w 26 6
  match slotClass slot with
  | .s => if op = 0x33 then (if escapeOk (bits w 7 6) then (ctorS (bits w 7 6)).map fun (c, k) => (c, k, true) else none)
      else if op = 0x38 then (ctorFn (bits w 22 4)).map fun c => (c, 0, false)
      else (ctorS op).map fun (c, k) => (c, k, false)
  | .v => if op = 0x3F then (ctorV (bits ext 26 6)).map fun (c, k) => (c, k, true)
      else (ctorV op).map fun (c, k) => (c, k, false)
  | .x => (ctorX op).map fun (c, k) => (c, k, false)
  | .m => if op = 0x3E then (ctorLong false (bits w 7 6)).map fun (c, k) => (c, k, true)
      else if op = 0x3F then (ctorLong true (bits w 6 6)).map fun (c, k) => (c, k, true)
      else (ctorM op).map fun (c, k) => (c, k, false)

/-- What a word is that names no operation (R168, R422): an ME or MY word whose OPX is none of R166's loads or stores has an undefined
encoding, any other an undefined opcode. -/
def noOperation (slot : BitVec 3) (w : BitVec 32) : Reject :=
  if slotClass slot = .m ∧ (bits w 26 6 = (0x3E : BitVec 6) ∨ bits w 26 6 = (0x3F : BitVec 6)) then .undefinedEncoding else .undefinedOpcode

/-- Decodes the word of a slot, with `ext` the word of its right neighbour; `none` is the no-operation. The opcode is
judged before the fields, and an operation in a slot R158 does not allow is an undefined opcode (R168). -/
def decodeSlot (slot : BitVec 3) (w ext : BitVec 32) : Except Reject (Option Instr) :=
  if w = 0 then .ok none
  else if ¬ guardOk (bits w 4 1) (bits w 0 4) then .error .illegalGuard
  else match ctorOf slot w ext with
    | none => .error (noOperation slot w)
    | some (c, sub, long) =>
      match opRow (c (.wy 0)) with
      | none => .error .undefinedOpcode
      | some (row, _) =>
        let f := parseFmt row.shape long sub (bits w 5 21) ext
        let p := packFmt (row.op + sub.setWidth 6) row.fn f
        if ¬ slotOk row.unit slot f then .error .undefinedOpcode
        else if row.shape = .sfn ∧ long then .error .undefinedOpcode
        else if ¬ shapeOk row.nsub row.shape f then .error .undefinedEncoding
        else if p.op ≠ bits w 26 6 ∨ p.body ≠ bits w 5 21 ∨ (longForm f ∧ p.ext ≠ some ext) then .error .undefinedEncoding
        else if partialOverlap row.shape f then .error .partialOverlap
        else .ok (some (c (.nat slot (bits w 4 1) (bits w 0 4) f)))

/-- The slot, the word and the right slot's word of a native operation. -/
def encodeSlot (i : Instr) : Option (BitVec 3 × BitVec 32 × Option (BitVec 32)) :=
  match opRow i with
  | some (row, .nat slot gn g f) =>
      let p := packFmt (row.op + (subOf f).setWidth 6) row.fn f
      some (slot, (p.op ++ p.body ++ gn ++ g : BitVec 32), p.ext)
  | _ => none

/-! ## Transit instructions -/

/-- Decodes a transit instruction (R275). -/
def decodeTransit (w : BitVec 16) : Except Reject Instr :=
  let d : BitVec 10 := bits w 0 10
  match (bits w 10 6 : BitVec 6) with
  | 0x1 => .ok (.pushi d)
  | 0x2 => .ok (.xtnd d)
  | 0x3 => if d.toNat < 4 then .ok (.ldw (d.setWidth 2)) else .error .reservedOperand
  | 0x4 => if d.toNat < 4 then .ok (.stw (d.setWidth 2)) else .error .reservedOperand
  | 0x5 => if d = 0 then .ok .dup else .error .reservedOperand
  | 0x6 => if d = 0 then .ok .drop else .error .reservedOperand
  | 0x7 => if d = 0 then .ok .swap else .error .reservedOperand
  | 0x8 => if d = 0 then .ok .transitAdd else .error .reservedOperand
  | 0x9 => if d = 0 then .ok .transitSub else .error .reservedOperand
  | 0xa => if d = 0 then .ok .transitAnd else .error .reservedOperand
  | 0xb => if d = 0 then .ok .transitOr else .error .reservedOperand
  | 0xc => if d = 0 then .ok .transitXor else .error .reservedOperand
  | 0xd => if d = 0 then .ok .transitShl else .error .reservedOperand
  | 0xe => if d = 0 then .ok .transitShr else .error .reservedOperand
  | 0xf => .ok (.addi d)
  | 0x10 => if d = 0 then .ok .ceq else .error .reservedOperand
  | 0x11 => if d = 0 then .ok .clt else .error .reservedOperand
  | 0x12 => if d = 0 then .ok .cltu else .error .reservedOperand
  | 0x13 => .ok (.env d)
  | 0x14 => if d = 0 then .ok .wpld else .error .reservedOperand
  | 0x15 => if d = 0 then .ok .wpst else .error .reservedOperand
  | 0x16 => if d = 0 then .ok .wpadd else .error .reservedOperand
  | 0x17 => if d = 0 then .ok .wpclm else .error .reservedOperand
  | 0x18 => if d.toNat < 64 then .ok (.pld (d.setWidth 6)) else .error .reservedOperand
  | 0x19 => if d.toNat < 64 then .ok (.pst (d.setWidth 6)) else .error .reservedOperand
  | 0x1a => if d.toNat < 128 then .ok (.pvadd (bits d 6 1) (bits d 0 6)) else .error .reservedOperand
  | 0x1b => if d.toNat < 2 then .ok (.comb (d.setWidth 1)) else .error .reservedOperand
  | 0x1c => if d.toNat < 16 then .ok (.skz (d.setWidth 4)) else .error .reservedOperand
  | 0x1d => if d.toNat < 16 then .ok (.sknz (d.setWidth 4)) else .error .reservedOperand
  | 0x1e => if d.toNat < 16 then .ok (.skip (d.setWidth 4)) else .error .reservedOperand
  | 0x1f => .ok (.clon d)
  | 0x20 => if d.toNat < 16 then .ok (.fwd (d.setWidth 4)) else .error .reservedOperand
  | 0x21 => .ok (.least d)
  | 0x22 => if d = 0 then .ok .dlvr else .error .reservedOperand
  | 0x23 => .ok (.park d)
  | 0x24 => if d = 0 then .ok .kill else .error .reservedOperand
  | _ => .error .unassignedTransit

/-- The word of a transit instruction. -/
def encodeTransit (i : Instr) : Option (BitVec 16) :=
  match i with
  | .pushi n => some (((0x1 : BitVec 6)) ++ (n.setWidth 10 : BitVec 10))
  | .xtnd n => some (((0x2 : BitVec 6)) ++ (n.setWidth 10 : BitVec 10))
  | .ldw i => some (((0x3 : BitVec 6)) ++ (i.setWidth 10 : BitVec 10))
  | .stw i => some (((0x4 : BitVec 6)) ++ (i.setWidth 10 : BitVec 10))
  | .dup => some (((0x5 : BitVec 6)) ++ (0 : BitVec 10))
  | .drop => some (((0x6 : BitVec 6)) ++ (0 : BitVec 10))
  | .swap => some (((0x7 : BitVec 6)) ++ (0 : BitVec 10))
  | .transitAdd => some (((0x8 : BitVec 6)) ++ (0 : BitVec 10))
  | .transitSub => some (((0x9 : BitVec 6)) ++ (0 : BitVec 10))
  | .transitAnd => some (((0xa : BitVec 6)) ++ (0 : BitVec 10))
  | .transitOr => some (((0xb : BitVec 6)) ++ (0 : BitVec 10))
  | .transitXor => some (((0xc : BitVec 6)) ++ (0 : BitVec 10))
  | .transitShl => some (((0xd : BitVec 6)) ++ (0 : BitVec 10))
  | .transitShr => some (((0xe : BitVec 6)) ++ (0 : BitVec 10))
  | .addi n => some (((0xf : BitVec 6)) ++ (n.setWidth 10 : BitVec 10))
  | .ceq => some (((0x10 : BitVec 6)) ++ (0 : BitVec 10))
  | .clt => some (((0x11 : BitVec 6)) ++ (0 : BitVec 10))
  | .cltu => some (((0x12 : BitVec 6)) ++ (0 : BitVec 10))
  | .env s => some (((0x13 : BitVec 6)) ++ (s.setWidth 10 : BitVec 10))
  | .wpld => some (((0x14 : BitVec 6)) ++ (0 : BitVec 10))
  | .wpst => some (((0x15 : BitVec 6)) ++ (0 : BitVec 10))
  | .wpadd => some (((0x16 : BitVec 6)) ++ (0 : BitVec 10))
  | .wpclm => some (((0x17 : BitVec 6)) ++ (0 : BitVec 10))
  | .pld i => some (((0x18 : BitVec 6)) ++ (i.setWidth 10 : BitVec 10))
  | .pst i => some (((0x19 : BitVec 6)) ++ (i.setWidth 10 : BitVec 10))
  | .pvadd t s => some (((0x1a : BitVec 6)) ++ ((t.setWidth 10 <<< 6) ||| s.setWidth 10 : BitVec 10))
  | .comb t => some (((0x1b : BitVec 6)) ++ (t.setWidth 10 : BitVec 10))
  | .skz n => some (((0x1c : BitVec 6)) ++ (n.setWidth 10 : BitVec 10))
  | .sknz n => some (((0x1d : BitVec 6)) ++ (n.setWidth 10 : BitVec 10))
  | .skip n => some (((0x1e : BitVec 6)) ++ (n.setWidth 10 : BitVec 10))
  | .clon m => some (((0x1f : BitVec 6)) ++ (m.setWidth 10 : BitVec 10))
  | .fwd d => some (((0x20 : BitVec 6)) ++ (d.setWidth 10 : BitVec 10))
  | .least m => some (((0x21 : BitVec 6)) ++ (m.setWidth 10 : BitVec 10))
  | .dlvr => some (((0x22 : BitVec 6)) ++ (0 : BitVec 10))
  | .park c => some (((0x23 : BitVec 6)) ++ (c.setWidth 10 : BitVec 10))
  | .kill => some (((0x24 : BitVec 6)) ++ (0 : BitVec 10))
  | _ => none

/-! ## Bytes -/

/-- The encodings a byte string may be read in. -/
inductive Encoding where
  /-- A Wyilo move (R139). -/
  | move
  /-- The word of a native slot, with its right neighbour's word behind it (R72, R75). -/
  | slot (n : BitVec 3)
  /-- A transit instruction (R275). -/
  | transit
  deriving DecidableEq, Repr

/-- Decodes the instruction at the front of any bytes. `none` is a slot's no-operation. -/
def decode (enc : Encoding) (bs : List Byte) : Except Reject (Option Instr × List Byte) :=
  match enc with
  | .move => match decodeMove bs with
    | .ok (i, r) => .ok (some i, r)
    | .error e => .error e
  | .slot n => match takeWord 4 bs with
    | .error e => .error e
    | .ok (w, r) => match decodeSlot n (BitVec.ofNat 32 w) (BitVec.ofNat 32 (wordOfBytes (r.take 4))) with
      | .ok i => .ok (i, r)
      | .error e => .error e
  | .transit => match takeWord 2 bs with
    | .error e => .error e
    | .ok (w, r) => match decodeTransit (BitVec.ofNat 16 w) with
      | .ok i => .ok (some i, r)
      | .error e => .error e

/-- The bytes of an instruction in its encoding; a long form is followed by its right slot's word. -/
def encode (i : Instr) : Option (Encoding × List Byte) :=
  match encodeMove i with
  | some bs => some (.move, bs)
  | none => match encodeTransit i with
    | some w => some (.transit, bytesOfWord 2 w.toNat)
    | none => match encodeSlot i with
      | some (n, w, none) => some (.slot n, bytesOfWord 4 w.toNat)
      | some (n, w, some x) => some (.slot n, bytesOfWord 4 w.toNat ++ bytesOfWord 4 x.toNat)
      | none => none

/-- The instruction read from table bits: a 16-bit row is a transit instruction, and any other a Wyilo move, whose
immediate words are 0. -/
def decodeTableWord (nbits w : Nat) : Option Instr :=
  if nbits = 16 then (decodeTransit (BitVec.ofNat 16 w)).toOption
  else match decodeMove (bytesOfWord 12 w) with
    | .ok (i, _) => some i
    | .error _ => none

end Sys2Proof
end

