-- ==== Sys2Proof/Machine/CoreState.lean ====
section
/-! DEFINITION. The state of one core: the context it runs (R67-R71), its port banks (R92), and what belongs to the
core itself (R195, R232, R236, R249, R253, R257). -/

namespace Sys2Proof.Machine

/-- Where a result is written. A port is named by its unit's type code and index (R140). -/
inductive Dst where
  | none
  | s (i : BitVec 6)
  | v (i : BitVec 5)
  | p (i : BitVec 4)
  | k (i : BitVec 3)
  /-- A loop register and a control register, which no result is written to: they are named by the checks of their storage (R393). -/
  | lc (i : BitVec 2)
  | cr (i : BitVec 8)
  | y (port : BitVec 6)
  | z (port : BitVec 6)
  deriving DecidableEq, Repr

/-- The content of a result port: void, a value, or a result still outstanding (R130, R136). -/
inductive PortVal where
  | void
  | val (x : Vec)
  | wait
  deriving DecidableEq, Repr

/-- One unit's latches and result ports (R128). A latch is void until it is written (R136). -/
structure PortInst where
  a : Option Vec := none
  b : Option Vec := none
  c : Option Vec := none
  m : BitVec 32 := 0
  y : PortVal := .void
  z : PortVal := .void
  f : PortVal := .void
  deriving DecidableEq, Repr

/-- The 64 units of one trap depth, by type code and index (R92). -/
abbrev PortBank := RF 6 PortInst

/-- An element that a read stream has fetched (R82, R428): its value, the page fault or the tag of its fetch (R396), and
the core-domain cycle it is due in. -/
structure StreamElem where
  val : Vec := 0
  fault : Option (BitVec 16 × Word) := none
  tag : Option Word := none
  due : Nat := 0
  deriving DecidableEq, Repr

/-- A stream register: its 32-byte descriptor of R80, with POS the program's next element, and the elements that a read
stream's transfer unit has fetched ahead, each due in the pinned regime one latency after `base` (R351). -/
structure Stream where
  desc : BitVec 256 := 0
  fetched : List StreamElem := []
  base : List Nat := []
  deriving DecidableEq, Repr

/-- An element of a write stream that its transfer unit has still to write (R83): its stream, space, physical runs and
bytes, and the core-domain cycle in which its place is free again (R351). -/
structure StreamWrite where
  q : BitVec 3
  space : BitVec 2
  runs : List (Nat × Nat × Bool)
  bytes : List Byte
  due : Nat := 0
  written : Bool := false
  /-- Its number among the core's producers and atomics: its store follows the reads below it (R309). -/
  no : Nat := 0
  deriving DecidableEq, Repr

/-- The registers of a context that are saved with it (R63, R69). `cr` holds control registers 0x00-0x16. -/
structure Ctx where
  s : RF 6 Word := RF.fill 0
  sfull : BitVec 64 := BitVec.allOnes 64
  v : RF 5 Vec := RF.fill 0
  vfull : BitVec 32 := BitVec.allOnes 32
  p : BitVec 16 := 1
  k : RF 3 (BitVec 128) := RF.fill 0
  q : RF 3 Stream := RF.fill {}
  lc : RF 2 (BitVec 128) := RF.fill 0
  cr : RF 5 Word := RF.fill 0
  code : Word := 0
  coords : RF 3 (BitVec 16) := RF.fill 0
  lastSusp : Word := 0
  /-- The virtual PC of the current move group, or of the sheet entry of a native image. -/
  pc : Word := 0
  /-- Active loops, the innermost first (R85). -/
  loops : List (BitVec 2) := []
  /-- The target of a TRET whose breakpoint does not fire on its first execution (R91). -/
  brkSkip : Bool := false
  deriving DecidableEq, Repr

/-- A fixed-latency result on its way to its register (R77, R78), with the flags that land with it (R211). -/
structure Pend where
  /-- Which of the core's sheets issued it (R340). -/
  gen : Nat := 0
  due : Nat
  dst : Dst
  val : Vec
  flags : BitVec 5
  /-- The address of the tag a carrying move copies (R396). -/
  tag : Option Word := none
  deriving DecidableEq, Repr

/-- A vector clock of nine entries (R316), held in a file of sixteen. -/
abbrev Clock := RF 4 (BitVec 32)

/-- One piece of a memory read: `n` bytes at physical address `pa` that take the bits from `bit` up. `va` is its virtual
address; a tag names the failing granule, or the whole piece where it is a lane of a gather (R396). -/
structure Piece where
  pa : Nat
  n : Nat
  bit : Nat
  nc : Bool := false
  va : Word := 0
  lane : Bool := false
  deriving DecidableEq, Repr

/-- A read still to be performed: its pieces, the value they are laid into, and the bit a scalar is sign-extended
from. -/
structure LoadReq where
  pieces : List Piece
  base : Vec
  sext : Option Nat
  /-- The vector clock that holds the read at its pile (R318): the die's own as it stands where none is given. -/
  clock : Option Clock := none
  /-- For a read held over: its number among the core's operations, and the bytes the core's own earlier gated stores
  give it (R337). -/
  held : Option (Nat × List Host.Cell) := none
  /-- What takes the place of the low 32 bits that have been read (R198). -/
  low : Option (BitVec 32) := none
  deriving DecidableEq, Repr

/-- What a long-latency producer waits for (R68). -/
inductive Awaits where
  /-- The value is known and lands when due, or at any later landing where no latency is fixed. -/
  | ready (v : Vec) (due : Option Nat)
  /-- A read held at a pile, due in the pinned regime. -/
  | read (r : LoadReq) (due : Option Nat)
  /-- The reply of the atomic of the same number (R264), sign-extended from 32 bits or not. -/
  | atomic (sext : Bool) (due : Option Nat)
  deriving DecidableEq, Repr

/-- An outstanding long-latency producer (R68). -/
structure Outst where
  /-- Which of the core's sheets issued it (R340). -/
  gen : Nat := 0
  /-- Its number among the core's producers and atomics. -/
  no : Nat := 0
  dst : Dst
  awaits : Awaits
  flags : BitVec 5 := 0
  /-- Whether the value is tagged uncorrectable, and the address the tag carries (R396). -/
  bad : Bool := false
  addr : Word := 0
  /-- Whether it is a matrix read (R397). -/
  matrix : Bool := false
  deriving DecidableEq, Repr

/-- A register whose value is tagged by an uncorrectable read, and the address it came from (R396); or, with `own`, one whose own
storage is uncorrectable (R392 CODE 0x0001). -/
structure RegTag where
  reg : Dst
  addr : Word
  own : Bool := false
  deriving DecidableEq, Repr

/-- An arm slot of a delivery counter (R195); KIND 0 wake, 1 send, 2 copy, 3 interrupt. -/
structure Arm where
  armed : Bool := false
  kind : BitVec 2 := 0
  thr : BitVec 32 := 0
  arg : Word := 0
  ownHandle : BitVec 32 := 0
  ownTenant : BitVec 5 := 0
  deriving DecidableEq, Repr

/-- An action of a fired arm that has still to be carried out (R196), with the clock of the release that fired it (R289). -/
structure Fired where
  kind : BitVec 2
  arg : Word
  handle : BitVec 32
  tenant : BitVec 5
  clk : Option Clock := none
  /-- The slot of meridian time in which it fired (R355). -/
  slot : Option Nat := none
  deriving DecidableEq, Repr

/-- A byte barrier (R257): pending count, FAIL with its stored code and address (R467), and its one action. -/
structure Barrier where
  pending : BitVec 63 := 0
  fail : Bool := false
  code : BitVec 16 := 0
  addr : Word := 0
  action : Option (Word × BitVec 32 × BitVec 5) := none
  deriving DecidableEq, Repr

/-- A copy on a core's queue (R253-R259): its command, the task or arm that issued it, the granules that have still to
land, and whether the engine has started it. -/
structure CopyEntry where
  cmd : BitVec 256
  tenant : BitVec 5
  handle : BitVec 32
  /-- The SAVEA of the task that issued it, or 0 for a copy that an arm queued or that its task left running by SUSP. -/
  owner : Word
  /-- The number of the task that issued it, 0 for a copy that an arm queued (R47). -/
  task : Nat := 0
  armed : Bool
  /-- The privilege that its translations are made at. -/
  priv : Bool := false
  /-- Its number among the package's queued copies (R364). -/
  seq : Nat := 0
  started : Bool := false
  /-- The verified plaintext of a decrypting copy (R364). -/
  plain : Option (List Byte) := none
  /-- Granule indices not yet landed. -/
  left : List Nat := []
  /-- The address an arm's command was read from (R259). -/
  cmdAddr : Word := 0
  /-- The cycle at which a copy of the pinned regime completes (R351). -/
  due : Option Nat := none
  /-- Its number among the producers and atomics of its core, which precede it (R255, R311). -/
  no : Nat := 0
  deriving DecidableEq, Repr

/-- An entry of the descriptor cache (R236): tensor identifier, group, and the 32 descriptors. -/
structure DescEntry where
  tid : BitVec 8
  group : BitVec 16
  desc : List (BitVec 16)
  deriving DecidableEq, Repr

/-- A traverse packet (R268, R269): its header, program, registers, stack and payload, and the place of its run. -/
structure Packet where
  hdr : BitVec 256 := 0
  prog : RF 4 (BitVec 16) := RF.fill 0
  w : RF 2 (BitVec 32) := RF.fill 0
  /-- The stack, its top first (R268). -/
  stack : List (BitVec 32) := []
  payload : List Byte := []
  pc : Nat := 0
  deriving DecidableEq, Repr

/-- A cached line of 128 bytes (R294): its line number, its bytes, and which of them are dirty; `valid` marks the bytes
the line holds and `bad` those that are tagged uncorrectable. -/
structure Line where
  line : Nat
  data : BitVec 1024
  valid : BitVec 128 := BitVec.allOnes 128
  dirty : BitVec 128 := 0
  bad : BitVec 128 := 0
  /-- Of a die's line: the clock of the responses that filled it, which a load that it serves hears (R314, R318, R320), and the
  cores whose L1 has written bytes back into it since it was last clean (R294). -/
  clk : Option Clock := none
  by_ : List CoreNo := []
  deriving DecidableEq, Repr

/-- A packet on a core's send queue (R199): complete, with the local counter its injection raises. -/
structure SendEntry where
  p : Packet
  count : Option (BitVec 5)
  /-- The slot of meridian time in which it joined the queue (R355). -/
  slot : Nat := 0
  /-- Whether an armed send's descriptor has an invalid header (R269, R470). -/
  bad : Bool := false
  deriving DecidableEq, Repr

/-- A gated effect of an open sheet, in program order (R337). -/
inductive Gated where
  /-- Bytes stored to a physical address. -/
  | store (pa : Nat) (nc : Bool) (bytes : List Byte)
  /-- Bytes stored to a scratchpad address of a core. -/
  | scratch (core : CoreNo) (off : Nat) (bytes : List Byte)
  /-- Full bits of granules set or cleared. -/
  | granules (core : CoreNo) (first n : Nat) (full : Bool)
  | tagw (i : BitVec 8) (v : Word)
  /-- A cache maintenance operation over physical lines (R260). -/
  | cmnt (lines : List Nat) (k l : BitVec 2)
  /-- A store to a device register by supervisor code (R303, R359). -/
  | dev (off : Nat) (size : Nat) (v : Word)
  /-- A release at a scope, which every producer and atomic below the number precedes (R311). -/
  | release (scope : BitVec 3) (no : Nat)
  | counterAdd (n : BitVec 5) (v : BitVec 32)
  | counterSet (n : BitVec 5) (v : BitVec 32)
  | arm (n : BitVec 5) (slot : BitVec 2) (a : Arm)
  /-- A packet, the counter its sending raises, its payload's virtual address and physical runs, its base-table entry's
  address, the group that sent it, and the slot of meridian time of its commit (R355). -/
  | send (p : Packet) (n : BitVec 5) (va : Word) (payload : List (Nat × Nat × Bool)) (bt : Option (Word × Nat × Bool)) (vpc : Word)
      (slot : Nat)
  /-- A copy on its way to the queue. -/
  | copy (c : CopyEntry)
  | barrier (n : BitVec 3) (action : Option (Word × BitVec 32 × BitVec 5))
  /-- An atomic, its number, whether it returns the old value and whether it may be merged (R264, R266). A returning one
  stands here until it has been performed. -/
  | atomic (pa : Nat) (op : BitVec 6) (z : BitVec 1) (b c : Word) (no : Nat) (ret m : Bool)
  /-- The value that a reservation writes at its home (R338, R339). -/
  | resv (pa : Nat) (bytes : List Byte)
  | spawn (a : Word)
  | mark (n : BitVec 8) (v : Word)
  /-- A stream element on its way to memory, scratchpad or staging. -/
  | push (w : StreamWrite)
  /-- A fence's wait for the task's write streams (R83, R261). -/
  | streams
  | streamBind (q : BitVec 3)
  | streamFree (q : BitVec 3)
  /-- An invalidation of code at a scope, over a virtual range (R262). -/
  | icinv (va : Word) (len : Nat) (scope : BitVec 2)
  /-- The release of atlas locks over a virtual range (R263). -/
  | tculk (va : Word) (len : Nat)
  deriving DecidableEq, Repr

/-- A move of the current group (R130, R139): its guard, form, source, destination and immediate. -/
structure GMove where
  n : BitVec 1
  g : BitVec 4
  form : BitVec 2
  dst : BitVec 12
  src : BitVec 12
  imm : Word
  deriving DecidableEq, Repr

/-- The words a move takes (R139). -/
def GMove.words (m : GMove) : Nat := if m.form.toNat < 2 then 1 else m.form.toNat

/-- What holds the next bundle besides R76 (R190-R192): `issueat t`, `frmwait` with its boundary count, `timeat t`, and
a pinned overrun that the next bundle raises. -/
inductive NextHold where
  | none
  | issueAt (t : Word)
  | frmWait (left : Nat)
  | timeAt (t : Word)
  /-- A pinned bundle in the cycle of its slot boundary, with the overrun that a freeze in this cycle leads to (R354). -/
  | boundary (code : BitVec 16) (tinfo : Word)
  /-- A pinned bundle whose time has come, while fixed-latency results are still on their way (R354). -/
  | settle
  | overrun (code : BitVec 16) (tinfo : Word)
  deriving DecidableEq, Repr

/-- A condition that stops a bundle (R434), as the trap registers will report it (R421). -/
structure TrapInfo where
  sup : Bool
  cls : BitVec 8
  code : BitVec 16
  tvpc : Word
  tslot : Word
  tinfo : Word
  tmove : Word
  /-- The virtual address of the memory whose failure a data error reports where TINFO does not give it (R405). -/
  va : Word := 0
  /-- MTIME as the condition stopped its group (R446). -/
  time : Nat := 0
  /-- The structure that the record of a data error names, where it is not that of its code (R394, R405). -/
  src : Option (BitVec 8) := none
  deriving DecidableEq, Repr

/-- What a discard of an open sheet restores (R336, R340): the context, the matrix state, the port bank and the byte
barriers as they stood at the sheet's entry commit point. -/
structure Shadow where
  ctx : Ctx
  acc : RF 5 Vec
  legend : BitVec 256
  mstat : Word
  mcfg : Word
  dsca : Word
  dscb : Word
  bank : PortBank
  tags : List RegTag
  deriving DecidableEq, Repr

/-- A cached translation (R304): tenant (32 for the supervisor root), virtual page base, page size in bits, and the
leaf. -/
structure TlbEntry where
  owner : BitVec 6
  va : Nat
  bits : Nat
  pa : Nat
  x : Bool
  w : Bool
  nc : Bool
  deriving DecidableEq, Repr

/-- What a sheet was discarded on, and waits for before it runs again (R338): a delivery counter's value, a byte barrier's
count, granules of a scratchpad, or an element of a read stream. -/
inductive WaitOn where
  | counter (n : BitVec 5) (v : BitVec 32)
  | barrier (n : BitVec 3)
  | granules (core : CoreNo) (gs : List Nat)
  | stream (q : BitVec 3)
  /-- A place of a write stream (R83) or of the copy queue (R254), on which no sheet is discarded. -/
  | room (q : BitVec 3)
  | place
  deriving DecidableEq, Repr

/-- A lock of an atlas sheet that a tclk of the open sheet took (R338): the die and the entry group. -/
structure NewLock where
  die : BitVec 3
  entry : Word
  deriving DecidableEq, Repr

/-- An open sheet (R335-R341): its entry group, its text as fetched, what its discard restores, its gated entries in
program order and its reservations. -/
structure Sheet where
  entry : Word
  /-- The sheet's number among those the core has opened. -/
  gen : Nat
  /-- The move words of the sheet, from its entry group on (the fetched text of R334). -/
  text : List (BitVec 32) := []
  shadow : Shadow
  gated : List Gated := []
  /-- Granules a `.c` access has taken, by core and granule (R338). -/
  takes : List (CoreNo × Nat) := []
  newLocks : List NewLock := []
  /-- When the sheet took its first reservation (R338). -/
  firstResv : Option Nat := none
  /-- Whether an invalidation has doomed the sheet, which stands open under a trap, to a discard at TRET (R448). -/
  doomed : Bool := false
  /-- In a native sheet, the index of the bundle that issues next; none in Wyilo text. -/
  bundle : Option Nat := none
  /-- Whether the sheet runs one group per bundle, as its replay, or as a trap has left it (R341). -/
  replay : Bool := false
  /-- Whether a bundle of the sheet has issued: what held its first one is then over (R354). -/
  begun : Bool := false
  /-- Whether an entry of its gated stores, or its shadow set, is uncorrectable, which its commit point will find (R394). -/
  spoiled : Bool := false
  deriving DecidableEq, Repr

/-- A line of a core's bundle cache (R334): four bundles of a tenant's native image by virtual address, with the text of the sheet they
were fetched for. -/
structure BundleLine where
  tenant : BitVec 5
  va : Word
  data : BitVec 1024
  entry : Word
  words : Nat
  /-- Whether an icinv has dropped the line while its sheet was running: it lasts to the sheet's next commit point (R262). -/
  stale : Bool := false
  deriving DecidableEq, Repr

/-- A record of a core's trace buffer (R403): 16 bytes. -/
abbrev TraceEntry := BitVec 128

/-- The task a core runs: tenant, launch handle, queue class and whether a gang holds it. -/
structure Running where
  tenant : BitVec 5
  handle : BitVec 32
  savea : Word
  /-- The task's number among the tasks that the package has begun; it keeps it until its EXIT (R47). -/
  task : Nat := 0
  cancelPending : Bool := false
  gang : Nat := 0
  deriving DecidableEq, Repr

/-- A task on its way off its core: a SUSP on record `a` that has still to test its word (R42), one whose record line is
locked until the record word at `pa` is written, and an EXIT (R47). -/
inductive Leaving where
  | none
  | susp (a : Word) (pa : Nat)
  | suspEnd (a : Word) (pa : Nat) (vpc : Word)
  | exit
  deriving DecidableEq, Repr

/-- The state of one core. -/
structure Core where
  /-- Whether the core is in service (R412). -/
  inService : Bool := true
  /-- Whether the core number is fenced (R414). -/
  fenced : Bool := false
  /-- Whether the core number waits for its cluster's spare (R414). -/
  moving : Bool := false
  running : Option Running := none
  /-- The tenant of the last task that ran here since core reset (R195). -/
  lastTenant : Option (BitVec 5) := none
  ctx : Ctx := {}
  banks : RF 2 PortBank := RF.fill (RF.fill {})
  /-- The moves read of the current group. -/
  group : List GMove := []
  /-- The open sheet of each trap depth (R341). -/
  sheets : RF 2 (Option Sheet) := RF.fill none
  /-- Gated entries of committed sheets on their way out (R339), with the depth their sheet ran at. -/
  committed : List (BitVec 2 × Gated) := []
  pend : List Pend := []
  outst : List Outst := []
  tags : List RegTag := []
  /-- The flags that have landed in the cycle at hand (R211). -/
  landedFlags : BitVec 5 := 0
  /-- Items of the accumulator and the matrix state whose storage is uncorrectable (R392): acc rows 0-31, and the words of the
  64-byte image from 32. -/
  mxBad : List Nat := []
  /-- The tags of s1-s15 and of the result ports that each trapped depth keeps (R397). -/
  savedTags : RF 2 (List RegTag) := RF.fill []
  /-- How many sheets the core has opened. -/
  sheetGen : Nat := 0
  /-- How often in a row an uncorrectable gated entry has discarded the core's sheet (R394). -/
  gsbRuns : Nat := 0
  pendTrap : Option TrapInfo := none
  /-- A datapath check that has failed in a slot of the next bundle, and the move group that it failed in where text has named it
  (R392 CODE 0x0004). -/
  check : Option (BitVec 3 × Option Word) := none
  leaving : Leaving := .none
  /-- The TVPC that the entry of each trapped depth's trap set (R429). -/
  entryPc : RF 2 Word := RF.fill 0
  hold : NextHold := .none
  /-- Whether the request for pre-emption that stands waits for the next bundle to issue: it came while issueat, frmwait or timeat held
  that bundle (R192). -/
  waitsIssue : Bool := false
  /-- The first core cycle in which a native bundle may issue again (R76). -/
  nextIssue : Nat := 0
  /-- Core cycles the core domain has stood still, frozen (R350), and whether the bundle at hand is held in a way that
  freezes a pinned core (R353). -/
  frozen : Nat := 0
  stalled : Bool := false
  /-- The cycle from which CYC counts (R69) and the cycle at which SFC would be 0 (R190). -/
  cycBase : Nat := 0
  preempt : Bool := false
  /-- Whether the core stands at the pass boundary that R86 saves at. -/
  loopSave : Bool := false
  sliceLeft : Nat := 0
  sliceExpired : Bool := false
  /-- Whether the request that stands arose from the task's own slice (R51, R59). -/
  sliceCut : Bool := false
  /-- Whether a save of the core's task is under way (R62). -/
  saving : Bool := false
  /-- Whether a save has come to its step 4 and no task has issued a bundle since: the engine starts no arm-queued copy that is
  bound to a barrier (R259). -/
  armHeld : Bool := false
  /-- Whether a core reset waits for the copies queued on the core (R251, R400). -/
  resetting : Bool := false
  /-- What the task's discarded sheet waits for before it runs again (R338). -/
  waitOn : Option WaitOn := none
  /-- Whether the bundle at hand is held by the core's own registers or pipeline, the cycles without an issue that the hang watchdog
  has counted (R399), and the start of a save under grace (R400). -/
  holding : Bool := false
  hung : Nat := 0
  graceStart : Option Nat := none
  /-- The code of the sync fault that the task takes at its first commit point from a meridian time on; 0 for none (R482). -/
  syncDue : BitVec 16 := 0
  syncAt : Nat := 0
  aown : Word := 0
  acc : RF 5 Vec := RF.fill 0
  legend : BitVec 256 := 0
  mstat : Word := 0
  mcfg : Word := 0
  dsca : Word := 0
  dscb : Word := 0
  descCache : List DescEntry := []
  /-- The core-domain cycle in which the pinned beat at hand began to wait for descriptors (R351). -/
  descAt : Option Nat := none
  dc : RF 5 (BitVec 32) := RF.fill 0
  /-- The clock each counter keeps with its value (R324). -/
  dcClk : RF 5 (Option Clock) := RF.fill none
  arms : RF 5 (RF 2 Arm) := RF.fill (RF.fill {})
  fired : List Fired := []
  sendQ : List SendEntry := []
  /-- The slot of meridian time in which the core last injected a pinned packet (R355). -/
  pinSlot : Nat := 0
  copyQ : List CopyEntry := []
  bb : RF 3 Barrier := RF.fill {}
  /-- The scratchpad's bytes that are not 0, by offset in rising order, and its empty granules (R251). -/
  scratch : List Host.Cell := []
  emptyGran : List Nat := []
  /-- 8-byte words of the scratchpad that are uncorrectable, and entries of the tag table that are (R393). -/
  scratchBad : List Nat := []
  tagBad : List Nat := []
  tagTable : RF 8 Word := RF.fill 0
  l1 : List Line := []
  /-- The bundle cache: 64 KiB, the line entered last first (R334). -/
  bcache : List BundleLine := []
  /-- The length in bundles of the kernel that each loop engine runs natively, 0 where it was not started so (R161, R183). -/
  kernels : RF 2 Nat := RF.fill 0
  /-- The core's micro-TLB, the entry used last first (R304). -/
  utlb : List TlbEntry := []
  /-- The translations that the core's accesses have used since nothing of it was on its way, cached or not (R305, R448). -/
  used : List TlbEntry := []
  /-- How many producers and atomics the core has numbered. -/
  ops : Nat := 0
  /-- The elements of write streams still to be written (R83). -/
  wbuf : List StreamWrite := []
  /-- The clocks of the responses that the task has heard, which its next acquire merges (R318); none before the first. -/
  clock : Option Clock := none
  trace : Tbl TraceEntry := []
  /-- The entries of the cycle at hand, and whether a trigger has fired in it (R404). -/
  traceNow : List TraceEntry := []
  traceStop : Bool := false
  trPos : Word := 0
  trCtl : Word := 0x101
  deriving DecidableEq, Repr

end Sys2Proof.Machine
end

