-- ==== Sys2Proof/Machine/DistState.lean ====
section
/-! DEFINITION. The state of the master distributor: launches, waiting tasks, wakes and arbitration (R33-R59). -/

namespace Sys2Proof.Machine

/-- What the package keeps of a task that is on no core, beside its record or save area: its number (R47), the clock of its die
at its last release, which its dispatch or resumption acquires (R312), the clocks of responses that its next acquire merges
(R318), and its decrypting copies that a save has quiesced, by slot and place in the order of R364. -/
structure TaskMem where
  task : Nat := 0
  rel : Option Clock := none
  heard : Option Clock := none
  decs : List (BitVec 4 × Nat) := []
  deriving DecidableEq, Repr

/-- A waiting task (R41): undispatched, a ready record, pre-empted in its save area, or held on a page fault. -/
inductive Waiting where
  /-- A ready record at a virtual address; `woken` is 1 for a woken, 0 for a spawned record (R40, R46). -/
  | ready (addr : Word) (woken : Bool) (k : TaskMem)
  /-- A pre-empted task: its save area, the core it left, whether its own time slice expired (R51, R59), and its active
  loops, the innermost first. -/
  | preempted (savea : Word) (core : CoreNo) (sliced : Bool) (loops : List (BitVec 2)) (k : TaskMem)
  /-- A held task, likewise (R447). -/
  | held (savea : Word) (core : CoreNo) (loops : List (BitVec 2)) (k : TaskMem)
  /-- A suspended task: its record (R42). -/
  | suspended (addr : Word) (k : TaskMem)
  deriving DecidableEq, Repr

/-- A launch that is visible (R51): its record of R33 as read, its state and its waiting tasks. -/
structure Launch where
  tenant : BitVec 5
  queue : BitVec 3
  /-- Index of its record in the ring. -/
  index : BitVec 32
  /-- Order of visibility on the package. -/
  order : Nat
  /-- The 128-byte record (R33). -/
  rec_ : BitVec 1024
  deps : BitVec 16
  taken : Bool := false
  refused : Bool := false
  cancelled : Bool := false
  completed : Bool := false
  /-- The launch's pinned status on this package (R40, R482). -/
  pinned : Bool := false
  /-- The cause of the sync fault that ends its pinned status, 0 for none, and the tick at which it ends (R348, R482). -/
  syncCause : BitVec 16 := 0
  syncAt : Nat := 0
  /-- The next undispatched linear index (R51). -/
  next : Nat := 0
  live : BitVec 64 := 0
  waiting : List Waiting := []
  /-- Domain units bound to groups: level, group number and unit (R35). -/
  bound : List (Nat × Nat × Nat) := []
  deriving DecidableEq, Repr

/-- A wake on its way to a record (R43). -/
structure WakeReq where
  addr : Word
  handle : BitVec 32
  tenant : BitVec 5
  deriving DecidableEq, Repr

/-- A reservation of a domain unit for a blocked gang (R54). -/
structure Reservation where
  tenant : BitVec 5
  handle : BitVec 32
  dom : BitVec 4
  inst : Nat
  deriving DecidableEq, Repr

/-- The master distributor. -/
structure Dist where
  launches : List Launch := []
  wakes : List WakeReq := []
  /-- Save areas in use: tenant and index (R50). -/
  areas : List (BitVec 5 × Nat) := []
  reserved : RF 2 (Option Reservation) := RF.fill none
  /-- The tenant and remaining grants of each class's round (R53), and each tenant's last queue served. -/
  round : RF 2 (BitVec 5 × Nat) := RF.fill (31, 0)
  lastQueue : RF 5 (RF 2 (BitVec 3)) := RF.fill (RF.fill 7)
  order : Nat := 0
  /-- Records that a tail index has covered and the distributor has still to read, in order: tenant, queue and index (R318, R361). -/
  pending : List (BitVec 5 × BitVec 3 × Nat) := []
  /-- How many tasks the package has begun. -/
  tasks : Nat := 0
  deriving DecidableEq, Repr

end Sys2Proof.Machine
end

