-- ==== Sys2Proof/Machine/FabricState.lean ====
section
/-! DEFINITION. The state of the fabric: the routers with their waypoint stores, combine slots, park areas and output
queues, the run a router is making, and the deliveries in flight (R268-R286, R469-R477). -/

namespace Sys2Proof.Machine

/-- A packet with the arrival code of its next run (R272) and, for a pinned packet, the meridian time its costs have
reached (R355). -/
structure FPacket where
  p : Packet
  adir : BitVec 4
  time : Nat := 0
  /-- The packet as it stood before the move that put it on its link, and the arrival code it had there (R476). -/
  before : Packet := {}
  was : BitVec 4 := 0
  deriving DecidableEq, Repr

/-- The run a router is making (R274): the packet with its stack and pc, its permission mask, and whether a clon has
executed. -/
structure Run where
  p : Packet
  adir : BitVec 4
  mask : BitVec 16
  cloned : Bool := false
  time : Nat := 0
  deriving DecidableEq, Repr

/-- A combine slot (R284). -/
inductive SlotState where
  | free | opened | closed
  deriving DecidableEq, Repr

/-- The key of a combine slot: tenant, tag, payload length, element type and child mask (R284). -/
structure CombKey where
  ten : BitVec 5
  tag : BitVec 16
  plen : BitVec 16
  flt : BitVec 1
  m : BitVec 16
  deriving DecidableEq, Repr

/-- A combine slot's content (R284). -/
structure CombSlot where
  st : SlotState := .free
  key : CombKey := ⟨0, 0, 0, 0, 0⟩
  have_ : BitVec 16 := 0
  entries : List (Nat × FPacket) := []
  d : BitVec 32 := 0
  t0 : Nat := 0
  missing : BitVec 16 := 0
  deriving DecidableEq, Repr

/-- A parked packet (R286, R469). -/
structure ParkEntry where
  p : Packet
  reason : BitVec 16
  adir : BitVec 4
  mtime : Word
  /-- The 0x170 bytes of an entry that the supervisor has rewritten, as they read. -/
  raw : List Byte := []
  deriving DecidableEq, Repr

/-- A router (R14, R17). Its tenant registers WPWIN, PMASK and CSLOT (R287) and PKCTL (R469) are device registers. -/
structure Router where
  /-- The waypoint store's bytes that are not 0. -/
  waypoint : List Host.Cell := []
  slots : RF 6 CombSlot := RF.fill {}
  park : RF 4 (Option ParkEntry) := RF.fill none
  /-- Packets waiting to run, by arrival: link arrivals by direction code, inward arrivals, injections, park releases
  and combine releases (R274, R276). -/
  inj : List FPacket := []
  parkRel : List FPacket := []
  combRel : List FPacket := []
  /-- An edge router's arrivals over its torus link. -/
  torusIn : List FPacket := []
  /-- Words of the waypoint store that are uncorrectable, and those that lie in a fenced row (R395, R413, R470). -/
  badWords : List Nat := []
  fencedWords : List Nat := []
  /-- The output queue of each direction's link (R278): codes 0-5 at an edge router its torus port, at an attach router
  the base-die link; 6-9 the on-package links. -/
  out : RF 4 (List FPacket) := RF.fill []
  /-- An edge router's base-die links toward the eight dies. -/
  inward : RF 3 (List FPacket) := RF.fill []
  run : Option Run := none
  deriving DecidableEq, Repr

/-- A delivery on its way to its target (R285), with the router that ran dlvr. -/
structure Deliv where
  p : Packet
  router : RouterNo
  adir : BitVec 4
  time : Nat := 0
  /-- The physical runs of a delivery to memory, and the granules of the payload still to be written; the increment
  follows. -/
  runs : List (Nat × Nat × Bool) := []
  left : List Nat := []
  deriving DecidableEq, Repr

/-- The state of a link (R475-R477): dead, its lanes or wires spared, and the failures of the flit it is sending. -/
structure LinkState where
  dead : Bool := false
  spared : Nat := 0
  retries : Nat := 0
  retrains : Nat := 0
  deriving DecidableEq, Repr

/-- The fabric. -/
structure Fabric where
  routers : Tbl Router := []
  links : List (LinkNo × LinkState) := []
  deliveries : List Deliv := []
  /-- Packets that have crossed a torus port outward, by port, with the coordinates of the package that they have gone to (R19). -/
  sent : List (BitVec 3 × List Nat × Packet) := []
  deriving DecidableEq, Repr

end Sys2Proof.Machine
end

