-- ==== Sys2Proof/Machine/MemState.lean ====
section
/-! DEFINITION. The state of the memory hierarchy: package memory, second tier, CXL and host memory as one sparse byte
store, the die caches, the ordered channels from the dies to the piles, and the clocks (R292-R321). -/

namespace Sys2Proof.Machine

/-- A message on the ordered channel from a die to a pile: a stamped write, its bytes a raw codeword where `bad` (R395) and by the
cores `who`, or a release marker (R316). -/
inductive ChanMsg where
  | write (pa : Nat) (bytes : List Byte) (bad : Bool) (stamp : Clock) (who : List CoreNo)
  | marker (v : BitVec 32)
  deriving DecidableEq, Repr

/-- What the base die does at memory: a write, its bytes a raw codeword where `bad`, or a release. -/
inductive BaseMsg where
  | write (pa : Nat) (bytes : List Byte) (bad : Bool)
  | release
  deriving DecidableEq, Repr

/-- A pile: its applied and observed clocks (R317), and whether its logic die is lost (R464). -/
structure Pile where
  ac : Clock := RF.fill 0
  oc : Clock := RF.fill 0
  lost : Bool := false
  deriving DecidableEq, Repr

/-- An atomic request on its way to its home (R264, R267), by its number on its core; `ret` marks one that returns the old
value, and `merge` one that may be merged (R266). -/
structure AtomicReq where
  core : CoreNo
  tenant : BitVec 5
  pa : Nat
  op : BitVec 6
  z : BitVec 1
  b : Word
  c : Word
  no : Nat
  ret : Bool
  merge : Bool
  stamp : Clock
  /-- The requests that have been merged into it, by core and number. -/
  also : List (CoreNo × Nat) := []
  deriving DecidableEq, Repr

/-- A read or atomic of a core that a pile holds until its applied clock reaches `clock` (R318), since a cycle; `expired` once the pile has
given it up (R463). `pa` is the first byte of it in its line. -/
structure Hold where
  core : CoreNo
  pa : Nat
  clock : Clock
  since : Nat
  expired : Bool := false
  deriving DecidableEq, Repr

/-- A line locked at its home by a returning atomic of a sheet until its value is written (R338), or a record line locked
by a SUSP (R42), `susp`; `gen` is the sheet's number. -/
structure LineLock where
  core : CoreNo
  line : Nat
  pa : Nat
  gen : Nat
  susp : Bool := false
  deriving DecidableEq, Repr

/-- The memory hierarchy. -/
structure MemSys where
  /-- The bytes at their targets, by physical address: a canonical sparse list (R21). -/
  mem : List Host.Cell := []
  dieCache : RF 3 (List Line) := RF.fill []
  /-- The ordered channels, by source die (8 is the base die) and pile. -/
  chan : RF 4 (RF 3 (List ChanMsg)) := RF.fill (RF.fill [])
  /-- The vector clock of each die (R316). -/
  vc : RF 4 Clock := RF.fill (RF.fill 0)
  piles : RF 3 Pile := RF.fill {}
  atomics : List AtomicReq := []
  locks : List LineLock := []
  /-- The TLB of each cluster, the entry used last first (R304). -/
  tlb : Tbl (List TlbEntry) := []
  /-- What the base die still has to do at memory, in order: a write to a locked line, and what stands behind it (R42, R338), or
  a release that R319 holds. -/
  baseQ : List BaseMsg := []
  /-- Writes of compute dies that have come to a locked line and wait at its home for the lock to end (R42, R338), by die, in
  their order. -/
  lockQ : List (BitVec 4 × ChanMsg) := []
  /-- Reads and atomics that piles hold (R318, R463). -/
  holds : List Hold := []
  /-- How many cached lines have been replaced (the model's own field). -/
  replaced : Nat := 0
  /-- Physical 16-byte granules that hold uncorrectable data (R392). -/
  badGran : List Nat := []
  /-- Lines whose write-back has moved a raw codeword in the cycle at hand, by cache (R462): each is recorded as the cycle ends. -/
  rawMoved : List (CacheLevel × Nat) := []
  /-- 64-byte blocks that hold an error which a read or the scrub corrects and rewrites (R393, R394), and those that a read has
  corrected in the cycle at hand, which is recorded as it ends. -/
  soft : List Nat := []
  softRead : List Nat := []
  /-- Ways of caches that are disabled, by cache and set (R410, R413). -/
  waysOff : List (CacheLevel × Nat) := []
  /-- Physical 16-byte granules that lie in a fenced row (R413). -/
  fenced : List Nat := []
  deriving DecidableEq, Repr

end Sys2Proof.Machine
end

