-- ==== Sys2Proof/Machine/PlatState.lean ====
section
/-! DEFINITION. The state of the platform: device registers, MSI-X, staging, translation engines, error records, the
security controller, clocks and power (R243, R333-R348, R357-R368, R405-R417, R484-R486). -/

namespace Sys2Proof.Machine

/-- A sheet of a die's atlas (R333): tenant, code-object handle, entry group, options, its text and whether it is
locked by a launch. -/
structure AtlasEntry where
  tenant : BitVec 5
  code : Word
  entry : Word
  pin : Bool
  text : List (BitVec 32)
  lock : Option (BitVec 32) := none
  deriving DecidableEq, Repr

/-- A fault point in place of a group that cannot be translated (R440, R443): the condition that it raises, whether it
stays until an icinv, and, for an uncorrectable word, its physical address. -/
structure FaultPoint where
  die : BitVec 3
  tenant : BitVec 5
  va : Word
  pin : Bool
  cls : BitVec 8
  code : BitVec 16
  tmove : Word
  tinfo : Word
  keep : Bool
  pa : Word := 0
  deriving DecidableEq, Repr

/-- A native image a die uses for a code object (R150, R151): where its bundles lie, where its text lies, and its sheet
map as entries of (VENT, NGRP, SKIND, NENT, NBS) and their exits. -/
structure SheetMapEntry where
  vent : Nat
  ngrp : Nat
  loop : Bool
  nent : Nat
  nbs : Nat
  exits : List (Nat × Nat)
  deriving DecidableEq, Repr

/-- The loader's choice of an image for a code object on a die (R151), and the object's region map (R148). -/
structure ImageRef where
  die : BitVec 3
  code : Word
  pin : Bool
  /-- Virtual address of bundle 0 of the image. -/
  base : Word
  text : Word
  sheets : List SheetMapEntry
  deriving DecidableEq, Repr

/-- A code object as the loader has placed it (R148, R152): its handle, and its text's virtual range with the region
starts as word offsets. -/
structure CodeObj where
  code : Word
  text : Word
  words : Nat
  regions : List Nat
  deriving DecidableEq, Repr

/-- One of the 16 key slots of a running launch (R363). -/
structure KeySlot where
  tenant : BitVec 5
  handle : BitVec 32
  slot : BitVec 4
  key : BitVec 256
  strm : BitVec 32
  counter : Word
  deriving DecidableEq, Repr

/-- A TDISP interface state (R358). -/
inductive Tdisp where
  | unlocked | locked | run
  deriving DecidableEq, Repr

/-- An error record on its way to the logs (R405, R409): the 64 bytes, when its merge window closes, and whether it
awaits a self-test. -/
structure ErrPend where
  rec_ : BitVec 512
  closes : Nat
  testing : Bool
  deriving DecidableEq, Repr

/-- A self-test under way (R410): the structure under test. -/
structure SelfTest where
  src : BitVec 8
  unit : BitVec 16
  addr : Word
  link : Option LinkNo := none
  deriving DecidableEq, Repr

/-- An invalidation of translations that runs (R305): whose translations, the virtual range, and the physical pages (base and
size) of those that it has removed. -/
structure Inval where
  owner : BitVec 6
  va : Nat
  len : Nat
  all : Bool
  pages : List (Nat × Nat)
  deriving DecidableEq, Repr

/-- What the accesses of one core cycle meet at (R203, R248, R276, R284, R298): a core's delivery counter, a core's scratchpad
port, a granule of staging, a router's runs, or one of its combine slots. -/
inductive Meeting where
  | counter (core : CoreNo) (n : BitVec 5)
  | scratch (core : CoreNo)
  | staging (gran : Nat)
  | runs (router : RouterNo)
  | slot (router : RouterNo) (i : BitVec 6)
  deriving DecidableEq, Repr

/-- The platform. -/
structure Plat where
  /-- Device registers that hold another value than at reset, by offset (R359). -/
  regs : Tbl Word := []
  /-- MSI-X table entries written, pending vectors, and the messages sent to the host in order (R357). -/
  msixTable : Tbl (BitVec 128) := []
  msixPending : List Nat := []
  msixSent : List Nat := []
  /-- Bytes of the staging slices that are not 0, by the address of R242, and slices being cleared (R243). -/
  staging : List Host.Cell := []
  clearing : List (Nat × BitVec 3) := []
  /-- 8-byte words of staging that are uncorrectable, and those that lie in a fenced row (R393, R413). -/
  stageBad : List Nat := []
  stageFenced : List Nat := []
  atlas : RF 3 (List AtlasEntry) := RF.fill []
  images : List ImageRef := []
  objects : List CodeObj := []
  /-- Translation pipelines that have failed for a core's pending translation, and fault points (R440, R441). -/
  pipesFailed : Tbl Nat := []
  faultPoints : List FaultPoint := []
  atrevBusy : List (Nat × Nat) := []
  errors : List ErrPend := []
  seq : BitVec 32 := 0
  ovf : Bool := false
  crash : List (BitVec 512) := []
  /-- The self-tests that run, each with the cycle before which it does not end (R410). -/
  tests : List (SelfTest × Nat) := []
  faulty : List SelfTest := []
  spares : Nat := 0
  /-- Clusters whose spare core has taken a number (R413, R414), and the locations that records have named, with the time of each
  record (R411). -/
  spared : List Nat := []
  history : List (SelfTest × Nat) := []
  /-- How many copies the package has queued (R364). -/
  copySeq : Nat := 0
  /-- What each port's last bearing exchange gave (R347): the neighbour's hop distance to the datum, and the bound that it
  gives this package as a child. -/
  bearings : List (BitVec 3 × Nat × Nat) := []
  failStop : Bool := false
  warm : Bool := false
  tdisp : RF 5 Tdisp := RF.fill .unlocked
  keys : List KeySlot := []
  rollback : Nat := 0
  bootst : Word := 0
  /-- The firmware images that run, by kind, none being the one the package was made with, and verified ones that wait for the next
  boot (R366, R485). -/
  firmware : RF 2 (List Byte) := RF.fill []
  staged : RF 2 (List Byte) := RF.fill []
  /-- Which of POS, MPER and MDATUM board management has written since the boot (R366). -/
  board : List Nat := []
  /-- What the host's reads have returned, in order: none for an Unsupported Request (R357, R359, R416). -/
  hostReads : List (Option (List Byte)) := []
  inval : Option Inval := none
  spdmOut : List (List Byte) := []
  everEnabled : Bool := false
  /-- Core cycles since package reset, and the clock step in 25 MHz units. -/
  cycle : Nat := 0
  /-- What has been accessed in the cycle at hand, with the place of the access in the order of the cycle, and the launches that
  a CANCEL has named in it (R362). -/
  met : List (Meeting × Nat) := []
  cancels : List (BitVec 5 × BitVec 32) := []
  clockStep : Nat := 64
  /-- The step that a junction's temperature asks for, and whether it stands at 110 degrees or more (R368, R416). -/
  heat : Option Nat := none
  hot : Bool := false
  /-- Meridian time in millionths of a meridian unit, and the slew in parts per million (R346, R347). -/
  mtimeMicro : Nat := 0
  slew : Int := 0
  deriving DecidableEq, Repr

end Sys2Proof.Machine
end

