-- ==== Sys2Proof/Machine/State.lean ====
section
/-! DEFINITION. The state of one Amlos package, what stops a step, and the state after reset. -/

namespace Sys2Proof.Machine

/-- Where a storage or datapath error arises (R391-R396, R462). -/
inductive Upset where
  /-- A 64-byte block of memory is uncorrectable, or holds an error that a read corrects. -/
  | mem (block : Nat)
  | soft (block : Nat)
  /-- A 64-bit word of a scratchpad or of staging, a 32-bit word of a waypoint store. -/
  | scratch (core : CoreNo) (word : Nat)
  | staging (word : Nat)
  | waypoint (router : RouterNo) (word : Nat)
  /-- A byte of a cached line, or the line's tag. -/
  | cache (level : CacheLevel) (line : Nat) (byte : BitVec 7)
  | cacheTag (level : CacheLevel) (line : Nat)
  /-- The storage of a register, or an item of a core's accumulator and matrix state (`Core.mxBad`). -/
  | reg (core : CoreNo) (d : Dst)
  | matrix (core : CoreNo) (item : Nat)
  /-- A datapath's check fails in a slot of a core's next group. -/
  | check (core : CoreNo) (slot : BitVec 3)
  /-- A producer's value is found uncorrectable before it lands (the landing buffer, a residue check). -/
  | landing (core : CoreNo) (i : Nat)
  /-- An entry of a core's gated store buffer, or its shadow set. -/
  | gated (core : CoreNo)
  | shadow (core : CoreNo)
  /-- A bundle of a core's bundle cache, or a sheet of a die's atlas, fails its parity. -/
  | bundle (core : CoreNo) (i : Nat)
  | atlas (die : BitVec 3) (i : Nat)
  /-- An entry of a core's tag table, a granule's full bit, an entry of a core's copy queue, a combine slot or an entry of a park area is
  uncorrectable. -/
  | tagEntry (core : CoreNo) (i : BitVec 8)
  | fullBit (core : CoreNo) (gran : Nat)
  | copyEntry (core : CoreNo) (i : Nat)
  | combSlot (router : RouterNo) (i : BitVec 6)
  | parkEntry (router : RouterNo) (i : BitVec 4)
  /-- A read meets an error that its check corrects. -/
  | corrected (src : BitVec 8) (unit : BitVec 16) (addr : Word)
  deriving DecidableEq, Repr

/-- What the host and the loader do: they write and read memory (R321), write and read BAR0 and, with `two`, BAR2 on an IDE stream, the
supervisor's or a tenant's (R357, R358), write MSI-X table entries, place code objects, choose native images for them and unload them
(R151-R153). -/
inductive HostAct where
  | write (pa : Nat) (bytes : List Byte)
  | read (pa n : Nat)
  | bar (stream : Option (BitVec 5)) (two : Bool) (off : Nat) (bytes : List Byte)
  | barRead (two : Bool) (off n : Nat)
  | msix (vector : Nat) (entry : BitVec 128)
  | object (o : CodeObj)
  | image (im : ImageRef)
  | unload (code : Word)
  deriving DecidableEq, Repr

/-- What acts next (the agents of the package): time passes by one core cycle; a core runs its next move word or native
bundle; a router runs the next instruction of its open run; a machine or host event happens; a packet arrives over a
torus port, its costs having reached a meridian time (R355), or leaves over
one; an error arises; the host acts. -/
inductive Act where
  | tick
  | core (n : CoreNo)
  | router (r : RouterNo)
  | ev (i : Instr)
  | linkIn (port : BitVec 3) (p : Packet) (time : Nat)
  | linkOut (port : BitVec 3)
  | upset (u : Upset)
  | host (h : HostAct)
  deriving DecidableEq, Repr, Inhabited

/-- The state of the package. -/
structure State where
  cores : Tbl Core := []
  mem : MemSys := {}
  fab : Fabric := {}
  dist : Dist := {}
  plat : Plat := {}
  /-- The core and the router an operation acts on. -/
  cur : CoreNo := 0
  curRouter : RouterNo := 0
  /-- What acts next, in order; where it is empty the schedule is free (the model's own field). -/
  agenda : List Act := []
  /-- How many free values a run has taken (the model's own field). -/
  free : Nat := 0
  deriving DecidableEq, Repr

/-- Why the machine stops. -/
inductive Fault where
  /-- An ill-formed term: an operation in a form it does not have, or an event that names no core or router. Raised by
  every meaning on such a term, which no decoder gives. Safe. -/
  | illFormed
  deriving DecidableEq, Repr

/-- Why an instruction has no effect the model gives. -/
inductive Refusal where
  /-- The instruction has no meaning yet. Safe. -/
  | notModelled (mnemonic : String)
  deriving DecidableEq, Repr

/-- The machine right after package reset: every register at the value the spec gives, memory with nothing listed. -/
def State.reset : State := {}

end Sys2Proof.Machine
end

