-- ==== Sys2Proof/Config.lean ====
section
/-! DEFINITION. What the spec leaves open: free values, which nothing in Lean can evaluate (no body). -/

namespace Sys2Proof.Config
open Sys2Proof.Machine

/-- What acts next where the agenda names nothing: the order of the package's agents is free (log entry 2). -/
opaque freeAct : Nat → Act

/-- The AES-256-GCM decryption of a ciphertext and tag under a key and IV: the plaintext, or none where the tag does not
verify (R364). The spec names the standard and does not define it (log entry 12). -/
opaque gcmDecrypt : BitVec 256 → BitVec 96 → List Byte → Option (List Byte)

/-- Whether each of the two signatures of a firmware image verifies (R365): RSASSA-PSS with RSA-3072 and SHA-384, and
SLH-DSA-SHA2-192s. The spec names the standards and does not define them (log entry 12). -/
opaque rsaOk : List Byte → Bool
opaque slhOk : List Byte → Bool

/-- The security version that a firmware image holds, none where it is malformed, and which image it is: 0 the base die's, 1 the compute
dies', 2 the pile logic's (R365, R366; log entry 12). -/
opaque imageVersion : List Byte → Option Nat
opaque imageKind : List Byte → BitVec 2

/-- Whether the links and memories train in a boot (R366; log entry 12). -/
opaque trainingOk : Nat → Bool

/-- Whether the signing unit serves a request (R486). -/
opaque signs : Nat → Bool

/-- What the security controller says to an SPDM request, before its signatures (R365, R486; log entry 12). -/
opaque spdmAnswer : List Byte → List Byte

/-- The error code of the answer to a request that the device cannot serve (R486), none for one that it serves, and that of the answer to a
key installation that it refuses (R468): the spec leaves the codes to SPDM 1.3 (log entry 12). -/
opaque spdmRefuses : List Byte → Option Byte
opaque keyError : List Byte → Byte

/-- The signature of a response with the identity key, and of a measurement block with SLH-DSA (R365; log entry 12). -/
opaque rsaSign : List Byte → List Byte
opaque slhSign : List Byte → List Byte

/-- The measurement blocks of a package, and the text of its identity certificate with its RSA and its SLH-DSA signature (R365; log
entry 12). -/
opaque measurements : Nat → List (List Byte)
opaque certificate : List Byte
opaque certificateRsa : List Byte
opaque certificateSlh : List Byte

/-- Which firmware image a secured message commits, if it is a commit (R485; log entry 12). -/
opaque commitMessage : List Byte → Option (BitVec 2)

/-- The bytes that the translation of a sheet's text takes in the atlas (R333, R345): the spec does not give the native
code that a Cartographer builds (log entry 26). -/
opaque atlasBytes : List (BitVec 32) → Nat

/-- How many move groups, beyond those of its first region, a sheet of some text covers that a die's Cartographer builds for a regime
(R334): one number for each text (log entry 26). -/
opaque sheetGroups : BitVec 3 → Bool → List (BitVec 32) → Nat

/-- The rate change, in parts per million, that a measured offset from the parent leads to; it acts within 100 (R347). -/
opaque slewFor : Int → Int

/-- The largest BOUND of the other packages that receive a launch (R348): they hold it (log entry 44). -/
opaque otherBound : Nat → BitVec 32

/-- Whether a torus port's link passes through a relay switch (R20): how a system is wired. -/
opaque relayOn : BitVec 3 → Bool

/-- The units of storage that share a row with an erring one (R410, R413), by SRC, UNIT and unit number: the spec does not
give the size of a row (log entry 28). -/
opaque rowOf : BitVec 8 → BitVec 16 → Nat → List Nat

/-- The bank of a pile or of the second tier that a granule lies in (R413), by SRC and UNIT: the spec does not lay the banks out
(log entry 28). -/
opaque bankOf : BitVec 8 → BitVec 16 → Nat → Nat

/-- The wires of an on-package, die-to-die or base-die link, by the SRC and UNIT of its records (R413): the spec does not count them (log
entry 28). -/
opaque linkWires : BitVec 8 → BitVec 16 → Nat

/-- Whether the bit error rate of a lane retrained in a cycle exceeds 10^-12 (R411; log entry 28). -/
opaque berHigh : Nat → Bool

/-- The power in watts that the package takes in a cycle at a step of 25 MHz (R367), as the device measures it (log entry 28). -/
opaque powerAt : Nat → Nat → Nat

/-- Which of the sixteen lines of a full set makes room for another (R292), in the order of replacement: the spec leaves it to the
device (log entry 33). -/
opaque freeVictim : Nat → Nat

/-- The register form that TINFO gives for a loop register whose storage is uncorrectable (R392): R140 names no form for one (log entry
76). -/
opaque loopForm : BitVec 2 → BitVec 12

/-- A value the spec does not state, drawn in the order of use. -/
opaque freeWord : Nat → BitVec 64

end Sys2Proof.Config
end

