-- ==== Sys2Proof/Machine/Numbers.lean ====
section
/-! DEFINITION. Number formats, exact values and rounding (R94-R106), and the new
values of the atomics (R265). -/

namespace Sys2Proof.Machine

/-- The five floating-point flags, in FSTAT's places: NV, DZ, OF, UF, NX (R71). -/
abbrev FFlags := BitVec 5
abbrev flNV : FFlags := 1
abbrev flDZ : FFlags := 2
abbrev flOF : FFlags := 4
abbrev flUF : FFlags := 8
abbrev flNX : FFlags := 16

/-! ## Formats -/

/-- A floating format by its exponent and fraction widths (R94); E4M3 has no infinity. -/
structure FFmt where
  ew : Nat
  fw : Nat
  e4m3 : Bool := false
  deriving DecidableEq, Repr

def fmtF32 : FFmt := { ew := 8, fw := 23 }
def fmtF16 : FFmt := { ew := 5, fw := 10 }
def fmtBf16 : FFmt := { ew := 8, fw := 7 }
def fmtE5m2 : FFmt := { ew := 5, fw := 2 }
def fmtE4m3 : FFmt := { ew := 4, fw := 3, e4m3 := true }
/-- The matrix array's pre-addition format (R94, R95). -/
def fmtPA : FFmt := { ew := 9, fw := 14 }

/-- The floating format of an element type (R129). -/
def fmtOf (et : Nat) : FFmt :=
  match et with
  | 0 => fmtF32
  | 1 => fmtF16
  | 2 => fmtBf16
  | 3 => fmtE4m3
  | _ => fmtE5m2

/-- The exponent bias. -/
def FFmt.bias (f : FFmt) : Nat := 2 ^ (f.ew - 1) - 1

/-- The exponent of the smallest normal. -/
def FFmt.emin (f : FFmt) : Int := 1 - f.bias

/-- The largest finite magnitude as a significand over the top exponent's unit (R94). -/
def FFmt.topSig (f : FFmt) : Nat := if f.e4m3 then 2 ^ (f.fw + 1) - 2 else 2 ^ (f.fw + 1) - 1

/-- The exponent of the unit of the topmost finite binade. -/
def FFmt.topExp (f : FFmt) : Int := (if f.e4m3 then (2 : Int) ^ f.ew - 1 else (2 : Int) ^ f.ew - 2) - f.bias - f.fw

/-- The canonical NaN (R96). -/
def FFmt.nan (f : FFmt) : Nat := if f.e4m3 then 0x7F else (2 ^ f.ew - 1) * 2 ^ f.fw + 2 ^ (f.fw - 1)

/-- The sign bit's weight. -/
def FFmt.signW (f : FFmt) : Nat := 2 ^ (f.ew + f.fw)

/-- Infinity of a sign; E4M3 has none and is dealt with where it is met. -/
def FFmt.inf (f : FFmt) (neg : Bool) : Nat := (if neg then f.signW else 0) + (2 ^ f.ew - 1) * 2 ^ f.fw

/-- The largest finite value of a sign. -/
def FFmt.largest (f : FFmt) (neg : Bool) : Nat :=
  (if neg then f.signW else 0) + (if f.e4m3 then 0x7E else (2 ^ f.ew - 1) * 2 ^ f.fw - 1)

/-! ## Exact values -/

/-- A value: NaN, an infinity, or the exact dyadic `± m * 2^e`, where a zero keeps its sign. -/
inductive FV where
  | nan
  | inf (neg : Bool)
  | fin (neg : Bool) (m : Nat) (e : Int)
  deriving DecidableEq, Repr

/-- The value a bit pattern stands for (R94). -/
def FFmt.decode (f : FFmt) (x : Nat) : FV :=
  let neg := x / f.signW % 2 = 1
  let e := x / 2 ^ f.fw % 2 ^ f.ew
  let m := x % 2 ^ f.fw
  if e = 2 ^ f.ew - 1 ∧ (if f.e4m3 then m = 2 ^ f.fw - 1 else True) then
    (if f.e4m3 ∨ m ≠ 0 then .nan else .inf neg)
  else if e = 0 then .fin neg m (f.emin - f.fw)
  else .fin neg (2 ^ f.fw + m) ((e : Int) - f.bias - f.fw)

/-- Whether a value is zero. -/
def FV.isZero : FV → Bool
  | .fin _ m _ => m = 0
  | _ => false

/-- Whether a value is NaN. -/
def FV.isNan : FV → Bool
  | .nan => true
  | _ => false

/-- Whether a value is an infinity. -/
def FV.isInf : FV → Bool
  | .inf _ => true
  | _ => false

/-- The sign of a value; a NaN counts as positive. -/
def FV.sign : FV → Bool
  | .nan => false
  | .inf n => n
  | .fin n _ _ => n

/-- The value with its sign inverted. -/
def FV.negate : FV → FV
  | .nan => .nan
  | .inf n => .inf !n
  | .fin n m e => .fin (!n) m e

/-- The signed significand of a finite value. -/
def FV.sig : FV → Int
  | .fin n m _ => if n then -(m : Int) else m
  | _ => 0

/-- The exponent of a finite value. -/
def FV.exp : FV → Int
  | .fin _ _ e => e
  | _ => 0

/-- A finite value from a signed significand; zero is +0. -/
def FV.ofInt (m : Int) (e : Int) : FV := .fin (m < 0) m.natAbs e

/-- The exact sum of two significands at the lower of their exponents. -/
def addSig (m1 e1 m2 e2 : Int) : Int × Int :=
  if e1 ≤ e2 then (m1 + m2 * 2 ^ (e2 - e1).toNat, e1) else (m1 * 2 ^ (e1 - e2).toNat + m2, e2)

/-- The exact sum of two values and whether it is invalid (R96). A zero sum is +0, or -0 where `dn` says rounding is
down; two zeros of one sign keep it (R99). -/
def FV.add (dn : Bool) (a b : FV) : FV × Bool :=
  match a, b with
  | .nan, _ | _, .nan => (.nan, false)
  | .inf x, .inf y => if x = y then (.inf x, false) else (.nan, true)
  | .inf x, _ => (.inf x, false)
  | _, .inf y => (.inf y, false)
  | .fin n1 m1 e1, .fin n2 m2 e2 =>
    if m1 = 0 ∧ m2 = 0 then (.fin (if n1 = n2 then n1 else dn) 0 0, false)
    else if m1 = 0 then (.fin n2 m2 e2, false)
    else if m2 = 0 then (.fin n1 m1 e1, false)
    else
      let (m, e) := addSig (FV.sig (.fin n1 m1 e1)) e1 (FV.sig (.fin n2 m2 e2)) e2
      (if m = 0 then .fin dn 0 0 else FV.ofInt m e, false)

/-- The exact product of two values and whether it is invalid (R96). -/
def FV.mul (a b : FV) : FV × Bool :=
  match a, b with
  | .nan, _ | _, .nan => (.nan, false)
  | .inf x, b => if b.isZero then (.nan, true) else (.inf (x != b.sign), false)
  | a, .inf y => if a.isZero then (.nan, true) else (.inf (a.sign != y), false)
  | .fin n1 m1 e1, .fin n2 m2 e2 => (.fin (n1 != n2) (m1 * m2) (e1 + e2), false)

/-- The comparison of two values that are no NaN; -0 equals +0. -/
def FV.lt (a b : FV) : Bool :=
  match a, b with
  | .nan, _ | _, .nan => false
  | .inf x, .inf y => x && !y
  | .inf x, _ => x
  | _, .inf y => !y
  | a, b => decide ((addSig a.sig a.exp (-b.sig) b.exp).1 < 0)

/-- Whether two values are equal; a NaN equals nothing. -/
def FV.eqv (a b : FV) : Bool := !a.isNan && !b.isNan && !a.lt b && !b.lt a

/-! ## Stochastic bits (R101) -/

/-- mix64. -/
def mix64 (z : Word) : Word :=
  let z := (z ^^^ (z >>> 30)) * 0xBF58476D1CE4E5B9
  let z := (z ^^^ (z >>> 27)) * 0x94D049BB133111EB
  z ^^^ (z >>> 31)

/-- sr_bits. -/
def srBits (seed : Word) (idx : Nat) : Nat :=
  (mix64 (seed + BitVec.ofNat 64 (idx + 1) * 0x9E3779B97F4A7C15)).toNat / 2 ^ 32

/-! ## Rounding (R98-R103) -/

/-- Rounds the magnitude `num / den` of a sign to an integer, and tells whether it was inexact (R98). `draw` is the
stochastic draw of mode 4 (R101). -/
def roundRat (rm : BitVec 3) (draw : Nat) (neg : Bool) (num den : Nat) : Nat × Bool :=
  let k := num / den
  let r := num % den
  if r = 0 then (k, false)
  else
    let up : Bool :=
      match rm with
      | 1 => false
      | 2 => neg
      | 3 => !neg
      | 4 => if neg then !(decide (draw < (den - r) * 2 ^ 32 / den)) else decide (draw < r * 2 ^ 32 / den)
      | _ => decide (den < 2 * r) || (decide (den = 2 * r) && decide (k % 2 = 1))
    (if up then k + 1 else k, true)

/-- Rounds `m * 2^e` to a multiple of `2^q`: the multiple and whether it was inexact. A value far below the unit is
rounded as one that is 2^-64 of it, which no mode tells apart. -/
def roundAt (rm : BitVec 3) (draw : Nat) (neg : Bool) (m : Nat) (e q : Int) : Nat × Bool :=
  if q ≤ e then (m * 2 ^ (e - q).toNat, false)
  else roundRat rm draw neg m (2 ^ (min (q - e).toNat (Nat.log2 m + 64)))

/-- The result of an overflow in a mode (R100), and for an infinity met by E4M3 (`sat` is QCFG.F8SAT). -/
def overflowBits (f : FFmt) (sat : Bool) (rm : BitVec 3) (neg : Bool) : Nat :=
  let toInf : Bool := match rm with | 1 => false | 2 => neg | 3 => !neg | _ => true
  if toInf then
    (if f.e4m3 then (if sat then f.largest neg else f.nan) else f.inf neg)
  else f.largest neg

/-- round_fmt of a finite nonzero `± m * 2^e` (R98-R101, R103): the bit pattern and the flags. -/
def roundFin (f : FFmt) (sat : Bool) (rm : BitVec 3) (draw : Nat) (neg : Bool) (m : Nat) (e : Int) : Nat × FFlags :=
  let top : Int := Nat.log2 m + e
  let qn : Int := top - f.fw
  let q : Int := max qn (f.emin - f.fw)
  let (k, nx) := roundAt rm draw neg m e q
  let s := if neg then f.signW else 0
  if f.topExp < q ∨ (q = f.topExp ∧ f.topSig < k) then (overflowBits f sat rm neg, flOF ||| flNX)
  else
    let tiny : Bool := decide (top < f.emin) &&
      (let k2 := (roundAt rm draw neg m e qn).1
       decide ((Nat.log2 k2 : Int) + qn < f.emin))
    (s + ((q + f.fw - f.emin).toNat * 2 ^ f.fw + k), (if nx then flNX else 0) ||| (if nx && tiny then flUF else 0))

/-- round_fmt of any value: NaN gives the canonical NaN with no flag, an infinity itself with none (R96, R100). -/
def roundFmt (f : FFmt) (sat : Bool) (rm : BitVec 3) (draw : Nat) (v : FV) : Nat × FFlags :=
  match v with
  | .nan => (f.nan, 0)
  | .inf n => (if f.e4m3 then (if sat then f.largest n else f.nan) else f.inf n, 0)
  | .fin n m e => if m = 0 then ((if n then f.signW else 0), 0) else roundFin f sat rm draw n m e

/-- The rounding an operation makes: its effective mode, the seed it draws from and QCFG.F8SAT. -/
structure Rnd where
  rm : BitVec 3
  seed : Word
  sat : Bool
  deriving DecidableEq, Repr

/-- Round to nearest even, no draw. -/
def rndRne : Rnd := { rm := 0, seed := 0, sat := false }

/-- round_fmt with the element index `idx` (R98). -/
def Rnd.fmt (r : Rnd) (f : FFmt) (v : FV) (idx : Nat) : Nat × FFlags :=
  roundFmt f r.sat r.rm (if r.rm = 4 then srBits r.seed idx else 0) v

/-- Whether exact zero sums are -0: only under rounding down (R99). -/
def Rnd.dn (r : Rnd) : Bool := r.rm = 2

/-- An invalid operation's flag. -/
def nvIf (b : Bool) : FFlags := if b then flNV else 0

/-- add_rounded: the sum of two patterns of a format, with one rounding (R105). -/
def addRounded (r : Rnd) (f : FFmt) (a b : Nat) (idx : Nat) : Nat × FFlags :=
  let (v, nv) := FV.add r.dn (f.decode a) (f.decode b)
  let (x, fl) := r.fmt f v idx
  (x, fl ||| nvIf nv)

/-- The fused `± a * b ± c` with one rounding (R216). -/
def fmaRounded (r : Rnd) (f : FFmt) (negP negC : Bool) (a b c : FV) (idx : Nat) : Nat × FFlags :=
  let (p, nv1) := FV.mul a b
  let (v, nv2) := FV.add r.dn (if negP then p.negate else p) (if negC then c.negate else c)
  let (x, fl) := r.fmt f v idx
  (x, fl ||| nvIf (nv1 || nv2))

/-- The smaller of two patterns, -0 below +0, or the canonical NaN (R217). -/
def minPattern (f : FFmt) (a b : Nat) : Nat :=
  let x := f.decode a
  let y := f.decode b
  if x.isNan || y.isNan then f.nan
  else if x.lt y then a else if y.lt x then b else if x.sign then a else b

/-- The larger of two patterns, +0 above -0, or the canonical NaN (R217). -/
def maxPattern (f : FFmt) (a b : Nat) : Nat :=
  let x := f.decode a
  let y := f.decode b
  if x.isNan || y.isNan then f.nan
  else if x.lt y then b else if y.lt x then a else if x.sign then b else a

/-- The bytes of an atomic, by its native opcode and Z (R265). -/
def atomicBytes (op : BitVec 6) (z : BitVec 1) : Nat :=
  if op = 0x31 ∨ op = 0x35 ∨ op = 0x38 then 4 else if op = 0x32 then 2 else if z = 1 then 8 else 4

/-- The value an atomic writes, from the old value and its operands (R265). -/
def atomicNew (op : BitVec 6) (z : BitVec 1) (old b c : Nat) : Nat :=
  let w := 2 ^ (8 * atomicBytes op z)
  let b := b % w
  let neg (x : Nat) : Bool := decide (w / 2 ≤ x)
  let slt (x y : Nat) : Bool := if neg x = neg y then decide (x < y) else neg x
  if op = 0x30 then (old + b) % w
  else if op = 0x31 then (addRounded rndRne fmtF32 old b 0).1
  else if op = 0x32 then (addRounded rndRne fmtBf16 old b 0).1
  else if op = 0x33 then (if slt b old then b else old)
  else if op = 0x34 then min old b
  else if op = 0x35 then minPattern fmtF32 old b
  else if op = 0x36 then (if slt old b then b else old)
  else if op = 0x37 then max old b
  else if op = 0x38 then maxPattern fmtF32 old b
  else if op = 0x39 then old &&& b
  else if op = 0x3A then old ||| b
  else if op = 0x3B then old ^^^ b
  else if op = 0x3C then b
  else if old = c % w then b else old

/-- A finite value rounded to an integer under a mode, and whether it changed (R218, R225). -/
def roundInt (r : Rnd) (v : FV) (idx : Nat) : Int × Bool :=
  match v with
  | .fin n m e =>
    let (k, nx) := roundAt r.rm (if r.rm = 4 then srBits r.seed idx else 0) n m e 0
    (if n then -(k : Int) else k, nx)
  | _ => (0, false)

/-! ## Summation orders (R105, R106) -/

/-- One level of the pairwise tree; node `i` uses index `i`. -/
def treeLevel {α : Type} (op : Nat → α → α → α) : Nat → List α → List α
  | i, a :: b :: r => op i a b :: treeLevel op (i + 1) r
  | _, l => l

/-- The fixed pairwise tree over 2^m terms (R105). -/
def treeFold {α : Type} (op : Nat → α → α → α) : Nat → List α → List α
  | 0, l => l
  | m + 1, l => treeFold op m (treeLevel op 0 l)

/-- One step of a scan at distance `d`: every position from `d` up adds the one `d` below (R106). -/
def scanStep {α : Type} (op : Nat → α → α → α) (d : Nat) (l : List α) : List α :=
  l.take d ++ (List.zipWith (fun (a : α) (bi : α × Nat) => op bi.2 a bi.1) l ((l.drop d).zip (List.range' d (l.length - d))))

end Sys2Proof.Machine
end

