-- ==== Sys2Proof/Machine/Mem.lean ====
section
/-! DEFINITION. Memory: the byte store in its canonical form, the caches and channels over it, and address translation
(R21, R22, R292-R305, R315-R319). -/

namespace Sys2Proof.Machine

/-! ## The byte store -/

/-- What an address that nothing has written reads as (log entry 3). -/
def Memory.empty : Byte := 0

/-- The byte at an address. -/
def Memory.get : List Host.Cell → Nat → Byte
  | [], _ => Memory.empty
  | (a, b) :: r, k => if k = a then b else if k < a then Memory.empty else Memory.get r k

/-- The memory with a byte written, in canonical form: writing what an unlisted address reads as removes the entry. -/
def Memory.put : List Host.Cell → Nat → Byte → List Host.Cell
  | [], k, v => if v = Memory.empty then [] else [(k, v)]
  | (a, b) :: r, k, v =>
    if k = a then (if v = Memory.empty then r else (a, v) :: r)
    else if k < a then (if v = Memory.empty then (a, b) :: r else (k, v) :: (a, b) :: r)
    else (a, b) :: Memory.put r k v

/-- Whether every entry lies above `lo` in rising order and none equals the empty byte. -/
def Memory.wfFrom (lo : Nat) : List Host.Cell → Bool
  | [] => true
  | (a, b) :: r => decide (lo ≤ a) && decide (b ≠ Memory.empty) && Memory.wfFrom (a + 1) r

/-- The canonical form: addresses strictly rising, no entry equal to what an unlisted address reads as. -/
def Memory.wf (m : List Host.Cell) : Bool := Memory.wfFrom 0 m

/-- Reads `n` bytes from `a` up. -/
def Memory.read (m : List Host.Cell) : Nat → Nat → List Byte
  | _, 0 => []
  | a, n + 1 => Memory.get m a :: Memory.read m (a + 1) n

/-- Writes bytes from `a` up. -/
def Memory.write (m : List Host.Cell) : Nat → List Byte → List Host.Cell
  | _, [] => m
  | a, b :: r => Memory.write (Memory.put m a b) (a + 1) r

/-- The little-endian number of bytes (R4). -/
def leNat : List Byte → Nat
  | [] => 0
  | b :: r => b.toNat + 256 * leNat r

/-- The `n` low bytes of a number, little-endian (R4). -/
def leBytes : Nat → Nat → List Byte
  | 0, _ => []
  | n + 1, x => BitVec.ofNat 8 x :: leBytes n (x / 256)

/-- Byte `i` of a wide value. -/
def byteOf {w : Nat} (x : BitVec w) (i : Nat) : Byte := x.extractLsb' (8 * i) 8

/-- The wide value with byte `i` replaced. -/
def setByteOf {w : Nat} (x : BitVec w) (i : Nat) (b : Byte) : BitVec w :=
  (x &&& ~~~(BitVec.ofNat w 255 <<< (8 * i))) ||| (b.setWidth w <<< (8 * i))

/-! ## The physical map -/

/-- The targets of the physical map (R21). -/
inductive Target where
  | package | tier2
  /-- A CXL port, 0 or 1. -/
  | cxl (port : BitVec 1)
  | host | device | unmapped
  deriving DecidableEq, Repr

/-- The target of a physical address (R21). -/
def targetOf (pa : Nat) : Target :=
  if pa ≤ 0x7FFFFFFFFF then .package
  else if 0x10000000000 ≤ pa ∧ pa ≤ 0x27FFFFFFFFF then .tier2
  else if 0x100000000000 ≤ pa ∧ pa ≤ 0x1FFFFFFFFFFF then .cxl (if pa < 0x180000000000 then 0 else 1)
  else if 0x8000000000000 ≤ pa ∧ pa ≤ 0xBFFFFFFFFFFFF then .host
  else if 0xF000000000000 ≤ pa ∧ pa ≤ 0xFFFFFFFFFFFFF then .device
  else .unmapped

/-- The pile of a package address (R22). -/
def pileOf (pa : Nat) : BitVec 3 := BitVec.ofNat 3 (pa / 4096)

/-- The offset of a package address within its pile (R22). -/
def pileOffset (pa : Nat) : Nat := pa / 32768 * 4096 + pa % 4096

/-- The package address of an offset within a pile (R22). -/
def pileAddr (p : BitVec 3) (off : Nat) : Nat := off / 4096 * 32768 + p.toNat * 4096 + off % 4096

/-- The compute die of a core (R13). -/
def dieOf (n : CoreNo) : BitVec 3 := BitVec.ofNat 3 (n.toNat / 224)

/-- The cluster index `28 * die + cluster` of a core (R13, R27). -/
def clusterOf (n : CoreNo) : Nat := n.toNat / 8

/-! ## Cores and registers of the state -/

/-- The state of core `n`. -/
def State.coreAt (s : State) (n : CoreNo) : Core := Tbl.get {} s.cores n.toNat

/-- The state with core `n` changed. -/
def State.setCoreAt (s : State) (n : CoreNo) (c : Core) : State := { s with cores := Tbl.put n.toNat c s.cores }

/-- The current core. -/
def State.core (s : State) : Core := s.coreAt s.cur

/-- The state with the current core changed. -/
def State.setCore (s : State) (c : Core) : State := s.setCoreAt s.cur c

/-- Whether nothing that comes after a place in the order of the cycle has been done at a meeting in it: an access that comes too late
waits for the next cycle (R203, R248, R276, R284, R298). Nothing meets a core whose number moves to the spare (R414). -/
def State.mayMeet (s : State) (m : Meeting) (key : Nat) : Bool :=
  (s.plat.met.all fun x => x.1 != m || decide (x.2 ≤ key)) && !(match m with
    | .counter n _ | .scratch n => (s.coreAt n).moving && (s.coreAt n).running.isNone
    | _ => false)

/-- The state in which an access with a place in the order of the cycle has been done at a meeting. -/
def State.meetAt (s : State) (m : Meeting) (key : Nat) : State :=
  if key = 0 then s else { s with plat := { s.plat with met := (m, key) :: s.plat.met } }

/-- The place of an access at a scratchpad's port (R248): its own core's, a remote core's by lane; a copy or a packet lands last. -/
def portKey (n owner : CoreNo) : Nat := if n = owner then 0 else 1 + n.toNat % 8
def portLast : Nat := 9

/-- The place of a write at a slice of staging (R298): a core's of the cluster by lane, and the router's port last; reads come first. -/
def stageKey (n : CoreNo) (a : Nat) : Nat := if a / 2 ^ 24 = n.toNat / 8 then 1 + n.toNat % 8 else portLast

/-- The meetings of a staging range. -/
def stageMeets (a n : Nat) : List Meeting := ((List.range ((a + n - 1) / 16 - a / 16 + 1)).map (· + a / 16)).map Meeting.staging

/-- Whether a staging range may be accessed at a place in the order of the cycle, and the state in which it has been. -/
def State.mayStage (s : State) (a n key : Nat) : Bool := (stageMeets a n).all fun m => s.mayMeet m key
def State.staged (s : State) (a n key : Nat) : State := (stageMeets a n).foldl (fun s m => s.meetAt m key) s

/-- The reset values of the device registers that do not reset to 0 (R346, R360, R398, R403). The spec gives POS none before board
management writes it (R19); 0 is the model's choice (DESIGN CHOICE, log entry 6). -/
def devReset (off : Nat) : Word :=
  if off = 0x000 then 16000
  else if off = 0x008 then 0xFFFFFFFF
  else if off = 0x130 then 24
  else if 0x01000000 ≤ off ∧ off < 0x01200000 ∧ off % 0x10000 = 0 then 0x1000
  else 0

/-- The value a device register holds, by offset (R359). -/
def State.reg (s : State) (off : Nat) : Word := Tbl.get (devReset off) s.plat.regs off

/-- The state with a device register holding another value. -/
def State.setReg (s : State) (off : Nat) (v : Word) : State :=
  { s with plat := { s.plat with regs := Tbl.put off v s.plat.regs } }

/-- The offset of tenant `t`'s block (R359). -/
def tenantBlock (t : BitVec 5) : Nat := 0x01000000 + 0x10000 * t.toNat

/-- A register of tenant `t`'s block (R360). -/
def State.treg (s : State) (t : BitVec 5) (off : Nat) : Word := s.reg (tenantBlock t + off)

/-! ## Clocks -/

/-- Serial-number comparison of clock entries (R319). -/
def clockGe (x y : BitVec 32) : Bool := (x - y).toNat < 2 ^ 31

/-- Whether every one of the nine entries of `a` is at or above that of `b` (R318). -/
def clockReached (a b : Clock) : Bool :=
  (List.range 9).all fun i => clockGe (a.get (BitVec.ofNat 4 i)) (b.get (BitVec.ofNat 4 i))

/-! ## Lines -/

/-- The line of a list that holds a line number. -/
def findLine (n : Nat) (ls : List Line) : Option Line := ls.find? (·.line == n)

/-- The list without a line. -/
def dropLine (n : Nat) (ls : List Line) : List Line := ls.filter (·.line != n)

/-- The list with a line put in, in rising order of line number. -/
def putLine (l : Line) : List Line → List Line
  | [] => [l]
  | x :: r => if l.line = x.line then l :: r else if l.line < x.line then l :: x :: r else x :: putLine l r

/-- The line with bytes written at its offset `off`, and marked dirty where `d`. -/
def Line.putBytes (l : Line) (off : Nat) (d : Bool) : List Byte → Line
  | [] => l
  | b :: r =>
    Line.putBytes { l with data := setByteOf l.data off b, valid := l.valid ||| ((1 : BitVec 128) <<< off),
                           dirty := if d then l.dirty ||| ((1 : BitVec 128) <<< off) else l.dirty } (off + 1) d r

/-- The bytes of 8-byte word `w` of a line. -/
def wordMask (w : Nat) : BitVec 128 := (0xFF : BitVec 128) <<< (8 * w)

/-- The uncorrectable bytes of a line once the bytes of a mask are written, those of `now` as a raw codeword: a word that is
covered whole is as written, and one that is covered in part stays uncorrectable, the bytes written included (R395). -/
def badAfter (old written now : BitVec 128) : BitVec 128 :=
  (List.range 16).foldl (fun acc w =>
    let m := wordMask w
    let x := if written &&& m = m then now &&& m
      else if written &&& m ≠ 0 ∧ (old ||| (now &&& written)) &&& m ≠ 0 then m
      else old &&& m
    acc ||| x) 0

/-- The bytes of the words that hold a byte of a mask: a fill keeps raw codewords whole (R395, R462). -/
def wholeWords (x : BitVec 128) : BitVec 128 :=
  (List.range 16).foldl (fun acc w => if x &&& wordMask w ≠ 0 then acc ||| wordMask w else acc) 0

/-- The mask of `n` bytes from an offset. -/
def byteMask (off n : Nat) : BitVec 128 := BitVec.ofNat 128 (2 ^ (off + n) - 2 ^ off)

/-- The line with the bytes of a store written at its offset `off`, and marked dirty where `d`. -/
def Line.store (l : Line) (off : Nat) (d : Bool) (bs : List Byte) : Line :=
  { l.putBytes off d bs with bad := badAfter l.bad (byteMask off bs.length) 0 }

/-- The runs of dirty bytes of a line, as offset, whether they are uncorrectable, and the bytes (R294, R395). -/
def Line.dirtyRuns (l : Line) : List (Nat × Bool × List Byte) :=
  (List.range 128).foldr (fun i acc =>
    if l.dirty.getLsbD i then
      match acc with
      | (o, bad, bs) :: r =>
        if o = i + 1 ∧ bad = l.bad.getLsbD i then (i, bad, byteOf l.data i :: bs) :: r
        else (i, l.bad.getLsbD i, [byteOf l.data i]) :: acc
      | [] => [(i, l.bad.getLsbD i, [byteOf l.data i])]
    else acc) []

/-! ## Channels, piles and targets -/

/-- The state with the memory system changed. -/
def State.withMem (s : State) (f : MemSys → MemSys) : State := { s with mem := f s.mem }

/-- The uncorrectable granules that stay so after a write of `n` bytes at `pa`: those of the 64-byte blocks it does not
cover whole (R395). -/
def repairGran (bad : List Nat) (pa n : Nat) : List Nat :=
  bad.filter fun g => !(decide (pa ≤ g / 4 * 64) && decide (g / 4 * 64 + 64 ≤ pa + n))

/-- The uncorrectable granules once `n` bytes at `pa` are stored as a raw codeword (R395): whole 64-byte blocks, which are the unit of
the check (R393). -/
def spoilGran (bad : List Nat) (pa n : Nat) : List Nat :=
  ((List.range (4 * ((pa + n - 1) / 64 - pa / 64 + 1))).map (· + pa / 64 * 4)).foldl
    (fun acc g => if acc.contains g then acc else g :: acc) bad

/-- The entrywise maximum of two clocks, by serial comparison (R317, R319). -/
def clockMax (a b : Clock) : Clock := Vector.zipWith (fun x y => if clockGe x y then x else y) a b

/-- The maximum of two clocks of which either may be missing. -/
def clockJoin : Option Clock → Option Clock → Option Clock
  | none, k => k
  | some a, none => some a
  | some a, some b => some (clockMax a b)

/-- A clock with another one merged, where there is one. -/
def clockWith (a : Clock) : Option Clock → Clock
  | none => a
  | some b => clockMax a b

/-- A pile applies a message from die `d` (R317): a stamped write, or a marker. A lost pile drops it (R464). -/
def MemSys.applyMsg (m : MemSys) (d : BitVec 4) (p : BitVec 3) (msg : ChanMsg) : MemSys :=
  let pl := m.piles.get p
  if pl.lost then m else
  match msg with
  | .write pa bs bad stamp _ =>
    { m with mem := Memory.write m.mem pa bs, piles := m.piles.put p { pl with oc := clockMax pl.oc stamp },
             badGran := if bad then spoilGran m.badGran pa bs.length else repairGran m.badGran pa bs.length }
  | .marker v => { m with piles := m.piles.put p { pl with ac := pl.ac.put d v } }

/-- Whether a line of a range is locked at its home (R42, R338). -/
def MemSys.lockedRange (m : MemSys) (pa n : Nat) : Bool :=
  m.locks.any fun l => decide (pa / 128 ≤ l.line) && decide (l.line ≤ (pa + n - 1) / 128)

/-- Sends a message on the channel from die `d` to pile `p` (R315, R316). A lost pile takes nothing (R464). The base
die's own messages are applied as they are sent (log entry 4). -/
def MemSys.send (m : MemSys) (d : BitVec 4) (p : BitVec 3) (msg : ChanMsg) : MemSys :=
  if (m.piles.get p).lost then m
  else if d = 8 then m.applyMsg d p msg
  else
    let row := m.chan.get d
    { m with chan := m.chan.put d (row.put p (row.get p ++ [msg])) }

/-- Writes bytes at a target that is no package memory: it is performed when its ordering point acknowledges it (R310,
R321); a device or unmapped address takes nothing here. -/
def MemSys.writeTarget (m : MemSys) (pa : Nat) (bs : List Byte) (bad : Bool := false) : MemSys :=
  match targetOf pa with
  | .tier2 | .cxl _ | .host =>
    { m with mem := Memory.write m.mem pa bs,
             badGran := if bad then spoilGran m.badGran pa bs.length else repairGran m.badGran pa bs.length }
  | _ => m

/-- The core number that stands for no core. -/
def noCore : CoreNo := 2047

/-- Whether a channel message touches a line. -/
def ChanMsg.touches (line : Nat) : ChanMsg → Bool
  | .write pa bs _ _ _ => pa / 128 ≤ line && line ≤ (pa + bs.length - 1) / 128
  | .marker _ => false

/-- Whether a write is a core's, alone or with others'. -/
def ChanMsg.ofCore (n : CoreNo) : ChanMsg → Bool
  | .write _ _ _ _ who => who.contains n
  | .marker _ => false

/-- Whether a lock keeps a message out of its line (R42, R338): of another agent than the core that holds it, and, where a SUSP holds it,
of that core too, whose record body enters as the line is unlocked. -/
def MemSys.keepsOut (m : MemSys) (x : ChanMsg) : Bool := m.locks.any fun l => x.touches l.line && (l.susp || !x.ofCore l.core)

/-- A write reaches its home: a pile, or another target. -/
def MemSys.land (m : MemSys) (d : BitVec 4) (x : ChanMsg) : MemSys :=
  match x with
  | .write pa bs bad _ _ => if targetOf pa = .package then m.applyMsg d (pileOf pa) x else m.writeTarget pa bs bad
  | .marker _ => m

/-- The writes that have waited for locks land, as far as no lock keeps them out any more, in their order (R42, R338). -/
def MemSys.letIn (m : MemSys) : MemSys :=
  (m.lockQ.filter fun x => !m.keepsOut x.2).foldl (fun m x => m.land x.1 x.2) { m with lockQ := m.lockQ.filter fun x => m.keepsOut x.2 }

/-- Whether a core's write to a target other than package memory, which a release waits for (R310, R321), waits for a lock. -/
def MemSys.ackOpen (m : MemSys) (n : CoreNo) : Bool := m.lockQ.any fun x => match x.2 with
  | .write pa _ _ _ who => who.contains n && targetOf pa ≠ .package
  | .marker _ => false

/-- A write of the cores `who` that leaves a compute die for its target: package memory through the channel with the die's stamp (R316);
at another target it waits while the line is locked against them (R42, R338). -/
def MemSys.depart (m : MemSys) (d : BitVec 4) (who : List CoreNo) (pa : Nat) (bs : List Byte) (bad : Bool) : MemSys :=
  let x : ChanMsg := .write pa bs bad (m.vc.get d) who
  match targetOf pa with
  | .package => m.send d (pileOf pa) x
  | _ => if m.keepsOut x then { m with lockQ := m.lockQ ++ [(d, x)] } else m.writeTarget pa bs bad

/-- Whether die `d` may raise its own clock entry (R319). -/
def MemSys.mayRelease (m : MemSys) (d : BitVec 4) : Bool :=
  (List.range 8).all fun p => (m.piles.get (BitVec.ofNat 3 p)).lost ||
    ((m.vc.get d).get d + 1 - ((m.piles.get (BitVec.ofNat 3 p)).ac).get d).toNat < 2 ^ 30

/-- The second step of a release of package or system scope: the die's clock rises and a marker goes to each pile (R311,
R316). -/
def MemSys.marked (m : MemSys) (d : BitVec 4) : MemSys :=
  let v := (m.vc.get d).get d + 1
  let m := { m with vc := m.vc.put d ((m.vc.get d).put d v) }
  (List.range 8).foldl (fun m p => m.send d (BitVec.ofNat 3 p) (.marker v)) m

/-- What the base die has to do at memory is done in order, as far as locks (R42, R338) and R319 allow. -/
def MemSys.runBase (m : MemSys) : List BaseMsg → MemSys
  | [] => { m with baseQ := [] }
  | .write pa bs bad :: r =>
    if m.lockedRange pa bs.length then { m with baseQ := .write pa bs bad :: r }
    else MemSys.runBase (m.depart 8 [] pa bs bad) r
  | .release :: r =>
    if m.mayRelease 8 then MemSys.runBase (m.marked 8) r else { m with baseQ := .release :: r }

/-- A write that leaves a die, the base die among them (8), for its target, by the cores `who`. -/
def MemSys.leave (m : MemSys) (d : BitVec 4) (pa : Nat) (bs : List Byte) (bad : Bool := false) (who : List CoreNo := []) : MemSys :=
  if d = 8 then m.runBase (m.baseQ ++ [.write pa bs bad]) else m.depart d who pa bs bad

/-- A release by a die (R311, R316). -/
def MemSys.release (m : MemSys) (d : BitVec 4) : MemSys :=
  if d = 8 then m.runBase (m.baseQ ++ [.release]) else m.marked d

/-- What waits for locks goes on (R42, R338). -/
def MemSys.afterLocks (m : MemSys) : MemSys :=
  let m := m.letIn
  m.runBase m.baseQ

/-- Whether a read of a package line by die `d` that carries a clock may be performed at its pile: the pile's applied clock has
reached it (R318), and the die's own earlier writes to the line have been applied (R309, R315). -/
def MemSys.readableAt (m : MemSys) (d : BitVec 4) (k : Clock) (line : Nat) : Bool :=
  let p := pileOf (line * 128)
  (m.piles.get p).lost ||
  (clockReached ((m.piles.get p).ac) k && !((m.chan.get d).get p).any (ChanMsg.touches line))

/-- Whether a read of a package line by die `d` under its own clock may be performed at its pile (R318). -/
def MemSys.readable (m : MemSys) (d : BitVec 4) (line : Nat) : Bool := m.readableAt d (m.vc.get d) line

/-- Whether a pile still holds a read of a line under a clock (R318). -/
def MemSys.stuck (m : MemSys) (k : Clock) (line : Nat) : Bool :=
  let p := m.piles.get (pileOf (line * 128))
  targetOf (line * 128) = .package && !p.lost && !clockReached p.ac k

/-- Whether a pile has given up a core's access to a line, which it answers as uncorrectable (R463). -/
def MemSys.gaveUp (m : MemSys) (core : CoreNo) (line : Nat) : Bool := m.holds.any fun h => h.expired && h.core == core && h.pa / 128 == line

/-- The accesses of a core to some lines have been answered. -/
def MemSys.answered (m : MemSys) (core : CoreNo) (ls : List Nat) : MemSys :=
  if m.holds.isEmpty then m else { m with holds := m.holds.filter fun h => !(h.core == core && ls.contains (h.pa / 128)) }

/-- Whether a granule reads as uncorrectable: its storage does (R392), its row is fenced (R413), or its pile is lost (R464). -/
def MemSys.isBad (m : MemSys) (g : Nat) : Bool :=
  m.badGran.contains g || m.fenced.contains g || (targetOf (g * 16) = .package && (m.piles.get (pileOf (g * 16))).lost)

/-- The mask of the bytes of a line that hold uncorrectable data (R392). -/
def MemSys.badMask (m : MemSys) (line : Nat) : BitVec 128 :=
  (List.range 8).foldl (fun acc g =>
    if m.isBad (line * 8 + g) then acc ||| (BitVec.ofNat 128 0xFFFF <<< (16 * g)) else acc) 0

/-- The 128 bytes of a line at its target. -/
def MemSys.lineData (m : MemSys) (line : Nat) : BitVec 1024 :=
  BitVec.ofNat 1024 (leNat (Memory.read m.mem (line * 128) 128))

/-- The bytes of `b` where the mask is set, and those of `a` elsewhere. -/
def mergeBytes (mask : BitVec 128) (a b : BitVec 1024) : BitVec 1024 :=
  (List.range 128).foldl (fun acc i => if mask.getLsbD i then setByteOf acc i (byteOf b i) else acc) a

/-- Whether another core holds a line at its home (R42, R338). -/
def MemSys.lockedFor (m : MemSys) (core : CoreNo) (line : Nat) : Bool :=
  m.locks.any fun l => l.line == line && l.core != core

/-- The core other than a core that holds a line at its home. -/
def MemSys.lineHolder (m : MemSys) (core : CoreNo) (line : Nat) : Option CoreNo :=
  (m.locks.find? fun l => l.line == line && l.core != core && l.core != noCore).map fun l => l.core

/-- Whether a line lies in a row that moves to a spare (R410): accesses to it wait, as at a refresh. -/
def MemSys.rowMoves (m : MemSys) (line : Nat) : Bool := m.locks.any fun l => l.core == noCore && l.line == line

/-! ## Capacities (R25, R292) -/

/-- The sets of an L1 (2 MiB) and of a die cache (128 MiB), of sixteen 128-byte lines each (R25, R292). Which set a line falls into
is the model's choice: its number modulo the sets (log entry 33). -/
def l1Sets : Nat := 2 ^ 21 / 128 / 16
def dieSets : Nat := 2 ^ 27 / 128 / 16

/-- How many ways of a set are disabled (R410, R413). -/
def MemSys.off (m : MemSys) (lv : CacheLevel) (set : Nat) : Nat := (m.waysOff.filter fun x => x == (lv, set)).length

/-- The line that must go before line `n` comes into a cache of so many sets, `off` ways of its set being disabled: none while the set
has room or holds the line. Which of its lines goes is free (R292). -/
def victim (sets n pick off : Nat) (ls : List Line) : Option Line :=
  let set := ls.filter fun l => l.line % sets == n % sets
  if set.length < 16 - off ∨ set.any (fun l => l.line == n) then none else set[pick % set.length]?

/-! ## Write-backs (R294) -/

/-- A write-back that moves a raw codeword is noted (R395, R462). -/
def MemSys.noteRaw (m : MemSys) (lv : CacheLevel) (l : Line) : MemSys :=
  if l.bad &&& l.dirty = 0 then m else { m with rawMoved := m.rawMoved ++ [(lv, l.line)] }

/-- Writes a die-cache line's dirty bytes to package memory over the die's channel (R294, R295). -/
def writeBackDie (m : MemSys) (d : BitVec 3) (l : Line) : MemSys :=
  l.dirtyRuns.foldl (fun m (i, bad, bs) => m.leave (d.setWidth 4) (l.line * 128 + i) bs bad l.by_) (m.noteRaw (.die d) l)

/-- Makes room in a die cache for a line. -/
def MemSys.roomDie (m : MemSys) (d : BitVec 3) (line : Nat) : MemSys :=
  match victim dieSets line (Config.freeVictim m.replaced) (m.off (.die d) (line % dieSets)) (m.dieCache.get d) with
  | none => m
  | some l =>
    let m := writeBackDie { m with replaced := m.replaced + 1 } d l
    { m with dieCache := m.dieCache.put d (dropLine l.line (m.dieCache.get d)) }

/-- Puts a line into a die cache, where another may have to go (R292, R294). -/
def MemSys.putDie (m : MemSys) (d : BitVec 3) (l : Line) : MemSys :=
  let m := m.roomDie d l.line
  { m with dieCache := m.dieCache.put d (putLine l (m.dieCache.get d)) }

/-- Writes an L1 line's dirty bytes to the next level: the die cache for package memory, the base die's controller for
the second tier (R294, R260). -/
def writeBackL1 (m : MemSys) (core : CoreNo) (l : Line) : MemSys :=
  if l.dirty = 0 then m
  else if targetOf (l.line * 128) = .package then
    let d := dieOf core
    let m := m.noteRaw (.l1 core) l
    let base : Line := (findLine l.line (m.dieCache.get d)).getD { line := l.line, data := 0, valid := 0 }
    m.putDie d { base with data := mergeBytes l.dirty base.data l.data, valid := base.valid ||| l.dirty,
                           dirty := base.dirty ||| l.dirty, bad := badAfter base.bad l.dirty l.bad
                           by_ := if base.by_.contains core then base.by_ else core :: base.by_ }
  else l.dirtyRuns.foldl (fun m (i, bad, bs) => m.leave ((dieOf core).setWidth 4) (l.line * 128 + i) bs bad [core]) (m.noteRaw (.l1 core) l)

/-- Drops a line of a core's L1 unwritten. -/
def dropL1 (s : State) (core : CoreNo) (line : Nat) : State :=
  let c := s.coreAt core
  s.setCoreAt core { c with l1 := dropLine line c.l1 }

/-- Puts a line into a core's L1, where another may have to go (R292, R294). -/
def State.putL1 (s : State) (core : CoreNo) (l : Line) : State :=
  let s := match victim l1Sets l.line (Config.freeVictim s.mem.replaced) (s.mem.off (.l1 core) (l.line % l1Sets)) (s.coreAt core).l1 with
    | none => s
    | some v => dropL1 { s with mem := writeBackL1 { s.mem with replaced := s.mem.replaced + 1 } core v } core v.line
  let c := s.coreAt core
  s.setCoreAt core { c with l1 := putLine l c.l1 }

/-! ## Fills (R293, R317, R318) -/

/-- A read of a line at its target corrects and rewrites what can be corrected there (R393, R394). -/
def MemSys.touch (m : MemSys) (line : Nat) : MemSys :=
  let hit := m.soft.filter fun b => b / 2 == line
  if hit.isEmpty then m else { m with soft := m.soft.filter (fun b => b / 2 != line), softRead := m.softRead ++ hit }

/-- Fetches a package line into the cache of a core's die under a clock, keeping the bytes the line already holds; none while the read is
held. The second component is the clock that the load hears (R317): that of the response, or of those that filled the line before. -/
def MemSys.fillDie (m : MemSys) (core : CoreNo) (k : Option Clock) (line : Nat) : Option (MemSys × Option Clock) :=
  let d := dieOf core
  let oc := (m.piles.get (pileOf (line * 128))).oc
  let free := m.readableAt (d.setWidth 4) (k.getD (m.vc.get (d.setWidth 4))) line && !m.lockedFor core line
  match findLine line (m.dieCache.get d) with
  | some l =>
    if l.valid = BitVec.allOnes 128 then some (m, l.clk)
    else if !free then none
    else
      let m := m.touch line
      let clk := some (clockWith oc l.clk)
      some (m.putDie d { l with data := mergeBytes l.valid (m.lineData line) l.data, valid := BitVec.allOnes 128, clk := clk,
                                bad := wholeWords (l.bad ||| (m.badMask line &&& ~~~l.valid)) }, clk)
  | none =>
    if !free then none
    else
      let m := m.touch line
      some (m.putDie d { line := line, data := m.lineData line, bad := m.badMask line, clk := some oc }, some oc)

/-- Whether the L1 may hold a physical address (R293). -/
def l1Holds (pa : Nat) (nc : Bool) : Bool := !nc && (targetOf pa = .package || targetOf pa = .tier2)

/-- Adopts the clock of a response into a core's pending clocks, which its next acquire merges (R318). -/
def Core.hear (c : Core) (k : Option Clock) : Core := { c with clock := clockJoin c.clock k }

/-- Brings a line into a core's L1 (R294) under a clock, through the die cache for package memory (R293); none while held. -/
def fillL1 (s : State) (core : CoreNo) (k : Option Clock) (line : Nat) : Option State :=
  let c := s.coreAt core
  match findLine line c.l1 with
  | some _ => some s
  | none =>
    if targetOf (line * 128) = .package then
      match s.mem.fillDie core k line with
      | none => none
      | some (m, clk) =>
        match findLine line (m.dieCache.get (dieOf core)) with
        | none => none
        | some l => some (({ s with mem := m }.setCoreAt core (c.hear clk)).putL1 core { line := line, data := l.data, bad := l.bad })
    else if s.mem.lockedFor core line then none
    else
      let s := s.withMem fun m => m.touch line
      some (s.putL1 core { line := line, data := s.mem.lineData line, bad := s.mem.badMask line })

/-! ## Cache maintenance -/

/-- Cleans a line of a core's L1 (R260). -/
def cleanL1 (s : State) (core : CoreNo) (line : Nat) : State :=
  let c := s.coreAt core
  match findLine line c.l1 with
  | none => s
  | some l => { s with mem := writeBackL1 s.mem core l }.setCoreAt core { c with l1 := putLine { l with dirty := 0 } c.l1 }

/-- Cleans a line of a die cache to package memory. -/
def cleanDie (s : State) (d : BitVec 3) (line : Nat) : State :=
  match findLine line (s.mem.dieCache.get d) with
  | none => s
  | some l =>
    let m := writeBackDie s.mem d l
    { s with mem := { m with dieCache := m.dieCache.put d (putLine { l with dirty := 0, by_ := [] } (m.dieCache.get d)) } }

/-- Drops a line of a die cache after writing its dirty bytes (R295). -/
def dropDie (s : State) (d : BitVec 3) (line : Nat) : State :=
  let s := cleanDie s d line
  s.withMem fun m => { m with dieCache := m.dieCache.put d (dropLine line (m.dieCache.get d)) }

/-- One line of a cmnt: K 0 clean, 1 invalidate, 2 both; L 0 L1, 1 DIE, 2 PKG (R260, R295). -/
def cmntLine (s : State) (core : CoreNo) (k l : BitVec 2) (line : Nat) : State :=
  let s := if k = 1 then s else
    let s := cleanL1 s core line
    if l = 2 then cleanDie s (dieOf core) line else s
  if k = 0 then s else
    let s := dropL1 s core line
    if l = 0 then s else dropDie s (dieOf core) line

/-- Cleans and invalidates the whole L1 of a core to PKG (R42, R47, R62), with the bytes that evictions have already put into the die
cache: an eviction makes nothing visible later than the clean does (R294). -/
def flushL1 (s : State) (core : CoreNo) : State :=
  let d := dieOf core
  let s := (s.coreAt core).l1.foldl (fun s l => dropL1 (cleanDie (cleanL1 s core l.line) d l.line) core l.line) s
  ((s.mem.dieCache.get d).filter fun l => l.by_.contains core).foldl (fun s l => cleanDie s d l.line) s

/-! ## Reads and stores of a core -/

/-- The byte of an element over its physical runs at an address. -/
def runByte (pa : Nat) : List (Nat × Nat × Bool) → List Byte → Option Byte
  | [], _ => none
  | (a, n, _) :: r, bs => if a ≤ pa ∧ pa < a + n then bs[pa - a]? else runByte pa r (bs.drop n)

/-- The byte that a stream element on its way to memory stores at a physical address. -/
def StreamWrite.byteAt (w : StreamWrite) (pa : Nat) : Option Byte := if w.space = 0 ∧ !w.written then runByte pa w.runs w.bytes else none

/-- Whether an element on its way to memory stores to bytes of a range. -/
def StreamWrite.meets (w : StreamWrite) (pa n : Nat) : Bool :=
  w.space == 0 && !w.written && w.runs.any fun r => decide (r.1 < pa + n) && decide (pa < r.1 + r.2.1)

/-- What a core's own gated entries, oldest first, make of a byte as it stands below them (R244, R267, R337): the newest
store, the value of a reservation, or a non-returning atomic applied to the bytes under it. -/
def gatedView : List Gated → (Nat → Byte × Bool) → Nat → Byte × Bool
  | [], v => v
  | .store a _ bs :: r, v => gatedView r fun pa => if a ≤ pa ∧ pa < a + bs.length then (bs.getD (pa - a) 0, false) else v pa
  | .resv a bs :: r, v => gatedView r fun pa => if a ≤ pa ∧ pa < a + bs.length then (bs.getD (pa - a) 0, false) else v pa
  | .push w :: r, v => gatedView r fun pa => match w.byteAt pa with | some b => (b, false) | none => v pa
  | .atomic a op z b c _ false _ :: r, v =>
    gatedView r fun pa =>
      if a ≤ pa ∧ pa < a + atomicBytes op z then
        let old := leNat ((List.range (atomicBytes op z)).map fun i => (v (a + i)).1)
        (BitVec.ofNat 8 (atomicNew op z old b.toNat c.toNat / 256 ^ (pa - a)), (v pa).2)
      else v pa
  | _ :: r, v => gatedView r v

/-- The newest of a core's own gated entries that touches a byte: a stored byte, or an atomic, which gives none. -/
def gatedByte (pa : Nat) : List Gated → Option (Option Byte)
  | [] => none
  | g :: r =>
    match gatedByte pa r with
    | some b => some b
    | none => match g with
      | .store a _ bs => if a ≤ pa ∧ pa < a + bs.length then some bs[pa - a]? else none
      | .resv a bs => if a ≤ pa ∧ pa < a + bs.length then some bs[pa - a]? else none
      | .push w => (w.byteAt pa).map some
      | .atomic a op z _ _ _ _ _ => if a ≤ pa ∧ pa < a + atomicBytes op z then some none else none
      | _ => none

/-- The gated entries of a core that its own accesses see (R337, R339), behind the elements of its write streams that have still to be
written, which are stores of its task (R309, R322). -/
def Core.gatedAll (c : Core) : List Gated :=
  (c.wbuf.filter fun w => !w.written).map Gated.push ++ [0, 1, 2].flatMap fun d : BitVec 2 =>
    (c.committed.filter (fun e => e.1 == d)).map Prod.snd ++ (match c.sheets.get d with | some sh => sh.gated | none => [])

/-- Whether a request carries an atomic of a core, its own or a merged one, that meets a test of its number. -/
def AtomicReq.ofCore (a : AtomicReq) (core : CoreNo) (p : Nat → Bool) : Bool :=
  (a.core == core && p a.no) || a.also.any fun o => o.1 == core && p o.2

/-- Whether atomics of a core are on their way to their homes. -/
def MemSys.hasAtomic (m : MemSys) (core : CoreNo) : Bool := m.atomics.any fun a => a.ofCore core fun _ => true

/-- Whether an atomic of the core to a line is on its way to its home, among those numbered below `no` (R267); a read
held over waits for gated ones too. -/
def State.atomicAhead (s : State) (core : CoreNo) (no : Nat) (late : Bool) (line : Nat) : Bool :=
  s.mem.atomics.any (fun a => decide (a.pa / 128 = line) && a.ofCore core fun k => decide (k < no)) ||
  (late && (s.coreAt core).gatedAll.any fun g => match g with
    | .atomic pa _ _ _ _ k _ _ => decide (pa / 128 = line) && decide (k < no)
    | _ => false)

/-- Evicts a line that a gated invalidation of the core's own covers (R260, R294; log entry 25): a read behind it is
performed below the levels it acts on. -/
def State.behindCmnt (s : State) (core : CoreNo) (line : Nat) : State :=
  (s.coreAt core).gatedAll.foldl (fun s g => match g with
    | .cmnt ls k l =>
      if k ≠ 0 ∧ ls.contains line then
        let s := dropL1 (cleanL1 s core line) core line
        if l = 0 then s else dropDie s (dieOf core) line
      else s
    | _ => s) s

/-- Prepares a read of `n` bytes at `pa`: brings in the lines an L1 may hold, or tests that an uncached read may be
performed at its pile; none while the read is held. -/
def prepareLines (s : State) (core : CoreNo) (k : Option Clock) (nc : Bool) (no : Nat) (late : Bool) : List Nat → Option State
  | [] => some s
  | line :: r =>
    if s.atomicAhead core no late line then none
    else
      let s := s.behindCmnt core line
      if l1Holds (line * 128) nc then
        match fillL1 s core k line with
        | none => none
        | some s' => prepareLines s' core k nc no late r
      else if targetOf (line * 128) = .package then
        let d : BitVec 4 := (dieOf core).setWidth 4
        if s.mem.readableAt d (k.getD (s.mem.vc.get d)) line && !s.mem.lockedFor core line then
          prepareLines ((s.setCoreAt core ((s.coreAt core).hear (some (s.mem.piles.get (pileOf (line * 128))).oc))).withMem
            fun m => m.touch line) core k nc no late r
        else none
      else if s.mem.lockedFor core line then none
      else prepareLines (s.withMem fun m => m.touch line) core k nc no late r

/-- The lines that `n` bytes at `pa` touch. -/
def linesOf (pa n : Nat) : List Nat :=
  if n = 0 then [] else (List.range ((pa + n - 1) / 128 - pa / 128 + 1)).map (· + pa / 128)

/-- The byte a prepared read of a core finds below its gated entries, and whether it is uncorrectable. -/
def cachedByte (s : State) (core : CoreNo) (nc : Bool) (pa : Nat) : Byte × Bool :=
  match (if l1Holds pa nc then findLine (pa / 128) (s.coreAt core).l1 else none) with
  | some l => (byteOf l.data (pa % 128), l.bad.getLsbD (pa % 128))
  | none => (Memory.get s.mem.mem pa, s.mem.isBad (pa / 16))

/-- Reads `n` bytes through a view. -/
def readRun (view : Nat → Byte × Bool) : Nat → Nat → List Byte × Option Nat
  | _, 0 => ([], none)
  | pa, n + 1 =>
    let (b, bad) := view pa
    let (r, e) := readRun view (pa + 1) n
    (b :: r, if bad then some pa else e)

/-- Prepares every piece of a read. -/
def preparePieces (s : State) (core : CoreNo) (k : Option Clock) (no : Nat) (late : Bool) : List Piece → Option State
  | [] => some s
  | p :: r =>
    match prepareLines s core k p.nc no late (linesOf p.pa p.n) with
    | none => none
    | some s' => preparePieces s' core k no late r

/-- The address that a tag of a piece's failing byte carries (R396). -/
def Piece.tagAddr (p : Piece) (pa : Nat) : Word :=
  if p.lane then p.va else (p.va + BitVec.ofNat 64 (pa - p.pa)) &&& ~~~(15 : Word)

/-- Performs a prepared read, each piece by `rd`: the value, and the tag address of the first piece with uncorrectable data. -/
def gatherPieces (rd : Piece → List Byte × Option Nat) (base : Vec) : List Piece → Vec × Option Word
  | [] => (base, none)
  | p :: r =>
    let (bs, bad) := rd p
    let v := BitVec.ofNat 1024 (leNat bs)
    let mask : Vec := BitVec.ofNat 1024 (2 ^ (8 * p.n) - 1) <<< p.bit
    let (x, e) := gatherPieces rd ((base &&& ~~~mask) ||| (v <<< p.bit)) r
    (x, match bad with | some a => some (p.tagAddr a) | none => e)

/-- A 64-bit scalar sign-extended from its `n` low bits, as a wide value. -/
def sextTo64 (n : Nat) (x : Vec) : Vec := (((x.setWidth 64 <<< (64 - n)).sshiftRight (64 - n) : Word)).setWidth 1024

/-- The byte of the lowest cell of a list at an address. -/
def cellAt (pa : Nat) (cells : List Host.Cell) : Option Byte := (cells.find? fun c => c.1 == pa).map Prod.snd

/-- The bytes that a core's own gated stores give the pieces of a read (R337). -/
def ownCells (gs : List Gated) (ps : List Piece) : List Host.Cell :=
  ps.flatMap fun p => (List.range p.n).filterMap fun i => match gatedByte (p.pa + i) gs with
    | some (some b) => some (p.pa + i, b)
    | _ => none

/-- A read that is held over, as its core stands (R318, R337). -/
def LoadReq.hold (r : LoadReq) (c : Core) : LoadReq := { r with held := some (c.ops, ownCells c.gatedAll r.pieces) }

/-- Splits bytes at `pa` at line boundaries, into line, offset and bytes. -/
def splitLines : Nat → List Byte → Nat → List (Nat × List Byte)
  | _, [], _ => []
  | _, _, 0 => []
  | pa, bs, n + 1 =>
    let k := 128 - pa % 128
    (pa, bs.take k) :: splitLines (pa + k) (bs.drop k) n

/-- Stores bytes within one line, at its level (R293, R294); none while the line must be fetched and is held. -/
def storeLine (s : State) (core : CoreNo) (nc : Bool) (pa : Nat) (bs : List Byte) : Option State :=
  if s.mem.atomics.any (fun a => decide (a.pa / 128 = pa / 128) && a.ofCore core fun _ => true) || s.mem.lockedFor core (pa / 128) then none
  else if l1Holds pa nc then
    match fillL1 s core none (pa / 128) with
    | none => none
    | some s' =>
      let c := s'.coreAt core
      match findLine (pa / 128) c.l1 with
      | none => none
      | some l => some (s'.setCoreAt core { c with l1 := putLine (l.store (pa % 128) true bs) c.l1 })
  else some (s.withMem fun m => m.leave ((dieOf core).setWidth 4) pa bs false [core])

/-- Stores the pieces of an access. -/
def storePieces (s : State) (core : CoreNo) (nc : Bool) : List (Nat × List Byte) → Option State
  | [] => some s
  | (pa, bs) :: r =>
    match storeLine s core nc pa bs with
    | none => none
    | some s' => storePieces s' core nc r

/-- Stores bytes at a physical address for a core. -/
def storeBytes (s : State) (core : CoreNo) (nc : Bool) (pa : Nat) (bs : List Byte) : Option State :=
  storePieces s core nc (splitLines pa bs (bs.length / 128 + 2))

/-- Notes the accesses of a core to physical runs that piles hold under a clock, its die's own where none is given (R318, R463). -/
def State.noteHolds (s : State) (core : CoreNo) (k : Option Clock) (runs : List (Nat × Nat × Bool)) : State :=
  let clk := k.getD (s.mem.vc.get ((dieOf core).setWidth 4))
  let ls := (runs.flatMap fun r => (linesOf r.1 r.2.1).map fun l => (l, max r.1 (128 * l))).filter fun x =>
    s.mem.stuck clk x.1 && !s.mem.holds.any fun h => h.core == core && h.pa / 128 == x.1
  if ls.isEmpty then s
  else s.withMem fun m => { m with holds := m.holds ++ ls.map fun x => { core := core, pa := x.2, clock := clk, since := s.plat.cycle } }

/-! ## Releases and acquires -/

/-- A release at a scope by a core: 3 package and 4 system send markers (R311, R316). -/
def releaseAt (s : State) (core : CoreNo) (scope : BitVec 3) : State :=
  if scope.toNat < 3 then s else s.withMem fun m => m.release ((dieOf core).setWidth 4)

/-- An acquire at package or system scope merges the clocks the core has heard, and `extra`, into its die's (R318). -/
def acquireAt (s : State) (core : CoreNo) (extra : Option Clock) : State :=
  let d := (dieOf core).setWidth 4
  let k := clockJoin (s.coreAt core).clock extra
  s.withMem fun m => { m with vc := m.vc.put d (clockWith (m.vc.get d) k) }

/-! ## Translation -/

/-- The kinds of an access in a page fault's code (R444). -/
inductive AccKind where
  | read | write | fetch | rw
  deriving DecidableEq, Repr

/-- Whether an access writes. -/
def AccKind.writes : AccKind → Bool
  | .write | .rw => true
  | _ => false

/-- A failed translation: the level and the condition of R444. -/
structure TrErr where
  lvl : BitVec 3
  cond : BitVec 4
  deriving DecidableEq, Repr

/-- The levels of a walk: level number, lowest virtual bit, index width and the alignment of the next table (R301). -/
def walkLevels : List (Nat × Nat × Nat × Nat) :=
  [(0, 48, 9, 12), (1, 39, 9, 12), (2, 30, 9, 12), (3, 21, 9, 8), (4, 16, 5, 0)]

/-- Whether a page-table entry is malformed at a level (R302). -/
def pteMalformed (lvl shift nextAlign : Nat) (e : Word) : Bool :=
  let leaf := e.getLsbD 1
  (bits e 60 4 : BitVec 4) ≠ 0 || (bits e 52 6 : BitVec 6) ≠ 0 || (bits e 3 5 : BitVec 5) ≠ 0 ||
  (!leaf && (e.getLsbD 59 || e.getLsbD 58 || e.getLsbD 2)) ||
  (leaf && lvl < 2) || (!leaf && lvl = 4) ||
  (bits e 8 44 : BitVec 44).toNat * 256 % 2 ^ (if leaf then shift else nextAlign) ≠ 0

/-- Reads a page-table entry at its target (R304). -/
def pteAt (m : MemSys) (pa : Nat) : Word := BitVec.ofNat 64 (leNat (Memory.read m.mem pa 8))

/-- A walk from a table base down the levels (R301, R302, R304): the leaf as a translation. -/
def walk (m : MemSys) (va : Nat) : List (Nat × Nat × Nat × Nat) → Nat → Except TrErr TlbEntry
  | [], _ => .error ⟨4, 2⟩
  | (lvl, shift, w, nextAlign) :: r, base =>
    let a := base + 8 * (va / 2 ^ shift % 2 ^ w)
    if targetOf a ≠ .package ∧ targetOf a ≠ .tier2 then .error ⟨BitVec.ofNat 3 lvl, 7⟩
    else if m.isBad (a / 16) then .error ⟨BitVec.ofNat 3 lvl, 6⟩
    else
      let e := pteAt m a
      if ¬ e.getLsbD 0 then .error ⟨BitVec.ofNat 3 lvl, 1⟩
      else if pteMalformed lvl shift nextAlign e then .error ⟨BitVec.ofNat 3 lvl, 2⟩
      else
        let pa := (bits e 8 44 : BitVec 44).toNat * 256
        if e.getLsbD 1 then
          .ok { owner := 0, va := va / 2 ^ shift * 2 ^ shift, bits := shift, pa := pa, x := e.getLsbD 59,
                w := e.getLsbD 58, nc := e.getLsbD 2 }
        else walk m va r pa

/-- Whether a page lies wholly in one valid window of a tenant, with WR for a write, and in memory (R302, R360). -/
def windowOk (s : State) (t : BitVec 5) (pa size : Nat) (wr : Bool) : Bool :=
  ((List.range 16).any fun n =>
    let b := s.treg t (0x100 + 16 * n)
    let l := s.treg t (0x108 + 16 * n)
    l.getLsbD 63 && (!wr || l.getLsbD 62) &&
    decide ((bits b 16 36 : BitVec 36).toNat * 0x10000 ≤ pa) &&
    decide (pa + size ≤ (bits l 16 36 : BitVec 36).toNat * 0x10000 + 0x10000)) &&
  [targetOf pa, targetOf (pa + size - 1)].all fun t => t ≠ .device && t ≠ .unmapped

/-- The level of a leaf of a page size. -/
def leafLevel (bits : Nat) : BitVec 3 := if bits = 30 then 2 else if bits = 21 then 3 else 4

/-- Finds a translation of an owner for a page (R304). -/
def findTlb (owner : BitVec 6) (a : Nat) (l : List TlbEntry) : Option TlbEntry :=
  l.find? fun e => e.owner == owner && e.va == a / 2 ^ e.bits * 2 ^ e.bits

/-- The translation that a core's micro-TLB or its cluster's TLB holds (R304). -/
def State.heldTlb (s : State) (n : CoreNo) (owner : BitVec 6) (a : Nat) : Option TlbEntry :=
  match findTlb owner a (s.coreAt n).utlb with
  | some e => some e
  | none => findTlb owner a (Tbl.get [] s.mem.tlb (clusterOf n))

/-- Translates a virtual address of core `n` for a tenant at a privilege (R300-R304): a translation that the core or its cluster
holds serves, else a walk is made; an agent that is no core (`noCore`) holds none. A walk is one act, so that a die never has more
than one of its 64 under way. A leaf of the supervisor root in unmapped space fails as a page outside every window (log entry 23). -/
def translate (s : State) (n : CoreNo) (t : BitVec 5) (priv : Bool) (va : Word) (k : AccKind) : Except TrErr TlbEntry :=
  let sup := va.getLsbD 56
  if sup ∧ ¬ priv then .error ⟨7, 8⟩
  else
    let owner : BitVec 6 := if sup then 32 else t.setWidth 6
    let a := va.toNat % 2 ^ 57
    let root := if sup then (bits (s.reg 0x38) 12 40 : BitVec 40).toNat * 4096
      else (bits (s.treg t 0x18) 12 40 : BitVec 40).toNat * 4096
    let res : Except TrErr TlbEntry := match s.heldTlb n owner a with
      | some e => .ok e
      | none => (walk s.mem a walkLevels root).map fun e => { e with owner := owner }
    match res with
    | .error e => .error e
    | .ok (e : TlbEntry) =>
      if k.writes ∧ ¬ e.w then .error ⟨leafLevel e.bits, 3⟩
      else if k = .fetch ∧ ¬ e.x then .error ⟨leafLevel e.bits, 4⟩
      else if ¬ sup ∧ ¬ windowOk s t e.pa (2 ^ e.bits) k.writes then .error ⟨7, 5⟩
      else if sup ∧ targetOf (e.pa + a % 2 ^ e.bits) = .unmapped then .error ⟨7, 5⟩
      else .ok e

/-- The physical address a translation gives. -/
def TlbEntry.phys (e : TlbEntry) (va : Word) : Nat := e.pa + va.toNat % 2 ^ e.bits

/-- A TLB of so many entries with one used: the entry used last goes to the front, and the one used longest ago makes room (R304; log
entry 33). -/
def tlbUse (size : Nat) (l : List TlbEntry) (e : TlbEntry) : List TlbEntry := (e :: l.filter (· ≠ e)).take size

/-- The translations that a core has used are in its micro-TLB of 32 entries and its cluster's TLB of 2,048 (R304). -/
def State.keepTlb (s : State) (n : CoreNo) (es : List TlbEntry) : State :=
  if n = noCore ∨ es = [] then s
  else
    let c := s.coreAt n
    let k := clusterOf n
    (s.setCoreAt n { c with utlb := es.foldl (tlbUse 32) c.utlb
                            used := es.foldl (fun l e => if l.contains e then l else e :: l) c.used }).withMem fun m =>
      { m with tlb := Tbl.put k (es.foldl (tlbUse 2048) (Tbl.get [] m.tlb k)) m.tlb }

/-- A virtual range cut at page boundaries of 64 KiB, as start and length. -/
def splitPages : Nat → Nat → Nat → List (Nat × Nat)
  | _, 0, _ => []
  | _, _, 0 => []
  | va, n, fuel + 1 =>
    let k := min n (0x10000 - va % 0x10000)
    (va, k) :: splitPages (va + k) (n - k) fuel

/-- Translates every page of an access (R245): the physical runs and the translations used, or the lowest virtual address
at fault. -/
def translateRange (s : State) (n : CoreNo) (t : BitVec 5) (priv : Bool) (va : Word) (len : Nat) (k : AccKind) :
    Except (Word × TrErr) (List (Nat × Nat × Bool) × List TlbEntry) :=
  (splitPages va.toNat len (len / 0x10000 + 2)).foldr (fun (a, m) acc =>
    match translate s n t priv (BitVec.ofNat 64 a) k with
    | .error e => .error (BitVec.ofNat 64 a, e)
    | .ok e => match acc with
      | .error x => .error x
      | .ok (rs, es) => .ok ((e.phys (BitVec.ofNat 64 a), m, e.nc) :: rs, e :: es)) (.ok ([], []))

/-- The CODE of a page fault (R444). -/
def pageFaultCode (k : AccKind) (e : TrErr) : BitVec 16 :=
  let kind : BitVec 2 := match k with | .read => 0 | .write => 1 | .fetch => 2 | .rw => 3
  ((0 : BitVec 6) ++ kind ++ (0 : BitVec 1) ++ e.lvl ++ e.cond)

end Sys2Proof.Machine
end

