-- ==== Sys2Proof/Machine/Flags.lean ====
section
/-! DEFINITION. The flags and the control registers a core keeps them in (R69-R71, R103, R187, R233). -/

namespace Sys2Proof.Machine

/-- Indices of the per-context control registers (R69). -/
abbrev crTASK : BitVec 5 := 0
abbrev crTENANT : BitVec 5 := 1
abbrev crFMODE : BitVec 5 := 2
abbrev crFSTAT : BitVec 5 := 3
abbrev crQCFG : BitVec 5 := 4
abbrev crSFC : BitVec 5 := 5
abbrev crTFBASE : BitVec 5 := 6
abbrev crTCAUSE : BitVec 5 := 7
abbrev crTVPC : BitVec 5 := 8
abbrev crTSLOT : BitVec 5 := 9
abbrev crSAVEA : BitVec 5 := 10
abbrev crTINFO : BitVec 5 := 11
abbrev crTMOVE : BitVec 5 := 12
abbrev crSEED : BitVec 5 := 13
abbrev crTVEC : BitVec 5 := 14
abbrev crSVEC : BitVec 5 := 15
abbrev crBRKA : BitVec 5 := 16
abbrev crBRKB : BitVec 5 := 17
abbrev crBRKCTL : BitVec 5 := 18
abbrev crHSTAT : BitVec 5 := 19
abbrev crTSCRA : BitVec 5 := 20
abbrev crTSCRB : BitVec 5 := 21
abbrev crPSTAT : BitVec 5 := 22

/-- The value a context holds for one of its control registers. -/
def Ctx.creg (c : Ctx) (i : BitVec 5) : Word := c.cr.get i

/-- The context with a control register holding a value. -/
def Ctx.setCreg (c : Ctx) (i : BitVec 5) (v : Word) : Ctx := { c with cr := c.cr.put i v }

/-- A control register of a core's context. -/
def Core.creg (c : Core) (i : BitVec 5) : Word := c.ctx.creg i

/-- The core with a control register of its context holding a value. -/
def Core.setCreg (c : Core) (i : BitVec 5) (v : Word) : Core := { c with ctx := c.ctx.setCreg i v }

/-- HSTAT.DEPTH (R71). -/
def Core.depth (c : Core) : BitVec 2 := (c.creg crHSTAT).extractLsb' 0 2

/-- HSTAT.PRIV (R71). -/
def Core.priv (c : Core) : Bool := (c.creg crHSTAT).getLsbD 2

/-- PSTAT.PIN (R71). -/
def Core.pin (c : Core) : Bool := (c.creg crPSTAT).getLsbD 1

/-- The tenant of the running context (R69). -/
def Core.tenant (c : Core) : BitVec 5 := (c.creg crTENANT).setWidth 5

/-- The open sheet of the current depth (R341). -/
def Core.sheet (c : Core) : Option Sheet := c.sheets.get c.depth

/-- The core with the open sheet of its depth replaced. -/
def Core.setSheet (c : Core) (sh : Option Sheet) : Core := { c with sheets := c.sheets.put c.depth sh }

/-- Takes a gated entry (R337): the open sheet's, or, with no sheet open, one that leaves next. -/
def Core.gate (c : Core) (g : Gated) : Core :=
  match c.sheet with
  | some sh => c.setSheet (some { sh with gated := sh.gated ++ [g] })
  | none => { c with committed := c.committed ++ [(c.depth, g)] }

/-- The current core's core-domain cycle (R350). -/
def State.now (s : State) : Nat := s.plat.cycle - s.core.frozen

/-- Sets PSTAT.LATE (R71, R190, R352). -/
def Core.setLate (c : Core) : Core := c.setCreg crPSTAT (c.creg crPSTAT ||| 1)

/-- ORs flags into FSTAT (R187, R211). -/
def Core.orFstat (c : Core) (f : FFlags) : Core := c.setCreg crFSTAT (c.creg crFSTAT ||| f.setWidth 64)

/-- ORs a beat's flags into MSTAT: NV, OF, UF and NX only (R233). -/
def Core.orMstat (c : Core) (f : FFlags) : Core := { c with mstat := c.mstat ||| (f &&& 0x1D).setWidth 64 }

/-- FMODE.RM (R71). -/
def Core.fmodeRm (c : Core) : BitVec 3 := (c.creg crFMODE).extractLsb' 0 3

/-- Advances SEED by one operation of mode 4 (R102). -/
def Core.bumpSeed (c : Core) : Core := c.setCreg crSEED (c.creg crSEED + 1)

end Sys2Proof.Machine
end

