-- ==== Sys2Proof/Machine/Device.lean ====
section
/-! DEFINITION. The device registers as they read, meridian time, MSI-X, trace entries and error records
(R299, R346, R357-R360, R403-R409, R417, R469, R474). -/

namespace Sys2Proof.Machine

/-! ## Meridian time (R346) -/

/-- The package's meridian time. -/
def State.mtime (s : State) : Nat := s.plat.mtimeMicro / 1000000

/-- The tick period in meridian units, as the value of MPER acts (R346). -/
def State.tickPeriod (s : State) : Nat :=
  let p := (s.reg 0x000).toNat % 2 ^ 21
  (if p < 4096 then 4096 else if 1024000 < p then 1024000 else p) / 16 * 16

/-- The slot length: a sixteenth of the tick period (R346). -/
def State.slotLen (s : State) : Nat := s.tickPeriod / 16

/-- The slot of meridian time at hand (R346). -/
def State.slotNow (s : State) : Nat := s.mtime / s.slotLen

/-- Millionths of a meridian unit that one core cycle lasts, at the clock step and slew (R16, R347). -/
def State.cycleMicro (s : State) : Nat :=
  if s.plat.clockStep = 0 then 0 else 640 * (1000000 + s.plat.slew).toNat / s.plat.clockStep

/-- Whether the current core cycle is the first that starts at or after a slot boundary (R346). -/
def State.atSlot (s : State) : Bool :=
  s.mtime / s.slotLen != (s.plat.mtimeMicro - s.cycleMicro) / 1000000 / s.slotLen

/-! ## MSI-X (R357) -/

/-- The MSI-X table entry of a vector; bit 96 masks it, as PCIe has it (log entry 5). -/
def State.msixEntry (s : State) (v : Nat) : BitVec 128 := Tbl.get ((1 : BitVec 128) <<< 96) s.plat.msixTable v

/-- Raises an MSI-X vector: the message is sent, or pends while its entry is masked. -/
def State.raiseMsix (s : State) (v : Nat) : State :=
  if 2048 ≤ v then s
  else if (s.msixEntry v).getLsbD 96 then
    { s with plat := { s.plat with msixPending := if s.plat.msixPending.contains v then s.plat.msixPending
                                                   else v :: s.plat.msixPending } }
  else { s with plat := { s.plat with msixSent := s.plat.msixSent ++ [v] } }

/-- Raises vector `n` of a tenant: table entry VBASE + n (R360). -/
def State.raiseTenantVec (s : State) (t : BitVec 5) (n : Nat) : State :=
  s.raiseMsix ((bits (s.treg t 0) 16 11 : BitVec 11).toNat + n)

/-! ## The trace buffer (R403, R404) -/

/-- CYC of a core (R69). -/
def State.cyc (s : State) (c : Core) : Word := BitVec.ofNat 64 (s.plat.cycle - c.cycBase)

/-- Records a trace entry of the cycle at hand, of a tenant. -/
def Core.traceAddFor (c : Core) (ten kind num : BitVec 8) (val cyc : Word) : Core :=
  if c.trCtl.getLsbD 0 && !c.trCtl.getLsbD 1 then
    { c with traceNow := c.traceNow ++ [(cyc.setWidth 32 : BitVec 32) ++ (0 : BitVec 8) ++ ten ++ num ++ kind ++ val] }
  else c

/-- Records a trace entry of the core's own tenant. -/
def Core.traceAdd (c : Core) (kind num : BitVec 8) (val cyc : Word) : Core := c.traceAddFor (c.tenant.setWidth 8) kind num val cyc

/-- Writes an entry to the buffer. -/
def Core.traceWrite (c : Core) (e : TraceEntry) : Core :=
  let pos := (c.trPos.setWidth 10 : BitVec 10)
  let wrap := c.trPos &&& 0x8000000000000000 ||| (if pos = 1023 then 0x8000000000000000 else 0)
  { c with trace := Tbl.put pos.toNat e c.trace, trPos := wrap ||| ((pos + 1).setWidth 64) }

/-- A trigger fires: the buffer freezes once the cycle's entries are written (R404). -/
def Core.traceFreeze (c : Core) : Core := if c.trCtl.getLsbD 0 then { c with traceStop := true } else c

/-- The kind of an entry. -/
def traceKind (e : TraceEntry) : Nat := (e.extractLsb' 64 8).toNat

/-- A cycle's entries are written as it ends: in the order of their kinds where a trigger has fired, which then freezes the buffer (R404),
and else as they arose. -/
def Core.traceFlush (c : Core) : Core :=
  let es := if c.traceStop then (List.range 8).flatMap fun k => c.traceNow.filter fun e => traceKind e == k else c.traceNow
  let c := es.foldl Core.traceWrite c
  { c with traceNow := [], trCtl := if c.traceStop then c.trCtl ||| 2 else c.trCtl, traceStop := false }

/-! ## Device accesses to memory -/

/-- Why a device access to memory fails. -/
inductive DevErr where
  | translation (va : Word) (e : TrErr)
  | bad (pa : Nat)
  deriving DecidableEq, Repr

/-- Reads bytes at their targets, or names the first uncorrectable granule. -/
def MemSys.devRead (m : MemSys) (pa n : Nat) : Except Nat (List Byte) :=
  match ((List.range n).map (· + pa)).find? (fun a => m.isBad (a / 16)) with
  | some a => .error a
  | none => .ok (Memory.read m.mem pa n)

/-- Reads the physical runs of a translated range at their targets. -/
def MemSys.devReadRuns (m : MemSys) : List (Nat × Nat × Bool) → Except Nat (List Byte)
  | [] => .ok []
  | (pa, n, _) :: r =>
    match m.devRead pa n with
    | .error a => .error a
    | .ok bs => match devReadRuns m r with
      | .error a => .error a
      | .ok bs' => .ok (bs ++ bs')

/-- The device reads `n` bytes at a virtual address of a tenant, as if at PRIV 1 (R303). -/
def State.devLoad (s : State) (t : BitVec 5) (va : Word) (n : Nat) : Except DevErr (List Byte) :=
  match translateRange s noCore t true va n .read with
  | .error (a, e) => .error (.translation a e)
  | .ok (runs, _) => match s.mem.devReadRuns runs with
    | .error a => .error (.bad a)
    | .ok bs => .ok bs

/-- Writes bytes over the physical runs of a translated range, from die `d`. -/
def MemSys.devWriteRuns (m : MemSys) (d : BitVec 4) : List (Nat × Nat × Bool) → List Byte → MemSys
  | [], _ => m
  | (pa, n, _) :: r, bs => devWriteRuns (m.leave d pa (bs.take n)) d r (bs.drop n)

/-- Whether a write of bytes would leave a part of an uncorrectable 64-byte block as it is (R395): one that covers the whole block makes it
correct. -/
def MemSys.badPart (m : MemSys) (pa n : Nat) : Bool :=
  (List.range n).any fun i =>
    let a := pa + i
    m.isBad (a / 16) && !(decide (pa ≤ a / 64 * 64) && decide (a / 64 * 64 + 64 ≤ pa + n))

/-- The base die writes bytes at a virtual address of a tenant, as if at PRIV 1 (R303). -/
def State.devStore (s : State) (t : BitVec 5) (va : Word) (bs : List Byte) : Except DevErr State :=
  match translateRange s noCore t true va bs.length .write with
  | .error (a, e) => .error (.translation a e)
  | .ok (runs, _) =>
    if runs.any (fun (pa, n, _) => s.mem.badPart pa n) then .error (.bad 0)
    else .ok (s.withMem fun m => m.devWriteRuns 8 runs bs)

/-- The base die writes a record at a virtual address (R407): what it writes replaces whole blocks of storage, and a part of an
uncorrectable block stays as it is (R395). -/
def State.devReplace (s : State) (t : BitVec 5) (va : Word) (bs : List Byte) : Option State :=
  match translateRange s noCore t true va bs.length .write with
  | .error _ => none
  | .ok (runs, _) => some (s.withMem fun m => m.devWriteRuns 8 runs bs)

/-- A system-scope release of the base die (R311, R316). -/
def State.baseRelease (s : State) : State := s.withMem fun m => m.release 8

/-! ## Routers -/

/-- The state of router `r`. -/
def State.routerAt (s : State) (r : RouterNo) : Router := Tbl.get {} s.fab.routers r.toNat

/-- The state with router `r` changed. -/
def State.setRouterAt (s : State) (r : RouterNo) (x : Router) : State :=
  { s with fab := { s.fab with routers := Tbl.put r.toNat x s.fab.routers } }

/-! ## Error records (R405-R409) -/

/-- What an error record says, before the device adds TIME, TEST, COUNT and SEQ. -/
structure ErrRec where
  src : BitVec 8
  sev : BitVec 8
  unit : BitVec 16 := 0
  ten : Option (BitVec 5) := none
  addr : Word := 0
  synd : Word := 0
  vpc : Word := 0
  task : Word := 0
  cause : Word := 0
  count : BitVec 32 := 1
  /-- The outcome of a test that is already known (a link's, R475), and whether the repetition rule makes the error lasting (R411). -/
  test : Option (BitVec 8) := none
  rep : Bool := false
  /-- The link that the record is of, whose test is its retraining (R410). -/
  link : Option LinkNo := none
  deriving DecidableEq, Repr

/-- The SRC and UNIT of the storage at a physical address (R405). -/
def storageOf (pa : Nat) : BitVec 8 × BitVec 16 :=
  if targetOf pa = .package then (0x18, (pileOf pa).setWidth 16)
  else if targetOf pa = .tier2 then (0x1A, 8)
  else (0x2C, 8)

/-- Whether a cache holds a byte of a line as its own uncorrectable, dirty data. -/
def dirtyBad (ls : List Line) (pa : Nat) : Bool := match findLine (pa / 128) ls with
  | some l => l.bad.getLsbD (pa % 128) && l.dirty.getLsbD (pa % 128)
  | none => false

/-- The SRC and UNIT of the storage that fails a core's read at a physical address (R405, R465, R488): a dirty line of its L1 or of its
die cache, or the storage at the address. -/
def State.failingStorage (s : State) (n : CoreNo) (pa : Nat) : BitVec 8 × BitVec 16 :=
  if dirtyBad (s.coreAt n).l1 pa then (0x05, n.setWidth 16)
  else if dirtyBad (s.mem.dieCache.get (dieOf n)) pa then (0x11, (dieOf n).setWidth 16)
  else storageOf pa

/-- The UNIT of a staging slice's records: the router of its cluster (R359, R405; DESIGN CHOICE, log entry 65: the spec gives the SRC no
number of its own). -/
def stageUnit (a : Nat) : BitVec 16 := BitVec.ofNat 16 (a / 2 ^ 24)

/-- The 64 bytes of a record (R405), SEQ and the flags still 0. -/
def ErrRec.pack (r : ErrRec) (time : Word) (test : BitVec 8) : BitVec 512 :=
  let ten : BitVec 8 := match r.ten with | some t => t.setWidth 8 | none => 0x80
  (0 : BitVec 32) ++ r.count ++ r.cause ++ r.task ++ r.vpc ++ r.synd ++ r.addr ++ (if r.rep then (8 : BitVec 16) else 0) ++ ten ++ test ++
    r.unit ++ r.sev ++ r.src ++ time

/-- A field of a packed record: `w` bits from byte `b`. -/
abbrev recField (r : BitVec 512) (b w : Nat) : BitVec w := r.extractLsb' (8 * b) w

/-- A packed record with a field set. -/
def recSet {w : Nat} (r : BitVec 512) (b : Nat) (v : BitVec w) : BitVec 512 :=
  (r &&& ~~~(BitVec.ofNat 512 (2 ^ w - 1) <<< (8 * b))) ||| (v.setWidth 512 <<< (8 * b))

/-- Ring size from an LSZ field that runs `lo` to `hi`; other values act as `hi`. -/
def ringSize (lsz lo hi : Nat) : Nat := 2 ^ (if lsz < lo ∨ hi < lsz then hi else lsz)

/-- Writes a record to its tenant's queue (R407): none where the queue takes nothing. -/
def tenantQueueWrite (s : State) (t : BitVec 5) (r : BitVec 512) : Option State :=
  let ctl := s.treg t 0x48
  let base := s.treg t 0x40
  if !ctl.getLsbD 63 then none
  else
    match s.devLoad t base 8 with
    | .error _ => none
    | .ok bs =>
      let n := leNat bs
      let slot := n % ringSize (ctl.toNat % 32) 2 12
      match s.devReplace t (base + 64 + BitVec.ofNat 64 (64 * slot)) (leBytes 64 r.toNat) with
      | none => none
      | some s1 =>
        match s1.baseRelease.devReplace t base (leBytes 8 (n + 1)) with
        | none => none
        | some s2 => some (s2.raiseTenantVec t (bits ctl 16 11 : BitVec 11).toNat)

/-- A saturating 32-bit counter register goes up by one. -/
def State.bumpReg (s : State) (off : Nat) : State :=
  s.setReg off (if s.reg off = 0xFFFFFFFF then 0xFFFFFFFF else s.reg off + 1)

/-- Writes a record to the package log (R406); a record met while the log is full or off counts as lost. -/
def packageLogWrite (s : State) (r : BitVec 512) : State :=
  let ctl := s.reg 0x108
  let size := ringSize (ctl.toNat % 32) 4 16
  let tail := (s.reg 0x118).toNat
  if !ctl.getLsbD 63 || (tail + 2 ^ 32 - (s.reg 0x110).toNat) % 2 ^ 32 = size then
    let s := s.bumpReg 0x120
    { s with plat := { s.plat with ovf := true } }
  else
    let r := if s.plat.ovf then recSet r 14 ((recField r 14 16 : BitVec 16) ||| 1) else r
    let pa := (bits (s.reg 0x100) 6 46 : BitVec 46).toNat * 64 + 64 * (tail % size)
    let s := (s.withMem fun m => m.leave 8 pa (leBytes 64 r.toNat)).baseRelease
    let s := s.setReg 0x118 (BitVec.ofNat 64 ((tail + 1) % 2 ^ 32))
    { s with plat := { s.plat with ovf := false } }.raiseMsix (bits ctl 16 11 : BitVec 11).toNat

/-- Whether a record's UNIT is a core number, by SRC (R405). -/
def srcNamesCore (src : BitVec 8) : Bool := (1 ≤ src.toNat && src.toNat ≤ 8) || (0x30 ≤ src.toNat && src.toNat ≤ 0x32) ||
  src = 0x3D

/-- Writes a record (R405-R408): its SEQ, the tenant queue, the package log, the crash record (R417) and the trace
entry of the core it names, with the record's tenant (R404). -/
def State.writeRecord (s : State) (r : BitVec 512) : State :=
  let sev := (recField r 9 8 : BitVec 8).toNat
  let ten := (recField r 13 8 : BitVec 8)
  let src := (recField r 8 8 : BitVec 8)
  let seq := s.plat.seq
  let r := recSet r 60 seq
  let s := { s with plat := { s.plat with seq := seq + 1 } }
  let core : CoreNo := (recField r 10 11)
  let s := if srcNamesCore src then
      let c := s.coreAt core
      let c := c.traceAddFor (if ten.getLsbD 7 then c.tenant.setWidth 8 else ten &&& 0x1F) 6 src (seq.setWidth 64) (s.cyc c)
      s.setCoreAt core (if c.trCtl.getLsbD 8 then c.traceFreeze else c)
    else s
  let toTenant := (sev = 1 || sev = 2 || sev = 4 || sev = 6) && !ten.getLsbD 7
  let (s, r) := if toTenant then
      match tenantQueueWrite s (ten.setWidth 5) r with
      | some s' => (s', recSet r 14 ((recField r 14 16 : BitVec 16) ||| 4))
      | none => (s, r)
    else (s, r)
  let s := if 3 ≤ sev ∧ sev ≤ 5 then
      { s with plat := { s.plat with crash := (s.plat.crash ++ [r]).drop (s.plat.crash.length - 15) } }
    else s
  packageLogWrite s r

/-- Launches leave the pinned regime (R348, R482): every pinned task of one takes the sync fault at its first commit point
after the next tick, or at its resumption. -/
def State.syncAll (s : State) (p : Launch → Bool) (cause : BitVec 16) : State :=
  let tick := (s.mtime / s.tickPeriod + 1) * s.tickPeriod
  let hit (l : Launch) : Bool := l.pinned && l.syncCause = 0 && !l.completed && !l.refused && p l
  let launches := s.dist.launches.map fun l => if hit l then { l with syncCause := cause, syncAt := tick } else l
  let hitCore (c : Core) : Core := match c.running with
    | some r =>
      let mine := s.dist.launches.any fun l => hit l && l.tenant == r.tenant && l.rec_.extractLsb' 128 32 == r.handle
      if c.pin ∧ c.syncDue = 0 ∧ mine then { c with syncDue := cause, syncAt := tick } else c
    | none => c
  { s with dist := { s.dist with launches }, cores := s.cores.map fun (kc : Nat × Core) => (kc.1, hitCore kc.2) }

/-- The clocks stand at 0.8 GHz or above while a pinned task runs, but for a junction of 110 degrees or more (R349, R416): a pinned task
that begins or resumes finds them so. -/
def State.floorClock (s : State) (pin : Bool) : State :=
  if pin && !s.plat.hot then { s with plat := { s.plat with clockStep := max 32 s.plat.clockStep } } else s

/-- The launches whose pinned status ends at a tick that has come (R348, R482). -/
def State.unpinned (s : State) : State :=
  { s with dist := { s.dist with launches := s.dist.launches.map fun l =>
      if l.pinned && l.syncCause ≠ 0 && decide (l.syncAt ≤ s.mtime) then { l with pinned := false } else l } }

/-- Takes a core out of service for a test (R410, R412): it is granted nothing, its task is pre-empted at its next boundary,
and a pinned one leaves the pinned regime. -/
def State.takeOut (s : State) (n : CoreNo) : State :=
  let c := s.coreAt n
  let s := s.setCoreAt n { c with inService := false, preempt := c.preempt || c.running.isSome, sliceCut := false }
  match c.running with
  | some r =>
    if c.pin then s.syncAll (fun l => l.tenant == r.tenant && l.rec_.extractLsb' 128 32 == r.handle && l.taken) 2 else s
  | none => s

/-- Whether a record is of a core's register files, datapaths or matrix array, or of its hang watchdog, whose test takes the
core out of service (R400, R410). -/
def srcCoreTest (src : BitVec 8) : Bool := [0x01, 0x02, 0x03, 0x04, 0x30].contains src.toNat

/-- Whether a structure has a self-test (R400, R410, R441). -/
def srcTested (src : BitVec 8) : Bool :=
  [0x30, 0x01, 0x02, 0x03, 0x04, 0x05, 0x06, 0x10, 0x11, 0x12, 0x18, 0x1A, 0x21, 0x28, 0x29, 0x2A, 0x2B].contains src.toNat

/-- The core cycles that a test takes (R410): a link's has no count of them. -/
def testCycles (src : BitVec 8) : Nat :=
  if srcCoreTest src then 262144
  else if src = 0x05 ∨ src = 0x11 then 4096
  else if src = 0x06 ∨ src = 0x10 ∨ src = 0x21 then 8192
  else if src = 0x18 ∨ src = 0x1A then 65536
  else 0

/-- The units of storage of an erring location's row (R410, R413): 16-byte granules of memory, 8-byte words of a scratchpad or of staging,
words of a waypoint store. -/
def SelfTest.row (t : SelfTest) : List Nat :=
  let a := t.addr.toNat
  let k := if t.src = 0x18 ∨ t.src = 0x1A then a / 16 else if t.src = 0x21 then a else a / 8
  k :: Config.rowOf t.src t.unit k

/-- The cache and the set of an erring line. -/
def SelfTest.way (t : SelfTest) : Option (CacheLevel × Nat) :=
  if t.src = 0x05 then some (.l1 (t.unit.setWidth 11), t.addr.toNat / 128 % l1Sets)
  else if t.src = 0x11 then some (.die (t.unit.setWidth 3), t.addr.toNat / 128 % dieSets)
  else none

/-- Whether two records name one location (R411): one unit, and there one address, one row or one set of a cache. -/
def SelfTest.same (t u : SelfTest) : Bool :=
  t.src == u.src && t.unit == u.unit && t.link == u.link && (t.addr == u.addr || (t.way.isSome && t.way == u.way) ||
    ([0x06, 0x10, 0x18, 0x1A, 0x21].contains t.src.toNat && t.row.any u.row.contains))

/-- The meridian span within which three records of one location make its error lasting (R411). -/
def repSpan : Nat := 2 ^ 46

/-- Whether an error of a location is lasting by repetition (R411): three records have named it. -/
def State.repeats (s : State) (t : SelfTest) : Bool :=
  decide (3 ≤ (s.plat.history.filter fun h => decide (s.mtime < h.2 + repSpan) && h.1.same t).length)

/-- The service of a location ends while it is tested (R410): a core's, a cache's way, or accesses to a row of memory. -/
def State.beginTest (s : State) (t : SelfTest) : State :=
  if srcCoreTest t.src then s.takeOut (t.unit.setWidth 11)
  else match t.way with
    | some (.l1 n, k) =>
      let line := t.addr.toNat / 128
      (dropL1 (cleanL1 s n line) n line).withMem fun m => { m with waysOff := (.l1 n, k) :: m.waysOff }
    | some (.die d, k) => (dropDie s d (t.addr.toNat / 128)).withMem fun m => { m with waysOff := (.die d, k) :: m.waysOff }
    | none =>
      if t.src = 0x18 ∨ t.src = 0x1A then
        s.withMem fun m => { m with locks := m.locks ++ (t.row.map (· / 8)).eraseDups.map fun l =>
          ({ core := noCore, line := l, pa := 128 * l, gen := 0 } : LineLock) }
      else s

/-- The service of a location comes back (R410): of a row of memory always, its contents having moved, and of a cache's way where the
error was transient; a core's follows its tests. -/
def State.endTest (s : State) (t : SelfTest) (transient : Bool) : State :=
  match t.way with
  | some w => if transient then s.withMem fun m => { m with waysOff := m.waysOff.erase w } else s
  | none =>
    if t.src = 0x18 ∨ t.src = 0x1A then
      s.withMem fun m => { m with locks := m.locks.filter fun l => !(l.core == noCore && (t.row.map (· / 8)).contains l.line) }.afterLocks
    else s

/-- Whether a detection merges into a pending record (R409). -/
def ErrPend.merges (p : ErrPend) (r : BitVec 512) (now : Nat) : Bool :=
  let same := (recField p.rec_ 8 8 : BitVec 8) == recField r 8 8 && (recField p.rec_ 10 16 : BitVec 16) == recField r 10 16
  same && ((decide (now < p.closes) && (recField p.rec_ 16 64 : Word) == recField r 16 64 &&
    (recField p.rec_ 9 8 : BitVec 8) == recField r 9 8) || p.testing)

/-- A merged record: COUNT rises and MRG is set (R405, R409). -/
def mergeRecord (p : BitVec 512) (n : BitVec 32) : BitVec 512 :=
  recSet (recSet p 56 ((recField p 56 32 : BitVec 32) + n)) 14 ((recField p 14 16 : BitVec 16) ||| 2)

/-- Merges a record into the first pending one that takes it, or adds it. -/
def mergeInto (r : BitVec 512) (now : Nat) (new : ErrPend) : List ErrPend → List ErrPend
  | [] => [new]
  | p :: l => if p.merges r now then { p with rec_ := mergeRecord p.rec_ (recField r 56 32) } :: l
              else p :: mergeInto r now new l

/-- Whether a location is fenced: it is not used, and its errors start no test (R413, R414, R418). -/
def State.fencedAt (s : State) (t : SelfTest) : Bool :=
  if srcNamesCore t.src then (s.coreAt (t.unit.setWidth 11)).fenced
  else if t.src = 0x10 then s.plat.stageFenced.contains (t.addr.toNat / 8)
  else if t.src = 0x21 then (s.routerAt (t.unit.setWidth 8)).fencedWords.contains t.addr.toNat
  else if t.src = 0x18 ∨ t.src = 0x1A then s.mem.fenced.contains (t.addr.toNat / 16)
  else false

/-- The device detects an error: a record of SEV 4, 5 or 6 is written as its cycle ends, in the order of the cycle's records
(`State.flushRecords`), any other waits for its merge window and its self-test (R405, R409, R410, R418); corrected errors are counted
(R406). In fail-stop nothing takes effect (R418). -/
def State.report (s : State) (r : ErrRec) : State :=
  if s.plat.failStop then s else
  let s := if r.sev = 0 then s.bumpReg 0x128 else s
  let time := BitVec.ofNat 64 s.mtime
  if 4 ≤ r.sev.toNat then
    let e : ErrPend := { rec_ := r.pack time (r.test.getD 0), closes := s.plat.cycle, testing := false }
    { s with plat := { s.plat with errors := s.plat.errors ++ [e] } }
  else
    let t : SelfTest := { src := r.src, unit := r.unit, addr := r.addr, link := r.link }
    let tested := srcTested r.src && r.test.isNone && !s.fencedAt t
    let pk := r.pack time (r.test.getD (if tested then 0 else if s.fencedAt t then 3 else 4))
    let merges := s.plat.errors.any fun p => p.merges pk s.plat.cycle
    let past := s.plat.history.filter fun h => decide (s.mtime < h.2 + repSpan)
    let s := { s with plat := { s.plat with history := if merges then past else past ++ [(t, s.mtime)] } }
    let pk := if !merges && !tested && s.repeats t then recSet pk 14 ((recField pk 14 16 : BitVec 16) ||| 8) else pk
    let new : ErrPend := { rec_ := pk, closes := s.plat.cycle + 1024, testing := tested }
    let s := { s with plat := { s.plat with errors := mergeInto pk s.plat.cycle new s.plat.errors } }
    if tested && !merges then
      let s : State := { s with plat := { s.plat with tests := s.plat.tests ++ [(t, s.plat.cycle + testCycles t.src)] } }
      s.beginTest t
    else s

/-- The place of a record among those that may be written: by its cycle, and of one cycle by ascending SRC and UNIT (R418). -/
def ErrPend.key (e : ErrPend) : Nat :=
  e.closes * 2 ^ 24 + (recField e.rec_ 8 8 : BitVec 8).toNat * 2 ^ 16 + (recField e.rec_ 10 16 : BitVec 16).toNat

/-- The record that is written next, its window closed before a cycle and its test ended (R405, R418), and
the pending records without it. -/
def takeReady (lim : Nat) (l : List ErrPend) : Option (ErrPend × List ErrPend) :=
  match l.filter fun e => decide (e.closes < lim) && !e.testing with
  | [] => none
  | e :: r =>
    let x := r.foldl (fun m e => if e.key < m.key then e else m) e
    some (x, l.erase x)

/-- Whether a record is one of those that are written in the cycle that they arise in (R405). -/
def ErrPend.prompt (e : ErrPend) : Bool := decide (4 ≤ (recField e.rec_ 9 8 : BitVec 8).toNat)

/-- Writes the records that a cycle must write as it ends: those of SEV 4, 5 and 6, with what comes before them in the order of R418;
`fuel` bounds how many. -/
def State.flushRecords (s : State) (lim : Nat) : Nat → State
  | 0 => s
  | fuel + 1 =>
    if !s.plat.errors.any ErrPend.prompt then s
    else match takeReady lim s.plat.errors with
      | none => s
      | some (e, r) => State.flushRecords ({ s with plat := { s.plat with errors := r } }.writeRecord e.rec_) lim fuel

/-- The records of the cycle at hand are written (R405, R418). -/
def State.endRecords (s : State) : State := s.flushRecords (s.plat.cycle + 1) s.plat.errors.length

/-- The SRC and UNIT of a cache's records (R405). -/
def cacheSrc : CacheLevel → BitVec 8 × BitVec 16
  | .l1 n => (0x05, n.setWidth 16)
  | .die d => (0x11, d.setWidth 16)

/-- A record for each line whose write-back has moved a raw codeword (R462). -/
def State.reportRaw (s : State) : State :=
  s.mem.rawMoved.foldl (fun s x => s.report { src := (cacheSrc x.1).1, sev := 2, unit := (cacheSrc x.1).2, addr := BitVec.ofNat 64 (128 * x.2) })
    (s.withMem fun m => { m with rawMoved := [] })

/-- A record for each block that a read has found with an error which its check corrects (R394). -/
def State.reportSoft (s : State) : State :=
  s.mem.softRead.eraseDups.foldl (fun s b => s.report { src := (storageOf (64 * b)).1, sev := 0, unit := (storageOf (64 * b)).2,
                                                          addr := BitVec.ofNat 64 (64 * b) })
    (s.withMem fun m => { m with softRead := [] })

/-! ## Reading device registers (R359) -/

/-- The offset of router `r`'s block (R359). -/
def routerBlock (r : RouterNo) : Nat := 0x100000000 + 0x100000 * r.toNat

/-- A tenant register of a router (R287, R359). -/
def State.rreg (s : State) (r : RouterNo) (t : BitVec 5) (off : Nat) : Word :=
  s.reg (routerBlock r + 0x100 * t.toNat + off)

/-- The offset of a core's trace registers (R403). -/
def traceBlock (n : CoreNo) : Nat := 0x300000000 + 0x10000 * n.toNat

/-- The bits of a header that are no RES0 (R269). -/
def hdrMask : BitVec 256 := 0x0000BFBFFFFFFFFF87FFFFFF1FFF07FFFFFFFFFFFFFFFFFFFFFFFFFFFFFFFFFFFF

/-- The bytes of a packet in the order of R268: header, program, w0-w3, stack and payload, 0x160 bytes. -/
def Packet.image (p : Packet) : List Byte :=
  leBytes 32 (p.hdr &&& hdrMask).toNat ++
  (List.range 16).flatMap (fun i => leBytes 2 (p.prog.get (BitVec.ofNat 4 i)).toNat) ++
  (List.range 4).flatMap (fun i => leBytes 4 (p.w.get (BitVec.ofNat 2 i)).toNat) ++
  (List.range 4).flatMap (fun i => leBytes 4 (p.stack.reverse.getD i 0).toNat) ++
  (p.payload ++ List.replicate (256 - p.payload.length) 0)

/-- The 0x170 bytes of a park entry (R469). -/
def ParkEntry.image (e : ParkEntry) : List Byte :=
  e.p.image ++ [BitVec.ofNat 8 e.p.pc, BitVec.ofNat 8 e.p.stack.length] ++ leBytes 2 e.reason.toNat ++
  [e.adir.setWidth 8, 0, 0, 0] ++ leBytes 8 e.mtime.toNat

/-- The bytes of a park entry as they read (R7, R469): those last written, or the packet's. -/
def ParkEntry.bytes (e : ParkEntry) : List Byte := if e.raw = [] then e.image else e.raw

/-- A park entry's bytes with an aligned word written: bytes 0x165-0x167 and the header's reserved bits stay 0 (R8). -/
def parkWrite (img : List Byte) (o : Nat) (v : Word) : List Byte :=
  let mask : Word := if o < 32 then hdrMask.extractLsb' (8 * o) 64 else if o = 0x160 then 0x000000FFFFFFFFFF else BitVec.allOnes 64
  img.take o ++ leBytes 8 (v &&& mask).toNat ++ img.drop (o + 8)

/-- The park entry that its bytes describe (R469): the inverse of `ParkEntry.image`. -/
def ParkEntry.ofImage (b : List Byte) (plen : Nat) : ParkEntry :=
  let w (o n : Nat) : Nat := leNat ((b.drop o).take n)
  let depth := (w 0x161 1) % 8
  { p := { hdr := BitVec.ofNat 256 (w 0 32),
           prog := Vector.ofFn fun i => BitVec.ofNat 16 (w (32 + 2 * i.val) 2),
           w := Vector.ofFn fun i => BitVec.ofNat 32 (w (64 + 4 * i.val) 4),
           stack := ((List.range (min depth 4)).map fun i => BitVec.ofNat 32 (w (80 + 4 * i) 4)).reverse,
           payload := (b.drop 96).take plen,
           pc := w 0x160 1 },
    reason := BitVec.ofNat 16 (w 0x162 2), adir := BitVec.ofNat 4 (w 0x164 1), mtime := BitVec.ofNat 64 (w 0x168 8) }

/-- PLEN of a packet's header (R269): bits 15:0 of its bytes 12-13. -/
def Packet.plen (p : Packet) : Nat := p.payload.length

/-- The router coordinates (u, v) of a cluster index (R13, R14). -/
def clusterUV (k : Nat) : Nat × Nat :=
  let die := k / 28
  let c := k % 28
  (die % 2 * 7 + c % 7, die / 2 * 4 + c / 7)

/-- The hops and the die crossings of one axis of a default route: from `x` to `t` on a ring of `n` routers cut into
dies of `blk` (R15, R273). -/
def axisRoute (x t n blk : Nat) : Nat × Nat :=
  let up := (t + n - x) % n
  let hops := if up ≤ n / 2 then up else n - up
  let pos (i : Nat) : Nat := if up ≤ n / 2 then (x + i) % n else (x + n - i) % n
  (hops, ((List.range hops).filter fun i => pos i / blk != pos (i + 1) / blk).length)

/-- An entry of the survey table (R299). -/
def surveyEntry (a b : Nat) : Nat :=
  if a = b then 14
  else
    let (ua, va) := clusterUV a
    let (ub, vb) := clusterUV b
    let (hu, xu) := axisRoute ua ub 14 7
    let (hv, xv) := axisRoute va vb 16 4
    22 + 3 * (hu + hv) + 12 * (xu + xv)

/-- A word of a device register as it reads (R359); unlisted offsets read 0. -/
def State.devWord (s : State) (off : Nat) : Word :=
  if off = 0x138 then
    (if s.plat.failStop then 0x8000000000000000 else 0) ||| (if s.plat.warm then 0x4000000000000000 else 0) |||
      BitVec.ofNat 64 s.plat.crash.length
  else if off = 0x148 then s.plat.bootst
  else if 0x1000 ≤ off ∧ off < 0x1400 then
    ((s.plat.crash.getD ((off - 0x1000) / 64) 0).extractLsb' (off % 64 * 8) 64)
  else if 0x2000000 ≤ off ∧ off < 0x2000000 + 100352 then
    let n := (off - 0x2000000) / 2
    (List.range 4).foldl (fun acc i => acc ||| (BitVec.ofNat 64 (surveyEntry ((n + i) / 224) ((n + i) % 224)) <<< (16 * i))) 0
  else if 0x100000000 ≤ off ∧ off < 0x100000000 + 0x100000 * 230 then
    let r : RouterNo := BitVec.ofNat 8 ((off - 0x100000000) / 0x100000)
    let o := (off - 0x100000000) % 0x100000
    let rt := s.routerAt r
    if o = 0x8000 then
      (List.range 16).foldl (fun acc i => if (rt.park.get (BitVec.ofNat 4 i)).isSome then acc ||| ((1 : Word) <<< i) else acc) 0
    else if 0x8100 ≤ o ∧ o < 0x8100 + 0x180 * 16 then
      match rt.park.get (BitVec.ofNat 4 ((o - 0x8100) / 0x180)) with
      | some e => BitVec.ofNat 64 (leNat ((e.bytes.drop ((o - 0x8100) % 0x180)).take 8))
      | none => 0
    else if o < 0x2000 ∧ o % 0x100 = 0x58 then
      (List.range 64).foldl (fun acc i =>
        if (rt.slots.get (BitVec.ofNat 6 i)).st = .closed then acc ||| ((1 : Word) <<< i) else acc) 0 &&&
        s.rreg r (BitVec.ofNat 5 (o / 0x100)) 0x48
    else s.reg off
  else if 0x300000000 ≤ off ∧ off < 0x300000000 + 0x10000 * 1792 then
    let n : CoreNo := BitVec.ofNat 11 ((off - 0x300000000) / 0x10000)
    let o := (off - 0x300000000) % 0x10000
    let c := s.coreAt n
    if o = 0 then c.trCtl
    else if o = 8 then c.trPos
    else if 0x4000 ≤ o ∧ o < 0x8000 then
      (Tbl.get 0 c.trace ((o - 0x4000) / 16)).extractLsb' (o % 16 * 8) 64
    else 0
  else s.reg off

/-- A read of `n` bytes of device register space (R359): a misaligned read returns bytes of 0xFF. -/
def State.devReadBytes (s : State) (off n : Nat) : List Byte :=
  if n = 0 then []
  else if off % n ≠ 0 then List.replicate n 0xFF
  else (List.range n).map fun i => byteOf (s.devWord ((off + i) / 8 * 8)) ((off + i) % 8)

/-- The first offset of device register space (R21, R359). -/
def devBase : Nat := 0xF000000000000

/-- The bits of a device register that a write stores, by offset (R8, R243, R287, R345, R346, R359, R360, R398, R403,
R406, R407, R446, R469); registers with a behaviour of their own and unlisted offsets store nothing here. -/
def devMask (off : Nat) : Word :=
  if off = 0x000 then 0x1FFFFF
  else if off = 0x010 then 1
  else if off = 0x018 then 0xFFFFFFFFFFFF0000
  else if off = 0x030 then 0x00FFFFFF00FFFFFF
  else if off = 0x038 then 0x000FFFFFFFFFF000
  else if 0x040 ≤ off ∧ off < 0x060 then 0xFFFF
  else if off = 0x100 then 0x000FFFFFFFFFFFC0
  else if off = 0x108 then 0x8000000007FF001F
  else if off = 0x110 ∨ off = 0x120 ∨ off = 0x128 then 0xFFFFFFFF
  else if off = 0x130 then 0x3F
  else if 0x1000000 ≤ off ∧ off < 0x1200000 then
    let o := off % 0x10000
    if o = 0x000 then 0x8000000007FFFFFF
    else if o = 0x008 then 0x01FFFFFFFFFFFC00
    else if o = 0x010 then 0xFFFF
    else if o = 0x018 then 0x000FFFFFFFFFF000
    else if o = 0x020 ∨ o = 0x038 then 0x01FFFFFFFFFFFE00
    else if o = 0x030 then 0x8000FFFF0000FFFF
    else if o = 0x040 then 0x01FFFFFFFFFFFFC0
    else if o = 0x048 ∨ o = 0x058 then 0x8000000007FF001F
    else if o = 0x050 then 0x000FFFFFFFFFFFC0
    else if o = 0x060 then 0xFFFFFFFF
    else if o = 0x080 ∨ o = 0x088 then 0x01FFFFFFFFFFFFFC
    else if 0x100 ≤ o ∧ o < 0x200 then (if o % 16 = 0 then 0x000FFFFFFFFF0000 else 0xC00FFFFFFFFF0000)
    else if 0x200 ≤ o ∧ o < 0x300 then
      (if o % 32 = 0 then 0x000FFFFFFFFFFF80 else if o % 32 = 8 then 0x800000000000031F else 0)
    else 0
  else if 0x100000000 ≤ off ∧ off < 0x100000000 + 0x100000 * 230 then
    let o := off % 0x100000
    if o < 0x2000 then
      (if o % 0x100 = 0x00 then 0x01FF00FF
       else if 0x08 ≤ o % 0x100 ∧ o % 0x100 ≤ 0x40 then 0x7FF
       else if o % 0x100 = 0x48 then 0xFFFFFFFFFFFFFFFF
       else 0)
    else if o = 0x8008 then 0x8000000007FF0000
    else 0
  else if 0x200000000 ≤ off ∧ off < 0x200000000 + 0x1000 * 256 ∧ off % 0x1000 = 0 then 0x1FF
  else 0

/-- The tenant registers that a locked interface keeps from being written (R358). -/
def tdispLocked (off : Nat) : Bool :=
  if 0x1000000 ≤ off ∧ off < 0x1200000 then
    let o := off % 0x10000
    [0x000, 0x018, 0x020, 0x030, 0x038, 0x080, 0x088].contains o || (0x100 ≤ o && o < 0x200)
  else 0x100000000 ≤ off && off < 0x100000000 + 0x100000 * 230 && off % 0x100000 < 0x2000 && off % 0x100 ≤ 0x48

/-- The tenant whose register lies at an offset of a tenant or router block. -/
def tenantOfOffset (off : Nat) : BitVec 5 :=
  if off < 0x100000000 then BitVec.ofNat 5 ((off - 0x1000000) / 0x10000) else BitVec.ofNat 5 (off % 0x100000 / 0x100)

/-! ## A core's own writes of device registers (R7, R337, R359) -/

/-- What a register that reads as `old` reads as once a word is written to it, apart from what the write sets going (R7, R8, R359). -/
def State.devAfter (s : State) (off : Nat) (old v : Word) : Word :=
  let o := off % 0x10000
  if tdispLocked off ∧ s.plat.tdisp.get (tenantOfOffset off) ≠ .unlocked then old
  else if off = 0x020 then (v &&& 0x4000003FFFFFFFFE) ||| (if v.getLsbD 0 then 0x8000000000000000 else old &&& 0x8000000000000000)
  else if off = 0x028 then (v &&& 0xFFF) ||| 0x8000000000000000
  else if off = 0x030 ∧ s.plat.everEnabled then old
  else if 0x1000000 ≤ off ∧ off < 0x1200000 ∧ 0x200 ≤ o ∧ o < 0x300 ∧ o % 32 = 0x18 then
    let t := tenantOfOffset off
    let q := (o - 0x200) / 32
    let d (x : Nat) : Nat := (x + 2 ^ 32 - (s.treg t (0x210 + 32 * q)).toNat) % 2 ^ 32
    let z := (s.treg t (0x208 + 32 * q)).toNat % 32
    if s.plat.tdisp.get t = .unlocked ∧ d old.toNat ≤ d (v.toNat % 2 ^ 32) ∧ d (v.toNat % 2 ^ 32) ≤ 2 ^ (if 16 < z then 16 else z) then
      v &&& 0xFFFFFFFF
    else old
  else if 0x3000000 ≤ off ∧ off < 0x3000000 + 8 * 224 then v &&& 0x0000FFFFFFFFFFFF
  else if 0x100000000 ≤ off ∧ off < 0x100000000 + 0x100000 * 230 ∧ 0x8100 ≤ off % 0x100000 ∧ off % 0x100000 < 0x8100 + 0x180 * 16 ∧
      (off % 0x100000 - 0x8100) % 0x180 < 0x170 then
    let k := off % 0x100000 - 0x8100
    if ((s.routerAt (BitVec.ofNat 8 ((off - 0x100000000) / 0x100000))).park.get (BitVec.ofNat 4 (k / 0x180))).isSome then
      BitVec.ofNat 64 (leNat (((parkWrite (List.replicate 0x170 0) (k % 0x180) v).drop (k % 0x180)).take 8))
    else old
  else if 0x200000000 ≤ off ∧ off < 0x200000000 + 0x1000 * 256 ∧ off % 0x1000 = 8 then
    (v &&& 0x0000000007FFFFFE) ||| (if v.getLsbD 0 then 0x8000000000000000 else old &&& 0x8000000000000000)
  else if 0x300000000 ≤ off ∧ off < 0x300000000 + 0x10000 * 1792 ∧ off % 0x10000 = 0 then v &&& 0xFF0703
  else if devMask off = 0 then old
  else v &&& devMask off

/-- The register writes of an element over its runs, as offset, size and value. -/
def pushWrites : List (Nat × Nat × Bool) → List Byte → List (Nat × Nat × Word)
  | [], _ => []
  | (pa, k, _) :: r, bs =>
    (if targetOf pa = .device then [(pa - devBase, k, BitVec.ofNat 64 (leNat (bs.take k)))] else []) ++ pushWrites r (bs.drop k)

/-- The register writes that a gated entry makes. -/
def Gated.devWrites : Gated → List (Nat × Nat × Word)
  | .dev off size v => [(off, size, v)]
  | .push w => if w.space = 0 ∧ !w.written then pushWrites w.runs w.bytes else []
  | _ => []

/-- A read of `n` bytes of device register space by a core that has gated writes of its own: it sees them (R244, R337). -/
def State.devSeen (s : State) (gs : List Gated) (off n : Nat) : List Byte :=
  let ws := (gs.flatMap Gated.devWrites).filter fun w => decide (w.2.1 = 8 ∧ w.1 % 8 = 0)
  if n = 0 then []
  else if off % n ≠ 0 then List.replicate n 0xFF
  else (List.range n).map fun i =>
    let o := (off + i) / 8 * 8
    byteOf (ws.foldl (fun x w => if w.1 = o then s.devAfter o x w.2.2 else x) (s.devWord o)) ((off + i) % 8)

end Sys2Proof.Machine
end

