-- ==== Sys2Proof/Machine/Operands.lean ====
section
/-! DEFINITION. Operand forms and results: what an operation reads in each native format and from its Wyilo latches, and
where its results go (R73-R78, R128-R137, R160, R171-R173, R204-R206). -/

namespace Sys2Proof.Machine

/-! ## Registers -/

/-- The value of `s[i]` (R67: s0 reads 0). -/
def Ctx.rdS (c : Ctx) (i : BitVec 6) : Word := if i = 0 then 0 else c.s.get i

/-- The full bit of `s[i]`; s0 is always full (R67). -/
def Ctx.fullS (c : Ctx) (i : BitVec 6) : Bool := i = 0 || c.sfull.getLsbD i.toNat

/-- Writes `s[i]` as full; s0 ignores writes (R67, R68). -/
def Ctx.wrS (c : Ctx) (i : BitVec 6) (v : Word) : Ctx :=
  if i = 0 then c else { c with s := c.s.put i v, sfull := c.sfull ||| ((1 : BitVec 64) <<< i.toNat) }

/-- The value of `v[i]`. -/
def Ctx.rdV (c : Ctx) (i : BitVec 5) : Vec := c.v.get i

/-- The full bit of `v[i]`. -/
def Ctx.fullV (c : Ctx) (i : BitVec 5) : Bool := c.vfull.getLsbD i.toNat

/-- Writes `v[i]` as full. -/
def Ctx.wrV (c : Ctx) (i : BitVec 5) (v : Vec) : Ctx :=
  { c with v := c.v.put i v, vfull := c.vfull ||| ((1 : BitVec 32) <<< i.toNat) }

/-- The value of `p[i]`; p0 reads true (R67). -/
def Ctx.rdP (c : Ctx) (i : BitVec 4) : Bool := i = 0 || c.p.getLsbD i.toNat

/-- Writes `p[i]`; p0 ignores writes (R67). -/
def Ctx.wrP (c : Ctx) (i : BitVec 4) (v : Bool) : Ctx :=
  if i = 0 then c
  else { c with p := if v then c.p ||| ((1 : BitVec 16) <<< i.toNat) else c.p &&& ~~~((1 : BitVec 16) <<< i.toNat) }

/-- Whether a guard lets a slot or move execute (R74, R131). -/
def Ctx.guard (c : Ctx) (n : BitVec 1) (g : BitVec 4) : Bool := c.rdP g != (n == 1)

/-- Clears the full bit of a producer's destination (R68). -/
def Ctx.emptyDst (c : Ctx) (d : Dst) : Ctx :=
  match d with
  | .s i => if i = 0 then c else { c with sfull := c.sfull &&& ~~~((1 : BitVec 64) <<< i.toNat) }
  | .v i => { c with vfull := c.vfull &&& ~~~((1 : BitVec 32) <<< i.toNat) }
  | _ => c

/-! ## Ports -/

/-- The port bank of the current trap depth (R92). -/
def Core.bank (c : Core) : PortBank := c.banks.get c.depth

/-- The number of a unit. -/
def Core.port (c : Core) (i : BitVec 6) : PortInst := c.bank.get i

/-- The core with one unit changed. -/
def Core.setPort (c : Core) (i : BitVec 6) (p : PortInst) : Core :=
  { c with banks := c.banks.put c.depth (c.bank.put i p) }

/-- The port index of a unit: its type code and index (R140). -/
def portIx (u : Unit13) (inst : BitVec 2) : BitVec 6 := unitCode u ++ inst

/-- Writes a value to a destination: a register, as full, or a result port (R68, R130, R133). -/
def Core.wrDst (c : Core) (d : Dst) (v : Vec) : Core :=
  match d with
  | .none => c
  | .s i => { c with ctx := c.ctx.wrS i (v.setWidth 64) }
  | .v i => { c with ctx := c.ctx.wrV i v }
  | .p i => { c with ctx := c.ctx.wrP i (v.getLsbD 0) }
  | .k i => { c with ctx := { c.ctx with k := c.ctx.k.put i (v.setWidth 128) } }
  | .lc _ | .cr _ => c
  | .y i => c.setPort i { c.port i with y := .val v }
  | .z i => c.setPort i { c.port i with z := .val v }

/-- Whether an outstanding producer is on its way to a destination (R76). -/
def Core.outstanding (c : Core) (d : Dst) : Bool :=
  match d with
  | .none => false
  | .s i => i ≠ 0 && c.outst.any (fun o => o.dst == d)
  | d => c.outst.any (fun o => o.dst == d)

/-! ## Conditions -/

/-- A condition that stops a bundle: its rank (R434), class and code, the operand it names and TINFO (R421), and, for the record of a
data error, the virtual address of the memory that failed where TINFO does not give it. -/
structure Cond where
  rank : Nat
  cls : BitVec 8
  code : BitVec 16
  opnd : BitVec 4
  tinfo : Word
  va : Word
  deriving DecidableEq, Repr

/-- An operand fault of CLASS 0x11 (R425). -/
def condOperand (code : BitVec 16) (opnd : BitVec 4) (tinfo : Word) : Cond := ⟨5, 0x11, code, opnd, tinfo, 0⟩

/-- An operation's own check of CLASS 0x13-0x18 (R434). -/
def condOwn (cls : BitVec 8) (code : BitVec 16) (opnd : BitVec 4) (tinfo : Word) : Cond := ⟨7, cls, code, opnd, tinfo, 0⟩

/-- A privilege fault of CLASS 0x12 (R426). -/
def condPriv (code : BitVec 16) (opnd : BitVec 4) (tinfo : Word) : Cond := ⟨4, 0x12, code, opnd, tinfo, 0⟩

/-- A reserved value, CLASS 0x11 CODE 0x0004 (R425). -/
def condReserved (opnd : BitVec 4) (tinfo : Word) : Cond := condOperand 4 opnd tinfo

/-! ## Sources -/

/-- A source as read: its value, whether it holds the bundle, and the conditions its read meets. -/
structure Src where
  val : Vec := 0
  block : Bool := false
  conds : List Cond := []
  deriving DecidableEq, Repr

/-- The register form of a register (R140, R392). R140 gives a loop register none: that of one is unstated (log entry 76). -/
def regForm : Dst → Option (BitVec 12)
  | .s i => some (i.setWidth 12)
  | .v i => some (0x100 ||| i.setWidth 12)
  | .p i => some (0x200 ||| i.setWidth 12)
  | .k i => some (0x300 ||| i.setWidth 12)
  | .cr i => some (0x500 ||| i.setWidth 12)
  | .lc i => some (Config.loopForm i)
  | _ => none

/-- The address of a tag, in a word that also says where it lies: an offset in a scratchpad (bit 63) or in staging (bit 62), else a
virtual address; and the address alone (R396). -/
def markScratch (a : Word) : Word := a ||| 0x8000000000000000
def markStaging (a : Word) : Word := a ||| 0x4000000000000000
def tagPlain (a : Word) : Word := a &&& 0x01FFFFFFFFFFFFFF

/-- The address that a register's or port's tag carries, where it is tagged (R396). -/
def Core.tagOf (c : Core) (d : Dst) : Option Word := (c.tags.find? (fun t => t.reg == d && !t.own)).map (·.addr)

/-- Whether the storage of a register is itself uncorrectable (R392 CODE 0x0001, R395). -/
def Core.ownBad (c : Core) (d : Dst) : Bool := c.tags.any fun t => t.reg == d && t.own

/-- The data error of a register whose storage is uncorrectable (R392, R395): TINFO is its register form. -/
def ownConds (c : Core) (d : Dst) (opnd : BitVec 4) : List Cond :=
  if c.ownBad d then [⟨6, 0x30, 1, opnd, ((regForm d).getD 0).setWidth 64, 0⟩] else []

/-- The data-error conditions of a source (R395, R396, R434): of its own storage, and of a tagged value, with the address it came
from. -/
def tagConds (c : Core) (d : Dst) (opnd : BitVec 4) : List Cond :=
  ownConds c d opnd ++ (match c.tagOf d with
    | some a => [⟨6, 0x30, 2, opnd, tagPlain a, a⟩]
    | none => [])

/-- The data error of accumulator or matrix state that is uncorrectable (R392 CODE 0x0003, R395): the lowest row, or 0x20 for the
image. The items are the acc rows 0-31, Legend 32, MSTAT 33, MCFG 34, DSCA 35 and DSCB 36. -/
def mxConds (c : Core) (items : List Nat) : List Cond :=
  match items.filter c.mxBad.contains with
  | [] => []
  | i :: r => [⟨6, 0x30, 3, 15, BitVec.ofNat 64 (min 32 (r.foldl min i)), 0⟩]

/-- Items of the matrix state that a write has covered whole are correct (R395). -/
def Core.mxRepair (c : Core) (items : List Nat) : Core := { c with mxBad := c.mxBad.filter fun i => !items.contains i }

/-- The acc rows, and the 64-byte image, as items. -/
def accItems : List Nat := List.range 32
def imageItems : List Nat := [32, 33, 34, 35, 36]

/-- Reads a register through a wait bit: an empty register holds the bundle where the bit is set, and is an empty-read
fault where it is clear (R76, R425). -/
def srcOf (full w : Bool) (v : Vec) (opnd : BitVec 4) (tags : List Cond) : Src :=
  if full then { val := v, conds := tags }
  else if w then { val := v, block := true }
  else { val := v, conds := [condOperand 1 opnd 0] }

/-- A scalar source field (R160). -/
def Core.srcS (c : Core) (f : BitVec 7) (opnd : BitVec 4) : Src :=
  let i : BitVec 6 := f.setWidth 6
  srcOf (c.ctx.fullS i) (f.getLsbD 6) ((c.ctx.rdS i).setWidth 1024) opnd (tagConds c (.s i) opnd)

/-- A vector source field: index 32-63 names a scalar, zero-extended (R160, R205). -/
def Core.srcV (c : Core) (f : BitVec 7) (opnd : BitVec 4) : Src :=
  if f.getLsbD 5 then c.srcS (f &&& 0x5F) opnd
  else
    let i : BitVec 5 := f.setWidth 5
    srcOf (c.ctx.fullV i) (f.getLsbD 6) (c.ctx.rdV i) opnd (tagConds c (.v i) opnd)

/-- A register a format reads through its D field, which waits for an outstanding producer (R76, R160). -/
def Core.srcD (c : Core) (d : Dst) (opnd : BitVec 4) : Src :=
  match d with
  | .s i => { val := (c.ctx.rdS i).setWidth 1024, block := !c.ctx.fullS i, conds := tagConds c d opnd }
  | .v i => { val := c.ctx.rdV i, block := !c.ctx.fullV i, conds := tagConds c d opnd }
  | _ => {}

/-- The second operand of SR, SK and MA: a register or a sign-extended 7-bit immediate (R160). -/
def Core.srcBX (c : Core) (b : BitVec 7) (x : BitVec 1) : Src :=
  if x = 1 then { val := ((b.signExtend 64 : Word)).setWidth 1024 } else c.srcS b 1

/-- A latch: void faults where the operation reads it (R137, R425 CODE 0x0002). -/
def srcLatch (l : Option Vec) (opnd : BitVec 4) : Src :=
  match l with
  | some v => { val := v }
  | none => { conds := [condOperand 2 opnd 0] }

/-- The .y port of an operation's own unit, as ins base or merge value (R179, R206). -/
def srcBase (c : Core) (i : BitVec 6) : Src :=
  match (c.port i).y with
  | .val v => { val := v, conds := tagConds c (.y i) 5 }
  | .wait => { block := true }
  | .void => { conds := [condOperand 2 5 0] }

/-! ## Operands by format -/

/-- A word as a wide value. -/
abbrev wide (x : Word) : Vec := x.setWidth 1024

/-- The mode word a VR word stands for, from its T field (R163). -/
def vrMode (k : VKind) (t : BitVec 2) : BitVec 32 :=
  match k with
  | .intg => match t with | 0 => 5 | 1 => 6 | 2 => 7 | _ => 9
  | .flt | .fltR => match t with | 0 => 0 | 1 => 2 | 2 => 1 | _ => 15
  | .perm => match t with | 0 => 6 | 1 => 8 | 2 => 10 | _ => 14
  | .red => match t with | 0 => 0 | 1 => 2 | 2 => 5 | _ => 6
  | .cvt => match t with | 0 => 0x40000 | 1 => 2 | 2 => 0xA0000 | _ => 5
  | .quant => match t with | 0 => 0 | 1 => 0x10000 | 2 => 2 | _ => 0x10002

/-- The mode word an EXT word stands for (R163, R208). -/
def vxMode (et : BitVec 4) (w : BitVec 2) (rm : BitVec 3) (me : BitVec 1) (mk : BitVec 3) (uf : BitVec 6) : BitVec 32 :=
  ((0 : BitVec 10) ++ uf ++ (0 : BitVec 3) ++ mk ++ me ++ rm ++ w ++ et)

/-- The element type a beat's T field stands for, as an ET code (R165, R238). -/
def beatEt (t : BitVec 3) : BitVec 32 :=
  match t with
  | 0 => 2 | 1 => 1 | 2 => 3 | 3 => 4 | 4 => 9 | 5 => 10 | 6 => 11 | _ => 12

/-- The mode word of a load or store opcode: VEC and the width, or the element type of R169 (R167, R244). -/
def ldMode (sub : BitVec 4) : BitVec 32 :=
  match sub with
  | 0 => 10 | 1 => 9 | 2 => 8 | 3 => 7 | 4 => 6 | 5 => 5 | 6 => 14
  | 7 => 0x10020 | 8 => 0x10010 | _ => 0x10000

/-- The mode word of a store opcode (R167). -/
def stMode (sub : BitVec 4) : BitVec 32 :=
  match sub with
  | 0 => 10 | 1 => 8 | 2 => 6 | 3 => 14
  | 4 => 0x10020 | 5 => 0x10010 | _ => 0x10000

/-- The mode word of a scratchpad access: SQ, and VEC with the width (R166, R247). -/
def spMode (q sz : BitVec 2) : BitVec 32 :=
  let size : BitVec 32 := match sz with | 0 => 0 | 1 => 0x10020 | 2 => 0x10010 | _ => 0x10000
  size ||| (q.setWidth 32 <<< 13)

/-- The mode word of an atomic opcode: its element type, M in bit 16 and NR in bit 17 (R156, R264). -/
def atMode (op : BitVec 6) (d : BitVec 6) (z : BitVec 1) : BitVec 32 :=
  let nr : BitVec 32 := if d = 0 then 0x20000 else 0
  let m : BitVec 32 := if z = 1 then 0x10000 else 0
  let int : BitVec 32 := if z = 1 then 14 else 6
  let sint : BitVec 32 := if z = 1 then 13 else 6
  nr ||| (match op with
    | 0x31 => m | 0x32 => 2 ||| m | 0x35 | 0x38 => 0
    | 0x33 | 0x36 => if z = 1 then sint else 5
    | _ => int)

/-- What an operation reads and where its results go, in one form for both encodings. -/
structure Args where
  nat : Bool
  slot : BitVec 3
  port : BitVec 6
  a : Vec
  b : Vec
  c : Vec
  base : Vec
  m : BitVec 32
  y : Dst
  z : Dst
  block : Bool
  conds : List Cond
  deriving DecidableEq, Repr

/-- Which operands an operation reads: `b` and `base` may hang on the core and the mode word. -/
structure Use where
  a : Bool := true
  b : Core → BitVec 32 → Bool := fun _ _ => true
  c : Bool := false
  base : Core → BitVec 32 → Bool := fun _ _ => false

/-- No operand b. -/
def noB : Core → BitVec 32 → Bool := fun _ _ => false

/-- The sources, mode and destinations of a native word, before what the operation reads is known. -/
structure NatOps where
  a : Src := {}
  b : Src := {}
  c : Src := {}
  base : Src := {}
  m : BitVec 32 := 0
  y : Dst := .none
  z : Dst := .none
  deriving DecidableEq, Repr

/-- A constant source. -/
def srcConst {w : Nat} (x : BitVec w) : Src := { val := x.setWidth 1024 }

/-- The operand fields of a native word (R160, R161, R163, R165, R166, R172). -/
def natOps (c : Core) (row : OpRow) (f : Fmt) : NatOps :=
  match f with
  | .sr d a b x =>
      match row.shape with
      | .srv => { a := c.srcV a 4, b := c.srcBX b x, c := srcConst d }
      | .sr .dc _ _ => { a := c.srcS a 4, b := c.srcBX b x, c := srcConst d }
      | .sr .vreg _ _ => { a := c.srcS a 4, b := c.srcBX b x, y := .v (d.setWidth 5) }
      | .sr .sreg _ _ => { a := c.srcS a 4, b := c.srcBX b x, base := c.srcD (.s d) 5, y := .s d }
      | .sr .link _ _ => { a := c.srcS a 4, b := c.srcBX b x, c := srcConst d, y := .s d }
      | _ => { a := c.srcS a 4, b := c.srcBX b x }
  | .se d a imm =>
      match row.shape with
      | .sk => { a := c.srcS a 4, b := srcConst (imm.signExtend 64),
                 m := (bits d 0 2 : BitVec 2).setWidth 32 <<< 17, y := .p (bits d 2 4) }
      | _ => { a := c.srcS a 4, b := srcConst (imm.signExtend 64), base := c.srcD (.s d) 5, y := .s d }
  | .sk p cc a b x => { a := c.srcS a 4, b := c.srcBX b x, m := cc.setWidth 32 <<< 17, y := .p p }
  | .sb off => { a := srcConst (off.signExtend 64) }
  | .sd d off => { a := srcConst (off.signExtend 64), c := srcConst d, y := .s d }
  | .sc cr a d => { a := c.srcS a 4, b := srcConst cr, y := .s d }
  | .sg imm a => { a := c.srcS a 4, b := srcConst imm }
  | .sl n a pb nst len =>
      { a := c.srcS a 4, b := srcConst ((len.setWidth 10 ++ nst ++ pb ++ n : BitVec 19)) }
  | .sp d a b e =>
      let sel := c.ctx.rdP (e.setWidth 4) != e.getLsbD 4
      { a := c.srcS a 4, b := c.srcS b 1, y := .s d,
        c := if row.shape = .lea then srcConst (e.setWidth 2)
          else { srcConst (BitVec.ofBool sel) with conds := ownConds c (.p (e.setWidth 4)) 2 } }
  | .vr d a b t =>
      match row.shape with
      | .vcmp k => { a := c.srcV a 4, b := c.srcV b 1, y := .k (d.setWidth 3),
                     m := vrMode k t ||| ((bits d 3 2 : BitVec 2).setWidth 32 <<< 16) }
      | .v k _ => { a := c.srcV a 4, b := c.srcV b 1, base := c.srcD (.v d) 5, m := vrMode k t, y := .v d, z := .v (d + 1) }
      | _ => { a := c.srcV a 4, b := c.srcV b 1, c := c.srcD (.v d) 2, base := c.srcD (.v d) 5,
               m := vrMode .flt t, y := .v d }
  | .vx d a b cf et w rm me mk uf =>
      match row.shape with
      | .vcmp _ => { a := c.srcV a 4, b := c.srcV b 1, y := .k (d.setWidth 3),
                     m := vxMode et w rm me mk uf ||| ((bits d 3 2 : BitVec 2).setWidth 32 <<< 16) }
      | _ => { a := c.srcV a 4, b := c.srcV b 1, c := c.srcV cf 2, base := c.srcD (.v d) 5,
               m := vxMode et w rm me mk uf, y := .v d, z := .v (d + 1) }
  | .xb a b cl t => { a := c.srcV a 4, b := c.srcV b 1, m := beatEt t ||| (cl.setWidth 32 <<< 16) }
  | .xr d r a =>
      if row.shape = .xr true then { a := srcConst r, y := .v d } else { a := c.srcV a 4, b := srcConst r }
  | .xs d a => { a := c.srcV a 4, b := srcConst d, y := match row.shape with | .xs true _ => .v d | _ => .none }
  | .ma sub d a b x =>
      { a := c.srcS a 4, b := c.srcBX b x, m := if row.shape = .ld then ldMode sub else 0,
        y := if row.shape = .ld ∧ 7 ≤ sub.toNat then .v (d.setWidth 5) else .s d }
  | .me sub d a off =>
      { a := c.srcS a 4, b := srcConst (off.signExtend 64), m := ldMode sub,
        y := if 7 ≤ sub.toNat then .v (d.setWidth 5) else .s d }
  | .mw sub v a b =>
      match row.shape with
      | .st => { a := c.srcS a 4, b := c.srcS b 1, m := stMode sub, c := if 4 ≤ sub.toNat then c.srcV v 2 else c.srcS v 2 }
      | _ => if row.unit = .LDS ∧ row.op = 0x18 then
          { a := c.srcS a 4, b := c.srcV b 1, c := c.srcV v 2, m := if sub = 0 then 6 else 14 }
        else
          let x := c.srcS a 4
          let y := c.srcS b 4
          { a := { val := wide (x.val.setWidth 64 + y.val.setWidth 64), block := x.block || y.block,
                   conds := x.conds ++ y.conds }, b := c.srcS v 1 }
  | .my sub v a off =>
      { a := c.srcS a 4, b := srcConst (off.signExtend 64), m := stMode sub,
        c := if 4 ≤ sub.toNat then c.srcV v 2 else c.srcS v 2 }
  | .ms d a q sz => { a := c.srcS a 4, m := spMode q sz, y := if sz = 0 then .s d else .v (d.setWidth 5) }
  | .mu v a sz => { a := c.srcS a 4, b := if sz = 0 then c.srcS v 1 else c.srcV v 1, m := spMode 0 sz }
  | .mg sub d a b => { a := c.srcV a 4, b := c.srcV b 1, m := if sub = 0 then 6 else 14, y := .v d, base := c.srcD (.v d) 5 }
  | .mq q a d =>
      if row.shape = .mq true false then { a := c.srcV a 4, b := srcConst q } else { a := srcConst q, y := .s d }
  | .mc a => { a := c.srcV a 4 }
  | .mn n a => if row.shape = .mn true then { a := c.srcS a 4, b := srcConst n } else { a := srcConst n }
  | .mt a b k l => { a := c.srcS a 4, b := c.srcS b 1, m := (k.setWidth 32 <<< 16) ||| (l.setWidth 32 <<< 18) }
  | .mf k sc => { m := (k.setWidth 32 <<< 16) ||| (sc.setWidth 32 <<< 18) }
  | .mk p a b => { a := c.srcS a 4, b := c.srcS b 1, y := .p p }
  | .atm sub d a b z =>
      { a := c.srcS a 4, b := c.srcS b 1, c := c.srcD (.s d) 2, y := .s d,
        m := atMode (row.op + sub.setWidth 6) d z }

/-- The data error of the mask register that a masked vector operation, gather or scatter reads (R206, R245, R395). -/
def maskConds (row : OpRow) (c : Core) (m : BitVec 32) : List Cond :=
  if c.tags.isEmpty then []
  else match row.unit with
    | .VAI | .VFP | .VPM | .SFN => if m.getLsbD 9 then ownConds c (.k (bits m 10 3)) 15 else []
    | .LDS => if (row.op = 0x16 ∨ row.op = 0x18) ∧ m.getLsbD 9 then ownConds c (.k (bits m 10 3)) 15 else []
    | _ => []

/-- Operands of a form: what the operation reads is fetched, with what holds or stops it. A destination with an
outstanding producer holds the bundle (R76), and so does an own result port still outstanding. -/
def fetchArgs (row : OpRow) (use : Use) (f : Form) (c : Core) : Args :=
  match f with
  | .wy inst =>
      let i := portIx row.unit inst
      let p := c.port i
      let sa : Src := if use.a then srcLatch p.a 4 else { val := p.a.getD 0 }
      let sb : Src := if use.b c p.m then srcLatch p.b 1 else { val := p.b.getD 0 }
      let sc : Src := if use.c then srcLatch p.c 2 else { val := p.c.getD 0 }
      let s0 : Src := if use.base c p.m then srcBase c i else {}
      { nat := false, slot := 0, port := i, a := sa.val, b := sb.val, c := sc.val, base := s0.val, m := p.m, y := .y i, z := .z i,
        block := s0.block || c.outstanding (.y i) || c.outstanding (.z i),
        conds := sa.conds ++ sb.conds ++ sc.conds ++ s0.conds ++ maskConds row c p.m }
  | .nat slot _ _ fm =>
      let n := natOps c row fm
      let sa : Src := if use.a then n.a else { val := n.a.val }
      let sb : Src := if use.b c n.m then n.b else { val := n.b.val }
      let sc : Src := if use.c then n.c else { val := n.c.val }
      let s0 : Src := if use.base c n.m then n.base else { val := n.base.val }
      { nat := true, slot := slot, port := 0, a := sa.val, b := sb.val, c := sc.val, base := s0.val, m := n.m, y := n.y, z := n.z,
        block := sa.block || sb.block || sc.block || s0.block || c.outstanding n.y,
        conds := sa.conds ++ sb.conds ++ sc.conds ++ s0.conds ++ maskConds row c n.m }

/-- The 64-bit operands. -/
def Args.a64 (x : Args) : Word := x.a.setWidth 64
def Args.b64 (x : Args) : Word := x.b.setWidth 64
def Args.c64 (x : Args) : Word := x.c.setWidth 64

/-! ## Results -/

/-- An operation as the issue logic sees it (R76, R79): whether something holds its bundle, the conditions it meets,
whether it counts as an MX-slot operation (R231) or a control transfer (R159), its effect at commit, and its transfer of
control, which follows every other effect (R132). -/
structure Sem where
  block : Bool := false
  /-- Whether the hold is one of R338: an empty stream or granule, a counter wait or a byte barrier. -/
  waits : Bool := false
  /-- What such a hold waits for. -/
  why : Option WaitOn := none
  /-- Whether the hold is a full send or copy queue (R199, R254). -/
  queue : Bool := false
  /-- The core whose open sheet's reservation holds it (R338). -/
  meets : Option CoreNo := none
  conds : List Cond := []
  /-- Whether it waits for descriptors, whose fill is a matter of rank 8: what ranks 1 to 7 find comes before it (R430, R434, R435). -/
  fills : Bool := false
  mx : Bool := false
  ctl : Bool := false
  /-- The number of a software trap, taken after the group (R188). -/
  soft : Option (BitVec 8) := none
  /-- An explicit write of a register of flags, before any flag of the bundle is ORed in (R187). -/
  early : State → State := id
  /-- An explicit write of any other control register, which no slot of the bundle sees (R187). -/
  late : State → State := id
  eff : State → State := id
  xfer : Option (State → State) := none

/-- Changes the current core. -/
def State.onCore (s : State) (f : Core → Core) : State := s.setCore (f s.core)

/-- A Wyilo operation's start leaves its result ports void until it writes them (R130). -/
def Core.voidPorts (c : Core) (x : Args) : Core :=
  if x.nat then c else c.setPort x.port { c.port x.port with y := .void, z := .void, f := .void }

/-- A list of tags with that of one register replaced. -/
def retagged (ts : List RegTag) (d : Dst) (t : Option Word) : List RegTag :=
  let rest := ts.filter (fun t => t.reg != d)
  match t, d with
  | none, _ | _, .none => rest
  | some a, d => { reg := d, addr := a } :: rest

/-- The core with the tag of one register replaced. -/
def Core.retag (c : Core) (d : Dst) (t : Option Word) : Core := { c with tags := retagged c.tags d t }

/-- Writes one fixed-latency result: native code waits out the latency (R77), Wyilo reads it in the next group (R130). -/
def Core.putResult (c : Core) (x : Args) (now lat : Nat) (d : Dst) (v : Vec) (fl : FFlags) : Core :=
  if x.nat then { c with pend := c.pend ++ [{ gen := c.sheetGen, due := now + lat, dst := d, val := v, flags := fl }] }
  else ((c.wrDst d v).orFstat fl).retag d none

/-- The effect of an operation with one fixed-latency result. -/
def effY (x : Args) (lat : Nat) (v : Vec) (s : State) : State :=
  s.onCore fun c => (c.voidPorts x).putResult x s.now lat x.y v 0

/-- The effect of a carrying move of native code (R396): the value and the tag of its source. -/
def effCarry (x : Args) (lat : Nat) (v : Vec) (tag : Option Word) (s : State) : State :=
  s.onCore fun c => { c with pend := c.pend ++ [{ gen := c.sheetGen, due := s.now + lat, dst := x.y, val := v, flags := 0,
                                                  tag := tag }] }

/-- An operation made a carrying move where `src` names its source (R396). -/
def Sem.carry (m : Sem) (c : Core) (x : Args) (lat : Nat) (src : Option Dst) : Sem :=
  match src with
  | some d => { m with conds := m.conds.filter (fun k => k.cls != 0x30 || k.code == 1), eff := effCarry x lat x.a (c.tagOf d) }
  | none => m

/-- The effect of an operation with one fixed-latency result and flags. -/
def effYF (x : Args) (lat : Nat) (v : Vec) (fl : FFlags) (s : State) : State :=
  s.onCore fun c => (c.voidPorts x).putResult x s.now lat x.y v fl

/-- The effect of an operation that writes no result. -/
def effNone (x : Args) (s : State) : State := s.onCore fun c => c.voidPorts x

/-- Starts a long-latency producer: its destination is emptied, or its port outstanding, until the result lands (R68,
R76). A destination that discards writes is left alone. -/
def Core.produce (c : Core) (x : Args) (d : Dst) (aw : Awaits) (fl : FFlags) (bad : Option Word) : Core :=
  let c := c.voidPorts x
  let c := match d with
    | .y i => c.setPort i { c.port i with y := .wait }
    | d => { c with ctx := c.ctx.emptyDst d }
  { c with ops := c.ops + 1,
           outst := c.outst ++ [{ gen := c.sheetGen, no := c.ops, dst := d, awaits := aw, flags := fl, bad := bad.isSome,
                                  addr := bad.getD 0 }] }

/-- A producer whose value is known and lands a fixed number of cycles after commit (R211, R231, R247). -/
def effProduce (x : Args) (lat : Nat) (v : Vec) (fl : FFlags) (s : State) : State :=
  s.onCore fun c => c.produce x x.y (.ready v (some (s.now + lat))) fl none

/-- Writes a landing result into a context: registers only. -/
def Ctx.landReg (c : Ctx) (d : Dst) (v : Vec) (fl : FFlags) : Ctx :=
  let c := c.setCreg crFSTAT (c.creg crFSTAT ||| fl.setWidth 64)
  match d with
  | .s i => c.wrS i (v.setWidth 64)
  | .v i => c.wrV i v
  | .p i => c.wrP i (v.getLsbD 0)
  | .k i => { c with k := c.k.put i (v.setWidth 128) }
  | _ => c

/-- A result of an earlier sheet also lands in what a discard of a later open sheet would restore (R339, R340). -/
def Core.landShadows (c : Core) (gen : Nat) (d : Dst) (v : Vec) (fl : FFlags) (t : Option Word) : Core :=
  { c with sheets := c.sheets.map fun o => o.map fun sh =>
      if gen < sh.gen then
        { sh with shadow := { sh.shadow with ctx := sh.shadow.ctx.landReg d v fl, tags := retagged sh.shadow.tags d t } }
      else sh }

/-- Lands a long-latency result: the destination is written as full, tagged or not, and its flags are ORed in (R68,
R211, R396). -/
def Core.land (c : Core) (o : Outst) (v : Vec) : Core :=
  let t := if o.bad then some o.addr else none
  let c := { c with landedFlags := c.landedFlags ||| o.flags }
  (((c.wrDst o.dst v).orFstat o.flags).landShadows o.gen o.dst v o.flags t).retag o.dst t

/-- Lands a fixed-latency result (R77). Where a producer issued later is outstanding to its register, the register is full from this landing
on: the spec does not say whether R68's clear bit outlasts it (DESIGN CHOICE, log entry 67). -/
def Core.landPend (c : Core) (p : Pend) : Core :=
  let c := { c with landedFlags := c.landedFlags ||| p.flags }
  (((c.wrDst p.dst p.val).orFstat p.flags).landShadows p.gen p.dst p.val p.flags p.tag).retag p.dst p.tag

end Sys2Proof.Machine
end

