-- ==== Sys2Proof/Machine/Ops.lean ====
section
/-! DEFINITION. What the machine does around an operation: sheets (R335-R342), the end of tasks and launches (R47-R57,
R402), taking a trap and returning from one (R87-R92, R397, R401), transfers and loop passes (R84-R86, R135-R137). -/

namespace Sys2Proof.Machine

/-! ## Reads of a core -/

/-- Whether two lists of pieces touch a common byte. -/
def meetPieces (ps qs : List Piece) : Bool := ps.any fun p => qs.any fun q => decide (p.pa < q.pa + q.n) && decide (q.pa < p.pa + p.n)

/-- Whether an earlier read of a core, numbered below `no`, is still held and touches bytes of these pieces: the core's reads of one
byte are performed in their order (R315). -/
def Core.readAhead (c : Core) (no : Nat) (ps : List Piece) : Bool :=
  c.outst.any fun o => decide (o.no < no) && match o.awaits with | .read q _ => meetPieces q.pieces ps | _ => false

/-- Performs a read of a core: none while it is held; otherwise its value and the first tagged address. A piece that lies in a device
register gives its bytes as the core's own gated writes leave them (R303, R337, R359). A read that a pile has given up is answered as
uncorrectable (R463). -/
def performRead (s : State) (core : CoreNo) (r : LoadReq) : Option (State × Vec × Option Word) :=
  let no := match r.held with | some h => h.1 | none => (s.coreAt core).ops
  if (s.coreAt core).readAhead no r.pieces then none
  else match preparePieces s core r.clock no r.held.isSome r.pieces with
  | none => (r.pieces.find? fun p => (linesOf p.pa p.n).any (s.mem.gaveUp core)).map fun p =>
      (s.withMem fun m => m.answered core (r.pieces.flatMap fun p => linesOf p.pa p.n), r.base, some (p.tagAddr p.pa))
  | some s' =>
    let view (nc : Bool) : Nat → Byte × Bool := match r.held with
      | some h => fun pa => match cellAt pa h.2 with | some b => (b, false) | none => cachedByte s' core nc pa
      | none => gatedView (s'.coreAt core).gatedAll (cachedByte s' core nc)
    let rd (p : Piece) : List Byte × Option Nat :=
      if targetOf p.pa = .device then
        let own := if r.held.map Prod.fst = some 0 then [] else (s'.coreAt core).gatedAll
        (s'.devSeen own (p.pa - devBase) p.n, none)
      else readRun (view p.nc) p.pa p.n
    let (v, e) := gatherPieces rd r.base r.pieces
    let v : Vec := match r.low with | some x => ((v >>> 32) <<< 32) ||| x.setWidth 1024 | none => v
    some (s', (match r.sext with | some n => sextTo64 n v | none => v), e)

/-! ## Code objects and regions -/

/-- The tenant number in a code-object handle (R153). -/
def codeTenant (h : Word) : BitVec 5 := bits h 43 5

/-- The loaded object whose text covers an address, for a tenant, or for the supervisor's own half (R152, R303). -/
def State.objAt (s : State) (t : BitVec 5) (a : Word) : Option CodeObj :=
  s.plat.objects.find? fun o => (a.getLsbD 56 || codeTenant o.code == t) &&
    decide (o.text.toNat ≤ a.toNat) && decide (a.toNat < o.text.toNat + 4 * o.words)

/-- Whether an address begins a region (R135, R148). -/
def State.regionStart (s : State) (t : BitVec 5) (a : Word) : Bool :=
  match s.objAt t a with
  | some o => a.toNat % 4 == 0 && o.regions.contains ((a.toNat - o.text.toNat) / 4)
  | none => false

/-- The fault point of a core's task at an address (R440). -/
def State.pointFor (s : State) (n : CoreNo) (va : Word) : Option FaultPoint :=
  let c := s.coreAt n
  s.plat.faultPoints.find? fun p => p.die == dieOf n && p.tenant == c.tenant && p.va == va && p.pin == c.pin

/-- Whether an address lies inside a region, behind its start, with no fault point of the Cartographer at it: no commit point
(R335). -/
def State.midRegion (s : State) (n : CoreNo) (a : Word) : Bool :=
  let t := (s.coreAt n).tenant
  (s.objAt t a).isSome && !s.regionStart t a && (s.pointFor n a).isNone

/-- Whether a transfer may go to an address (R137, R181). -/
def State.targetOk (s : State) (t : BitVec 5) (a : Word) : Bool :=
  (bits a 57 7 : BitVec 7) = 0 && (bits a 0 2 : BitVec 2) = 0 && s.regionStart t a

/-! ## Sheets -/

/-- What a sheet opened now would restore (R336). -/
def Core.snapshot (c : Core) : Shadow :=
  { ctx := c.ctx, acc := c.acc, legend := c.legend, mstat := c.mstat, mcfg := c.mcfg, dsca := c.dsca, dscb := c.dscb,
    bank := c.banks.get c.depth, tags := c.tags }

/-- A producer whose result port a port boundary makes void: its flags still land (R136). -/
def Outst.portless (o : Outst) : Outst := match o.dst with | .y _ | .z _ => { o with dst := .none } | _ => o

/-- A port boundary (R136): every latch and result port of the bank void, a result still outstanding to one included, every mode latch
0. -/
def Core.portBoundary (c : Core) : Core :=
  { c with banks := c.banks.put c.depth (RF.fill {}), outst := c.outst.map Outst.portless,
           tags := c.tags.filter fun t => match t.reg with | .y _ | .z _ => false | _ => true }

/-- Opens a sheet at the context's virtual PC: a port boundary where a region begins there (R136, R138); a sheet that
follows a fault point inside a region goes on with the ports as they are (R440). -/
def Core.openSheet (c : Core) (text : List (BitVec 32)) (bundle : Option Nat) (fresh : Bool) : Core :=
  let gen := c.sheetGen + 1
  let c := if fresh then c.portBoundary else c
  let c := { c with sheetGen := gen, group := [] }
  c.setSheet (some { entry := c.ctx.pc, gen := gen, text := text, shadow := c.snapshot, bundle := bundle })

/-- The control registers a discard restores (R336): 0x02-0x05, 0x0D and 0x16. -/
def shadowedCr (i : BitVec 5) : Bool := (2 ≤ i.toNat && i.toNat ≤ 5) || i = 13 || i = 22

/-- The context with the shadowed state of a snapshot (R336, R340). -/
def Ctx.restore (c sh : Ctx) : Ctx :=
  { sh with cr := Vector.ofFn fun i : Fin (2 ^ 5) =>
              if shadowedCr (BitVec.ofNat 5 i.val) then sh.creg (BitVec.ofNat 5 i.val) else c.creg (BitVec.ofNat 5 i.val)
            code := c.code, coords := c.coords, lastSusp := c.lastSusp }

/-- A granule list with granules taken out. -/
def granFill (empty : List Nat) (gs : List Nat) : List Nat := empty.filter fun g => !gs.contains g

/-- A granule list with granules put in, once each. -/
def granEmpty (empty : List Nat) (gs : List Nat) : List Nat :=
  gs.foldl (fun acc g => if acc.contains g then acc else g :: acc) empty

/-- Drops the locks that a core's sheets from number `gen` on hold (R338): what they kept out goes on. -/
def MemSys.unlock (m : MemSys) (n : CoreNo) (gen : Nat) : MemSys :=
  { m with locks := m.locks.filter fun l => l.core != n || decide (l.gen < gen) }.letIn

/-- Sets the full bits of granules that a discarded sheet had taken (R338). -/
def State.untake (s : State) : List (CoreNo × Nat) → State
  | [] => s
  | (n, g) :: r =>
    let c := s.coreAt n
    State.untake (s.setCoreAt n { c with emptyGran := granFill c.emptyGran [g] }) r

/-- The atlas of a die with locks removed from entries (R338, R345). -/
def State.unlockAtlas (s : State) (t : BitVec 5) (d : BitVec 3) (p : AtlasEntry → Bool) : State :=
  let es := (s.plat.atlas.get d).map fun e => if e.tenant == t && p e then { e with lock := none } else e
  { s with plat := { s.plat with atlas := s.plat.atlas.put d es } }

/-- The numbers of the atomics among gated entries. -/
def atomicNumbers (gs : List Gated) : List Nat :=
  gs.filterMap fun g => match g with | .atomic _ _ _ _ _ no _ _ => some no | _ => none

/-- The bundle lines that an icinv has dropped under the sheet that runs go as the sheet ends (R262). -/
def Core.dropStale (c : Core) : Core := if c.bcache.any BundleLine.stale then { c with bcache := c.bcache.filter fun l => !l.stale } else c

/-- Discards the open sheet of depth `d` of core `n` (R340): shadow set, gated entries and reservations, and a condition that one of its
groups has met. What held its first bundle still does where no bundle has issued (R190-R192, R354). -/
def State.discardSheet (s : State) (n : CoreNo) (d : BitVec 2) : State :=
  let c := s.coreAt n
  match c.sheets.get d with
  | none => s
  | some sh =>
    let c := { c with
      sheets := c.sheets.put d none, group := [], ctx := c.ctx.restore sh.shadow.ctx, acc := sh.shadow.acc,
      legend := sh.shadow.legend, mstat := sh.shadow.mstat, mcfg := sh.shadow.mcfg, dsca := sh.shadow.dsca,
      dscb := sh.shadow.dscb, tags := sh.shadow.tags, banks := c.banks.put d sh.shadow.bank, stalled := false, holding := false
      descAt := none, pendTrap := none, hold := if sh.begun then .none else c.hold, waitsIssue := c.waitsIssue && !sh.begun
      outst := c.outst.filter (fun o => decide (o.gen < sh.gen)), pend := c.pend.filter (fun p => decide (p.gen < sh.gen)) }
    let c := (c.traceAdd 7 0 sh.entry (s.cyc c)).dropStale
    let s := (s.setCoreAt n c).untake sh.takes
    let s := sh.newLocks.foldl (fun s l => s.unlockAtlas c.tenant l.die (fun e => e.entry == l.entry)) s
    let gone := atomicNumbers sh.gated
    s.withMem fun m => { m.unlock n sh.gen with atomics := m.atomics.filter fun a => !(a.core == n && gone.contains a.no) }

/-- TMOVE of an operand and a move index (R71). -/
def tmoveOf (opnd : BitVec 4) (idx : Nat) : Word := (opnd.setWidth 64 <<< 8) ||| BitVec.ofNat 64 (idx % 256)

/-- A discard under R338 is a late landing in the pinned regime (R353). -/
def State.discardLate (s : State) (n : CoreNo) (d : BitVec 2) : State :=
  let t := s.discardSheet n d
  if (s.coreAt n).pin then t.setCoreAt n (t.coreAt n).setLate else t

/-- A gated entry as its commit leaves it: a copy of the pinned regime counts its time from there, and a packet its slot (R351,
R355). -/
def Gated.atCommit (now slot : Nat) : Gated → Gated
  | .copy e => .copy { e with due := e.due.map fun _ => now }
  | .send p n va pay bt vpc _ => .send p n va pay bt vpc slot
  | g => g

/-- A sheet that has met an uncorrectable entry of its gated store buffer, or an uncorrectable shadow set, comes to a commit point
(R394): it is discarded and runs again, and the third time in a row the data error stands at its entry. -/
def State.spoilSheet (s : State) (n : CoreNo) (sh : Sheet) : State :=
  let c := s.coreAt n
  let s := (s.discardSheet n c.depth).report
    { src := 0x07, sev := 0, unit := n.setWidth 16, ten := some c.tenant, vpc := sh.entry, task := (s.coreAt n).creg crTASK }
  let c := s.coreAt n
  if 2 ≤ c.gsbRuns then
    s.setCoreAt n { c with
      gsbRuns := 0
      pendTrap := some { sup := true, cls := 0x30, code := 4, tvpc := sh.entry, tslot := 0, tinfo := 0, tmove := tmoveOf 15 0xFF
                         src := some 0x07 } }
  else s.setCoreAt n { c with gsbRuns := c.gsbRuns + 1 }

/-- A commit point (R339): the shadow set is the context's, and the gated entries, the values of reservations among them, are
on their way out in program order. -/
def State.commitSheet (s : State) (n : CoreNo) : State :=
  let c := s.coreAt n
  match c.sheet with
  | none => s
  | some sh =>
    let now := s.plat.cycle - c.frozen
    let c := { c with gsbRuns := 0, check := none
                      committed := c.committed ++ sh.gated.map (fun (g : Gated) => (c.depth, g.atCommit now s.slotNow)) }
    s.setCoreAt n (c.dropStale.setSheet none)

/-- A commit point that comes without a bundle's issue. -/
def State.commitPoint (s : State) (n : CoreNo) : State :=
  match (s.coreAt n).sheet with
  | some sh => if sh.spoiled then s.spoilSheet n sh else s.commitSheet n
  | none => s

/-! ## Launches: completion and cancellation -/

/-- The fields of a launch record (R33). -/
def Launch.code (l : Launch) : Word := l.rec_.extractLsb' 0 64
def Launch.entry (l : Launch) : Word := l.rec_.extractLsb' 64 64
def Launch.handle (l : Launch) : BitVec 32 := l.rec_.extractLsb' 128 32
def Launch.flagPin (l : Launch) : Bool := l.rec_.getLsbD 176
def Launch.flagNotify (l : Launch) : Bool := l.rec_.getLsbD 177
def Launch.levels (l : Launch) : Nat := (l.rec_.extractLsb' 184 8 : BitVec 8).toNat
def Launch.succ (l : Launch) (i : Nat) : BitVec 32 := l.rec_.extractLsb' (192 + 32 * i) 32
def Launch.lvl (l : Launch) (j : Nat) : BitVec 32 := l.rec_.extractLsb' (320 + 32 * j) 32
def Launch.arg (l : Launch) (i : Nat) : BitVec 32 := l.rec_.extractLsb' (576 + 32 * i) 32
def Launch.done (l : Launch) : Word := l.rec_.extractLsb' 832 64
def Launch.vec (l : Launch) : BitVec 16 := l.rec_.extractLsb' 896 16
/-- Extent, domain and co-residency flag of level `j` (R34). -/
def Launch.extent (l : Launch) (j : Nat) : Nat := (bits (l.lvl j) 0 16 : BitVec 16).toNat + 1
def Launch.dom (l : Launch) (j : Nat) : Nat := (bits (l.lvl j) 16 4 : BitVec 4).toNat
def Launch.gang (l : Launch) (j : Nat) : Bool := (l.lvl j).getLsbD 20

/-- The package-local levels, innermost first (R28). -/
def Launch.localLevels (l : Launch) : List Nat := (List.range l.levels).filter fun j => l.dom j < 4

/-- Tasks per package (R30). -/
def Launch.tasks (l : Launch) : Nat := l.localLevels.foldl (fun n j => n * l.extent j) 1

/-- Whether a launch is in being: neither completed nor refused. -/
def Launch.isOpen (l : Launch) : Bool := !l.completed && !l.refused

/-- The launch of a tenant with a handle that is taken and still open, or else visible. -/
def State.findLaunch (s : State) (t : BitVec 5) (h : BitVec 32) : Option Launch :=
  match s.dist.launches.find? fun l => l.tenant == t && l.handle == h && l.isOpen && l.taken with
  | some l => some l
  | none => s.dist.launches.find? fun l => l.tenant == t && l.handle == h && l.isOpen

/-- Changes the launch with an order number. -/
def State.modLaunch (s : State) (o : Nat) (f : Launch → Launch) : State :=
  { s with dist := { s.dist with launches := s.dist.launches.map fun l => if l.order = o then f l else l } }

/-- Takes one from the dependence count of a visible launch with a handle that has not been taken (R56). -/
def State.satisfy (s : State) (t : BitVec 5) (h : BitVec 32) : State :=
  if h = 0 then s
  else { s with dist := { s.dist with launches := s.dist.launches.map fun l =>
      if l.tenant == t && l.handle == h && !l.taken && l.isOpen then
        { l with deps := if l.deps = 0 then 0 else l.deps - 1 } else l } }

/-- Writes a launch's completion word (R56), or reports that it cannot be written. -/
def State.writeDone (s : State) (l : Launch) : State :=
  if l.done = 0 then s
  else
    let v : Word := l.handle ++ (0 : BitVec 30) ++ (BitVec.ofBool (l.cancelled || l.refused)) ++ (1 : BitVec 1)
    match s.baseRelease.devStore l.tenant l.done (leBytes 8 v.toNat) with
    | .ok s' => s'
    | .error _ => s.report { src := 0x38, sev := 6, ten := some l.tenant, addr := l.done, synd := 0x20 }

/-- Ends the reservation of a launch's gang (R54). -/
def State.endReservation (s : State) (l : Launch) : State :=
  let mine (x : Reservation) : Bool := x.tenant == l.tenant && x.handle == l.handle
  { s with dist := { s.dist with reserved := s.dist.reserved.map fun (r : Option Reservation) => r.filter fun x => !mine x } }

/-- A launch completes (R56): successors, DONE, NOTIFY; the atlas locks (R263) and key slots (R363) of one that ran end. A NOTIFY
whose vector is at or above the tenant's VCNT raises none (DESIGN CHOICE, log entry 34). -/
def State.complete (s : State) (l : Launch) : State :=
  let s := s.modLaunch l.order fun l => { l with completed := true, bound := [], waiting := [] }
  let s := (List.range 4).foldl (fun s i => s.satisfy l.tenant (l.succ i)) s
  let s := s.writeDone l
  let s := if l.flagNotify ∧ l.vec.toNat < (bits (s.treg l.tenant 0) 0 12 : BitVec 12).toNat then s.raiseTenantVec l.tenant l.vec.toNat else s
  if l.refused ∨ ¬ l.taken then s else
  let s := { s with plat := { s.plat with
    keys := s.plat.keys.filter (fun k => !(k.tenant == l.tenant && k.handle == l.handle))
    atlas := s.plat.atlas.map fun (es : List AtlasEntry) => es.map fun (e : AtlasEntry) =>
      if e.tenant == l.tenant && e.lock == some l.handle then { e with lock := none } else e } }
  s.endReservation l

/-- Completes a taken launch once it has offered all its tasks and none is live (R56). -/
def State.checkComplete (s : State) (o : Nat) : State :=
  match s.dist.launches.find? fun l => l.order == o with
  | some l => if l.taken && l.isOpen && l.live = 0 && decide (l.tasks ≤ l.next) then s.complete l else s
  | none => s

/-- A task of a launch ends (R48). -/
def State.endTask (s : State) (t : BitVec 5) (h : BitVec 32) : State :=
  match s.findLaunch t h with
  | none => s
  | some l => (s.modLaunch l.order fun l => { l with live := l.live - 1 }).checkComplete l.order

/-- Returns a save area to its pool (R50). -/
def State.freeArea (s : State) (t : BitVec 5) (savea : Word) : State :=
  let base := (s.treg t 0x08).toNat
  { s with dist := { s.dist with areas := s.dist.areas.filter fun a =>
      !(a.1 == t && decide (base + 10240 * a.2 = savea.toNat)) } }

/-- The save area a waiting task holds, if any. -/
def Waiting.area : Waiting → Option Word
  | .preempted a _ _ _ _ | .held a _ _ _ => some a
  | _ => none

/-- What the package keeps of a waiting task. -/
def Waiting.mem : Waiting → TaskMem
  | .ready _ _ k | .preempted _ _ _ _ k | .held _ _ _ k | .suspended _ k => k

/-- The accumulator of every core that a save area owns is released (R55): of any core whose AOWN is that address, whichever tenant's
task it runs (DESIGN CHOICE, log entry 35). -/
def State.releaseAcc (s : State) (savea : Word) : State :=
  { s with cores := s.cores.map fun (kc : Nat × Core) =>
      (kc.1, if kc.2.aown = savea ∧ savea ≠ 0 then { kc.2 with aown := 0, descCache := [] } else kc.2) }

/-- Cancels a launch (R57): its waiting and undispatched tasks are discarded, its running tasks marked. -/
def State.cancelLaunch (s : State) (l : Launch) : State :=
  let s := l.waiting.foldl (fun s w => match w.area with
    | some a => (s.freeArea l.tenant a).releaseAcc a
    | none => s) s
  let gone := l.waiting.length + (l.tasks - l.next)
  let s := s.modLaunch l.order fun l =>
    { l with cancelled := true, waiting := [], next := l.tasks
             live := if l.taken then l.live - BitVec.ofNat 64 gone else l.live }
  let s := { s with cores := s.cores.map fun (kc : Nat × Core) => (kc.1, match kc.2.running with
    | some r => if r.tenant == l.tenant && r.handle == l.handle then
          { kc.2 with running := some { r with cancelPending := true } }
        else kc.2
    | none => kc.2) }
  if l.taken then s.checkComplete l.order
  else s.complete { l with cancelled := true }

/-- The package's index within an external domain, and the extent it requires (R29); none for a partition the tenant has
no part of. -/
def State.extIndex (s : State) (t : BitVec 5) (dom : Nat) : Option (Nat × Nat) :=
  let p := s.reg 0x30
  let f (lo : Nat) : Nat := (bits p lo 8 : BitVec 8).toNat
  let x := f 16; let y := f 8; let z := f 0
  let ex := f 48 + 1; let ey := f 40 + 1; let ez := f 32 + 1
  if dom = 4 then some (x, ex)
  else if dom = 5 then some (x + ex * y, ex * ey)
  else if dom = 6 then some (x + ex * (y + ey * z), ex * ey * ez)
  else
    let q := s.treg t 0x30
    if q.getLsbD 63 then some ((bits q 0 16 : BitVec 16).toNat, (bits q 32 16 : BitVec 16).toNat + 1) else none

/-- Whether coordinates lie within a launch's extents, external ones equal to the package's index (R29, R30, R46). -/
def State.coordsOk (s : State) (l : Launch) (co : Nat → Nat) : Bool :=
  (List.range 8).all fun j =>
    if l.levels ≤ j then co j == 0
    else if l.dom j < 4 then decide (co j < l.extent j)
    else match s.extIndex l.tenant (l.dom j) with
      | some (i, _) => co j == i
      | none => false

/-- A page fault as a condition of rank 8 (R434, R444), TINFO the lowest virtual address at fault. -/
def condPage (k : AccKind) (x : Word × TrErr) : Cond := ⟨8, 0x21, pageFaultCode k x.2, 4, x.1, 0⟩

/-! ## The end of a task on its core -/

/-- The core is free of its task: nothing of the context stays (R42, R47, R62). `why` is the departure of R404. -/
def State.leaveCore (s : State) (n : CoreNo) (why : BitVec 8) : State :=
  let c := s.coreAt n
  let c := c.traceAdd 5 why (c.creg crTASK) (s.cyc c)
  s.setCoreAt n { c with
    kernels := RF.fill 0, running := none, lastTenant := match c.running with | some r => some r.tenant | none => c.lastTenant
    ctx := {}, banks := RF.fill (RF.fill {}), group := [], sheets := RF.fill none, pend := [], outst := [], tags := [],
    savedTags := RF.fill [], descAt := none, pendTrap := none, leaving := .none, hold := .none, waitsIssue := false, check := none
    stalled := false, holding := false, hung := 0, graceStart := none, preempt := false, saving := false, waitOn := none, loopSave := false
    sliceExpired := false, sliceCut := false, sliceLeft := 0, syncDue := 0, clock := none }

/-- The accumulator is released where the departing task owns it (R55). -/
def Core.releaseAcc (c : Core) : Core :=
  if c.aown = c.creg crSAVEA then { c with aown := 0, descCache := [] } else c

/-- The 64 bytes of a save-area header (R64) with VALID or INC as `state` (1 or 2): `loop` is LOOP, `acch` the ACCH bit as it
stands. -/
def Core.saveHeader (c : Core) (n : CoreNo) (state : Nat) (loop acch : Bool) : List Byte :=
  let cp := match c.running with | some r => r.cancelPending | none => false
  let flags : Nat := state + (if acch then 4 else 0) + (if cp then 8 else 0) + (if loop then 16 else 0)
  let pc : Word := (c.ctx.pc &&& 0x01FFFFFFFFFFFFFC) ||| ((BitVec.ofBool c.pin).setWidth 64 <<< 61)
  leBytes 2 1 ++ leBytes 2 flags ++ leBytes 4 n.toNat ++ leBytes 8 pc.toNat ++ leBytes 8 c.ctx.code.toNat ++
    leBytes 8 (c.creg crTASK).toNat ++ leBytes 8 c.ctx.lastSusp.toNat ++
    (List.range 8).flatMap (fun i => leBytes 2 (c.ctx.coords.get (BitVec.ofNat 3 i)).toNat) ++ List.replicate 8 0

/-- Writes the 64-byte save-area header with INC = 1 and VALID = 0, where it can be written, with ACCH as it stands there (R64, R400,
R401, R454). -/
def State.writeIncomplete (s : State) (n : CoreNo) : State :=
  let c := s.coreAt n
  let acch := match s.devLoad c.tenant (c.creg crSAVEA + 2) 2 with | .ok bs => decide (leNat bs / 4 % 2 = 1) | .error _ => false
  let img := c.saveHeader n 2 false acch
  match s.devStore c.tenant (c.creg crSAVEA) img with
  | .ok s' => s'
  | .error _ => s

/-- A task is lost (R402): it is discarded, its launch is cancelled, and a record of SEV 4 is written. -/
def State.loseTask (s : State) (n : CoreNo) (src synd : BitVec 8) : State :=
  let c := s.coreAt n
  match c.running with
  | none => s
  | some r =>
    let task := c.creg crTASK
    let pc := c.ctx.pc
    let s := [2, 1, 0].foldl (fun s d => s.discardSheet n d) s
    let c := (s.coreAt n).releaseAcc
    let s := (s.setCoreAt n c).freeArea r.tenant r.savea
    let s := s.leaveCore n 3
    let s := s.report { src := src, sev := 4, unit := n.setWidth 16, ten := some r.tenant, synd := synd.setWidth 64,
                        vpc := pc, task := task }
    let s := match s.findLaunch r.tenant r.handle with
      | some l => if l.cancelled then s else s.cancelLaunch l
      | none => s
    s.endTask r.tenant r.handle

/-! ## Traps (R87-R92) -/

/-- Bytes a core's own access stores, by physical runs. -/
def storeRuns (s : State) (n : CoreNo) : List (Nat × Nat × Bool) → List Byte → Option State
  | [], _ => some s
  | (pa, k, nc) :: r, bs =>
    match storeBytes s n nc pa (bs.take k) with
    | none => none
    | some s' => storeRuns s' n r (bs.drop k)

/-- The pieces of a translated range as a read lays them out. -/
def piecesOf : List (Nat × Nat × Bool) → Nat → Word → List Piece
  | [], _, _ => []
  | (pa, n, nc) :: r, bit, va =>
    { pa := pa, n := n, bit := bit, nc := nc, va := va } :: piecesOf r (bit + 8 * n) (va + BitVec.ofNat 64 n)

/-- The access of a core's context that the device makes for it, as if at PRIV 1, through its L1 (R303). -/
def State.ctxStore (s : State) (n : CoreNo) (va : Word) (bs : List Byte) : Except DevErr (Option State) :=
  match translateRange s n (s.coreAt n).tenant true va bs.length .write with
  | .error (a, e) => .error (.translation a e)
  | .ok (runs, _) =>
    if runs.any (fun (pa, k, _) => s.mem.badPart pa k) then .error (.bad 0)
    else .ok (storeRuns s n runs bs)

/-- Reads up to 128 bytes for a context, as if at PRIV 1, through its L1 (R303); none while the read is held. -/
def State.ctxLoad (s : State) (n : CoreNo) (va : Word) (k : Nat) : Except DevErr (Option (State × Vec)) :=
  match translateRange s n (s.coreAt n).tenant true va k .read with
  | .error (a, e) => .error (.translation a e)
  | .ok (runs, _) =>
    match performRead s n { pieces := piecesOf runs 0 va, base := 0, sext := none } with
    | none => .ok none
    | some (s', v, none) => .ok (some (s', v))
    | some (_, _, some a) => .error (.bad a.toNat)

/-- The registers that the entry of a trap writes (R89): those of its cause, and those whose old values its frame holds. -/
def trapRegs : List Dst := [crTCAUSE, crTVPC, crTSLOT, crTINFO, crTMOVE].map fun i => .cr (i.setWidth 8)
def frameRegs : List Dst := [crHSTAT, crFMODE, crFSTAT].map fun i => .cr (i.setWidth 8)

/-- The 256 bytes of a trap frame (R90); a tagged register's slot is 0 (R397), and so is that of a control register whose storage is
uncorrectable, which the trapped depth keeps as such (DESIGN CHOICE, log entry 76). -/
def Core.frame (c : Core) : List Byte :=
  let w (i : BitVec 5) : List Byte := leBytes 8 (if c.ownBad (.cr (i.setWidth 8)) then 0 else (c.creg i).toNat)
  w crTCAUSE ++ w crTVPC ++ w crTSLOT ++ w crTINFO ++ w crTMOVE ++ w crHSTAT ++ w crFMODE ++ w crFSTAT ++
  ((List.range 15).flatMap fun i =>
    let r : BitVec 6 := BitVec.ofNat 6 (i + 1)
    leBytes 8 (if c.tags.any (fun t => t.reg == .s r) then 0 else (c.ctx.rdS r).toNat)) ++
  leBytes 2 (c.ctx.p ||| 1).toNat ++ List.replicate 70 0

/-- The tags that a trapped depth keeps (R397): those of s1-s15 and of the result ports. -/
def tagKept (t : RegTag) : Bool :=
  match t.reg with
  | .s i => i.toNat < 16
  | .y _ | .z _ => true
  | d => frameRegs.contains d

/-- A record of a data error that names a core and its task (R391, R405). -/
def State.dataRec (s : State) (n : CoreNo) (src sev : BitVec 8) (addr vpc cause : Word) : ErrRec :=
  let c := s.coreAt n
  { src := src, sev := sev, unit := n.setWidth 16, ten := some c.tenant, addr := addr, vpc := vpc, task := c.creg crTASK, cause := cause }

/-- The record of an uncorrectable value (R391, R405): its structure by where its address lies, in memory, a scratchpad (bit 63 set) or
staging (bit 62 set); one without an address is of the datapaths. -/
def State.reportAt (s : State) (n : CoreNo) (sev : BitVec 8) (addr vpc cause : Word) : State :=
  let r := s.dataRec n 0x03 sev addr vpc cause
  let a := addr &&& 0x01FFFFFFFFFFFFFF
  if addr = 0 then s.report r
  else if addr.getLsbD 63 then s.report { r with src := 0x06, addr := a }
  else if addr.getLsbD 62 then s.report { r with src := 0x10, unit := stageUnit a.toNat, addr := a }
  else match translate s n (s.coreAt n).tenant true a .read with
    | .error _ => s.report r
    | .ok e =>
      let pa := e.phys a
      s.report { r with addr := BitVec.ofNat 64 pa, src := (s.failingStorage n pa).1, unit := (s.failingStorage n pa).2 }

/-- The record of a data error that is taken as a trap (R391, R405), of SEV 1, by its code: a register's own storage, a tagged value, the
accumulator or the source of a fill, a datapath, a group or a descriptor in memory. A refused save, SUSP or spill met no fault of its own:
its register's value was tagged by a read, and its record is that of the tag. -/
def State.reportData (s : State) (n : CoreNo) (t : TrapInfo) (cause : Word) : State :=
  let c := s.coreAt n
  match t.code.toNat with
  | 1 => s.report (s.dataRec n (if t.tinfo.toNat < 0x100 then 0x01 else 0x02) 1 t.tinfo t.tvpc cause)
  | 3 => if t.va = 0 then s.report (s.dataRec n 0x04 1 t.tinfo t.tvpc cause) else s.reportAt n 1 t.va t.tvpc cause
  | 4 => s.report (s.dataRec n (t.src.getD 0x03) 1 0 t.tvpc cause)
  | 2 => s.reportAt n 1 t.va t.tvpc cause
  | 6 =>
    let a := ((c.tags.find? fun x => regForm x.reg == some (t.tinfo.setWidth 12)).map (·.addr)).getD 0
    s.reportAt n 1 a t.tvpc cause
  | _ => s.reportAt n 1 t.tinfo t.tvpc cause

/-- A double trap (R401, R455): the header is marked incomplete and the task is lost. -/
def State.doubleTrap (s : State) (n : CoreNo) (synd : BitVec 8) : State := (s.writeIncomplete n).loseTask n 0x32 synd

/-- The class of a queue (R360). -/
def State.queueClass (s : State) (t : BitVec 5) (q : BitVec 3) : BitVec 2 := bits (s.treg t (0x208 + 32 * q.toNat)) 8 2

/-- The cycles of a time slice of a launch's class (R49, R59). -/
def State.sliceOf (s : State) (l : Launch) : Nat := 1024 * ((s.reg (0x040 + 8 * (s.queueClass l.tenant l.queue).toNat)).toNat % 65536)

/-- The time slice that a core's task gets as a sync fault ends its pinned regime (R59, R482). -/
def State.sliceHere (s : State) (c : Core) : Nat :=
  match c.running with
  | some r => match s.findLaunch r.tenant r.handle with | some l => s.sliceOf l | none => 0
  | none => 0

/-- The bits of a control register that a context can hold (R8, R69, R71, R104): the others read as 0. -/
def crHeld (i : BitVec 5) : Word :=
  if i = crFMODE then 7
  else if i = crFSTAT then 0x1F
  else if i = 1 then 0x1F
  else if i = 4 then 0xF301
  else if i = crTFBASE then 0x01FFFFFFFFFFFF00
  else if i = crTCAUSE then 0x8000000000FFFFFF
  else if i = crTSLOT then 0x7FF
  else if i = crTMOVE then 0xFFF
  else if i = 18 then 3
  else if i = crHSTAT then 7
  else if i = 22 then 3
  else BitVec.allOnes 64

/-- A control register set from memory (R8). -/
def Core.loadCreg (c : Core) (i : BitVec 5) (v : Word) : Core := c.setCreg i (v &&& crHeld i)

/-- Takes the pending trap of core `n` (R89), once every outstanding producer has landed: the trap registers are set, the
frame is written, DEPTH rises, FMODE and FSTAT are cleared, and control goes to TVEC or SVEC. -/
def State.enterTrap (s : State) (n : CoreNo) : State :=
  let c := s.coreAt n
  match c.pendTrap with
  | none => s
  | some t =>
    if c.outst ≠ [] ∨ c.pend ≠ [] then s
    else if c.depth = 2 ∨ c.depth = 3 then s.doubleTrap n 0
    else
      let sup := t.sup || c.creg crTVEC = 0
      let cause : Word := (BitVec.ofBool sup).setWidth 64 <<< 63 ||| (t.cls.setWidth 64 <<< 16) ||| t.code.setWidth 64
      let c1 := ((((c.setCreg crTCAUSE cause).setCreg crTVPC t.tvpc).setCreg crTSLOT t.tslot).setCreg crTINFO t.tinfo).setCreg
        crTMOVE t.tmove
      let c1 := { c1 with tags := c1.tags.filter fun t => !trapRegs.contains t.reg }
      let d := c.depth
      match (s.setCoreAt n c1).ctxStore n (c.creg crTFBASE + (d.setWidth 64 <<< 8)) c1.frame with
      | .error _ => (s.setCoreAt n { c with pendTrap := none }).doubleTrap n 1
      | .ok none => s
      | .ok (some s2) =>
        let c2 := s2.coreAt n
        let hst : Word := (if sup then 4 else c2.creg crHSTAT &&& 4) ||| (d + 1).setWidth 64
        let c2 := ((c2.setCreg crHSTAT hst).setCreg crFMODE 0).setCreg crFSTAT 0
        let c2 : Core := if t.cls = 0x42 then
            { c2.setCreg crPSTAT (c2.creg crPSTAT &&& ~~~(2 : Word)) with sliceLeft := s2.sliceHere c2 } else c2
        let c2 := { c2 with
          pendTrap := none, entryPc := c2.entryPc.put d t.tvpc, group := [], hold := .none, waitsIssue := false
          savedTags := c2.savedTags.put d (c2.tags.filter tagKept)
          tags := c2.tags.filter (fun t => match t.reg with | .y _ | .z _ => false | d => !frameRegs.contains d)
          banks := c2.banks.put (d + 1) (RF.fill {})
          ctx := { c2.ctx with pc := c2.creg (if sup then crSVEC else crTVEC), brkSkip := false } }
        let c2 := c2.traceAdd 2 t.cls t.tvpc (s2.cyc c2)
        let s3 := s2.setCoreAt n (if c2.trCtl.getLsbD 9 ∧ 0x10 ≤ t.cls.toNat then c2.traceFreeze else c2)
        if t.cls = 0x30 then s3.reportData n t cause else s3

/-- Whether a page fault is held in place of trapping (R447): DEPTH 0, PFQCTL.EN, room in the ring. A tagged register is met by its save,
which raises the data error of R397 instead. -/
def State.faultHeld (s : State) (n : CoreNo) (t : TrapInfo) : Bool :=
  let c := s.coreAt n
  let ten := c.tenant
  let ctl := s.treg ten 0x58
  t.cls == 0x21 && c.depth == 0 && ctl.getLsbD 63 &&
    decide (((s.treg ten 0x68).toNat + 2 ^ 32 - (s.treg ten 0x60).toNat) % 2 ^ 32 < ringSize (ctl.toNat % 32) 2 12)

/-- The 64 bits at byte `o` of a frame read in two halves. -/
def frameWord (lo hi : Vec) (o : Nat) : Word :=
  if o < 128 then lo.extractLsb' (8 * o) 64 else hi.extractLsb' (8 * (o - 128)) 64

/-- The open sheet of a core runs on as text, one group per bundle (R341). -/
def Core.byGroups (c : Core) : Core :=
  match c.sheet with
  | some sh => c.setSheet (some { sh with bundle := none, replay := true })
  | none => c

/-- Control comes back by TRET to the open sheet of the lower depth (R341), which an invalidation may have doomed (R448);
a target outside it leaves it (R335). A target that the handler has changed begins a region (R136, R429). -/
def State.resumeSheet (s : State) (n : CoreNo) (target : Word) (changed : Bool) : State :=
  let c := s.coreAt n
  let s := match c.sheet with
    | none => s
    | some sh =>
      if sh.doomed then s.discardSheet n c.depth
      else if sh.entry.toNat ≤ target.toNat ∧ target.toNat < sh.entry.toNat + 4 * sh.text.length then s.setCoreAt n c.byGroups
      else if sh.entry.toNat + 4 * sh.text.length = target.toNat ∧ s.midRegion n target then s.setCoreAt n c.byGroups
      else s.commitPoint n
  if changed then s.setCoreAt n (s.coreAt n).portBoundary else s

/-- Returns from a trap (R91) on core `n`: the frame at the lower depth is read and restored, and control goes to TVPC.
A frame that cannot be read loses the task (R454). `none` while the frame's read is held. -/
def State.trapReturn (s : State) (n : CoreNo) : Option State :=
  let c := s.coreAt n
  let target := c.creg crTVPC
  let d := c.depth - 1
  let base := c.creg crTFBASE
  let a := base + (d.setWidth 64 <<< 8)
  match s.ctxLoad n a 128 with
  | .error _ => some ((s.writeIncomplete n).loseTask n 0x31 6)
  | .ok none => none
  | .ok (some (s1, lo)) =>
    match s1.ctxLoad n (a + 128) 128 with
    | .error _ => some ((s.writeIncomplete n).loseTask n 0x31 6)
    | .ok none => none
    | .ok (some (s2, hi)) =>
      let inner : Except DevErr (Option (State × Vec)) := if d = 1 then s2.ctxLoad n base 40 else .ok (some (s2, 0))
      match inner with
      | .error _ => some ((s.writeIncomplete n).loseTask n 0x31 6)
      | .ok none => none
      | .ok (some (s3, tr)) =>
        let c := s3.coreAt n
        let hst : Word := (frameWord lo hi 0x28 &&& 4) ||| d.setWidth 64
        let ctx := (List.range 15).foldl (fun (x : Ctx) i =>
          x.wrS (BitVec.ofNat 6 (i + 1)) (frameWord lo hi (0x40 + 8 * i))) c.ctx
        let p : BitVec 16 := (hi.extractLsb' (8 * (0xB8 - 128)) 16) ||| 1
        let c := { c with
          ctx := { ctx with p := p, pc := target, brkSkip := true }
          tags := (c.tags.filter fun t => !tagKept t && !(d == 1 && trapRegs.contains t.reg)) ++ c.savedTags.get d
          group := [], hold := .none, waitsIssue := false, sheets := c.sheets.put (d + 1) none, outst := c.outst.map Outst.portless }
        let c := ((c.setCreg crHSTAT hst).loadCreg crFMODE (frameWord lo hi 0x30)).loadCreg crFSTAT (frameWord lo hi 0x38)
        let c := if d = 1 then
            ((((c.loadCreg crTCAUSE (tr.extractLsb' 0 64)).loadCreg crTVPC (tr.extractLsb' 64 64)).loadCreg crTSLOT
              (tr.extractLsb' 128 64)).loadCreg crTINFO (tr.extractLsb' 192 64)).loadCreg crTMOVE (tr.extractLsb' 256 64)
          else c
        let c := c.traceAdd 3 0 target (s3.cyc c)
        some ((s3.setCoreAt n c).resumeSheet n target (target ≠ c.entryPc.get d))

/-! ## Groups, transfers and loop passes -/

/-- The word offset in a sheet of the context's virtual PC. -/
def Core.sheetOff (c : Core) (sh : Sheet) : Nat := (c.ctx.pc - sh.entry).toNat / 4

/-- The word offset of the first word after `k` groups of a text from an offset (R139): an immediate follows its move
word. None where the text ends before them. -/
def skipGroups (text : List (BitVec 32)) : Nat → Nat → Nat → Option Nat
  | _, off, 0 => some off
  | 0, _, _ => none
  | fuel + 1, off, k + 1 =>
    match text[off]? with
    | none => none
    | some w =>
      let form := (bits w 24 2 : BitVec 2).toNat
      let n := if form < 2 then 1 else form
      skipGroups text fuel (off + n) (if w.getLsbD 31 then k else k + 1)

/-- The 32-bit words of bytes. -/
def wordsOf : Nat → List Byte → List (BitVec 32)
  | 0, _ => []
  | n + 1, bs => BitVec.ofNat 32 (leNat (bs.take 4)) :: wordsOf n (bs.drop 4)

/-- Fetches words of text at a virtual address (R300-R304): the words, or the failed translation, or the first
uncorrectable byte (R425). -/
def State.fetchText (s : State) (n : CoreNo) (va : Word) (words : Nat) :
    Except (Word × TrErr) (Except Nat (List (BitVec 32))) :=
  let c := s.coreAt n
  match translateRange s n c.tenant c.priv va (4 * words) .fetch with
  | .error e => .error e
  | .ok (runs, _) => match s.mem.devReadRuns runs with
    | .error a => .ok (.error a)
    | .ok bs => .ok (.ok (wordsOf words bs))

/-- The words of an object's text from an address on, at most `words`, as far as the object goes. -/
def State.textFrom (s : State) (n : CoreNo) (va : Word) (words : Nat) : List (BitVec 32) :=
  match s.objAt (s.coreAt n).tenant va with
  | none => []
  | some o =>
    match s.fetchText n va (min (o.words - (va.toNat - o.text.toNat) / 4) words) with
    | .ok (.ok ws) => ws
    | _ => []

/-- The address of the group `k` groups after the one at `a` (R84, R139): found in the open sheet's text where that holds
them, else in the text in memory. -/
def State.groupsAfter (s : State) (n : CoreNo) (a : Word) (k : Nat) : Word :=
  let inMem : Word :=
    let ws := s.textFrom n a 24576
    a + BitVec.ofNat 64 (4 * (skipGroups ws (ws.length + 1) 0 k).getD 0)
  match (s.coreAt n).sheet with
  | some sh =>
    if sh.entry.toNat ≤ a.toNat ∧ a.toNat < sh.entry.toNat + 4 * sh.text.length then
      match skipGroups sh.text (sh.text.length + 1) ((a - sh.entry).toNat / 4) k with
      | some off => sh.entry + BitVec.ofNat 64 (4 * off)
      | none => inMem
    else inMem
  | none => inMem

/-- Fields of a loop register (R84). -/
def lcCount (x : BitVec 128) : BitVec 32 := bits x 96 32
def lcBody (x : BitVec 128) : Word := (bits x 41 55 : BitVec 55).setWidth 64 <<< 2
def lcLen (x : BitVec 128) : Nat := (bits x 32 9 : BitVec 9).toNat
def lcPB (x : BitVec 128) : Nat := (bits x 28 4 : BitVec 4).toNat
def lcNST (x : BitVec 128) : Nat := (bits x 24 4 : BitVec 4).toNat
def lcStop (x : BitVec 128) : Bool := x.getLsbD 1
def lcAct (x : BitVec 128) : Bool := x.getLsbD 0

/-- A loop register with its COUNT, STOP and ACT replaced. -/
def lcSet (x : BitVec 128) (count : BitVec 32) (stop act : Bool) : BitVec 128 :=
  count ++ (bits x 2 94 : BitVec 94) ++ BitVec.ofBool stop ++ BitVec.ofBool act

/-- The predicates rotated one stage on, p[pb] taking `start` (R85). -/
def rotateStages (c : Ctx) (pb nst : Nat) (start : Bool) : Ctx :=
  let c := (List.range (nst - 1)).foldl (fun (x : Ctx) i =>
    let j := nst - 1 - i
    x.wrP (BitVec.ofNat 4 (pb + j)) (x.rdP (BitVec.ofNat 4 (pb + j - 1)))) c
  c.wrP (BitVec.ofNat 4 pb) start

/-- Whether every stage predicate is false. -/
def stagesIdle (c : Ctx) (pb nst : Nat) : Bool := (List.range nst).all fun j => !c.rdP (BitVec.ofNat 4 (pb + j))

/-- A pass boundary of engine `e` (R85), a commit point: `after` is the group after the kernel. With a pre-emption
request in the innermost loop, STOP is set, and once every stage is false the core stands at the boundary to be saved
(R86). The second component tells whether the loop has ended. -/
def State.passBoundary (s : State) (n : CoreNo) (e : BitVec 2) (after : Word) : State × Bool :=
  let s := s.commitSheet n
  let c := (s.coreAt n).portBoundary
  let x := c.ctx.lc.get e
  let asked := c.preempt && c.depth == 0
  let stop := lcStop x || asked
  let go := !stop && lcCount x ≠ 0
  let ctx := rotateStages c.ctx (lcPB x) (lcNST x) go
  let count := if go then lcCount x - 1 else lcCount x
  let idle := stagesIdle ctx (lcPB x) (lcNST x)
  if idle ∧ asked then
    (s.setCoreAt n { c with
      loopSave := true
      ctx := { ctx with pc := lcBody x, lc := ctx.lc.put e (lcSet x count stop true) } }, false)
  else if idle then
    (s.setCoreAt n { c with
      ctx := { ctx with pc := after, lc := ctx.lc.put e (lcSet x count stop false), loops := ctx.loops.filter (· != e) } }, true)
  else
    (s.setCoreAt n { c with ctx := { ctx with pc := lcBody x, lc := ctx.lc.put e (lcSet x count stop true) } }, false)

/-- The group after the kernel of engine `e` (R84, R85). -/
def State.afterKernel (s : State) (n : CoreNo) (e : BitVec 2) : Word :=
  let x := (s.coreAt n).ctx.lc.get e
  s.groupsAfter n (lcBody x) (lcLen x)

/-- The innermost active loop, where the group at `was` lies in its kernel and control has come to the group after it (R85). -/
def State.endsPass (s : State) (n : CoreNo) (was : Word) : Option (BitVec 2 × Word) :=
  let c := s.coreAt n
  match c.ctx.loops with
  | [] => none
  | e :: _ =>
    let k := s.afterKernel n e
    if k = c.ctx.pc ∧ (lcBody (c.ctx.lc.get e)).toNat ≤ was.toNat then some (e, k) else none

/-- The pass boundaries that follow the group at `was`, the inner loop's first where kernels end at one group (R85). -/
def State.passEnds (n : CoreNo) (was : Word) : Nat → State → State
  | 0, s => s
  | k + 1, s => match s.endsPass n was with
    | none => s
    | some (e, after) =>
      let (t, ended) := s.passBoundary n e after
      if ended then State.passEnds n was k t else t

/-- Starts engine `e` (R85): its register, its stage predicates, and the first pass boundary; `body` is the kernel's
first group, `after` the group after the kernel, and `nlen` the kernel's native length, 0 in Wyilo text. -/
def State.loopStart (s : State) (n : CoreNo) (e : BitVec 2) (count : BitVec 32) (len nst pb nlen : Nat) (body after : Word) :
    State :=
  let c := s.coreAt n
  let c := c.retag (.lc e) none
  let x : BitVec 128 := count ++ (bits body 2 55 : BitVec 55) ++ BitVec.ofNat 9 len ++ BitVec.ofNat 4 pb ++
    BitVec.ofNat 4 nst ++ (0 : BitVec 22) ++ (0 : BitVec 1) ++ (1 : BitVec 1)
  let ctx := (List.range nst).foldl (fun (y : Ctx) j => y.wrP (BitVec.ofNat 4 (pb + j)) false) c.ctx
  let (t, ended) := (s.setCoreAt n { c with
    kernels := c.kernels.put e nlen, ctx := { ctx with lc := ctx.lc.put e x, loops := e :: ctx.loops } }).passBoundary n e after
  if ended then State.passEnds n (body - 4) 4 t else t

/-- Control has come to the context's virtual PC by falling on from the group at `was`: the end of kernel passes, the
end of the sheet, or a region start inside it (R85, R135, R136). -/
def State.fallOn (s : State) (n : CoreNo) (was : Word) : State :=
  let c := s.coreAt n
  match c.sheet with
  | none => if s.regionStart c.tenant c.ctx.pc then s.setCoreAt n c.portBoundary else s
  | some sh =>
    if (s.endsPass n was).isSome then State.passEnds n was 4 s
    else if sh.entry.toNat + 4 * sh.text.length ≤ c.ctx.pc.toNat then
      if s.midRegion n c.ctx.pc then s else
      let s := s.commitSheet n
      let c := s.coreAt n
      if s.regionStart c.tenant c.ctx.pc then s.setCoreAt n c.portBoundary else s
    else if s.regionStart c.tenant c.ctx.pc then s.setCoreAt n c.portBoundary
    else s

/-- Transfers control to a target (R182): within the open sheet's Wyilo text, or out of it, which commits it (R335).
Either way the target begins a region: a port boundary (R136). -/
def State.transfer (s : State) (n : CoreNo) (target : Word) : State :=
  let c := s.coreAt n
  let inside := match c.sheet with
    | some sh => sh.bundle.isNone && decide (sh.entry.toNat ≤ target.toNat) &&
        decide (target.toNat < sh.entry.toNat + 4 * sh.text.length)
    | none => false
  let s := if inside then s else s.commitSheet n
  let c := s.coreAt n
  s.setCoreAt n ({ c with ctx := { c.ctx with pc := target } }.portBoundary)

end Sys2Proof.Machine
end

