-- ==== Sys2Proof/Machine/Code.lean ====
section
/-! DEFINITION. Code as the machine reads it: the moves of Wyilo text (R139), and native images with their sheet maps
(R150, R151). -/

namespace Sys2Proof.Machine

/-! ## Move groups -/

/-- The move of a move word and the words behind it (R139). -/
def gmoveOf (w : BitVec 32) (lits : List (BitVec 32)) : GMove :=
  { n := bits w 30 1, g := bits w 26 4, form := bits w 24 2, dst := bits w 12 12, src := bits w 0 12,
    imm := match (bits w 24 2 : BitVec 2) with
      | 0 => 0
      | 1 => (bits w 0 12 : BitVec 12).signExtend 64
      | 2 => (lits.getD 0 0).signExtend 64
      | _ => lits.getD 1 0 ++ lits.getD 0 0 }

/-- The words a move word takes, itself included. -/
def moveLen (w : BitVec 32) : Nat := let f := (bits w 24 2 : BitVec 2).toNat; if f < 2 then 1 else f

/-- What reading one group of moves finds: the group with its length in words; or the first malformed word, by its move
index and word offset, with the moves as far as the group goes; or no end of the group (R141, R439). -/
inductive GroupRead where
  | group (ms : List GMove) (words : Nat)
  | bad (idx off : Nat) (ms : List GMove)
  | noEnd
  deriving DecidableEq, Repr

/-- Reads the group at the front of a text: `idx` moves and `off` words of it lie behind, and `bad` is its first malformed word, if it has
one. -/
def readGroup : Nat → List (BitVec 32) → Nat → Nat → List GMove → Option (Nat × Nat) → GroupRead
  | 0, _, _, _, acc, bad => match bad with | some b => .bad b.1 b.2 acc | none => .noEnd
  | _, [], _, _, acc, bad => match bad with | some b => .bad b.1 b.2 acc | none => .noEnd
  | fuel + 1, w :: r, idx, off, acc, bad =>
    let bad := match bad, moveWordCheck w with | none, .error _ => some (idx, off) | b, _ => b
    let k := moveLen w
    let acc := acc ++ [gmoveOf w r]
    match bad, decide (r.length < k - 1), w.getLsbD 31 with
    | some b, true, _ | some b, _, true => .bad b.1 b.2 acc
    | none, true, _ => .noEnd
    | none, _, true => .group acc (off + k)
    | bad, _, _ => readGroup fuel (r.drop (k - 1)) (idx + 1) (off + k) acc bad

/-- The group at word offset `off` of a text. -/
def groupAt (text : List (BitVec 32)) (off : Nat) : GroupRead := readGroup (text.length + 1) (text.drop off) 0 0 [] none

/-- The port a destination field names: its unit, unit index and port code (R140). -/
def portOf (d : BitVec 12) : Option (Unit13 × BitVec 6 × BitVec 5) :=
  if d.getLsbD 11 then (unitOfCode (bits d 7 4)).map fun u => (u, bits d 5 6, bits d 0 5) else none

/-- Whether a move triggers a control transfer (R159): a BRC operation, trap or tret. -/
def GMove.isControl (m : GMove) : Bool :=
  match portOf m.dst with
  | some (.BRC, _, k) => decide (4 ≤ k.toNat)
  | some (.SYS, _, k) => k = 8 || k = 9
  | _ => false

/-- The `i`-th group of a text, from word offset `off` on, that transfers control: the offset behind it and the index of the move that
does so. -/
def controlGroup (text : List (BitVec 32)) : Nat → Nat → Nat → Option (Nat × Nat)
  | 0, _, _ => none
  | fuel + 1, off, i =>
    match groupAt text off with
    | .group ms k =>
      match ((List.range ms.length).zip ms).find? fun x => x.2.isControl, i with
      | some (j, _), 0 => some (off + k, j)
      | some _, i + 1 => controlGroup text fuel (off + k) i
      | none, i => controlGroup text fuel (off + k) i
    | _ => none

/-! ## Native images -/

/-- Whether a left slot's opcode declares the long-immediate form, which takes the right slot (R75, R161-R167). -/
def takesRight (slot : BitVec 3) (w : BitVec 32) : Bool :=
  let op : BitVec 6 := bits w 26 6
  (slot = 0 && (op = 0x33 || op = 0x2D || op = 0x12 || op = 0x14)) || (slot = 2 && op = 0x3F) ||
  (slot = 6 && (op = 0x3E || op = 0x3F))

/-- Whether a bundle holds a control transfer, executing or not (R159). -/
def controlBundle (ws : List (BitVec 32)) : Bool :=
  [(0 : BitVec 3), 1].any fun k =>
    !(k = 1 && takesRight 0 (ws.getD 0 0)) && match decodeSlot k (ws.getD k.toNat 0) (ws.getD (k.toNat + 1) 0) with
    | .ok (some i) => (match opRow i with
      | some (row, _) => row.unit = .BRC || (row.unit = .SYS && (row.code = 8 || row.code = 9))
      | none => false)
    | _ => false

/-- The native image chosen for a core's code at an address (R151, R334): of its die, of its regime, and of the object
whose text holds the address. -/
def State.imageAt (s : State) (n : CoreNo) (va : Word) : Option ImageRef :=
  let c := s.coreAt n
  match s.objAt c.tenant va with
  | none => none
  | some o => s.plat.images.find? fun im => im.die == dieOf n && im.code == o.code && im.pin == c.pin

/-- The sheet-map entry whose sheet begins at a virtual address (R150). -/
def ImageRef.sheetAt (im : ImageRef) (va : Word) : Option SheetMapEntry :=
  im.sheets.find? fun e => im.text + BitVec.ofNat 64 e.vent == va

/-- The sheet-map entry whose first bundle is bundle `k` (R150). -/
def ImageRef.sheetOfBundle (im : ImageRef) (k : Nat) : Option SheetMapEntry := im.sheets.find? fun e => e.nent == k

/-- The virtual target of the exit of bundle `k` (R150), of a sheet. -/
def ImageRef.exitOf (im : ImageRef) (e : SheetMapEntry) (k : Nat) : Option Word :=
  (e.exits.find? fun x => x.2 == k).map fun x => im.text + BitVec.ofNat 64 x.1

/-- The open native sheet of a core: its image, its entry and the bundle that issues next. -/
def State.nativeSheet (s : State) (n : CoreNo) : Option (ImageRef × SheetMapEntry × Nat) :=
  match (s.coreAt n).sheet with
  | some sh => match sh.bundle, s.imageAt n sh.entry with
    | some k, some im => (im.sheetAt sh.entry).map fun e => (im, e, k)
    | _, _ => none
  | none => none

/-- The lines of the bundle cache of a core: 64 KiB of 128 bytes (R334). -/
def bundleLines : Nat := 512

/-- The line of 128 bytes that bundle `k` of an image lies in, and the bundle's place in it. -/
def ImageRef.lineOf (im : ImageRef) (k : Nat) : Word × Nat :=
  let a := im.base + BitVec.ofNat 64 (32 * k)
  (a &&& ~~~(127 : Word), a.toNat % 128 / 32)

/-- The eight words of bundle `k` as the core's bundle cache holds it (R334); none on a miss. -/
def State.bundleWords (s : State) (n : CoreNo) (im : ImageRef) (k : Nat) : Option (List (BitVec 32)) :=
  let c := s.coreAt n
  let (a, j) := im.lineOf k
  (c.bcache.find? fun l => l.tenant == c.tenant && l.va == a).map fun l =>
    (List.range 8).map fun i => l.data.extractLsb' (256 * j + 32 * i) 32

/-- Fetches the line of bundle `k` of an image into the core's bundle cache (R334); none where it cannot be fetched. -/
def State.fillBundle (s : State) (n : CoreNo) (im : ImageRef) (k : Nat) : Option State :=
  let c := s.coreAt n
  let a := (im.lineOf k).1
  match s.fetchText n a 32, c.sheet with
  | .ok (.ok ws), some sh =>
    let l : BundleLine := { tenant := c.tenant, va := a, entry := sh.entry, words := sh.text.length
                            data := BitVec.ofNat 1024 (leNat (ws.flatMap fun w => leBytes 4 w.toNat)) }
    some (s.setCoreAt n { c with bcache := (l :: c.bcache.filter fun x => !(x.tenant == c.tenant && x.va == a)).take bundleLines })
  | _, _ => none

/-- How many bundles of a sheet before bundle `k` hold a control transfer. -/
def State.controlsBefore (s : State) (n : CoreNo) (im : ImageRef) (e : SheetMapEntry) (k : Nat) : Nat :=
  ((List.range (k - e.nent)).filter fun i =>
    match s.fetchText n (im.base + BitVec.ofNat 64 (32 * (e.nent + i))) 8 with
    | .ok (.ok ws) => controlBundle ws
    | _ => false).length

/-- The group whose control transfer bundle `k` of a native sheet makes: the virtual PC behind it and the index of the move that
transfers. The transfers of a sheet and of its text stand in one order (log entry 21). -/
def State.controlOf (s : State) (n : CoreNo) (im : ImageRef) (e : SheetMapEntry) (k : Nat) : Option (Word × Nat) :=
  match (s.coreAt n).sheet with
  | none => none
  | some sh => (controlGroup sh.text (sh.text.length + 1) 0 (s.controlsBefore n im e k)).map fun x =>
      (sh.entry + BitVec.ofNat 64 (4 * x.1), x.2)

/-- The virtual PC at which native control stands as it falls on behind bundle `k` at the end of its sheet (R150, R182; log entry 21):
the sheet that begins at bundle `k + 1`, or the group after the sheet's last, where bundle `k` has an exit there or none, or else the
exit of bundle `k`. -/
def State.nativeNext (s : State) (n : CoreNo) (im : ImageRef) (e : SheetMapEntry) (k : Nat) : Word :=
  match im.sheetOfBundle (k + 1) with
  | some e' => im.text + BitVec.ofNat 64 e'.vent
  | none =>
    let after := s.groupsAfter n (im.text + BitVec.ofNat 64 e.vent) e.ngrp
    if e.exits.any fun x => x.2 == k && im.text + BitVec.ofNat 64 x.1 == after then after
    else (im.exitOf e k).getD after

/-- The move groups of the kernel of `len` bundles that begins at bundle `k` (R161): those of the sheets that begin in it. -/
def ImageRef.kernelGroups (im : ImageRef) (k len : Nat) : Nat :=
  ((im.sheets.filter fun e => decide (k ≤ e.nent) && decide (e.nent < k + len)).map SheetMapEntry.ngrp).sum

end Sys2Proof.Machine
end

