-- ==== Sys2Proof/Machine/Control.lean ====
section
/-! DEFINITION. Control transfers, loops, and the operations that suspend, spawn and end tasks (R42-R47, R83-R86, R92,
R181-R185, R429). -/

namespace Sys2Proof.Machine

/-! ## Transfers -/

/-- A control fault (R429). -/
def condControl (code : BitVec 16) (opnd : BitVec 4) (tinfo : Word) : Cond := condOwn 0x15 code opnd tinfo

/-- The condition of a transfer target (R137, R181, R429 CODE 0x0001). -/
def targetConds (s : State) (a : Word) : List Cond :=
  if s.targetOk s.core.tenant a then [] else [condControl 1 4 a]

/-- The virtual PC of the group that follows the one being executed: the context's PC in Wyilo text, which already stands
there; in a native sheet, the group behind the one whose transfer the bundle makes (R182, log entry 21). -/
def State.nextGroup (s : State) : Word :=
  match s.nativeSheet s.cur with
  | some (im, e, k) => match s.controlOf s.cur im e k with
    | some (a, _) => a
    | none => s.nativeNext s.cur im e k
  | none => s.core.ctx.pc

/-- Continues at bundle `k` of the open image (R150, R181): the sheet that begins there, or a bundle of the sheet in
hand. -/
def State.toBundle (s : State) (n : CoreNo) (k : Nat) : State :=
  match s.nativeSheet n, (s.coreAt n).sheet with
  | some (im, e, _), some sh =>
    match im.sheetOfBundle k with
    | some e' => s.transfer n (im.text + BitVec.ofNat 64 e'.vent)
    | none =>
      if e.nent ≤ k ∧ k < e.nent + e.nbs then
        s.setCoreAt n ((s.coreAt n).setSheet (some { sh with bundle := some k }))
      else s
  | _, _ => s

/-- A native direct transfer by OFF bundles (R181). -/
def State.directTo (s : State) (off : Int) : State :=
  match s.nativeSheet s.cur with
  | some (_, _, k) => s.toBundle s.cur (((k : Int) + off).toNat)
  | none => s

/-- Writes a link register; index 0 discards (R182). In native code the write lands one cycle later, as the transfer takes effect, behind
the results of earlier bundles that land then (R77, R78). -/
def State.setLink (s : State) (nat : Bool) (i : BitVec 6) (v : Word) : State :=
  s.onCore fun c =>
    if i = 0 then c
    else if nat then
      { c with pend := c.pend ++ [{ gen := c.sheetGen, due := s.now + 1, dst := .s i, val := v.setWidth 1024, flags := 0 }] }
    else { c with ctx := c.ctx.wrS i v }.retag (.s i) none

/-- A transfer to a virtual target: operand a, plus b in native code. -/
def semJump (row : OpRow) (link : Args → Option (BitVec 6)) (f : Form) (s : State) : Sem :=
  let useB : Use := if isWyForm f then { b := fun _ _ => row.code = 6 || row.code = 7 } else { b := fun _ _ => row.shape ≠ .sb }
  let x := fetchArgs row useB f s.core
  let target := if isWyForm f then x.a64 else x.a64 + x.b64
  { block := x.block
    conds := x.conds ++ targetConds s target
    ctl := true
    eff := effNone x
    xfer := some fun t =>
      let t := match link x with | some i => t.setLink x.nat i t.nextGroup | none => t
      t.transfer t.cur target }
where
  /-- Whether a form is Wyilo's. -/
  isWyForm (f : Form) : Bool := match f with | .wy _ => true | .nat .. => false

/-- A native direct transfer. -/
def semDirect (row : OpRow) (link : Args → Option (BitVec 6)) (f : Form) (s : State) : Sem :=
  let x := fetchArgs row { b := noB } f s.core
  { block := x.block
    conds := x.conds
    ctl := true
    xfer := some fun t =>
      let v := t.nextGroup
      let t := match link x with | some i => t.setLink x.nat i v | none => t
      t.directTo x.a64.toInt }

/-- br (R182). -/
def semBr (f : Form) (s : State) : Sem :=
  match f with
  | .wy _ => semJump ⟨.BRC, 4, 0x28, 0, 1, .sb⟩ (fun _ => none) f s
  | .nat .. => semDirect ⟨.BRC, 4, 0x28, 0, 1, .sb⟩ (fun _ => none) f s

/-- jmp (R182). -/
def semJmp (f : Form) (s : State) : Sem := semJump ⟨.BRC, 5, 0x29, 0, 1, .sr .none true .any⟩ (fun _ => none) f s

/-- call (R182): the link index is b[5:0], or D. -/
def semCall (f : Form) (s : State) : Sem :=
  match f with
  | .wy _ => semJump ⟨.BRC, 6, 0x2a, 0, 1, .sd⟩ (fun x => some (bits x.b64 0 6)) f s
  | .nat .. => semDirect ⟨.BRC, 6, 0x2a, 0, 1, .sd⟩ (fun x => some (bits x.c64 0 6)) f s

/-- callr (R182). -/
def semCallr (f : Form) (s : State) : Sem :=
  semJump ⟨.BRC, 7, 0x2b, 0, 1, .sr .link true .any⟩
    (fun x => some (match f with | .wy _ => bits x.b64 0 6 | .nat .. => bits x.c64 0 6)) f s

/-- ret (R182). -/
def semRet (f : Form) (s : State) : Sem := semJump ⟨.BRC, 8, 0x2c, 0, 1, .sr .none true .any⟩ (fun _ => none) f s

/-! ## Loops -/

/-- loop (R183, R85): engine b[1:0], PB b[5:2], NST b[8:6] + 1, LEN b[16:9] + 1 groups. A native loop's kernel is b[18:9] + 1 bundles
long, of the S1 word; LEN and VBODY are those of the sheets that the kernel's bundles begin (R161). -/
def semLoop (f : Form) (s : State) : Sem :=
  let c := s.core
  let x := fetchArgs ⟨.BRC, 9, 0x2d, 0, 1, .sl⟩ {} f c
  let e : BitVec 2 := bits x.b64 0 2
  let pb := (bits x.b64 2 4 : BitVec 4).toNat
  let nst := (bits x.b64 6 3 : BitVec 3).toNat + 1
  let len := (bits x.b64 9 8 : BitVec 8).toNat + 1
  let tinfo : Word := (x.a64 &&& 0xFFFFFFFF00000000) ||| (x.b64 &&& 0x1FF)
  { block := x.block
    conds := x.conds ++
      (if lcAct (c.ctx.lc.get e) then [condControl 2 1 (e.setWidth 64)] else []) ++
      (if pb = 0 ∨ 15 < pb + nst - 1 then [condControl 3 1 tinfo] else []) ++
      (if 2 ^ 32 ≤ x.a64.toNat then [condControl 3 4 tinfo] else []) ++ ownConds c (.lc e) 15
    ctl := true
    eff := effNone x
    xfer := some fun t =>
      let n := t.cur
      match t.nativeSheet n with
      | some (im, _, k) =>
        let nlen := (bits x.b64 9 10 : BitVec 10).toNat + 1
        let body := match im.sheetOfBundle (k + 1) with | some e' => im.text + BitVec.ofNat 64 e'.vent | none => t.nextGroup
        let groups := max 1 (min 256 (im.kernelGroups (k + 1) nlen))
        t.loopStart n e (x.a64.setWidth 32) groups nst pb nlen body (t.groupsAfter n body groups)
      | none =>
        let body := t.core.ctx.pc
        t.loopStart n e (x.a64.setWidth 32) len nst pb 0 body (t.groupsAfter n body len) }

/-- Ends the innermost active loop at once and leaves its kernel (R184). -/
def State.leaveLoop (s : State) (n : CoreNo) : State :=
  let c := s.coreAt n
  match c.ctx.loops with
  | [] => s
  | e :: rest =>
    let x := c.ctx.lc.get e
    let after := s.afterKernel n e
    let ctx := (List.range (lcNST x)).foldl (fun (y : Ctx) j => y.wrP (BitVec.ofNat 4 (lcPB x + j)) false) c.ctx
    let t := (s.setCoreAt n { c with ctx := { ctx with lc := ctx.lc.put e (lcSet x 0 false false), loops := rest } }).transfer n after
    State.passEnds n (c.ctx.pc - 4) 3 t

/-- lexit (R184). -/
def semLexit (f : Form) (s : State) : Sem :=
  let c := s.core
  let x := fetchArgs ⟨.BRC, 10, 0x2e, 0, 1, .sr .none false .none⟩ { a := false, b := noB } f c
  { block := x.block
    conds := match c.ctx.loops with | [] => [condControl 4 15 0] | e :: _ => ownConds c (.lc e) 15
    ctl := true
    eff := effNone x
    xfer := some fun t => t.leaveLoop t.cur }

/-! ## SUSP, SPAWN and EXIT -/

/-- The record address of susp and spawn: a, plus b in native code (R185). -/
def recordAddr (f : Form) (x : Args) : Word := match f with | .wy _ => x.a64 | .nat .. => x.a64 + x.b64

/-- Operand b of susp and spawn is read in native code only. -/
def useRecord (f : Form) : Use := match f with | .wy _ => { b := noB } | .nat .. => {}

/-- Whether nothing of the context is still on its way: its gated stores, its producers and its write streams (R42, R47,
R83). -/
def Core.settled (c : Core) : Bool :=
  c.committed.isEmpty && c.outst.isEmpty && c.pend.isEmpty && c.wbuf.isEmpty

/-- Whether nothing of a core's context is on its way, in the core or at the homes, and the core's die may release: what SUSP, EXIT
and a save wait for (R42, R47, R62, R311, R319). The lines that the release writes to the second tier are free of locks. -/
def State.mayLeave (s : State) (n : CoreNo) : Bool :=
  (s.coreAt n).settled && !s.mem.hasAtomic n && s.mem.mayRelease ((dieOf n).setWidth 4) && !s.mem.ackOpen n &&
  (s.coreAt n).l1.all fun l => l.dirty = 0 || targetOf (l.line * 128) = .package || !s.mem.lockedFor n l.line

/-- What the package keeps of a core's task as it leaves the core (R47, R312, R318, R364). -/
def State.taskMem (s : State) (n : CoreNo) : TaskMem :=
  let c := s.coreAt n
  { task := match c.running with | some r => r.task | none => 0
    rel := some (s.mem.vc.get ((dieOf n).setWidth 4)), heard := c.clock }

/-- A write made at a word's home pile under a stamp (R316); other targets take it at once. -/
def MemSys.stampedWrite (m : MemSys) (d : BitVec 4) (k : Clock) (pa : Nat) (bs : List Byte) : MemSys := m.land d (.write pa bs false k [])

/-- A write made at a word's home pile by die `d`, with the die's stamp (R316). -/
def MemSys.homeWrite (m : MemSys) (d : BitVec 4) (pa : Nat) (bs : List Byte) : MemSys := m.stampedWrite d (m.vc.get d) pa bs

/-- The bytes 8-63 of a continuation record (R38, R42). -/
def Ctx.recordBody (c : Ctx) : List Byte :=
  leBytes 8 c.code.toNat ++ (List.range 8).flatMap (fun i => leBytes 2 (c.coords.get (BitVec.ofNat 3 i)).toNat) ++
  (List.range 8).flatMap fun i => leBytes 4 (c.rdS (BitVec.ofNat 6 (56 + i))).toNat

/-- Discards the sheets that stand open below the current depth, for a handler that leaves its task (R92). -/
def State.discardOuter (s : State) (n : CoreNo) : State :=
  let d := (s.coreAt n).depth.toNat
  (List.range d).foldr (fun i s => s.discardSheet n (BitVec.ofNat 2 i)) s

/-- The virtual PC a SUSP writes to its record (R42, R92). None while a read of the outermost trap frame is held. A frame that cannot
be read gives the handler's own next group (DESIGN CHOICE, log entry 36: the spec says nothing of it). -/
def State.suspPc (s : State) (n : CoreNo) : Option Word :=
  let c := s.coreAt n
  if c.depth = 0 then some c.ctx.pc
  else match c.sheets.get 0 with
    | some sh => some sh.entry
    | none => match s.ctxLoad n (c.creg crTFBASE) 16 with
      | .ok (some (_, v)) => some (v.extractLsb' 64 64)
      | .ok none => none
      | .error _ => some c.ctx.pc

/-- The first part of a SUSP (R42, steps 1-4), once everything before it has left the core: the test of W, the record's
body, the L1's write-back and the release. -/
def State.suspTest (s : State) (n : CoreNo) (a : Word) (pa : Nat) : State :=
  let c := s.coreAt n
  match c.running with
  | none => s
  | some r =>
    let done (s : State) (st : Word) : State :=
      let c := s.coreAt n
      s.setCoreAt n ({ c with leaving := .none, ctx := c.ctx.wrS 47 st }.retag (.s 47) none)
    if !s.mayLeave n then s
    else if r.cancelPending then done s 1
    else
      let line := pa / 128
      let s := cmntLine s n 2 2 line
      let d : BitVec 4 := (dieOf n).setWidth 4
      if ((targetOf pa = .package ∧ !s.mem.readable d line) ∨ s.mem.lockedFor n line) ∧ ¬ s.mem.gaveUp n line then
        s.noteHolds n none [(pa, 64, false)]
      else if s.mem.isBad (pa / 16) ∨ s.mem.gaveUp n line then (s.writeIncomplete n).loseTask n 0x31 3
      else
        let w : Word := BitVec.ofNat 64 (leNat (Memory.read s.mem.mem pa 8))
        if w.getLsbD 62 then
          done (s.withMem fun m => m.homeWrite d pa (leBytes 8 (w &&& ~~~((1 : Word) <<< 62)).toNat)) 2
        else match s.suspPc n with
          | none => s
          | some vpc =>
            let s := s.discardOuter n
            let s := s.withMem fun m => { m with locks := m.locks ++
              [{ core := n, line := line, pa := pa, gen := (s.coreAt n).sheetGen, susp := true }] }
            let s := s.withMem fun m => m.leave d (pa + 8) (s.coreAt n).ctx.recordBody false [n]
            let s := releaseAt (flushL1 s n) n 3
            s.setCoreAt n { s.coreAt n with leaving := .suspEnd a pa vpc }

/-- Whether die `d`'s latest release has been applied at the home of `pa`, and with it everything the die has sent there before. -/
def MemSys.releasedAt (m : MemSys) (d : BitVec 4) (pa : Nat) : Bool :=
  targetOf pa ≠ .package || (m.piles.get (pileOf pa)).lost ||
  clockGe ((m.piles.get (pileOf pa)).ac.get d) ((m.vc.get d).get d)

/-- The record body of a core's SUSP, which has waited at the home of its locked line, takes its place there (R42). -/
def MemSys.landBody (m : MemSys) (n : CoreNo) (pa : Nat) : MemSys :=
  match m.lockQ.find? fun x => match x.2 with | .write a _ _ _ who => a == pa + 8 && who.contains n | .marker _ => false with
  | some x => { m with lockQ := m.lockQ.erase x }.land x.1 x.2
  | none => m

/-- The last part of a SUSP (R42): the record's body and then its word with S = 1, which follows the release, are in their place as the
line is unlocked, and the core is freed; a launch cancelled meanwhile discards the task (R41). A read that does not wait for the lock, of
a translation table or of text, takes the line as it was when it was locked, as if it were made before (log entry 64). -/
def State.suspFinish (s : State) (n : CoreNo) (a : Word) (pa : Nat) (vpc : Word) : State :=
  let c := s.coreAt n
  let d : BitVec 4 := (dieOf n).setWidth 4
  match c.running with
  | none => s
  | some r =>
    if !s.mem.releasedAt d pa then s
    else
      let w : Word := 0x8000000000000000 ||| (BitVec.ofBool c.pin).setWidth 64 <<< 61 ||| (vpc &&& 0x01FFFFFFFFFFFFFC)
      let s := s.withMem fun m => ((m.landBody n pa).homeWrite d pa (leBytes 8 w.toNat)).unlock n 0
      let savea := c.creg crSAVEA
      let k := s.taskMem n
      let c := c.releaseAcc
      let s := s.setCoreAt n { c with copyQ := c.copyQ.map fun e => if e.owner = savea then { e with owner := 0 } else e }
      let s := (s.freeArea r.tenant r.savea).leaveCore n 0
      if r.cancelPending then s.endTask r.tenant r.handle
      else match s.findLaunch r.tenant r.handle with
        | some l => s.modLaunch l.order fun l => { l with waiting := l.waiting ++ [.suspended a k] }
        | none => s

/-- The tagged registers and result ports that an EXIT discards: those of its own depth, and what the depths below it keep (R397). -/
def Core.exitTags (c : Core) : List RegTag :=
  (c.tags ++ (List.range c.depth.toNat).flatMap fun d => c.savedTags.get (BitVec.ofNat 2 d)).filter fun t => !t.own

/-- EXIT (R47), once every copy that its task has issued, before a SUSP as well, has landed, and its gated stores have left. -/
def State.exitFinish (s : State) (n : CoreNo) : State :=
  let c := s.coreAt n
  match c.running with
  | none => s
  | some r =>
    if !s.mayLeave n || s.cores.any (fun kc => kc.2.copyQ.any fun e => e.task == r.task && !e.armed) then s
    else
      let s := c.exitTags.foldl (fun s t => s.reportAt n 2 t.addr c.ctx.pc 0) s
      let s := releaseAt (flushL1 (s.discardOuter n) n) n 3
      let s := s.setCoreAt n (s.coreAt n).releaseAcc
      ((s.freeArea r.tenant r.savea).leaveCore n 1).endTask r.tenant r.handle

/-- Carries on a task's departure from its core. -/
def State.leaveStep (s : State) (n : CoreNo) : State :=
  match (s.coreAt n).leaving with
  | .none => s
  | .susp a pa => s.suspTest n a pa
  | .suspEnd a pa vpc => s.suspFinish n a pa vpc
  | .exit => s.exitFinish n

/-- Begins a departure: the group's commit point, and as much of the rest as can be done at once. An EXIT keeps the tags that it is to
report (R397). -/
def State.leaveBy (s : State) (n : CoreNo) (l : Leaving) : State :=
  let s := (s.onCore fun c => { c with ctx := { c.ctx with pc := s.nextGroup } }).commitSheet n
  let c := s.coreAt n
  (s.setCoreAt n { c.portBoundary with leaving := l, tags := if l = .exit then c.tags else c.portBoundary.tags }).leaveStep n

/-- The lowest tagged register among s56-s63 (R397). -/
def Core.taggedLive (c : Core) : Option (BitVec 6) :=
  ((List.range 8).map fun i => BitVec.ofNat 6 (56 + i)).find? fun i => c.tags.any fun t => t.reg == .s i

/-- susp (R42, R185, R397). -/
def semSusp (f : Form) (s : State) : Sem :=
  let c := s.core
  let x := fetchArgs ⟨.BRC, 11, 0x2f, 0, 1, .sr .none true .any⟩ (useRecord f) f c
  let a := recordAddr f x
  let tr := translateRange s s.cur c.tenant true a 64 .rw
  { block := x.block
    conds := x.conds ++
      (if (List.range 4).any (fun i => lcAct (c.ctx.lc.get (BitVec.ofNat 2 i))) then [condControl 5 15 0] else []) ++
      (List.range 4).flatMap (fun i => ownConds c (.lc (BitVec.ofNat 2 i)) 15) ++
      (if a.toNat % 64 ≠ 0 then [condControl 6 4 a] else []) ++
      (match c.taggedLive with | some i => [⟨6, 0x30, 6, 15, i.setWidth 64, 0⟩] | none => []) ++
      (match tr with | .error e => [condPage .rw e] | .ok _ => [])
    ctl := true
    eff := effNone x
    xfer := some fun t => match tr with
      | .ok ((pa, _, _) :: _, es) => (t.keepTlb t.cur es).leaveBy t.cur (.susp a pa)
      | _ => t }

/-- Reads 64 bytes as a load of the core's own context would; the third component is an uncorrectable address. -/
def State.readRecord (s : State) (n : CoreNo) (a : Word) : Except (Word × TrErr) (Option (State × Vec × Option Word)) :=
  match translateRange s n (s.coreAt n).tenant true a 64 .read with
  | .error e => .error e
  | .ok (runs, es) =>
    let s := s.keepTlb n es
    .ok (performRead s n { pieces := piecesOf runs 0 a, base := 0, sext := none })

/-- Whether a continuation record may be spawned by a core's task (R39, R46). -/
def State.spawnOk (s : State) (n : CoreNo) (v : Vec) : Bool :=
  let w : Word := v.extractLsb' 0 64
  w &&& 0xDE00000000000003 = 0 &&
  match (s.coreAt n).running with
  | none => false
  | some r => match s.findLaunch r.tenant r.handle with
    | none => false
    | some l => s.coordsOk l fun j => (v.extractLsb' (128 + 16 * j) 16 : BitVec 16).toNat

/-- spawn (R46, R185): its record is read and checked at issue, and the spawn leaves gated, behind every other effect of its group
(R132). -/
def semSpawn (f : Form) (s : State) : Sem :=
  let c := s.core
  let x := fetchArgs ⟨.BRC, 12, 0x30, 0, 1, .sr .none true .any⟩ (useRecord f) f c
  let a := recordAddr f x
  let own (r : Except (Word × TrErr) (Option (State × Vec × Option Word))) : List Cond × Bool :=
    match r with
    | .error e => ([condPage .read e], false)
    | .ok none => ([], true)
    | .ok (some (_, _, some b)) => ([⟨6, 0x30, 2, 4, b, b⟩], false)
    | .ok (some (_, v, none)) => (if s.spawnOk s.cur v then [] else [condControl 6 4 a], false)
  let (k, held) := if a.toNat % 64 ≠ 0 then ([condControl 6 4 a], false) else own (s.readRecord s.cur a)
  { block := x.block || held
    conds := x.conds ++ k
    ctl := true
    eff := effNone x
    late := fun t => t.onCore fun c => (c.gate (.release 3 c.ops)).gate (.spawn a) }

/-- exit (R47, R185). -/
def semExit (f : Form) (s : State) : Sem :=
  let x := fetchArgs ⟨.BRC, 13, 0x31, 0, 1, .sr .none false .none⟩ { a := false, b := noB } f s.core
  { block := x.block
    conds := []
    ctl := true
    eff := effNone x
    xfer := some fun t => t.leaveBy t.cur .exit }

end Sys2Proof.Machine
end

