-- ==== Sys2Proof/Machine/System.lean ====
section
/-! DEFINITION. The SYS operations: control registers, software traps and TRET, stamped issue, the accumulator and matrix
state, and marks (R69-R71, R91, R186-R194, R426, R427). -/

namespace Sys2Proof.Machine

/-! ## Control registers (R69, R70, R186) -/

/-- Who may write a control register (R69, R70). -/
inductive CrAccess where
  | ro | task | handler | supervisor
  deriving DecidableEq, Repr

/-- A control register's access (R69); none for an undefined index. -/
def crAccess (i : BitVec 8) : Option CrAccess :=
  match i with
  | 0x00 | 0x01 | 0x07 | 0x09 | 0x0A | 0x0B | 0x0C | 0x13 | 0x40 | 0x43 | 0x44 => some .ro
  | 0x02 | 0x03 | 0x04 | 0x05 | 0x0D | 0x16 | 0x42 => some .task
  | 0x08 | 0x14 | 0x15 => some .handler
  | 0x06 | 0x0E | 0x0F | 0x10 | 0x11 | 0x12 | 0x41 => some .supervisor
  | _ => none

/-- The bits of a control register that a write stores, and those that a written 1 clears (R7, R8, R69, R71, R104,
R233). -/
def crMasks (i : BitVec 8) : Word × Word :=
  match i with
  | 0x02 => (0x7, 0)
  | 0x03 => (0, 0x1F)
  | 0x04 => (0xF301, 0)
  | 0x06 => (0x01FFFFFFFFFFFF00, 0)
  | 0x12 => (3, 0)
  | 0x16 => (0, 1)
  | 0x42 => (0xFFFF000000000000, 0x9D)
  | 0x05 | 0x08 | 0x0D | 0x0E | 0x0F | 0x10 | 0x11 | 0x14 | 0x15 | 0x41 => (BitVec.allOnes 64, 0)
  | _ => (0, 0)

/-- The value of a control register on the current core (R69, R346). -/
def State.crRead (s : State) (i : BitVec 8) : Word :=
  let c := s.core
  match i with
  | 0x40 => s.cur.setWidth 64
  | 0x41 => c.aown
  | 0x42 => c.mstat
  | 0x43 => BitVec.ofNat 64 s.mtime
  | 0x44 => s.cyc c
  | _ => if i.toNat ≤ 0x16 then c.creg (i.setWidth 5) else 0

/-- AOWN set: a change empties the descriptor cache (R232). The matrix array goes to the new owner with it, so that a later
discard of an open sheet does not bring back the old owner's (R66, R336; log entry 27). -/
def Core.setAown (c : Core) (v : Word) : Core :=
  if v = c.aown then c
  else { c with
    aown := v, descCache := []
    sheets := c.sheets.map fun o => o.map fun sh => { sh with shadow := { sh.shadow with
      acc := c.acc, legend := c.legend, mstat := c.mstat, mcfg := c.mcfg, dsca := c.dsca, dscb := c.dscb } } }

/-- Stores a control register's value: its storage is correct from then on (R395). -/
def Core.crStore (c : Core) (i : BitVec 8) (v : Word) : Core :=
  match i with
  | 0x41 => (c.setAown v).retag (.cr i) none
  | 0x42 => { c with mstat := v }.mxRepair [33]
  | _ => if i.toNat ≤ 0x16 then (c.setCreg (i.setWidth 5) v).retag (.cr i) none else c

/-- What crwr makes of an old value (R7, R8, R186). -/
def crWritten (i : BitVec 8) (old v : Word) : Word :=
  let (rw, w1c) := crMasks i
  (v &&& rw) ||| (old &&& ~~~rw &&& ~~~(v &&& w1c))

/-- What crset makes of an old value (R186). -/
def crSetBits (i : BitVec 8) (old m : Word) : Word := old ||| (m &&& (crMasks i).1)

/-- What crclr makes of an old value (R186). -/
def crClearBits (i : BitVec 8) (old m : Word) : Word := old &&& ~~~(m &&& ((crMasks i).1 ||| (crMasks i).2))

/-- Whether a context may write a control register (R70). -/
def Core.mayWrite (c : Core) : CrAccess → Bool
  | .ro | .task => true
  | .handler => c.depth ≠ 0
  | .supervisor => c.priv

/-- The conditions of a control-register access (R70, R426): CODE 2 for an undefined index, CODE 1 without the
privilege. -/
def crConds (c : Core) (i : BitVec 8) (write : Bool) (opnd : BitVec 4) : List Cond :=
  match crAccess i with
  | none => [condPriv 2 opnd (i.setWidth 64)]
  | some a => if write ∧ ¬ c.mayWrite a then [condPriv 1 opnd (i.setWidth 64)] else []

/-- Changes a control register of the current core by its old value; a read-only one keeps it. -/
def State.crUpdate (s : State) (i : BitVec 8) (f : Word → Word) : State :=
  if crAccess i = some .ro then s else s.onCore fun c => c.crStore i (f (s.crRead i))

/-- The flags that land in the cycle of a crwr, crset or crclr of FSTAT, or of a move that acts as a crwr, are ORed in after it (R186,
R211, R230). -/
def State.afterWrite (s : State) (i : BitVec 8) : State := if i = 3 then s.onCore fun c => c.orFstat c.landedFlags else s

/-- The control registers that hold flags an operation raises: FSTAT, PSTAT and MSTAT (R187). -/
def crIsFlags (i : BitVec 8) : Bool := i = 0x03 || i = 0x16 || i = 0x42

/-- Whether an access to a control register counts as an MX-slot operation: one to MSTAT (R231). -/
def crIsMx (i : BitVec 8) : Bool := i = 0x42

/-- The data error of a read of a control register whose storage is uncorrectable (R392, R395), MSTAT's being of the matrix state's image
(R232). -/
def crBadConds (c : Core) (i : BitVec 8) (opnd : BitVec 4) : List Cond := if crIsMx i then mxConds c [33] else ownConds c (.cr i) opnd

/-- crrd (R186): the index is a[7:0], or CR. -/
def semCrrd (f : Form) (s : State) : Sem :=
  let c := s.core
  let nat := match f with | .wy _ => false | .nat .. => true
  let x := fetchArgs ⟨.SYS, 4, 0x34, 0, 1, .sc false true⟩ { a := !nat, b := fun _ _ => nat } f c
  let i : BitVec 8 := if nat then bits x.b64 0 8 else bits x.a64 0 8
  { block := x.block, conds := x.conds ++ crConds c i false (if nat then 15 else 4) ++ crBadConds c i (if nat then 15 else 4), mx := crIsMx i,
    eff := effY x 1 (wide (s.crRead i)) }

/-- A writing control-register operation, which makes its value of the one that every slot of its bundle reads (R78, R187); `y` tells
whether it returns the old value. -/
def semCrWrite (row : OpRow) (y : Bool) (g : BitVec 8 → Word → Word → Word) (f : Form) (s : State) : Sem :=
  let c := s.core
  let x := fetchArgs row {} f c
  let i : BitVec 8 := bits x.b64 0 8
  { block := x.block
    conds := x.conds ++ crConds c i true 1 ++ (if y then crBadConds c i 1 else [])
    mx := crIsMx i
    early := if crIsFlags i then fun t => (t.crUpdate i fun _ => g i (s.crRead i) x.a64).afterWrite i else id
    late := if crIsFlags i then id else fun t => t.crUpdate i fun _ => g i (s.crRead i) x.a64
    eff := if y then effY x 1 (wide (s.crRead i)) else effNone x }

/-- crwr (R186). -/
def semCrwr (f : Form) (s : State) : Sem := semCrWrite ⟨.SYS, 5, 0x35, 0, 1, .sc true false⟩ false crWritten f s

/-- crset (R186). -/
def semCrset (f : Form) (s : State) : Sem := semCrWrite ⟨.SYS, 6, 0x36, 0, 1, .sc true true⟩ true crSetBits f s

/-- crclr (R186). -/
def semSysCrclr (f : Form) (s : State) : Sem := semCrWrite ⟨.SYS, 7, 0x37, 0, 1, .sc true true⟩ true crClearBits f s

/-! ## Traps (R91, R188, R189) -/

/-- trap: the number is a[7:0], or N (R188). -/
def semTrap (f : Form) (s : State) : Sem :=
  let nat := match f with | .wy _ => false | .nat .. => true
  let x := fetchArgs ⟨.SYS, 8, 0x38, 0, 1, .sg true false⟩ { a := !nat, b := fun _ _ => nat } f s.core
  { block := x.block, conds := x.conds, soft := some (if nat then bits x.b64 0 8 else bits x.a64 0 8), eff := effNone x }

/-- tret (R91, R189, R429): it writes s1-s15, and so waits for what is outstanding to them (R76). -/
def semTret (f : Form) (s : State) : Sem :=
  let c := s.core
  let x := fetchArgs ⟨.SYS, 9, 0x38, 1, 1, .sg false false⟩ { a := false, b := noB } f c
  let target := c.creg crTVPC
  let k := if c.depth = 0 then [condPriv 4 15 0]
    else if target = c.entryPc.get (c.depth - 1) || s.targetOk c.tenant target then []
    else [condControl 1 15 target]
  { block := x.block || c.outst.any (fun o => match o.dst with | .s i => decide (i.toNat < 16) | _ => false) ||
      (c.depth ≠ 0 && (s.trapReturn s.cur).isNone)
    conds := x.conds ++ k ++ ownConds c (.cr (crTVPC.setWidth 8)) 15 ++ ownConds c (.cr (crTFBASE.setWidth 8)) 15
    ctl := true
    eff := effNone x
    xfer := some fun t => let t := t.commitSheet t.cur; (t.trapReturn t.cur).getD t }

/-! ## Stamped and timed issue (R190-R192) -/

/-- The hold of issueat t at a bundle that issues at SFC `now` (R190): the second component sets LATE. -/
def issueatHold (pin : Bool) (now t : Word) : NextHold × Bool :=
  if now.toNat < t.toNat then (.issueAt t, false)
  else if pin then (.overrun 1 (t &&& 0x7FFFFFFFFFFFFFFF), false)
  else (.none, true)

/-- Sets what holds the next bundle. Of two holds that one bundle sets, the one of the higher-numbered slot stands: the spec does not say
how they combine (DESIGN CHOICE, log entry 69). A request for pre-emption that stands by then waits for the held bundle to issue, as one
that comes during the hold does (R192; DEDUCED, log entry 74). -/
def Core.setHold (c : Core) (h : NextHold × Bool) : Core :=
  let c := { c with hold := h.1, waitsIssue := c.preempt && decide (h.1 ≠ .none) }
  if h.2 then c.setLate else c

/-- issueat (R190). -/
def semIssueat (f : Form) (s : State) : Sem :=
  let c := s.core
  let x := fetchArgs ⟨.SYS, 10, 0x38, 2, 1, .sg false true⟩ { b := noB } f c
  { block := x.block, conds := x.conds,
    eff := fun t => (effNone x t).onCore fun d => d.setHold (issueatHold c.pin (c.creg crSFC) x.a64) }

/-- frmwait (R191). -/
def semFrmwait (f : Form) (s : State) : Sem :=
  let nat := match f with | .wy _ => false | .nat .. => true
  let x := fetchArgs ⟨.SYS, 11, 0x38, 3, 1, .sg true false⟩ { a := !nat, b := fun _ _ => nat } f s.core
  let k : BitVec 8 := if nat then bits x.b64 0 8 else bits x.a64 0 8
  { block := x.block, conds := x.conds,
    eff := fun t => (effNone x t).onCore fun d => d.setHold (.frmWait (k.toNat + 1), false) }

/-- The hold of timeat t at meridian time `now` (R192): a late one waits for the next boundary. -/
def timeatHold (pin : Bool) (now : Nat) (t : Word) : NextHold × Bool :=
  if t.toNat < now then (if pin then (.overrun 3 (t &&& 0x7FFFFFFFFFFFFFFF), false) else (.timeAt (BitVec.ofNat 64 (now + 1)), true))
  else (.timeAt t, false)

/-- timeat (R192). -/
def semTimeat (f : Form) (s : State) : Sem :=
  let c := s.core
  let x := fetchArgs ⟨.SYS, 12, 0x38, 4, 1, .sg false true⟩ { b := noB } f c
  { block := x.block, conds := x.conds,
    eff := fun t => (effNone x t).onCore fun d => d.setHold (timeatHold c.pin s.mtime x.a64) }

/-! ## Accumulator and matrix state (R193) -/

/-- Gates the stores of bytes over physical runs. -/
def Core.gateRuns (c : Core) : List (Nat × Nat × Bool) → List Byte → Core
  | [], _ => c
  | (pa, n, nc) :: r, bs => Core.gateRuns (c.gate (.store pa nc (bs.take n))) r (bs.drop n)

/-- The conditions of an address of R193: privilege, alignment, and bits 63:57. -/
def mxAddrConds (c : Core) (a : Word) (n : Nat) : List Cond :=
  (if c.priv then [] else [condPriv 3 15 0]) ++
  (if a.toNat % 64 ≠ 0 then [condOwn 0x13 1 4 a] else []) ++
  (if 2 ^ 57 ≤ a.toNat then [condOwn 0x13 2 4 a]
   else if 2 ^ 57 < a.toNat + n then [condOwn 0x13 2 4 (BitVec.ofNat 64 (2 ^ 57))] else [])

/-- A spill: the bytes of the array or image, gated (R193, R337). -/
def semSpill (row : OpRow) (img : Core → List Byte) (conds : Core → List Cond) (f : Form) (s : State) : Sem :=
  let c := s.core
  let x := fetchArgs row { b := noB } f c
  let bs := img c
  let k := mxAddrConds c x.a64 bs.length
  let tr := translateRange s s.cur c.tenant c.priv x.a64 bs.length .write
  { block := x.block
    conds := x.conds ++ conds c ++ k ++ (if k ≠ [] then [] else match tr with | .error e => [condPage .write e] | .ok _ => [])
    eff := fun t => match tr with
      | .ok (runs, es) => ((effNone x t).keepTlb t.cur es).onCore fun c => c.gateRuns runs bs
      | .error _ => t }

/-- The accumulator's 4,096 bytes: element j of row r at 128r + 4j (R193). -/
def accImage (c : Core) : List Byte :=
  (List.range 32).flatMap fun r => leBytes 128 (c.acc.get (BitVec.ofNat 5 r)).toNat

/-- The 64-byte matrix state image (R232). -/
def msImage (c : Core) : List Byte :=
  leBytes 32 c.legend.toNat ++ leBytes 8 c.mstat.toNat ++ leBytes 8 c.mcfg.toNat ++ leBytes 8 c.dsca.toNat ++
  leBytes 8 c.dscb.toNat

/-- The data error 0x0006 of a spill (R392, R397): the lowest register that is tagged while a matrix read into it is outstanding. -/
def spillConds (c : Core) : List Cond :=
  let hit := c.outst.filterMap fun o => if o.matrix && (c.tagOf o.dst).isSome then regForm o.dst else none
  match hit with
  | [] => []
  | x :: r => [⟨6, 0x30, 6, 15, (r.foldl (fun m y => if y.toNat < m.toNat then y else m) x).setWidth 64, 0⟩]

/-- accsp (R193, R397). -/
def semAccsp (f : Form) (s : State) : Sem :=
  semSpill ⟨.SYS, 13, 0x38, 5, 1, .sg false true⟩ accImage (fun c => mxConds c accItems ++ spillConds c) f s

/-- msps (R193). -/
def semMsps (f : Form) (s : State) : Sem :=
  semSpill ⟨.SYS, 15, 0x38, 7, 1, .sg false true⟩ msImage (fun c => mxConds c imageItems) f s

/-- What reading blocks for a fill finds: the first failed translation, whether a read is held, the lowest block that is
uncorrectable with the address of its first failing granule, and the blocks. -/
structure FillRead where
  page : Option (Word × TrErr) := none
  held : Bool := false
  bad : Option (Nat × Word) := none
  data : List Vec := []
  deriving Repr

/-- Reads blocks of `n` bytes through the core's L1 (R193). -/
def readBlocks (s : State) (a : Word) (n : Nat) : List Nat → FillRead
  | [] => {}
  | i :: r =>
    match translateRange s s.cur s.core.tenant s.core.priv (a + BitVec.ofNat 64 (n * i)) n .read with
    | .error e => { readBlocks s a n r with page := some e }
    | .ok (runs, es) =>
      match performRead (s.keepTlb s.cur es) s.cur
          { pieces := piecesOf runs 0 (a + BitVec.ofNat 64 (n * i)), base := 0, sext := none } with
      | none => { readBlocks s a n r with held := true }
      | some (s', v, bad) =>
        let x := readBlocks s' a n r
        { x with bad := match bad with | some w => some (i, w) | none => x.bad, data := v :: x.data }

/-- A fill (R193): its source is read before the bundle commits; address 0 reads nothing. -/
def semFill (row : OpRow) (blocks n : Nat) (badInfo : Nat → Word) (items : List Nat) (fill : List Vec → Core → Core) (f : Form)
    (s : State) : Sem :=
  let c := s.core
  let x := fetchArgs row { b := noB } f c
  if x.a64 = 0 then
    { block := x.block, conds := x.conds ++ (if c.priv then [] else [condPriv 3 15 0]),
      eff := fun t => (effNone x t).onCore fun c => (fill [] c).mxRepair items }
  else
    let k := mxAddrConds c x.a64 (blocks * n)
    if k ≠ [] then { block := x.block, conds := x.conds ++ k }
    else
      let d := readBlocks s x.a64 n (List.range blocks)
      { block := x.block || (d.held && d.page.isNone)
        conds := x.conds ++ (match d.bad with | some (i, w) => [⟨6, 0x30, 3, 4, badInfo i, w⟩] | none => []) ++
          (match d.page with | some e => [condPage .read e] | none => [])
        eff := fun t => (effNone x t).onCore fun c => (fill d.data c).mxRepair items }

/-- accfl (R193): rows not read are +0.0. -/
def semAccfl (f : Form) (s : State) : Sem :=
  semFill ⟨.SYS, 14, 0x38, 6, 1, .sg false true⟩ 32 128 (fun i => BitVec.ofNat 64 i) accItems
    (fun vs c => { c with acc := Vector.ofFn fun i => vs.getD i.val 0 }) f s

/-- msfl (R193, R232): the image, with RES0 bits stored as 0; it empties the descriptor cache. -/
def semMsfl (f : Form) (s : State) : Sem :=
  semFill ⟨.SYS, 16, 0x38, 8, 1, .sg false true⟩ 1 64 (fun _ => 0x20) imageItems
    (fun vs c =>
      let v := vs.getD 0 0
      { c with legend := v.setWidth 256, mstat := v.extractLsb' 256 64 &&& 0xFFFF00000000009D
               mcfg := v.extractLsb' 320 64 &&& 0xFFFFFFFFFFFFFF03
               dsca := v.extractLsb' 384 64, dscb := v.extractLsb' 448 64, descCache := [] }) f s

/-- mark (R194): the number is b[7:0], or N; the value a. -/
def semMark (f : Form) (s : State) : Sem :=
  let x := fetchArgs ⟨.SYS, 17, 0x38, 9, 1, .sg true true⟩ {} f s.core
  { block := x.block, conds := x.conds,
    eff := fun t => (effNone x t).onCore fun c => c.gate (.mark (bits x.b64 0 8) x.a64) }

end Sys2Proof.Machine
end

