-- ==== Sys2Proof/Machine/Packet.lean ====
section
/-! DEFINITION. The PKT operations: delivery counters, their arms, and packet sends (R195-R203, R269, R270, R432). -/

namespace Sys2Proof.Machine

/-! ## Counters and arms (R195, R196, R202) -/

/-- The slots of a counter that fire at a value: ascending THR, then slot number (R196). -/
def firingOrder (arms : RF 2 Arm) (v : BitVec 32) : List (BitVec 2) :=
  let hit := (List.range 4).filter fun i => let a := arms.get (BitVec.ofNat 2 i); a.armed && decide (a.thr.toNat ≤ v.toNat)
  let thr (i : Nat) : Nat := (arms.get (BitVec.ofNat 2 i)).thr.toNat
  (hit.foldl (fun acc i => acc.filter (fun j => thr j ≤ thr i) ++ [i] ++ acc.filter (fun j => thr i < thr j)) []).map
    (BitVec.ofNat 2)

/-- Makes the test of R196 on counter `n`: the slots that meet it are emptied, and their actions follow in order. -/
def Core.fire (c : Core) (n : BitVec 5) : Core :=
  (firingOrder (c.arms.get n) (c.dc.get n)).foldl (fun c i =>
    let as_ := c.arms.get n
    let a := as_.get i
    let x : Fired := { kind := a.kind, arg := a.arg, handle := a.ownHandle, tenant := a.ownTenant, clk := c.dcClk.get n }
    { c with arms := c.arms.put n (as_.put i {}), fired := c.fired ++ [x] }) c

/-- An addition to a counter, with its test (R196, R202). -/
def Core.counterAdd (c : Core) (n : BitVec 5) (v : BitVec 32) : Core := ({ c with dc := c.dc.put n (c.dc.get n + v) }).fire n

/-- A counter set, without a test (R202); its clock starts anew (R324). -/
def Core.counterSet (c : Core) (n : BitVec 5) (v : BitVec 32) : Core :=
  { c with dc := c.dc.put n v, dcClk := c.dcClk.put n none }

/-- An arm slot written, with its test (R201). -/
def Core.armSlot (c : Core) (n : BitVec 5) (slot : BitVec 2) (a : Arm) : Core :=
  ({ c with arms := c.arms.put n ((c.arms.get n).put slot a) }).fire n

/-- Starts the wakes and interrupts among the actions that have fired on a core (R196): a wake is on its way to its record, an
interrupt raises its vector. Sends and copies wait for their reads. -/
def State.settleFired (s : State) (core : CoreNo) : State :=
  let c := s.coreAt core
  c.fired.foldl (fun s f =>
    if f.kind = 0 then { s with dist := { s.dist with wakes := s.dist.wakes ++ [⟨f.arg, f.handle, f.tenant⟩] } }
    else if f.kind = 3 then s.raiseTenantVec f.tenant (bits f.arg 0 11 : BitVec 11).toNat
    else s) (s.setCoreAt core { c with fired := (c.fired.filter fun f => f.kind = 1 || f.kind = 2).map fun f =>
      { f with slot := some (f.slot.getD s.slotNow) } })

/-- Writes an arm slot of a core's counter (R201). -/
def State.armAt (s : State) (core : CoreNo) (n : BitVec 5) (slot : BitVec 2) (a : Arm) : State :=
  (s.setCoreAt core ((s.coreAt core).armSlot n slot a)).settleFired core

/-- Adds to a counter with the clock of the release that the addition is (R202, R285, R324). -/
def State.countAt (s : State) (core : CoreNo) (n : BitVec 5) (v : BitVec 32) (k : Option Clock) : State :=
  let c := s.coreAt core
  (s.setCoreAt core ({ c with dcClk := c.dcClk.put n (clockJoin (c.dcClk.get n) k) }.counterAdd n v)).settleFired core

/-! ## Packet headers (R269) -/

/-- Fields of a header. -/
def Packet.destU (p : Packet) : Nat := (p.hdr.extractLsb' 4 4 : BitVec 4).toNat
def Packet.destV (p : Packet) : Nat := (p.hdr.extractLsb' 0 4 : BitVec 4).toNat
def Packet.dest (p : Packet) : BitVec 32 := p.hdr.extractLsb' 0 32
def Packet.orig (p : Packet) : BitVec 32 := p.hdr.extractLsb' 32 32
def Packet.taddr (p : Packet) : Word := p.hdr.extractLsb' 64 64
def Packet.tcore (p : Packet) : BitVec 11 := p.hdr.extractLsb' 128 11
def Packet.tsp (p : Packet) : BitVec 2 := p.hdr.extractLsb' 144 2
def Packet.ce (p : Packet) : Bool := p.hdr.getLsbD 146
def Packet.dcIx (p : Packet) : BitVec 5 := p.hdr.extractLsb' 147 5
def Packet.ten (p : Packet) : BitVec 5 := p.hdr.extractLsb' 152 5
def Packet.budget (p : Packet) : BitVec 8 := p.hdr.extractLsb' 160 8
def Packet.hops (p : Packet) : BitVec 8 := p.hdr.extractLsb' 168 8
def Packet.cgen (p : Packet) : BitVec 8 := p.hdr.extractLsb' 176 8
def Packet.psel (p : Packet) : BitVec 3 := p.hdr.extractLsb' 184 3
def Packet.pin (p : Packet) : Bool := p.hdr.getLsbD 191
def Packet.tag (p : Packet) : BitVec 16 := p.hdr.extractLsb' 192 16
def Packet.plenField (p : Packet) : BitVec 16 := p.hdr.extractLsb' 208 16
def Packet.tbx (p : Packet) : BitVec 8 := p.hdr.extractLsb' 224 8
def Packet.pbx (p : Packet) : BitVec 8 := p.hdr.extractLsb' 232 8

/-- The packet with `w` header bits from bit `lo` replaced. -/
def Packet.setHdr {w : Nat} (p : Packet) (lo : Nat) (v : BitVec w) : Packet :=
  { p with hdr := (p.hdr &&& ~~~(BitVec.ofNat 256 (2 ^ w - 1) <<< lo)) ||| (v.setWidth 256 <<< lo) }

/-- The byte offset of the first field of a header that breaks R432 CODE 0x0005. -/
def hdrFault (p : Packet) : Option Nat :=
  if 13 < p.destU then some 0
  else if (p.hdr.extractLsb' 139 5 : BitVec 5) ≠ 0 then some 16
  else if p.tsp = 3 then some 18
  else if (p.hdr.extractLsb' 157 3 : BitVec 3) ≠ 0 then some 19
  else if (p.hdr.extractLsb' 187 4 : BitVec 4) ≠ 0 then some 23
  else if 256 < p.plenField.toNat ∨ p.plenField.toNat % 16 ≠ 0 then some 26
  else if p.hdr.getLsbD 230 then some 28
  else if p.hdr.getLsbD 238 then some 29
  else if (p.hdr.extractLsb' 240 16 : BitVec 16) ≠ 0 then some 30
  else none

/-- The packet of a 128-byte send descriptor (R197). -/
def packetOf (v : Vec) : Packet :=
  { hdr := v.extractLsb' 0 256
    prog := Vector.ofFn fun i => v.extractLsb' (256 + 16 * i.val) 16
    w := Vector.ofFn fun i => v.extractLsb' (512 + 32 * i.val) 32 }

/-- The position of a core's package and router in the layout of DEST (R269). -/
def State.origin (s : State) (n : CoreNo) : BitVec 32 :=
  let p := s.reg 0x30
  let (u, v) := clusterUV (clusterOf n)
  (bits p 16 8 : BitVec 8) ++ (bits p 8 8 : BitVec 8) ++ (bits p 0 8 : BitVec 8) ++ BitVec.ofNat 4 u ++ BitVec.ofNat 4 v

/-- The header fields that the device writes when a packet is sent (R270, steps 1 and 4). -/
def Packet.stamped (p : Packet) (orig : BitVec 32) (ten : BitVec 5) (pin : Bool) : Packet :=
  { (((((p.setHdr 32 orig).setHdr 152 (ten.setWidth 8)).setHdr 168 (0 : BitVec 16)).setHdr 191 (BitVec.ofBool pin)).setHdr 232
      (0 : BitVec 8)) with stack := [] }

/-- TADDR with a base-table entry added, and TBE cleared (R270, step 2). -/
def Packet.rebased (p : Packet) (base : Word) : Packet :=
  (p.setHdr 64 (p.taddr + base)).setHdr 224 (p.tbx &&& 0x7F)

/-! ## The operations -/

/-- A counter or packet fault (R432). -/
def condPacket (code : BitVec 16) (opnd : BitVec 4) (tinfo : Word) : Cond := condOwn 0x18 code opnd tinfo

/-- A read of a core's own context as a long-latency producer (R68, R244): pieces laid over `base` into `x.y`. The read is
performed at commit, or waits at its pile (log entry 22); `lat` is the padded latency of the pinned regime. -/
def State.startRead (s : State) (x : Args) (pieces : List Piece) (base : Vec) (sext : Option Nat) (lat : Nat)
    (low : Option (BitVec 32) := none) : State :=
  let req : LoadReq :=
    { pieces := pieces, base := base, sext := sext, clock := some (s.mem.vc.get ((dieOf s.cur).setWidth 4)), low := low }
  match performRead s s.cur req with
  | some (t, v, e) =>
    t.onCore fun c => c.produce x x.y (.ready v (if c.pin then some (t.now + lat) else none)) 0 e
  | none => (s.noteHolds s.cur req.clock (pieces.map fun p => (p.pa, p.n, p.nc))).onCore fun c =>
    c.produce x x.y (.read (req.hold c) (if c.pin then some (s.now + lat) else none)) 0 none

/-- The padded latency of a memory access by its slowest target (R351). -/
def padOf (runs : List (Nat × Nat × Bool)) : Nat :=
  runs.foldl (fun m (pa, _, _) => max m (match targetOf pa with
    | .package => 768 | .tier2 => 1536 | .cxl _ => 4096 | _ => 8192)) 768

/-- pbld (R198): a send descriptor from a template, with its destination replaced where b[63] = 1. -/
def semPbld (f : Form) (s : State) : Sem :=
  let c := s.core
  let x := fetchArgs ⟨.PKT, 4, 0x39, 0, 1, .sr .vreg true .any⟩ {} f c
  let k := if x.a64.toNat % 128 ≠ 0 then [condPacket 3 4 x.a64] else []
  let tr := translateRange s s.cur c.tenant c.priv x.a64 128 .read
  { block := x.block
    conds := x.conds ++ k ++ (match tr with | .error e => [condPage .read e] | .ok _ => [])
    eff := fun t => match tr with
      | .error _ => t
      | .ok (runs, es) =>
        let t := t.keepTlb t.cur es
        t.startRead x (piecesOf runs 0 x.a64) 0 none (padOf runs) (if x.b64.getLsbD 63 then some (bits x.b64 0 32) else none) }

/-- The address of an entry of a tenant's base table (R289). -/
def btAddr (s : State) (t : BitVec 5) (ix : BitVec 8) : Word := s.treg t 0x20 + BitVec.ofNat 64 (8 * (ix.toNat % 64))

/-- psend (R199, R270, R432). -/
def semPsend (f : Form) (s : State) : Sem :=
  let c := s.core
  let row : OpRow := ⟨.PKT, 5, 0x3a, 0, 1, .srv⟩
  let x0 := fetchArgs row { b := noB, c := true } f c
  let p := packetOf x0.a
  let plen := p.plenField.toNat
  let x := if plen = 0 then x0 else fetchArgs row { c := true } f c
  let bad := hdrFault p
  let k := (match bad with | some o => [condPacket 5 4 (BitVec.ofNat 64 o)] | none => []) ++
    (if plen ≠ 0 ∧ x.b64.toNat % 16 ≠ 0 then [condPacket 4 1 x.b64] else [])
  let pay := if plen = 0 ∨ bad.isSome then .ok ([], []) else translateRange s s.cur c.tenant c.priv x.b64 plen .read
  let bt := if p.tbx.getLsbD 7 then
      (translateRange s s.cur c.tenant c.priv (btAddr s c.tenant p.tbx) 8 .read).map some
    else .ok none
  { block := x.block || 8 ≤ c.sendQ.length
    queue := !x.block
    conds := x.conds ++ k ++
      (match pay with | .error e => [condPage .read e] | .ok _ => []) ++
      (match bt with | .error e => [condPage .read e] | .ok _ => [])
    eff := fun t => match pay, bt with
      | .ok (runs, es), .ok b =>
        let t := (effNone x t).keepTlb t.cur (es ++ match b with | some (_, es') => es' | none => [])
        let q := { p.stamped (t.origin t.cur) c.tenant c.pin with payload := List.replicate plen 0 }
        t.onCore fun c => c.gate (.send q (bits x.c64 0 5) x.b64 runs
          (match b with | some ((pa, _, nc) :: _, _) => some (btAddr s c.tenant p.tbx, pa, nc) | _ => none) s.core.ctx.pc 0)
      | _, _ => t }

/-- The counter that dwait, dadd and dset name: b[4:0], or D; and their value: a, or B (R200, R202). -/
def counterArgs (f : Form) (x : Args) : BitVec 5 × Word :=
  match f with
  | .wy _ => (bits x.b64 0 5, x.a64)
  | .nat .. => (bits x.c64 0 5, x.b64)

/-- What dwait, dadd and dset read. -/
def useCounter (f : Form) : Use := match f with | .wy _ => {} | .nat .. => { a := false }

/-- dwait (R200): an acquire at system scope once the counter has reached its operand. -/
def semDwait (f : Form) (s : State) : Sem :=
  let c := s.core
  let x := fetchArgs ⟨.PKT, 6, 0x3b, 0, 1, .sr .dc false .any⟩ (useCounter f) f c
  let (n, v) := counterArgs f x
  let below := (c.dc.get n).toNat < (v.setWidth 32 : BitVec 32).toNat
  { block := x.block || below, waits := !x.block && x.conds.isEmpty, why := some (.counter n (v.setWidth 32)), conds := x.conds,
    eff := fun t => acquireAt (effNone x t) t.cur (t.core.dcClk.get n) }

/-- A delivery counter as the core's own dread sees it: with the core's gated dadd and dset (R337). -/
def Core.counterSeen (c : Core) (n : BitVec 5) : BitVec 32 :=
  c.gatedAll.foldl (fun v g => match g with
    | .counterAdd k x => if k = n then v + x else v
    | .counterSet k x => if k = n then x else v
    | _ => v) (c.dc.get n)

/-- dread (R200): a long-latency producer and an acquire at system scope. -/
def semDread (f : Form) (s : State) : Sem :=
  let c := s.core
  let nat := match f with | .wy _ => false | .nat .. => true
  let x := fetchArgs ⟨.PKT, 8, 0x3d, 0, 1, .sr .sreg false .any⟩ { a := !nat, b := fun _ _ => nat } f c
  let n : BitVec 5 := if nat then bits x.b64 0 5 else bits x.a64 0 5
  { block := x.block, conds := x.conds,
    eff := fun t => (acquireAt t t.cur (t.core.dcClk.get n)).onCore fun c =>
      c.produce x x.y (.ready ((c.counterSeen n).setWidth 1024) (if c.pin then some (t.now + 8) else none)) 0 none }

/-- Holds the next bundle until a core-domain cycle (R351). -/
def Core.holdNext (c : Core) (cycle : Nat) : Core := { c with nextIssue := max c.nextIssue cycle }

/-- A counter operation that first releases at a scope: gated, and in the pinned regime the next bundle is held (R311,
R337, R351). -/
def semRelease (x : Args) (conds : List Cond) (scope : BitVec 3) (g : Core → Core) : Sem :=
  { block := x.block, conds := x.conds ++ conds,
    eff := fun t => (effNone x t).onCore fun c =>
      g ((if c.pin then c.holdNext (t.now + 1024) else c).gate (.release scope c.ops)) }

/-- dadd (R202). -/
def semDadd (f : Form) (s : State) : Sem :=
  let x := fetchArgs ⟨.PKT, 9, 0x3e, 0, 1, .sr .dc false .any⟩ (useCounter f) f s.core
  let (n, v) := counterArgs f x
  semRelease x [] 4 fun c => c.gate (.counterAdd n (v.setWidth 32))

/-- dset (R202). -/
def semDset (f : Form) (s : State) : Sem :=
  let x := fetchArgs ⟨.PKT, 10, 0x3f, 0, 1, .sr .dc false .any⟩ (useCounter f) f s.core
  let (n, v) := counterArgs f x
  semRelease x [] 4 fun c => c.gate (.counterSet n (v.setWidth 32))

/-- The conditions of darm (R201, R432). -/
def darmConds (s : State) (arg ctl : Word) : List Cond :=
  if ctl.getLsbD 36 then []
  else
    let k := (bits ctl 34 2 : BitVec 2)
    let align := if k = 0 then 64 else if k = 1 then 128 else if k = 2 then 32 else 1
    if k = 3 then
      (if (bits (s.treg s.core.tenant 0) 0 12 : BitVec 12).toNat ≤ (bits arg 0 11 : BitVec 11).toNat then [condPacket 2 4 arg] else [])
    else if arg.toNat % align ≠ 0 then [condPacket 1 4 arg] else []

/-- darm (R201): the argument is a, the control word b, the counter c[4:0] or D. -/
def semDarm (f : Form) (s : State) : Sem :=
  let c := s.core
  let x := fetchArgs ⟨.PKT, 7, 0x3c, 0, 1, .sr .dc true .any⟩ { c := true } f c
  let ctl := x.b64
  let a : Arm := if ctl.getLsbD 36 then {} else
    { armed := true, kind := bits ctl 34 2, thr := bits ctl 0 32, arg := x.a64,
      ownHandle := bits (c.creg crTASK) 32 32, ownTenant := c.tenant }
  semRelease x (darmConds s x.a64 ctl) 3 fun c => c.gate (.arm (bits x.c64 0 5) (bits ctl 32 2) a)

end Sys2Proof.Machine
end

