-- ==== Sys2Proof/Machine/Carto.lean ====
section
/-! DEFINITION. The Cartographer: what it checks in a region before it translates it, the sheets it builds and the fault
points it places (R130-R141, R333-R335, R439-R443). -/

namespace Sys2Proof.Machine

/-! ## What a trigger reads and writes (R130, R137) -/

/-- Whether an operation reads its latches b and c whatever its mode, by unit and trigger code. -/
def triggerReads (u : Unit13) (code : BitVec 5) : Bool × Bool :=
  let k := code.toNat
  match u with
  | .INT => (k ≠ 17, k = 21 || k = 23)
  | .BIT => (k ≠ 15, k = 11 || k = 12 || k = 13)
  | .BRC => ([6, 7, 9].contains k, false)
  | .SYS => ([5, 6, 7, 17].contains k, false)
  | .VAI => (k ≠ 10, false)
  | .VFP => (!([12, 13, 16].contains k), [7, 8, 9].contains k)
  | .VPM => ([4, 7, 14, 15].contains k, false)
  | .SFN => (false, false)
  | .MTX => ([8, 10, 11, 13].contains k, false)
  | .LDS => (!([6, 8].contains k), [5, 11].contains k)
  | .XFR => ([4, 8, 10, 12, 13, 14].contains k, false)
  | .PKT => ([4, 6, 7, 9, 10].contains k, [5, 7].contains k)
  | .ATM => (true, k = 11)

/-- Whether an operation may write its result ports y and z. -/
def triggerWrites (u : Unit13) (code : BitVec 5) : Bool × Bool :=
  let k := code.toNat
  match u with
  | .INT | .BIT | .VAI | .VFP | .SFN | .ATM => (true, false)
  | .VPM => (true, k = 13 || k = 14)
  | .BRC => (false, false)
  | .SYS => ([4, 6, 7].contains k, false)
  | .MTX => ([5, 7, 12].contains k, false)
  | .LDS => ([4, 6, 8, 10, 12].contains k, false)
  | .XFR => ([6, 13].contains k, false)
  | .PKT => ([4, 8].contains k, false)

/-- Whether a trigger counts as a gated entry and as a reservation, under a known mode or, under none, every reading at
once (R335, R337, R338). -/
def triggerCounts (u : Unit13) (code : BitVec 5) (m : Option (BitVec 32)) : Nat × Nat :=
  let k := code.toNat
  match u with
  | .BRC => (if k = 12 then 1 else 0, 0)
  | .SYS => (if [13, 15, 17].contains k then 1 else 0, 0)
  | .LDS =>
    if [5, 7, 9, 11, 13, 14, 15].contains k then (1, 0)
    else if k = 6 ∨ k = 8 then (0, match m with | some x => if (bits x 13 2 : BitVec 2) = 1 then 1 else 0 | none => 1)
    else (0, 0)
  | .XFR => (if [4, 5, 7, 8, 10, 11, 12, 14].contains k then 1 else 0, if k = 13 then 1 else 0)
  | .PKT => (if [5, 7, 9, 10].contains k then 1 else 0, 0)
  | .ATM => match m with
    | some x => if x.getLsbD 17 then (1, 0) else (0, 1)
    | none => (1, 1)
  | _ => (0, 0)

/-! ## Checking a region (R439) -/

/-- What is known at a group of a region: the latches and result ports written so far, the mode latches whose value the
text gives, whether a loop's length is fixed, and the counts of R335. -/
structure Scan where
  latched : List (BitVec 6 × BitVec 5) := []
  results : List (BitVec 6 × BitVec 5) := []
  modes : List (BitVec 6 × Option (BitVec 32)) := []
  loopLen : Bool := false
  gated : Nat := 0
  resv : Nat := 0
  deriving DecidableEq, Repr

/-- Whether a move is an unguarded immediate. -/
def GMove.fixed (m : GMove) : Bool := m.form ≠ 0 && m.n = 0 && m.g = 0

/-- The mode of a site as the text gives it: 0 at the region's start. -/
def Scan.mode (st : Scan) (ix : BitVec 6) : Option (BitVec 32) :=
  match st.modes.find? fun e => e.1 == ix with | some e => e.2 | none => some 0

/-- The scan once a group's moves to latches are made (R130, step 3). -/
def Scan.latch (st : Scan) (ms : List GMove) : Scan :=
  ms.foldl (fun st m => match portOf m.dst with
    | some (u, ix, code) =>
      if code.toNat < 3 then
        { st with latched := (ix, code) :: st.latched
                  loopLen := if u = .BRC ∧ code = 1 then m.fixed else st.loopLen }
      else if code = 3 then { st with modes := (ix, if m.fixed then some (m.imm.setWidth 32) else none) :: st.modes }
      else { st with latched := (ix, 0) :: st.latched }
    | none => st) st

/-- The result port a move reads, if any. -/
def GMove.reads (m : GMove) : Option (BitVec 6 × BitVec 5) :=
  if m.form = 0 ∧ m.src.getLsbD 11 then some (bits m.src 5 6, bits m.src 0 5) else none

/-- Whether two moves of a group may not stand together (R132). -/
def GMove.clash (a b : GMove) : Bool :=
  let both := !(a.g == b.g && a.n != b.n)
  (a.dst == b.dst && both) ||
  match portOf a.dst, portOf b.dst with
  | some (_, i, p), some (_, j, q) => i == j && decide (4 ≤ p.toNat) && decide (4 ≤ q.toNat)
  | _, _ => false

/-- Whether move `k` of a group is malformed beyond its own word (R132, R137, R183). -/
def Scan.badMove (before after : Scan) (ms : List GMove) (k : Nat) (m : GMove) : Bool :=
  decide (32 ≤ k) || (ms.take k).any (GMove.clash m) ||
  (match m.reads with | some r => !before.results.contains r | none => false) ||
  (match portOf m.dst with
   | some (u, ix, code) =>
     decide (4 ≤ code.toNat) &&
       (((triggerReads u code).1 && !after.latched.contains (ix, 1)) ||
        ((triggerReads u code).2 && !after.latched.contains (ix, 2)) ||
        (u = .BIT && code = 13 && !before.results.contains (ix, 0)) ||
        (u = .BRC && code = 9 && !after.loopLen))
   | none => false)

/-- The first malformed move of a group (R439). -/
def Scan.firstBad (st : Scan) (ms : List GMove) : Option Nat :=
  let after := st.latch ms
  (List.range ms.length).find? fun k => match ms[k]? with | some m => Scan.badMove st after ms k m | none => false

/-- The scan after a group: its triggers' result ports and counts (R130, R137, R335). A port that a later trigger leaves void has been
written all the same: its read is checked as it runs. -/
def Scan.after (st : Scan) (ms : List GMove) : Scan :=
  ms.foldl (fun st m => match portOf m.dst with
    | some (u, ix, code) =>
      if code.toNat < 4 then st
      else
        let (y, z) := triggerWrites u code
        let (g, r) := triggerCounts u code (st.mode ix)
        { st with
          results := (if y then [(ix, (0 : BitVec 5))] else []) ++ (if z then [(ix, (1 : BitVec 5))] else []) ++ st.results
          gated := st.gated + g, resv := st.resv + r }
    | none => st) (st.latch ms)

/-- What checking a region finds: its groups, as word offsets from its start with their lengths in words and the counts so
far; and, where it does not run to its end, the group at which it stops, with the first malformed move (none where no E bit
ends the group) and its word. -/
structure RegionCheck where
  groups : List (Nat × Nat × Nat × Nat) := []
  stop : Option (Nat × Option (Nat × Nat)) := none
  deriving DecidableEq, Repr

/-- Checks the groups of a region from a word offset on, `starts` being the offsets at which R135 makes another region begin: a group that
stands there, or that is the region's 257th, is malformed. -/
def checkRegion (text : List (BitVec 32)) (starts : List Nat) : Nat → Nat → Scan → RegionCheck
  | 0, off, _ => if text.length ≤ off then {} else { stop := some (off, some (0, off)) }
  | fuel + 1, off, st =>
    if text.length ≤ off then {}
    else if off ≠ 0 ∧ starts.contains off then { stop := some (off, some (0, off)) }
    else match groupAt text off with
      | .noEnd => { stop := some (off, none) }
      | .bad idx w ms => match (st.firstBad ms).filter (· < idx) with
        | some i => { stop := some (off, some (i, off + ((ms.take i).map GMove.words).sum)) }
        | none => { stop := some (off, some (idx, off + w)) }
      | .group ms k =>
        match st.firstBad ms with
        | some i => { stop := some (off, some (i, off + ((ms.take i).map GMove.words).sum)) }
        | none =>
          let st := st.after ms
          let r := checkRegion text starts fuel (off + k) st
          { r with groups := (off, k, st.gated, st.resv) :: r.groups }

/-- The word offsets of a text at which R135 makes a region begin by what stands before them, as one region of the text says from `off` up
to `stop`: behind a group that triggers a BRC operation (condition 2), with the length in groups of the loop kernel that begins there, if
one does, and behind the last group of such a kernel (condition 4). `len` is the latest fixed value of the loop's .b latch in the region. -/
def startsIn (text : List (BitVec 32)) (stop : Nat) : Nat → Nat → Option Word → List (Nat × Option Nat)
  | 0, _, _ => []
  | fuel + 1, off, len =>
    if stop ≤ off then [] else
    match groupAt text off with
    | .group ms k =>
      let b := ms.foldl (fun (b : Option Word) m => match portOf m.dst with
        | some (.BRC, _, code) => if code = 1 then (if m.fixed then some m.imm else none) else b
        | _ => b) len
      let brc (p : BitVec 5 → Bool) : Bool := ms.any fun m => match portOf m.dst with | some (.BRC, _, code) => p code | _ => false
      let kernel : Option Nat := if brc (· = 9) then b.map fun w => (bits w 9 8 : BitVec 8).toNat + 1 else none
      let behind := match kernel with | some g => (skipGroups text (text.length + 1) (off + k) g).toList | none => []
      let ends := brc fun code => decide (4 ≤ code.toNat)
      (if ends then [(off + k, kernel)] else []) ++ behind.map (·, none) ++ startsIn text stop fuel (off + k) (if ends then none else b)
    | _ => []

/-! ## Fetching text -/

/-- Why fetching text ends early: a failed translation, or an uncorrectable word at a physical address (R443, R434). -/
inductive FetchStop where
  | page (va : Word) (e : TrErr)
  | bad (pa : Nat)
  deriving DecidableEq, Repr

/-- Fetches words of text for a core's task up to the first that cannot be had. -/
def State.fetchWords (s : State) (n : CoreNo) : Nat → Word → List (BitVec 32) × Option FetchStop
  | 0, _ => ([], none)
  | k + 1, va =>
    let c := s.coreAt n
    match translate s n c.tenant c.priv va .fetch with
    | .error e => ([], some (.page va e))
    | .ok t =>
      let pa := t.phys va
      if s.mem.isBad (pa / 16) then ([], some (.bad pa))
      else
        let (ws, stop) := State.fetchWords s n k (va + 4)
        (BitVec.ofNat 32 (leNat (Memory.read s.mem.mem pa 4)) :: ws, stop)

/-- The start of the region that holds a word offset of an object, and its length in words: at most to the next region
start. -/
def CodeObj.regionOf (o : CodeObj) (off : Nat) : Nat × Nat :=
  let start := (o.regions.filter (· ≤ off)).foldl max 0
  let stop := (o.regions.filter fun r => decide (start < r)).foldl min o.words
  (start, stop - start)

/-! ## Translating a sheet (R334, R335, R440) -/

/-- A region as the Cartographer finds it: its word offset in the object, what its check gives, and why its fetch ended
early. -/
structure Region where
  start : Nat
  text : List (BitVec 32)
  check : RegionCheck
  stop : Option FetchStop
  deriving DecidableEq, Repr

/-- The word offsets of an object, up to `till`, at which R135 makes a region begin by what stands before them, as the text of each of its
regions says as far as it can be fetched and read. -/
def State.startsTo (s : State) (n : CoreNo) (o : CodeObj) (till : Nat) : List (Nat × Option Nat) :=
  (o.regions.filter (· < till)).flatMap fun r =>
    let ws := (s.fetchWords n (till - r) (o.text + BitVec.ofNat 64 (4 * r))).1
    (startsIn ws (o.regionOf r).2 (ws.length + 1) 0 none).map fun x => (r + x.1, x.2)

/-- Reads and checks the region that holds a word offset: what comes before it in the object says where regions must begin (R135). -/
def State.regionAt (s : State) (n : CoreNo) (o : CodeObj) (off : Nat) : Region :=
  let (st, len) := o.regionOf off
  let (ws, stop) := s.fetchWords n len (o.text + BitVec.ofNat 64 (4 * st))
  let starts := (s.startsTo n o (st + len)).filterMap fun k => if st < k.1 then some (k.1 - st) else none
  { start := st, text := ws, check := checkRegion ws starts 256 0 {}, stop := stop }

/-- The groups of a region's text that may transfer control out of a sheet: those that trigger a branch, a call, a return, lexit, susp or
exit (R335). -/
def Region.transfers (r : Region) : Nat :=
  (r.check.groups.filter fun (off, _, _, _) => match groupAt r.text off with
    | .group ms _ => ms.any fun m => match portOf m.dst with
      | some (.BRC, _, k) => decide (4 ≤ k.toNat) && k ≠ 9 && k ≠ 12
      | _ => false
    | _ => false).length

/-- The limits of a region by itself (R335): its gated entries and reservations, where they exceed them. -/
def Region.excess (r : Region) : Option (Nat × Nat) :=
  match r.check.groups.getLast? with
  | some (_, _, g, v) => if 64 < g ∨ 8 < v then some (g, v) else none
  | none => none

/-- A fault point of a region at the word offset of one of its groups. -/
def State.pointAt (s : State) (n : CoreNo) (o : CodeObj) (off : Nat) (cls : BitVec 8) (code : BitVec 16) (tmove tinfo : Word)
    (keep : Bool) (pa : Word := 0) : FaultPoint :=
  { die := dieOf n, tenant := (s.coreAt n).tenant, va := o.text + BitVec.ofNat 64 (4 * off), pin := (s.coreAt n).pin,
    cls := cls, code := code, tmove := tmove, tinfo := tinfo, keep := keep, pa := pa }

/-- The fault point that a region's condition places, if it has one (R439, R440, R443). -/
def State.regionPoint (s : State) (n : CoreNo) (o : CodeObj) (r : Region) : Option FaultPoint :=
  match r.excess with
  | some (g, v) => some (s.pointAt n o r.start 0x20 2 (tmoveOf 15 0xFF) (BitVec.ofNat 64 (g % 2 ^ 16 + 2 ^ 16 * v)) true)
  | none =>
    match r.check.stop with
    | none => match r.stop with
      | some (.page va e) => some (s.pointAt n o (r.start + r.text.length) 0x21 (pageFaultCode .fetch e) (tmoveOf 15 0xFF)
          (va &&& ~~~(0xFFFF : Word)) false)
      | some (.bad pa) => some (s.pointAt n o (r.start + r.text.length) 0x30 5 (tmoveOf 15 0xFF)
          (o.text + BitVec.ofNat 64 (4 * (r.start + r.text.length))) false (BitVec.ofNat 64 pa))
      | none => none
    | some (off, some (i, w)) =>
        some (s.pointAt n o (r.start + off) 0x20 1 (tmoveOf 15 i) (o.text + BitVec.ofNat 64 (4 * (r.start + w))) true)
    | some (off, none) => match r.stop with
      | some (.page va e) => some (s.pointAt n o (r.start + off) 0x21 (pageFaultCode .fetch e) (tmoveOf 15 0xFF)
          (va &&& ~~~(0xFFFF : Word)) false)
      | some (.bad pa) => some (s.pointAt n o (r.start + off) 0x30 5 (tmoveOf 15 0xFF)
          (o.text + BitVec.ofNat 64 (4 * (r.start + off))) false (BitVec.ofNat 64 pa))
      | none => some (s.pointAt n o (r.start + off) 0x20 1 (tmoveOf 15 0xFF) (o.text + BitVec.ofNat 64 (4 * (r.start + off))) true)

/-- The groups of a region that may run, none where the region exceeds a limit by itself. -/
def Region.runs (r : Region) : List (Nat × Nat × Nat × Nat) := if r.excess.isSome then [] else r.check.groups

/-- The words of a sheet that begins at word offset `off` of an object and covers whole regions, at most `groups` groups,
within the limits of R335 on gated entries, reservations and exits, the fall at its end being one; with it the fault point behind it, if
one stands there. Text that cannot be fetched ends the sheet
without one: its group is fetched anew when control comes to it (R443). -/
def State.sheetFrom (s : State) (n : CoreNo) (o : CodeObj) : Nat → Nat → Nat → Nat × Nat × Nat → List (BitVec 32) × Option FaultPoint
  | 0, _, _, _ => ([], none)
  | fuel + 1, off, groups, (g, v, x) =>
    if o.words ≤ off then ([], none)
    else
      let r := s.regionAt n o off
      let gs := r.runs.filter fun e => decide (off ≤ r.start + e.1)
      let (g', v') := match r.runs.getLast? with | some (_, _, a, b) => (g + a, v + b) | none => (g, v)
      let x' := x + r.transfers
      let point := s.regionPoint n o r
      if gs = [] then ([], point)
      else if groups < gs.length ∨ 64 < g' ∨ 8 < v' ∨ 31 < x' then ([], none)
      else
        let stop := gs.foldl (fun m e => max m (e.1 + e.2.1)) 0
        let words := (r.text.take stop).drop (off - r.start)
        match point with
        | some p => (words, if p.keep then some p else none)
        | none =>
          let (ws, p) := State.sheetFrom s n o fuel (off + words.length) (groups - gs.length) (g', v', x')
          (words ++ ws, p)

/-- The atlas entry of a core's task at an address (R333). -/
def State.atlasAt (s : State) (n : CoreNo) (o : CodeObj) (va : Word) : Option AtlasEntry :=
  let c := s.coreAt n
  (s.plat.atlas.get (dieOf n)).find? fun e => e.tenant == c.tenant && e.code == o.code && e.entry == va && e.pin == c.pin

/-- Whether a core of a die is running an atlas sheet between its entry and its next commit point (R442): such a sheet is never replaced. -/
def State.sheetRuns (s : State) (d : BitVec 3) (e : AtlasEntry) : Bool :=
  s.cores.any fun kc => kc.1 / 224 == d.toNat && kc.2.tenant == e.tenant && kc.2.pin == e.pin &&
    kc.2.sheets.toList.any fun (x : Option Sheet) => x.any fun sh => sh.bundle.isNone && sh.entry == e.entry

/-- The list without its last sheet that may go. -/
def dropLast (mayGo : AtlasEntry → Bool) : List AtlasEntry → List AtlasEntry
  | [] => []
  | e :: r => if r.any mayGo then e :: dropLast mayGo r else if mayGo e then r else e :: r

/-- Drops sheets from the end of a list, the least recently entered that may go, until the rest fits a number of bytes (R333); `fuel`
bounds how many. -/
def atlasFit (mayGo : AtlasEntry → Bool) (room : Nat) : Nat → List AtlasEntry → List AtlasEntry
  | 0, es => es
  | fuel + 1, es => if (es.map fun e => Config.atlasBytes e.text).sum ≤ room then es else atlasFit mayGo room fuel (dropLast mayGo es)

/-- The bytes of an atlas (R333). -/
def atlasSize : Nat := 24 * 2 ^ 20

/-- Puts a sheet into a die's atlas, as the one entered last: the sheets that are neither locked nor running make room for it (R333,
R442). -/
def State.putAtlas (s : State) (d : BitVec 3) (e : AtlasEntry) : State :=
  let rest := (s.plat.atlas.get d).filter fun x =>
    !(x.tenant == e.tenant && x.code == e.code && x.entry == e.entry && x.pin == e.pin)
  let mayGo (x : AtlasEntry) : Bool := x.lock.isNone && !s.sheetRuns d x
  let kept := atlasFit mayGo (atlasSize - Config.atlasBytes e.text) (rest.length + 1) rest
  { s with plat := { s.plat with atlas := s.plat.atlas.put d (e :: kept) } }

/-- A sheet of a die's atlas is entered (R333): it is the one entered last. -/
def State.enterAtlas (s : State) (d : BitVec 3) (e : AtlasEntry) : State :=
  { s with plat := { s.plat with atlas := s.plat.atlas.put d (e :: (s.plat.atlas.get d).filter (· ≠ e)) } }

/-- Puts a fault point in place (R440). -/
def State.putPoint (s : State) (p : FaultPoint) : State :=
  { s with plat := { s.plat with faultPoints := p :: s.plat.faultPoints.filter fun q =>
      !(q.die == p.die && q.tenant == p.tenant && q.va == p.va && q.pin == p.pin) } }

/-- The groups that a sheet at a virtual PC covers (R334): those of a kernel, where the text makes one begin there (R342), else those of its
first region, and as many more as the Cartographer's scheme gives for the text. They are the same for every translation of it (log entry
26). -/
def State.sheetGroups (s : State) (n : CoreNo) (va : Word) : Nat :=
  match s.objAt (s.coreAt n).tenant va with
  | none => 0
  | some o =>
    let off := (va.toNat - o.text.toNat) / 4
    let r := s.regionAt n o off
    match (s.startsTo n o (off + 1)).findSome? fun x => if x.1 = off then x.2 else none with
    | some k => k
    | none => (r.runs.filter fun e => decide (off ≤ r.start + e.1)).length +
      Config.sheetGroups (dieOf n) (s.coreAt n).pin (s.fetchWords n (o.words - off) va).1

/-- The Cartographer finishes a translation for a core at a virtual PC (R334, R335): the sheet enters the atlas, and a
fault point that it runs up to is placed. -/
def State.translateSheet (s : State) (n : CoreNo) (va : Word) (groups : Nat) : State :=
  let c := s.coreAt n
  match s.objAt c.tenant va with
  | none => s
  | some o =>
    let (ws, point) := s.sheetFrom n o (o.words + 1) ((va.toNat - o.text.toNat) / 4) (min groups 256) (0, 0, 0)
    let s := match point with | some p => s.putPoint p | none => s
    if ws = [] then s
    else s.putAtlas (dieOf n) { tenant := c.tenant, code := o.code, entry := va, pin := c.pin, text := ws }

/-! ## Invalidation and locks (R262, R263, R345) -/

/-- Whether a virtual range meets a sheet's text. -/
def AtlasEntry.meets (e : AtlasEntry) (va : Word) (len : Nat) : Bool :=
  decide (va.toNat < e.entry.toNat + 4 * e.text.length) && decide (e.entry.toNat < va.toNat + len)

/-- An icinv of a tenant's code (R262) at a die: its sheets, their locks and its fault points in the range go. -/
def State.dropCode (s : State) (t : BitVec 5) (d : BitVec 3) (va : Word) (len : Nat) : State :=
  { s with plat := { s.plat with
      atlas := s.plat.atlas.put d ((s.plat.atlas.get d).filter fun e => !(e.tenant == t && e.meets va len))
      faultPoints := s.plat.faultPoints.filter fun p =>
        !(p.die == d && p.tenant == t && decide (va.toNat ≤ p.va.toNat) && decide (p.va.toNat < va.toNat + len)) } }

/-- The 64 KiB units that a tenant's locked sheets take in a die's atlas, or every tenant's (R345). -/
def lockedUnits (es : List AtlasEntry) (t : Option (BitVec 5)) : Nat :=
  (((es.filter fun e => e.lock.isSome && (match t with | some x => e.tenant == x | none => true)).map
    fun e => Config.atlasBytes e.text).sum + 65535) / 65536

/-- The offset of a tenant's ATQ on a die (R345, R359). -/
def atqOffset (d : BitVec 3) (t : BitVec 5) : Nat := 0x200000000 + 0x1000 * (32 * d.toNat + t.toNat)

/-- The region starts of a tenant's objects that lie in a virtual range. -/
def State.regionsIn (s : State) (t : BitVec 5) (va : Word) (len : Nat) : List (CodeObj × Nat) :=
  (s.plat.objects.filter fun o => codeTenant o.code == t).flatMap fun o =>
    (o.regions.filter fun r => decide (va.toNat ≤ o.text.toNat + 4 * r) && decide (o.text.toNat + 4 * r < va.toNat + len)).map
      fun r => (o, r)

/-- Translates every region of a range that has no sheet yet (R263), as its own translation would be (R334); none where one of them holds a
condition of R439 (R442). -/
def State.translateRegions (s : State) (n : CoreNo) : List (CodeObj × Nat) → Option State
  | [] => some s
  | (o, r) :: rest =>
    let x := s.regionAt n o r
    match s.regionPoint n o x with
    | some p => if p.cls = 0x20 then none else State.translateRegions s n rest
    | none =>
      let va := o.text + BitVec.ofNat 64 (4 * r)
      match s.atlasAt n o va with
      | some _ => State.translateRegions s n rest
      | none => State.translateRegions (s.translateSheet n va (s.sheetGroups n va)) n rest

/-- A tclk over a range (R263, R345, R442): the state with the locks taken, and the entries newly locked; none for a
refusal. -/
def State.lockCode (s : State) (n : CoreNo) (va : Word) (len : Nat) : Option (State × List Word) :=
  let c := s.coreAt n
  let d := dieOf n
  match s.translateRegions n (s.regionsIn c.tenant va len) with
  | none => none
  | some s =>
    let mine (e : AtlasEntry) : Bool := e.tenant == c.tenant && decide (va.toNat ≤ e.entry.toNat) &&
      decide (e.entry.toNat < va.toNat + len)
    let h : BitVec 32 := bits (c.creg crTASK) 32 32
    let es := s.plat.atlas.get d
    let es' := es.map fun e => if mine e && e.lock.isNone then { e with lock := some h } else e
    let quota := min ((s.reg (atqOffset d c.tenant)).toNat % 512) 96
    if (s.reg (atqOffset d c.tenant + 8)).getLsbD 63 then none
    else if 96 < lockedUnits es' none ∨ quota < lockedUnits es' (some c.tenant) then none
    else some ({ s with plat := { s.plat with atlas := s.plat.atlas.put d es' } },
      (es.filter fun e => mine e && e.lock.isNone).map (·.entry))

end Sys2Proof.Machine
end

