-- ==== Sys2Proof/Machine/VecInt.lean ====
section
/-! DEFINITION. Vector lanes: element types, widths, masks and merge values (R204-R212), the integer lanes of VAI
(R213-R215), and the lane-moving operations of VPM (R220-R222). -/

namespace Sys2Proof.Machine

/-! ## Lanes -/

/-- The bits of an element type (R129). -/
def etBits (et : Nat) : Nat :=
  match et with
  | 0 | 5 | 6 => 32
  | 1 | 2 | 7 | 8 => 16
  | 3 | 4 | 9 | 10 => 8
  | 11 | 12 => 4
  | _ => 64

/-- Whether an integer element type is signed (R129). -/
def etSigned (et : Nat) : Bool := et = 5 || et = 7 || et = 9 || et = 11 || et = 13

/-- The bits of a vector width (R129). -/
def widthBits (w : Nat) : Nat := match w with | 0 => 1024 | 1 => 512 | _ => 256

/-- Lane `i` of `e` bits, unsigned. -/
def laneN (e i : Nat) (x : Vec) : Nat := x.toNat / 2 ^ (e * i) % 2 ^ e

/-- A lane's unsigned value read as signed. -/
def toSigned (e n : Nat) : Int := if n < 2 ^ (e - 1) then n else (n : Int) - 2 ^ e

/-- Lane `i` as the exact integer its type says. -/
def laneI (sg : Bool) (e i : Nat) (x : Vec) : Int := if sg then toSigned e (laneN e i x) else laneN e i x

/-- Packs lanes of `e` bits, lane 0 lowest; each is cut to its low bits (R204, R207). -/
def packLanes (e : Nat) (ls : List Nat) : Vec :=
  BitVec.ofNat 1024 (ls.foldr (fun x acc => x % 2 ^ e + 2 ^ e * acc) 0)

/-- An integer kept to its low `e` bits (R213: wrap). -/
def wrapI (e : Nat) (x : Int) : Nat := (x % 2 ^ e).toNat

/-- An integer clamped to the range of a type (R213: sat). -/
def satI (sg : Bool) (e : Nat) (x : Int) : Int :=
  if sg then max (-(2 ^ (e - 1))) (min x (2 ^ (e - 1) - 1)) else max 0 (min x (2 ^ e - 1))

/-! ## Mode fields (R129, R208) -/

/-- ET. -/
def mET (m : BitVec 32) : Nat := m.toNat % 16
/-- W. -/
def mW (m : BitVec 32) : Nat := m.toNat / 16 % 4
/-- RM. -/
def mRM (m : BitVec 32) : BitVec 3 := bits m 6 3
/-- ME. -/
def mME (m : BitVec 32) : Bool := m.getLsbD 9
/-- MK. -/
def mMK (m : BitVec 32) : BitVec 3 := bits m 10 3
/-- MRG. -/
def mMRG (m : BitVec 32) : Bool := m.getLsbD 16

/-- Whether lane `i` is active (R206). -/
def laneActive (c : Core) (m : BitVec 32) (i : Nat) : Bool := !mME m || (c.ctx.k.get (mMK m)).getLsbD i

/-- A lane operation reads its merge value when it masks and merges (R206). -/
def useMerge (_ : Core) (m : BitVec 32) : Bool := mME m && mMRG m

/-- The TINFO of a reserved mode value: the mode word, or the EXT word of a native long form (R425). -/
def modeInfo (f : Form) (op : BitVec 6) (m : BitVec 32) : Word :=
  match f with
  | .nat _ _ _ (.vx d a b c et w rm me mk uf) =>
      ((packFmt32 op (.vx d a b c et w rm me mk uf)).setWidth 64)
  | _ => m.setWidth 64
where
  /-- The EXT word of a VX form (R163). -/
  packFmt32 (op : BitVec 6) : Fmt → BitVec 32
    | .vx _ _ _ c et w rm me mk uf => op ++ c ++ et ++ w ++ rm ++ me ++ mk ++ uf
    | _ => 0

/-- DT (R208). -/
def mDT (m : BitVec 32) : Nat := m.toNat / 2 ^ 17 % 16

/-- The effective rounding mode: RM, or FMODE.RM where RM is dynamic (R98). -/
def effRm (c : Core) (m : BitVec 32) : BitVec 3 := if mRM m = 7 then c.fmodeRm else mRM m

/-- The data errors of the control registers that a rounding operation reads (R71, R98, R102, R104, R395): FMODE where its mode is dynamic,
SEED in mode 4, and QCFG where F8SAT bears on a result of 8 bits. -/
def roundConds (c : Core) (m : BitVec 32) (dest : Nat) : List Cond :=
  (if mRM m = 7 then ownConds c (.cr (crFMODE.setWidth 8)) 15 else []) ++
  (if effRm c m = 4 then ownConds c (.cr (crSEED.setWidth 8)) 15 else []) ++
  (if dest = 3 ∨ dest = 4 then ownConds c (.cr (crQCFG.setWidth 8)) 15 else [])

/-- The reserved values a vector operation of a kind meets: its type, its width, and, where it rounds, its rounding mode
(R129, R209, R425), and a reserved dynamic mode (R71); of the reductions and scans the floating ones round. -/
def vecConds (c : Core) (k : VKind) (f : Form) (op : BitVec 6) (useW : Bool) (m : BitVec 32) : List Cond :=
  let rounds := kindRounds k && (k ≠ .red || decide (mET m < 5))
  (if !etOk k (BitVec.ofNat 4 (mET m)) || (useW && mW m = 3) || (rounds && (mRM m = 5 || mRM m = 6))
    then [condReserved 3 (modeInfo f op m)] else []) ++
  (if rounds && mRM m = 7 && 5 ≤ c.fmodeRm.toNat then [condOperand 5 3 (c.creg crFMODE)] else []) ++
  (if rounds then roundConds c m (if k = .cvt then mDT m else mET m) else [])

/-- The lanes of a result under the mask: an active lane takes its value, another the merge value or 0 (R207). -/
def maskedLanes (c : Core) (m : BitVec 32) (e n : Nat) (base : Vec) (val : Nat → Nat) : Vec :=
  packLanes e ((List.range n).map fun i =>
    if laneActive c m i then val i else if mMRG m then laneN e i base else 0)

/-- An integer or bit-pattern lane operation: no rounding and no flag (R207, R213, R220). `val c x e n sg i` is lane `i`. -/
def semLanes (row : OpRow) (k : VKind) (use : Use) (lat : Nat) (val : Args → Nat → Nat → Bool → Nat → Nat)
    (f : Form) (s : State) : Sem :=
  let c := s.core
  let x := fetchArgs row { use with base := useMerge } f c
  let e := etBits (mET x.m)
  let n := widthBits (mW x.m) / e
  { block := x.block, conds := x.conds ++ vecConds c k f row.op true x.m,
    eff := effY x lat (maskedLanes c x.m e n x.base (val x e n (etSigned (mET x.m)))) }

/-- A compare into a lane mask: active lanes below n hold the condition (R215). -/
def semLaneCmp (row : OpRow) (k : VKind) (holds : Args → Nat → Nat → Bool) (f : Form) (s : State) : Sem :=
  let c := s.core
  let x := fetchArgs row {} f c
  let e := etBits (mET x.m)
  let n := widthBits (mW x.m) / e
  { block := x.block, conds := x.conds ++ vecConds c k f row.op true x.m,
    eff := effY x 2 (packLanes 1 ((List.range n).map fun i => (laneActive c x.m i && holds x e i).toNat)) }

/-! ## VAI (R213-R215) -/

/-- SAT of the VAI arithmetic (R208). -/
def mSAT (m : BitVec 32) : Bool := m.getLsbD 17

/-- An exact integer result, wrapped or saturated by SAT (R213). -/
def intResult (x : Args) (sg : Bool) (e : Nat) (v : Int) : Nat := wrapI e (if mSAT x.m then satI sg e v else v)

/-- The conditions of an integer compare: eq, ne, lt, le (R208, R215). -/
def ccHolds (cc : Nat) (a b : Int) : Bool :=
  match cc with
  | 0 => a = b
  | 1 => a ≠ b
  | 2 => a < b
  | _ => a ≤ b


/-- VAI add (R213). -/
def semVaiAdd (f : Form) (s : State) : Sem :=
  semLanes ⟨.VAI, 4, 0x1, 0, 1, .v .intg true⟩ .intg {} 2 (fun x e _ sg i => intResult x sg e (laneI sg e i x.a + laneI sg e i x.b)) f s

/-- VAI sub (R213). -/
def semVaiSub (f : Form) (s : State) : Sem :=
  semLanes ⟨.VAI, 5, 0x2, 0, 1, .v .intg true⟩ .intg {} 2 (fun x e _ sg i => intResult x sg e (laneI sg e i x.a - laneI sg e i x.b)) f s

/-- VAI mul (R213). -/
def semVaiMul (f : Form) (s : State) : Sem :=
  semLanes ⟨.VAI, 6, 0x3, 0, 1, .v .intg true⟩ .intg {} 2 (fun x e _ sg i => intResult x sg e (laneI sg e i x.a * laneI sg e i x.b)) f s

/-- VAI mulh: bits 2e-1:e of the exact product (R213). -/
def semVaiMulh (f : Form) (s : State) : Sem :=
  semLanes ⟨.VAI, 7, 0x4, 0, 1, .v .intg true⟩ .intg {} 2 (fun x e _ sg i => wrapI e (laneI sg e i x.a * laneI sg e i x.b / 2 ^ e)) f s

/-- VAI min (R213). -/
def semVaiMin (f : Form) (s : State) : Sem :=
  semLanes ⟨.VAI, 8, 0x5, 0, 1, .v .intg true⟩ .intg {} 2 (fun x e _ sg i => wrapI e (min (laneI sg e i x.a) (laneI sg e i x.b))) f s

/-- VAI max (R213). -/
def semVaiMax (f : Form) (s : State) : Sem :=
  semLanes ⟨.VAI, 9, 0x6, 0, 1, .v .intg true⟩ .intg {} 2 (fun x e _ sg i => wrapI e (max (laneI sg e i x.a) (laneI sg e i x.b))) f s

/-- VAI abs; operand b is not read (R213). -/
def semVaiAbs (f : Form) (s : State) : Sem :=
  semLanes ⟨.VAI, 10, 0x7, 0, 1, .v .intg false⟩ .intg { b := noB } 2 (fun x e _ sg i => intResult x sg e |laneI sg e i x.a|) f s

/-- VAI and (R213). -/
def semVaiAnd (f : Form) (s : State) : Sem :=
  semLanes ⟨.VAI, 11, 0x8, 0, 1, .v .intg true⟩ .intg {} 2 (fun x e _ _ i => laneN e i (x.a &&& x.b)) f s

/-- The source of the carrying form VR `vor d, a, s0` (R396). -/
def carryV (f : Form) : Option Dst :=
  match f with
  | .nat _ _ _ (.vr _ a b _) =>
    if (bits b 0 6 : BitVec 6) = 32 then some (if a.getLsbD 5 then .s ((bits a 0 5 : BitVec 5).setWidth 6) else .v (bits a 0 5))
    else none
  | _ => none

/-- VAI or (R213); VR `vor d, a, s0` carries a tag (R396). -/
def semVaiOr (f : Form) (s : State) : Sem :=
  (semLanes ⟨.VAI, 12, 0x9, 0, 1, .v .intg true⟩ .intg {} 2 (fun x e _ _ i => laneN e i (x.a ||| x.b)) f s).carry s.core
    (fetchArgs ⟨.VAI, 12, 0x9, 0, 1, .v .intg true⟩ { base := useMerge } f s.core) 2 (carryV f)

/-- VAI xor (R213). -/
def semVaiXor (f : Form) (s : State) : Sem :=
  semLanes ⟨.VAI, 13, 0xa, 0, 1, .v .intg true⟩ .intg {} 2 (fun x e _ _ i => laneN e i (x.a ^^^ x.b)) f s

/-- VAI shl (R214). -/
def semVaiShl (f : Form) (s : State) : Sem :=
  semLanes ⟨.VAI, 14, 0xb, 0, 1, .v .intg true⟩ .intg {} 2 (fun x e _ _ i => if e ≤ laneN e i x.b then 0 else laneN e i x.a * 2 ^ laneN e i x.b) f s

/-- VAI shr, zero-filled whatever the type (R214). -/
def semVaiShr (f : Form) (s : State) : Sem :=
  semLanes ⟨.VAI, 15, 0xc, 0, 1, .v .intg true⟩ .intg {} 2 (fun x e _ _ i => if e ≤ laneN e i x.b then 0 else laneN e i x.a / 2 ^ laneN e i x.b) f s

/-- VAI sar: sign fill from bit e-1 (R214). -/
def semVaiSar (f : Form) (s : State) : Sem :=
  semLanes ⟨.VAI, 16, 0xd, 0, 1, .v .intg true⟩ .intg {} 2 (fun x e _ _ i => wrapI e (toSigned e (laneN e i x.a) / 2 ^ (min (laneN e i x.b) (e - 1)))) f s

/-- VAI cmp (R215). -/
def semVaiCmp (f : Form) (s : State) : Sem :=
  semLaneCmp ⟨.VAI, 17, 0xe, 0, 1, .vcmp .intg⟩ .intg (fun x e i =>
    ccHolds (x.m.toNat / 2 ^ 16 % 4) (laneI (etSigned (mET x.m)) e i x.a) (laneI (etSigned (mET x.m)) e i x.b)) f s

/-! ## Moving and matching lanes (R220-R222) -/

/-- perm: lane b[i] of a, or 0 past the last lane (R220). -/
def semVperm (f : Form) (s : State) : Sem :=
  semLanes ⟨.VPM, 4, 0x20, 0, 1, .v .perm true⟩ .perm {} 3 (fun x e n _ i => if laneN e i x.b < n then laneN e (laneN e i x.b) x.a else 0) f s

/-- bcst: lane b[15:0] of a in every active lane (R220). -/
def semVbcst (f : Form) (s : State) : Sem :=
  semLanes ⟨.VPM, 15, 0x2b, 0, 1, .v .perm true⟩ .perm {} 3 (fun x e n _ _ => if laneN 16 0 x.b < n then laneN e (laneN 16 0 x.b) x.a else 0) f s

/-- The lowest lane of b equal to a pattern, over `n` lanes from `j` up; all ones where none is (R222). -/
def matchLane (e : Nat) (b : Vec) (v : Nat) : Nat → Nat → Nat
  | _, 0 => 2 ^ e - 1
  | j, n + 1 => if laneN e j b = v then j else matchLane e b v (j + 1) n

/-- match: the lowest lane of b that equals lane i of a (R222). -/
def semVmatch (f : Form) (s : State) : Sem :=
  semLanes ⟨.VPM, 7, 0x23, 0, 1, .v .perm true⟩ .perm {} 3 (fun x e n _ i => matchLane e x.b (laneN e i x.a) 0 n) f s

/-- cmpr: the active lanes of a, packed low; the rest merge or are 0 (R221). -/
def semVcmpr (f : Form) (s : State) : Sem :=
  let c := s.core
  let row : OpRow := ⟨.VPM, 5, 0x21, 0, 1, .v .perm false⟩
  let x := fetchArgs row { b := noB, base := useMerge } f c
  let e := etBits (mET x.m)
  let n := widthBits (mW x.m) / e
  let act := (List.range n).filter (laneActive c x.m)
  let rest := (List.range (n - act.length)).map fun i => if mMRG x.m then laneN e (act.length + i) x.base else 0
  { block := x.block, conds := x.conds ++ vecConds c .perm f row.op true x.m,
    eff := effY x 3 (packLanes e (act.map (fun i => laneN e i x.a) ++ rest)) }

/-- How many lanes below `i` are active. -/
def activeBelow (c : Core) (m : BitVec 32) (i : Nat) : Nat := ((List.range i).filter (laneActive c m)).length

/-- expd: the low lanes of a, spread over the active lanes (R221). -/
def semVexpd (f : Form) (s : State) : Sem :=
  let c := s.core
  let row : OpRow := ⟨.VPM, 6, 0x22, 0, 1, .v .perm false⟩
  let x := fetchArgs row { b := noB, base := useMerge } f c
  let e := etBits (mET x.m)
  let n := widthBits (mW x.m) / e
  { block := x.block, conds := x.conds ++ vecConds c .perm f row.op true x.m,
    eff := effY x 3 (maskedLanes c x.m e n x.base fun i => laneN e (activeBelow c x.m i) x.a) }

end Sys2Proof.Machine
end

