-- ==== Sys2Proof/Machine/LoadStore.lean ====
section
/-! DEFINITION. The LDS operations: loads and stores, gathers and scatters, the scratchpads with their granules, and the
tag table (R242-R250, R427). -/

namespace Sys2Proof.Machine

/-! ## Shared checks -/

/-- An access fault (R427). -/
def condAccess (code : BitVec 16) (tinfo : Word) : Cond := condOwn 0x13 code 4 tinfo

/-- The alignment and space checks of an access of `n` bytes at `a` (R242, R245, R427). -/
def accessConds (a : Word) (n align limit : Nat) : List Cond :=
  (if a.toNat % align ≠ 0 then [condAccess 1 a] else []) ++
  (if limit ≤ a.toNat then [condAccess 2 a]
   else if limit < a.toNat + n then [condAccess 2 (BitVec.ofNat 64 limit)] else [])

/-- The bytes of a load or store and, for a scalar, whether it is sign-extended (R167, R169, R244): VEC and the width, or
the element type. None for a reserved value. -/
def accessSize (m : BitVec 32) : Option (Nat × Bool) :=
  if m.getLsbD 16 then (if mW m = 3 then none else some (widthBits (mW m) / 8, false))
  else match mET m with
    | 0 | 6 => some (4, false)
    | 1 | 2 | 8 => some (2, false)
    | 3 | 4 | 10 => some (1, false)
    | 5 => some (4, true)
    | 7 => some (2, true)
    | 9 => some (1, true)
    | 13 | 14 => some (8, false)
    | _ => none

/-- The alignment of a load or store (R245): a scalar's size, or 16. -/
def accessAlign (m : BitVec 32) (n : Nat) : Nat := if m.getLsbD 16 then 16 else n

/-- Gates the stores of a translated range: memory bytes, or a device register's write (R303, R337, R359). -/
def Core.gateStore (c : Core) : List (Nat × Nat × Bool) → List Byte → Core
  | [], _ => c
  | (pa, n, nc) :: r, bs =>
    let g : Gated := if targetOf pa = .device then .dev (pa - devBase) n (BitVec.ofNat 64 (leNat (bs.take n)))
      else .store pa nc (bs.take n)
    Core.gateStore (c.gate g) r (bs.drop n)

/-! ## ld and st (R244, R245) -/

/-- A load (R244). -/
def semLoad (row : OpRow) (f : Form) (s : State) : Sem :=
  let c := s.core
  let x := fetchArgs row {} f c
  let va := x.a64 + x.b64
  match accessSize x.m with
  | none => { block := x.block, conds := x.conds ++ [condReserved 3 (x.m.setWidth 64)] }
  | some (n, sx) =>
    let k := accessConds va n (accessAlign x.m n) (2 ^ 57)
    let tr := translateRange s s.cur c.tenant c.priv va n .read
    { block := x.block
      conds := x.conds ++ k ++ (match tr with | .error e => if k = [] then [condPage .read e] else [] | .ok _ => [])
      eff := fun t => match tr with
        | .error _ => t
        | .ok (runs, es) =>
          let t := t.keepTlb t.cur es
          match runs with
          | (pa, _, _) :: _ =>
            if targetOf pa = .device then
              let v := BitVec.ofNat 1024 (leNat (t.devSeen t.core.gatedAll (pa - devBase) n))
              t.onCore fun c => c.produce x x.y (.ready (if sx then sextTo64 (8 * n) v else v) none) 0 none
            else t.startRead x (piecesOf runs 0 va) 0 (if sx then some (8 * n) else none) (padOf runs)
          | [] => t }

/-- ld (R244). -/
def semLd (f : Form) (s : State) : Sem := semLoad ⟨.LDS, 4, 0x1, 0, 10, .ld⟩ f s

/-- The long form of ld, with a 32-bit offset (R166, R244). -/
def semLdLong (f : Form) (s : State) : Sem := semLoad ⟨.LDS, 0, 0x1, 0, 10, .ldLong⟩ f s

/-- A store (R244): its value is c. -/
def semStore (row : OpRow) (f : Form) (s : State) : Sem :=
  let c := s.core
  let x := fetchArgs row { c := true } f c
  let va := x.a64 + x.b64
  match accessSize x.m with
  | none => { block := x.block, conds := x.conds ++ [condReserved 3 (x.m.setWidth 64)] }
  | some (n, _) =>
    let k := accessConds va n (accessAlign x.m n) (2 ^ 57)
    let tr := translateRange s s.cur c.tenant c.priv va n .write
    { block := x.block
      conds := x.conds ++ k ++ (match tr with | .error e => if k = [] then [condPage .write e] else [] | .ok _ => [])
      eff := fun t => match tr with
        | .error _ => t
        | .ok (runs, es) =>
          ((effNone x t).keepTlb t.cur es).onCore fun c => c.gateStore runs (leBytes n x.c.toNat) }

/-- st (R244). -/
def semSt (f : Form) (s : State) : Sem := semStore ⟨.LDS, 5, 0xb, 0, 7, .st⟩ f s

/-- The long form of st (R166, R244). -/
def semStLong (f : Form) (s : State) : Sem := semStore ⟨.LDS, 0, 0xb, 0, 7, .stLong⟩ f s

/-! ## gath and scat (R246) -/

/-- The element bits of a gather or scatter, or none for a reserved mode (R246). -/
def gatherBits (m : BitVec 32) : Option Nat :=
  if mW m = 3 then none
  else match mET m with | 0 | 5 | 6 => some 32 | 13 | 14 => some 64 | _ => none

/-- The active lanes of a gather or scatter with their addresses (R246). -/
def laneAddrs (c : Core) (x : Args) (e : Nat) : List (Nat × Word) :=
  ((List.range (widthBits (mW x.m) / e)).filter (laneActive c x.m)).map fun i =>
    (i, x.a64 + BitVec.ofInt 64 (laneI true e i x.b))

/-- The access faults of lanes: the lowest misaligned one and the lowest outside the space (R246, R427). -/
def laneConds (ls : List (Nat × Word)) (n : Nat) : List Cond :=
  (match ls.find? fun l => l.2.toNat % n != 0 with | some l => [condAccess 1 l.2] | none => []) ++
  (match ls.find? fun l => decide (2 ^ 57 < l.2.toNat + n) with | some l => [condAccess 2 l.2] | none => [])

/-- Translates every lane: the physical address and NC of each with the translations used, or the lowest failing lane. -/
def laneRuns (s : State) (k : AccKind) : List (Nat × Word) → Except (Word × TrErr) (List (Nat × Word × Nat × Bool) × List TlbEntry)
  | [] => .ok ([], [])
  | (i, a) :: r =>
    match translate s s.cur s.core.tenant s.core.priv a k with
    | .error e => .error (a, e)
    | .ok t => match laneRuns s k r with
      | .error e => .error e
      | .ok (rs, es) => .ok ((i, a, t.phys a, t.nc) :: rs, t :: es)

/-- A gather or scatter: `eff` performs it on the translated lanes. -/
def semLaneAccess (row : OpRow) (use : Use) (k : AccKind)
    (eff : Args → Nat → List (Nat × Word × Nat × Bool) → State → State) (f : Form) (s : State) : Sem :=
  let c := s.core
  let x := fetchArgs row use f c
  match gatherBits x.m with
  | none => { block := x.block, conds := x.conds ++ [condReserved 3 (x.m.setWidth 64)] }
  | some e =>
    let ls := laneAddrs c x e
    let own := laneConds ls (e / 8)
    let tr := laneRuns s k ls
    { block := x.block
      conds := x.conds ++ own ++ (match tr with | .error y => if own = [] then [condPage k y] else [] | .ok _ => [])
      eff := fun t => match tr with
        | .error _ => t
        | .ok (rs, es) => eff x e rs (t.keepTlb t.cur es) }

/-- gath (R246): each element is one access; an inactive lane takes the merge value or 0. -/
def semGath (f : Form) (s : State) : Sem :=
  let c0 := s.core
  semLaneAccess ⟨.LDS, 10, 0x16, 0, 2, .mg⟩ { base := useMerge } .read
    (fun x e rs t =>
      t.startRead x (rs.map fun (i, a, pa, nc) => { pa := pa, n := e / 8, bit := e * i, nc := nc, va := a, lane := true })
        (maskedLanes c0 x.m e (widthBits (mW x.m) / e) x.base fun _ => 0) none
        (padOf (rs.map fun (_, _, pa, nc) => (pa, e / 8, nc)))) f s

/-- scat (R246): lanes write in ascending order. -/
def semScat (f : Form) (s : State) : Sem :=
  semLaneAccess ⟨.LDS, 11, 0x18, 0, 2, .mw⟩ { c := true } .write
    (fun x e rs t => (effNone x t).onCore fun c =>
      rs.foldl (fun c (i, _, pa, nc) => c.gateStore [(pa, e / 8, nc)] (leBytes (e / 8) (laneN e i x.c))) c) f s

/-! ## The scratchpads (R247, R248) -/

/-- The bytes of a scratchpad access, or none for a reserved mode (R247). -/
def scratchSize (m : BitVec 32) : Option Nat :=
  if m.getLsbD 16 then (if mW m = 3 then none else some (widthBits (mW m) / 8)) else some 8

/-- The qualifier SQ: 0 .w, 1 .c, 2 .n (R247). -/
def scratchQ (m : BitVec 32) : BitVec 2 := bits m 13 2

/-- The first and the number of the granules that `n` bytes at an offset cover (R247). -/
def granFirst (off : Nat) : Nat := off / 16
def granCount (off n : Nat) : Nat := if n = 0 then 0 else (off + n - 1) / 16 - off / 16 + 1
/-- The granules of a range. -/
def granRange (off n : Nat) : List Nat := (List.range (granCount off n)).map (· + granFirst off)

/-- The newest gated write of core `me` to a scratchpad byte of core `of`. -/
def gatedScratch (of_ : CoreNo) (off : Nat) : List Gated → Option Byte
  | [] => none
  | .scratch n a bs :: r =>
    match gatedScratch of_ off r with
    | some b => some b
    | none => if n = of_ ∧ a ≤ off ∧ off < a + bs.length then bs[off - a]? else none
  | _ :: r => gatedScratch of_ off r

/-- The newest gated setting of a granule's full bit. -/
def gatedFull (of_ : CoreNo) (g : Nat) : List Gated → Option Bool
  | [] => none
  | .granules n first k full :: r =>
    match gatedFull of_ g r with
    | some b => some b
    | none => if n = of_ ∧ first ≤ g ∧ g < first + k then some full else none
  | _ :: r => gatedFull of_ g r

/-- Scratchpad bytes of core `of` as core `me` reads them (R247, R337). -/
def State.scratchRead (s : State) (me of_ : CoreNo) (off n : Nat) : List Byte :=
  let gs := (s.coreAt me).gatedAll
  (List.range n).map fun i => match gatedScratch of_ (off + i) gs with
    | some b => b
    | none => Memory.get (s.coreAt of_).scratch (off + i)

/-- The first uncorrectable offset of a scratchpad range that no gated write of core `me` covers (R396). -/
def State.scratchTag (s : State) (me of_ : CoreNo) (off n : Nat) : Option Word :=
  let gs := (s.coreAt me).gatedAll
  (((List.range n).map (· + off)).find? fun a =>
    (s.coreAt of_).scratchBad.contains (a / 8) && (gatedScratch of_ a gs).isNone).map (BitVec.ofNat 64)

/-- Whether a granule of core `of` is full as core `me` sees it. -/
def State.granFull (s : State) (me of_ : CoreNo) (g : Nat) : Bool :=
  match gatedFull of_ g (s.coreAt me).gatedAll with
  | some b => b
  | none => !(s.coreAt of_).emptyGran.contains g

/-- The core other than `me` whose open sheet has taken one of the granules of core `of` (R338). -/
def State.granHolder (s : State) (me of_ : CoreNo) (gs : List Nat) : Option CoreNo :=
  (s.cores.find? fun kc => kc.1 != me.toNat && kc.2.sheets.toList.any fun o => match o with
    | some sh => sh.takes.any fun t => t.1 == of_ && gs.contains t.2
    | none => false).map fun kc => BitVec.ofNat 11 kc.1

/-- Takes granules of core `of` for an access with .c (R247, R338): they read as empty at once, and the sheet that took
them gives them back if it is discarded. -/
def State.takeGranules (s : State) (of_ : CoreNo) (gs : List Nat) : State :=
  let c := s.core
  let own := gs.filter fun g => (gatedFull of_ g c.gatedAll).isSome
  let full := gs.filter fun g => !(s.coreAt of_).emptyGran.contains g
  let s := s.setCoreAt of_ { s.coreAt of_ with emptyGran := granEmpty (s.coreAt of_).emptyGran gs }
  s.onCore fun c =>
    let c := own.foldl (fun c g => c.gate (.granules of_ g 1 false)) c
    match c.sheet with
    | some sh => c.setSheet (some { sh with
        takes := sh.takes ++ full.map fun g => (of_, g)
        firstResv := match sh.firstResv with | some r => some r | none => some s.plat.cycle })
    | none => c

/-- The tenant whose scratchpad a core's is (R195, R248): its task's, or its last task's since core reset. -/
def Core.curTenant (c : Core) : Option (BitVec 5) :=
  match c.running with | some r => some r.tenant | none => c.lastTenant

/-- The core and offset that a scratchpad address names, with the checks of R242, R248 and R427: the own scratchpad, or a
lane's of the cluster (log entry 24: an access that runs past its lane's scratchpad leaves the space). -/
def spTarget (s : State) (remote : Bool) (a : Word) (n : Nat) : CoreNo × Nat × List Cond :=
  let align := if n = 8 then 8 else 16
  if remote then
    let off := a.toNat % 2 ^ 20
    let who : CoreNo := BitVec.ofNat 11 (s.cur.toNat / 8 * 8 + a.toNat / 2 ^ 20 % 8)
    let k := (if a.toNat % align ≠ 0 then [condAccess 1 a] else []) ++
      (if 2 ^ 23 ≤ a.toNat then [condAccess 2 a]
       else if 2 ^ 20 < off + n then [condAccess 2 (a - BitVec.ofNat 64 off + 0x100000)] else [])
    (who, off, k ++ (if k = [] ∧ (s.coreAt who).curTenant ≠ some s.core.tenant then [condAccess 4 a] else []))
  else (s.cur, a.toNat % 2 ^ 20, accessConds a n align (2 ^ 20))

/-- Whether a gated entry is an access to a core's scratchpad. -/
def Gated.atScratch (m : CoreNo) : Gated → Bool
  | .scratch k _ _ | .granules k _ _ _ => k == m
  | _ => false

/-- ldsp and ldrs (R247, R248): a producer of latency 4 for the own scratchpad. A remote load reaches the port behind the core's earlier
committed accesses to that scratchpad (R297), and no load comes after what the order of its cycle puts behind it (R248). -/
def semSpLoad (row : OpRow) (remote : Bool) (f : Form) (s : State) : Sem :=
  let c := s.core
  let x := fetchArgs row { b := noB } f c
  let q := scratchQ x.m
  match (if q = 3 then none else scratchSize x.m) with
  | none => { block := x.block, conds := x.conds ++ [condReserved 3 (x.m.setWidth 64)] }
  | some n =>
    let (who, off, k) := spTarget s remote x.a64 n
    let conds := x.conds ++ k
    let gs := granRange off n
    let holder := s.granHolder s.cur who gs
    let empty := conds.isEmpty && ((q ≠ 2 && !gs.all (s.granFull s.cur who)) || holder.isSome)
    let key := if remote then portKey s.cur who else 0
    let late := conds.isEmpty && (!s.mayMeet (.scratch who) key || (remote && c.committed.any fun e => e.2.atScratch who))
    { block := x.block || empty || late
      waits := !x.block && empty
      why := some (.granules who gs)
      meets := holder
      conds := conds
      eff := fun t =>
        let v := BitVec.ofNat 1024 (leNat (t.scratchRead t.cur who off n))
        let tag := (t.scratchTag t.cur who off n).map markScratch
        let t := (if q = 1 then t.takeGranules who gs else t).meetAt (.scratch who) key
        t.onCore fun c => c.produce x x.y
          (.ready v (if remote then (if c.pin then some (t.now + 16) else none) else some (t.now + 4))) 0 tag }

/-- stsp and strs (R247, R248): the bytes, and the full bit of every covered granule. -/
def semSpStore (row : OpRow) (remote : Bool) (f : Form) (s : State) : Sem :=
  let c := s.core
  let x := fetchArgs row {} f c
  match scratchSize x.m with
  | none => { block := x.block, conds := x.conds ++ [condReserved 3 (x.m.setWidth 64)] }
  | some n =>
    let (who, off, k) := spTarget s remote x.a64 n
    { block := x.block
      conds := x.conds ++ k
      eff := fun t => (effNone x t).onCore fun c =>
        (c.gate (.scratch who off (leBytes n x.b.toNat))).gate (.granules who (granFirst off) (granCount off n) true) }

/-- ldsp (R247). -/
def semLdsp (f : Form) (s : State) : Sem := semSpLoad ⟨.LDS, 6, 0x12, 0, 1, .ms⟩ false f s

/-- stsp (R247). -/
def semStsp (f : Form) (s : State) : Sem := semSpStore ⟨.LDS, 7, 0x13, 0, 1, .mu⟩ false f s

/-- ldrs (R248). -/
def semLdrs (f : Form) (s : State) : Sem := semSpLoad ⟨.LDS, 8, 0x14, 0, 1, .ms⟩ true f s

/-- strs (R248). -/
def semStrs (f : Form) (s : State) : Sem := semSpStore ⟨.LDS, 9, 0x15, 0, 1, .mu⟩ true f s

/-! ## The tag table and granule bits (R249, R250) -/

/-- A tag entry as the core's own tagl sees it (R249, R337). -/
def Core.tagEntry (c : Core) (i : BitVec 8) : Word :=
  c.gatedAll.foldl (fun v g => match g with | .tagw j w => if j = i then w else v | _ => v) (c.tagTable.get i)

/-- The result of a tag lookup (R249). -/
def Core.tagLookup (c : Core) (x : Word) : Word :=
  match (List.range 256).find? fun i =>
      let e := c.tagEntry (BitVec.ofNat 8 i)
      e.getLsbD 63 && (bits e 12 45 : BitVec 45) == bits x 12 45 with
  | some i => ((c.tagEntry (BitVec.ofNat 8 i) &&& 0xFFF) <<< 20) ||| (BitVec.ofNat 64 i <<< 12) ||| (x &&& 0xFFF)
  | none => 0xFFFFFFFFFFFFFFFF

/-- Whether a lookup meets an uncorrectable entry that no gated write of the core replaces (R393, R395; log entry 76). -/
def Core.tagSpoiled (c : Core) : Bool :=
  c.tagBad.any fun i => !c.gatedAll.any fun g => match g with | .tagw j _ => j.toNat == i | _ => false

/-- tagl (R249): latency 2. A lookup reads every entry: where one is uncorrectable it lands tagged, with no address (R396; log entry
76). -/
def semTagl (f : Form) (s : State) : Sem :=
  let c := s.core
  let x := fetchArgs ⟨.LDS, 12, 0x1a, 0, 1, .ma⟩ {} f c
  let va := x.a64 + x.b64
  { block := x.block
    conds := x.conds ++ (if 2 ^ 57 ≤ va.toNat then [condAccess 2 va] else [])
    eff := if c.tagSpoiled then fun t => t.onCore fun d => d.produce x x.y (.ready 0 (some (t.now + 2))) 0 (some 0)
      else effY x 2 (wide (c.tagLookup va)) }

/-- tagw (R249): the index is a, the value b. -/
def semTagw (f : Form) (s : State) : Sem :=
  let x := fetchArgs ⟨.LDS, 13, 0x1b, 0, 1, .mw⟩ {} f s.core
  { block := x.block
    conds := x.conds ++ (if 255 < x.a64.toNat then [condAccess 6 x.a64] else [])
    eff := fun t => (effNone x t).onCore fun c => c.gate (.tagw (x.a64.setWidth 8) (x.b64 &&& 0x81FFFFFFFFFFFFFF)) }

/-- fes and fec (R250). -/
def semGranules (row : OpRow) (full : Bool) (f : Form) (s : State) : Sem :=
  let x := fetchArgs row {} f s.core
  let a := x.a64.toNat
  let n := x.b64.toNat
  { block := x.block
    conds := x.conds ++ (if n ≠ 0 ∧ 2 ^ 20 < a + n then [condAccess 5 x.a64] else [])
    eff := fun t => (effNone x t).onCore fun c =>
      if n = 0 then c else c.gate (.granules t.cur (granFirst a) (granCount a n) full) }

/-- fes (R250). -/
def semFes (f : Form) (s : State) : Sem := semGranules ⟨.LDS, 14, 0x1c, 0, 1, .mt 1 1⟩ true f s

/-- fec (R250). -/
def semFec (f : Form) (s : State) : Sem := semGranules ⟨.LDS, 15, 0x1d, 0, 1, .mt 1 1⟩ false f s

end Sys2Proof.Machine
end

