-- ==== Sys2Proof/Machine/Transfer.lean ====
section
/-! DEFINITION. The XFR operations: streams, copies, byte barriers, cache maintenance, fences, and code invalidation and
locking (R80-R83, R243, R252-R263, R428, R431, R466). -/

namespace Sys2Proof.Machine

/-! ## Stream descriptors (R80, R81) -/

/-- Fields of a stream descriptor. -/
def sdBase (d : BitVec 256) : Word := d.extractLsb' 0 64
def sdStr (d : BitVec 256) (j : Nat) : BitVec 32 := d.extractLsb' (64 + 32 * j) 32
def sdCnt (d : BitVec 256) (j : Nat) : Nat := (d.extractLsb' (160 + 16 * j) 16 : BitVec 16).toNat + 1
def sdWrite (d : BitVec 256) : Bool := d.getLsbD 208
def sdSpace (d : BitVec 256) : BitVec 2 := d.extractLsb' 209 2
def sdBound (d : BitVec 256) : Bool := d.getLsbD 223
def sdPos (d : BitVec 256) : Nat := (d.extractLsb' 224 32 : BitVec 32).toNat

/-- The bytes of an element (R80). -/
def sdBytes (d : BitVec 256) : Nat :=
  match (d.extractLsb' 211 2 : BitVec 2) with | 0 => 8 | 1 => 32 | 2 => 64 | _ => 128

/-- The alignment of an element's address (R81). -/
def sdAlign (d : BitVec 256) : Nat := if sdBytes d = 8 then 8 else 16

/-- The element count T (R81). -/
def sdTotal (d : BitVec 256) : Nat := sdCnt d 0 * sdCnt d 1 * sdCnt d 2

/-- The address of element `i` (R81). -/
def sdAddr (d : BitVec 256) (i : Nat) : Word :=
  let a := i % sdCnt d 0
  let b := i / sdCnt d 0 % sdCnt d 1
  let c := i / (sdCnt d 0 * sdCnt d 1)
  sdBase d + BitVec.ofNat 64 a * (sdStr d 0).signExtend 64 + BitVec.ofNat 64 b * (sdStr d 1).signExtend 64 +
    BitVec.ofNat 64 c * (sdStr d 2).signExtend 64

/-- The descriptor with POS replaced. -/
def sdSetPos (d : BitVec 256) (p : Nat) : BitVec 256 := (BitVec.ofNat 32 p) ++ (d.extractLsb' 0 224 : BitVec 224)

/-- The descriptor with BOUND replaced. -/
def sdSetBound (d : BitVec 256) (b : Bool) : BitVec 256 :=
  (d &&& ~~~((1 : BitVec 256) <<< 223)) ||| ((BitVec.ofBool b).setWidth 256 <<< 223)

/-- A stream fault (R428). -/
def condStream (code : BitVec 16) (opnd : BitVec 4) (tinfo : Word) : Cond := condOwn 0x14 code opnd tinfo

/-- The owner of a staging slice of a cluster, if it has one (R243). -/
def State.sliceOwner (s : State) (cluster : Nat) (slice : Nat) : Option (BitVec 5) :=
  let w := s.reg (0x3000000 + 8 * cluster)
  let f : BitVec 6 := w.extractLsb' (6 * slice) 6
  if f.getLsbD 5 then some (f.setWidth 5) else none

/-- The bytes of staging space: 224 clusters of 16 MiB (R242). -/
def stagingLimit : Nat := 224 * 2 ^ 24

/-- The first reason for which a descriptor cannot be bound (R252, R428 CODE 0x0007). -/
def bindReason (s : State) (d : BitVec 256) : Option Nat :=
  if sdSpace d = 3 then some 1
  else if 2 ^ 32 - 1 < sdTotal d then some 2
  else if sdTotal d ≤ sdPos d then some 3
  else if (sdBase d).toNat % sdAlign d ≠ 0 then some 4
  else if sdSpace d = 2 ∧ (sdBase d).toNat / 2 ^ 24 % 256 ≠ clusterOf s.cur then some 5
  else if (d.extractLsb' 213 10 : BitVec 10) ≠ 0 then some 6
  else none

/-- How many elements a stream's transfer unit may fetch ahead or hold behind (R82, R83). -/
def streamDepth : Nat := 8

/-- sbind (R252). -/
def semSbind (f : Form) (s : State) : Sem :=
  let x := fetchArgs ⟨.XFR, 4, 0x20, 0, 1, .mq true false⟩ {} f s.core
  let d : BitVec 256 := x.a.setWidth 256
  let q : BitVec 3 := bits x.b64 0 3
  { block := x.block
    conds := x.conds ++
      (if sdBound (s.core.ctx.q.get q).desc then [condStream 6 1 (q.setWidth 64)] else []) ++
      (match bindReason s d with | some r => [condStream 7 4 (q.setWidth 64 ||| BitVec.ofNat 64 (256 * r))] | none => [])
    eff := fun t => (effNone x t).onCore fun c =>
      { c with ctx := { c.ctx with
          q := c.ctx.q.put q { desc := sdSetBound d true, fetched := [], base := List.replicate streamDepth t.now } } }.gate
        (.streamBind q) }

/-- sfree (R252): a write stream's elements are written before the next bundle (see `Gated.streamFree`). -/
def semSfree (f : Form) (s : State) : Sem :=
  let x := fetchArgs ⟨.XFR, 5, 0x21, 0, 1, .mq false false⟩ { b := noB } f s.core
  let q : BitVec 3 := bits x.a64 0 3
  { block := x.block
    conds := x.conds
    eff := fun t => (effNone x t).onCore fun c =>
      let st := c.ctx.q.get q
      if sdBound st.desc then
        { c with ctx := { c.ctx with q := c.ctx.q.put q { desc := sdSetBound st.desc false } } }.gate (.streamFree q)
      else c }

/-- Whether a gated entry is an element of a stream. -/
def Gated.isPush (q : BitVec 3) : Gated → Bool
  | .push w => w.q == q
  | _ => false

/-- The elements that a stream's transfer unit holds (R252), the core's own gated ones among them (R337). -/
def Core.streamHeld (c : Core) (q : BitVec 3) : Nat :=
  let st := c.ctx.q.get q
  if sdWrite st.desc then
    min streamDepth ((c.wbuf.filter fun w => w.q == q && !w.written).length + (c.gatedAll.filter (Gated.isPush q)).length)
  else st.fetched.length

/-- The status word of a stream (R252). -/
def Core.streamStatus (c : Core) (q : BitVec 3) : Word :=
  let d := (c.ctx.q.get q).desc
  if sdBound d then
    0x8000000000000000 ||| (BitVec.ofBool (sdWrite d)).setWidth 64 <<< 62 ||| (BitVec.ofNat 64 (c.streamHeld q) <<< 32) |||
      BitVec.ofNat 64 (sdPos d)
  else 0

/-- sstat (R252): latency 2. -/
def semSstat (f : Form) (s : State) : Sem :=
  let c := s.core
  let x := fetchArgs ⟨.XFR, 6, 0x22, 0, 1, .mq false true⟩ { b := noB } f c
  { block := x.block, conds := x.conds, eff := effY x 2 (wide (c.streamStatus (bits x.a64 0 3))) }

/-! ## Copy commands (R253, R254) -/

/-- Fields of a copy command. -/
def ccSrc (d : BitVec 256) : Word := d.extractLsb' 0 64
def ccDst (d : BitVec 256) : Word := d.extractLsb' 64 64
def ccLen (d : BitVec 256) : Nat := (d.extractLsb' 128 32 : BitVec 32).toNat
def ccSsp (d : BitVec 256) : BitVec 2 := d.extractLsb' 160 2
def ccDsp (d : BitVec 256) : BitVec 2 := d.extractLsb' 162 2
def ccBb (d : BitVec 256) : BitVec 3 := d.extractLsb' 164 3
def ccBbe (d : BitVec 256) : Bool := d.getLsbD 167
def ccDc (d : BitVec 256) : BitVec 5 := d.extractLsb' 168 5
def ccDce (d : BitVec 256) : Bool := d.getLsbD 173
def ccDec (d : BitVec 256) : Bool := d.getLsbD 174
def ccKsl (d : BitVec 256) : BitVec 4 := d.extractLsb' 176 4
def ccStrm (d : BitVec 256) : BitVec 32 := d.extractLsb' 192 32

/-- The end of a copy space (R242). -/
def spaceLimit (sp : BitVec 2) : Nat := match sp with | 0 => 2 ^ 57 | 1 => 2 ^ 20 | _ => stagingLimit

/-- The first byte of a range outside its space (R254). -/
def outside (sp : BitVec 2) (a : Word) (n : Nat) : Option Word :=
  if spaceLimit sp ≤ a.toNat then some a
  else if spaceLimit sp < a.toNat + n then some (BitVec.ofNat 64 (spaceLimit sp))
  else none

/-- The first byte of a staging range that lies in a slice the tenant does not own (R243). -/
def State.unowned (s : State) (t : BitVec 5) (a : Word) (n : Nat) : Option Word :=
  let first := a.toNat / 2 ^ 21
  ((List.range ((a.toNat + n - 1) / 2 ^ 21 - first + 1)).map (· + first)).findSome? fun k =>
    if s.sliceOwner (k / 8) (k % 8) = some t then none else some (BitVec.ofNat 64 (max a.toNat (k * 2 ^ 21)))

/-- The failed checks of a copy command (R254, R431), as code and TINFO. -/
def copyChecks (s : State) (t : BitVec 5) (d : BitVec 256) : List (BitVec 16 × Word) :=
  let sa := ccSrc d
  let da := ccDst d
  let n := ccLen d
  let badSp := ccSsp d = 3 || ccDsp d = 3
  (if sa.toNat % 16 ≠ 0 then [(1, sa)] else if da.toNat % 16 ≠ 0 then [(1, da)] else []) ++
  (if badSp then [(2, d.extractLsb' 128 64)] else []) ++
  (if n = 0 ∨ badSp then [] else
    (match outside (ccSsp d) sa n with
      | some a => [((3 : BitVec 16), a)]
      | none => match outside (ccDsp d) da n with | some a => [(3, a)] | none => []) ++
    (if ccSsp d = ccDsp d ∧ sa.toNat < da.toNat + n ∧ da.toNat < sa.toNat + n then [(4, sa)] else []) ++
    (match (if ccSsp d = 2 ∧ (outside 2 sa n).isNone then s.unowned t sa n else none) with
      | some a => [((7 : BitVec 16), a)]
      | none => match (if ccDsp d = 2 ∧ (outside 2 da n).isNone then s.unowned t da n else none) with
        | some a => [((7 : BitVec 16), a)]
        | none => [])) ++
  (if d.getLsbD 175 ∨ (d.extractLsb' 180 12 : BitVec 12) ≠ 0 then [(5, d.extractLsb' 128 64)]
   else if (d.extractLsb' 224 32 : BitVec 32) ≠ 0 then [(5, d.extractLsb' 192 64)] else [])

/-- The granules of a copy, by index. -/
def copyGranules (d : BitVec 256) : List Nat := List.range ((ccLen d + 15) / 16)

/-- Adds to a byte barrier's pending count (R254). -/
def Core.barrierAdd (c : Core) (n : BitVec 3) (v : Nat) : Core :=
  let b := c.bb.get n
  { c with bb := c.bb.put n { b with pending := b.pending + BitVec.ofNat 63 v } }

/-- The copies of a core that are outstanding (R254): queued, and gated on their way to the queue. -/
def Core.copiesOut (c : Core) : Nat :=
  c.copyQ.length + (c.gatedAll.filter fun g => match g with | .copy _ => true | _ => false).length

/-- The number of a core's task. -/
def Core.taskNo (c : Core) : Nat := match c.running with | some r => r.task | none => 0

/-- copy (R254): a gated operation (R337). -/
def semCopy (f : Form) (s : State) : Sem :=
  let c := s.core
  let x := fetchArgs ⟨.XFR, 7, 0x23, 0, 1, .mc⟩ { b := noB } f c
  let d : BitVec 256 := x.a.setWidth 256
  let full := decide (16 ≤ c.copiesOut)
  { block := x.block || full
    queue := !x.block && full
    why := some .place
    conds := x.conds ++ (copyChecks s c.tenant d).map fun k => condOwn 0x17 k.1 4 k.2
    eff := fun t => (effNone x t).onCore fun c =>
      let e : CopyEntry := { cmd := d, tenant := c.tenant, handle := bits (c.creg crTASK) 32 32, owner := c.creg crSAVEA,
                             task := c.taskNo, armed := false, priv := c.priv, left := copyGranules d, no := c.ops
                             due := if c.pin then some t.now else none }
      (if ccDsp d = 1 then c.gate (.granules t.cur (granFirst (ccDst d).toNat) (granCount (ccDst d).toNat (ccLen d)) false)
        else c).gate (.copy e) }

/-! ## Byte barriers (R257) -/

/-- bbset (R257): the barrier is b, or N; the record a. -/
def semBbset (f : Form) (s : State) : Sem :=
  let x := fetchArgs ⟨.XFR, 8, 0x24, 0, 1, .mn true⟩ {} f s.core
  { block := x.block
    conds := x.conds ++ (if x.a64.toNat % 64 ≠ 0 then [condOwn 0x17 6 4 x.a64] else [])
    eff := fun t => (effNone x t).onCore fun c =>
      c.gate (.barrier (bits x.b64 0 3) (if x.a64 = 0 then none else some (x.a64, bits (c.creg crTASK) 32 32, c.tenant))) }

/-- Whether a gated entry is a copy that counts at a byte barrier. -/
def Gated.countsAt (n : BitVec 3) : Gated → Bool
  | .copy e => ccBbe e.cmd && ccBb e.cmd == n && ccLen e.cmd ≠ 0
  | _ => false

/-- Whether a core's own bbwait finds bytes pending at a byte barrier: those counted, and those of its own gated copies (R257,
R337). -/
def Core.barrierBusy (c : Core) (n : BitVec 3) : Bool := (c.bb.get n).pending ≠ 0 || c.gatedAll.any (Gated.countsAt n)

/-- bbwait (R257, R466). A gated bbset of the sheet's own has cleared FAIL (R467). -/
def semBbwait (f : Form) (s : State) : Sem :=
  let c := s.core
  let x := fetchArgs ⟨.XFR, 9, 0x25, 0, 1, .mn false⟩ { b := noB } f c
  let n : BitVec 3 := bits x.a64 0 3
  let b := c.bb.get n
  let reset := c.gatedAll.any fun g => match g with | .barrier k _ => k == n | _ => false
  let wait := x.conds.isEmpty && c.barrierBusy n
  { block := x.block || wait
    waits := !x.block && wait
    why := some (.barrier n)
    conds := x.conds ++ (if ¬ c.barrierBusy n ∧ b.fail ∧ ¬ reset then [condOwn 0x40 b.code 4 b.addr] else [])
    eff := effNone x }

/-! ## Cache maintenance and fences (R260, R261) -/

/-- The operands of an operation over a memory range: its condition, and its translation (R427 CODE 0x0005, R443). -/
def rangeConds (s : State) (k : AccKind) (a : Word) (n : Nat) :
    List Cond × List (Nat × Nat × Bool) × List TlbEntry :=
  if n = 0 then ([], [], [])
  else if 2 ^ 57 < a.toNat + n then ([condAccess 5 a], [], [])
  else match translateRange s s.cur s.core.tenant s.core.priv a n k with
    | .error e => ([condPage k e], [], [])
    | .ok (rs, es) => ([], rs, es)

/-- cmnt (R260). -/
def semCmnt (f : Form) (s : State) : Sem :=
  let x := fetchArgs ⟨.XFR, 10, 0x26, 0, 1, .mt 3 3⟩ {} f s.core
  let k : BitVec 2 := bits x.m 16 2
  let l : BitVec 2 := bits x.m 18 2
  let (cs, rs, es) := rangeConds s .read x.a64 x.b64.toNat
  { block := x.block
    conds := x.conds ++ (if k = 3 ∨ l = 3 then [condReserved 3 (x.m.setWidth 64)] else []) ++ cs
    eff := fun t =>
      let lines := (rs.flatMap fun (pa, n, _) => linesOf pa n).dedup
      ((effNone x t).keepTlb t.cur es).onCore fun c =>
        let c := if c.pin then c.holdNext (t.now + 1024 + 8 * lines.length) else c
        if x.b64 = 0 then c else c.gate (.cmnt lines k l) }

/-- Whether an acquire fence of a core must wait (R83, R261, R318): a load or atomic of committed bundles has still to return, or an
element of a write stream to be written. An atomic that the fence's own sheet holds back is not waited for: it leaves only once the
sheet commits (log entry 37). -/
def State.awaiting (s : State) (n : CoreNo) : Bool :=
  let c := s.coreAt n
  (c.outst.any fun o => match o.awaits with | .ready _ _ => false | _ => true) || s.mem.hasAtomic n ||
  c.committed.any (fun e => match e.2 with | .atomic .. | .push _ => true | _ => false) || c.wbuf.any fun w => !w.written

/-- fence (R261): a release is gated; an acquire waits for the task's loads and atomics and adopts their clocks, and its wait for
elements that its own sheet pushes is gated (R83). -/
def semFence (f : Form) (s : State) : Sem :=
  let c := s.core
  let x := fetchArgs ⟨.XFR, 11, 0x27, 0, 1, .mf⟩ { a := false, b := noB } f c
  let k : BitVec 2 := bits x.m 16 2
  let sc : BitVec 3 := bits x.m 18 3
  let bad := k = 3 || 4 < sc.toNat
  let acq := k = 0 || k = 2
  { block := x.block || (!bad && acq && s.awaiting s.cur)
    conds := x.conds ++ (if bad then [condReserved 3 (x.m.setWidth 64)] else [])
    eff := fun t =>
      let t := (effNone x t).onCore fun c =>
        if k = 0 then c.gate .streams else (if c.pin then c.holdNext (t.now + 1024) else c).gate (.release sc c.ops)
      if acq ∧ 3 ≤ sc.toNat then acquireAt t t.cur none else t }

/-! ## Code invalidation and locks (R262, R263) -/

/-- icinv (R262): the scope is L. -/
def semIcinv (f : Form) (s : State) : Sem :=
  let x := fetchArgs ⟨.XFR, 12, 0x28, 0, 1, .mt 1 4⟩ {} f s.core
  let (cs, _, es) := rangeConds s .read x.a64 x.b64.toNat
  { block := x.block
    conds := x.conds ++ cs
    eff := fun t => ((effNone x t).keepTlb t.cur es).onCore fun c =>
      if x.b64 = 0 then c else c.gate (.icinv x.a64 x.b64.toNat (bits x.m 18 2)) }

/-- tclk (R263): a reserving operation (R338). A page fault of its fetch names the failing 64 KiB unit (R442, R444). -/
def semTclk (f : Form) (s : State) : Sem :=
  let x := fetchArgs ⟨.XFR, 13, 0x29, 0, 1, .mk true⟩ {} f s.core
  let n := x.b64.toNat
  let (cs, _, es) := rangeConds s .fetch x.a64 n
  let cs := cs.map fun k => if k.cls = 0x21 then { k with tinfo := k.tinfo &&& ~~~(0xFFFF : Word) } else k
  { block := x.block
    conds := x.conds ++ cs
    eff := fun t =>
      let t := t.keepTlb t.cur es
      if n = 0 then effY x 1 0 t
      else match t.lockCode t.cur x.a64 n with
        | none => effY x 1 1 t
        | some (t, locks) => (effY x 1 0 t).onCore fun c => match c.sheet with
          | some sh => c.setSheet (some { sh with
              newLocks := sh.newLocks ++ locks.map fun e => { die := dieOf t.cur, entry := e }
              firstResv := if locks = [] then sh.firstResv else some (sh.firstResv.getD t.plat.cycle) })
          | none => c }

/-- tculk (R263). -/
def semTculk (f : Form) (s : State) : Sem :=
  let x := fetchArgs ⟨.XFR, 14, 0x2a, 0, 1, .mk false⟩ {} f s.core
  let (cs, _, es) := rangeConds s .read x.a64 x.b64.toNat
  { block := x.block
    conds := x.conds ++ cs
    eff := fun t => ((effNone x t).keepTlb t.cur es).onCore fun c =>
      if x.b64 = 0 then c else c.gate (.tculk x.a64 x.b64.toNat) }

/-! ## Pinned copies and freezes (R350-R352) -/

/-- The padded latency of one side of a copy. -/
def State.copyLeg (s : State) (n : CoreNo) (e : CopyEntry) (sp : BitVec 2) (a : Word) (k : AccKind) : Nat :=
  if sp = 0 then
    match translateRange s n e.tenant e.priv a (ccLen e.cmd) k with
    | .ok (runs, _) => padOf runs
    | .error _ => 768
  else if sp = 1 then 4
  else if a.toNat / 2 ^ 24 = clusterOf n then 14
  else 112

/-- The core-domain cycle in which a pinned copy completes: its commit, its two latencies and its length. -/
def State.copyDueAt (s : State) (n : CoreNo) (e : CopyEntry) : Option Nat :=
  e.due.map fun t => t + s.copyLeg n e (ccSsp e.cmd) (ccSrc e.cmd) .read + s.copyLeg n e (ccDsp e.cmd) (ccDst e.cmd) .write +
    (ccLen e.cmd + 63) / 64

/-- The padded latency of a stream element by space (R351), in memory that of package memory. -/
def streamPad (sp : BitVec 2) : Nat := match sp with | 0 => 768 | 1 => 4 | _ => 14

/-- The padded latency of an element at an address, by where it lies (R351). -/
def State.elementPad (s : State) (n : CoreNo) (c : Core) (d : BitVec 256) (a : Word) : Nat :=
  if sdSpace d = 0 then match translateRange s n c.tenant c.priv a (sdBytes d) .read with
    | .ok (runs, _) => padOf runs
    | .error _ => 768
  else streamPad (sdSpace d)

/-- Whether a pinned copy's time has come. -/
def State.copyRipe (s : State) (n : CoreNo) (e : CopyEntry) : Bool :=
  match s.copyDueAt n e with | some t => decide (t ≤ s.plat.cycle - (s.coreAt n).frozen) | none => false

/-- Whether a pinned copy of a core's task is late (R352). -/
def State.lateCopy (s : State) (n : CoreNo) : Bool :=
  let c := s.coreAt n
  c.copyQ.any fun e => !e.armed && e.owner = c.creg crSAVEA && s.copyRipe n e

/-- Whether a result of a pinned core has not landed at its padded latency (R352). -/
def State.lateResult (s : State) (n : CoreNo) : Bool :=
  let c := s.coreAt n
  let now := s.plat.cycle - c.frozen
  let passed (d : Option Nat) : Bool := match d with | some t => decide (t ≤ now) | none => false
  c.pin && c.outst.any fun o => match o.awaits with | .ready _ d | .read _ d | .atomic _ d => passed d

/-- Whether a pinned core is frozen by a result or copy that has not arrived at its padded latency (R350, R352). -/
def State.mustFreeze (s : State) (n : CoreNo) : Bool := s.lateResult n || ((s.coreAt n).pin && s.lateCopy n)

end Sys2Proof.Machine
end

