-- ==== Sys2Proof/Machine/Atomic.lean ====
section
/-! DEFINITION. The atomics (R264-R267). -/

namespace Sys2Proof.Machine

/-- The native opcode and the Z of an atomic under a mode word, for an operation whose first opcode is `op` (R264, R265):
none where the element type is not one it takes. -/
def atomicForm (op : BitVec 6) (m : BitVec 32) : Option (BitVec 6 × BitVec 1) :=
  let et := mET m
  let add := op = 0x30
  let mm := op = 0x33 || op = 0x36
  match et with
  | 5 => some (op, 0)
  | 6 => some (if mm then op + 1 else op, 0)
  | 13 => some (op, 1)
  | 14 => some (if mm then op + 1 else op, 1)
  | 0 => if add then some (op + 1, 0) else if mm then some (op + 2, 0) else none
  | 2 => if add then some (op + 2, 0) else none
  | _ => none

/-- Whether an atomic names the old value's return (R264): D or the NR mode bit. -/
def atomicReturns (m : BitVec 32) : Bool := !m.getLsbD 17

/-- Whether requests of an opcode may be merged (R266). -/
def atomicMerges (op : BitVec 6) (m : Bool) : Bool :=
  if op = 0x31 ∨ op = 0x32 then m
  else op = 0x30 || op = 0x33 || op = 0x34 || op = 0x36 || op = 0x37 || op = 0x39 || op = 0x3A || op = 0x3B

/-- The padded latency of a returning atomic (R351). -/
def atomicPad (pa : Nat) : Nat := if targetOf pa = .package then 1024 else 1792

/-- Sends an atomic's request (R264): the line is cleaned to PKG and invalidated first. -/
def State.sendAtomic (s : State) (n : CoreNo) (tenant : BitVec 5) (pa : Nat) (op : BitVec 6) (z : BitVec 1) (b c : Word)
    (no : Nat) (ret m : Bool) : State :=
  let s := cmntLine s n 2 2 (pa / 128)
  s.withMem fun mm =>
    let r : AtomicReq := ⟨n, tenant, pa, op, z, b, c, no, ret, m, mm.vc.get ((dieOf n).setWidth 4), []⟩
    { mm with atomics := mm.atomics ++ [r] }

/-- The address that a tagged reply of the newest producer would carry (R396): its granule's. -/
def Core.replyAddr (c : Core) (va : Word) : Core :=
  { c with outst := c.outst.map fun o => if o.no + 1 = c.ops then { o with addr := va &&& ~~~(15 : Word) } else o }

/-- An atomic (R264): one that returns its old value is reserving and is sent at once (R338); any other is gated. Operand c
is read by acas. -/
def semAtomic (row : OpRow) (f : Form) (s : State) : Sem :=
  let c := s.core
  let x := fetchArgs row { c := row.op = 0x3D } f c
  match atomicForm row.op x.m with
  | none => { block := x.block, conds := x.conds ++ [condReserved 3 (x.m.setWidth 64)] }
  | some (op, z) =>
    let va := x.a64
    let n := atomicBytes op z
    let k := accessConds va n n (2 ^ 57)
    let tr := translate s s.cur c.tenant c.priv va .rw
    let own : List Cond := if k ≠ [] then k else match tr with
      | .error e => [condPage .rw (va, e)]
      | .ok e => if targetOf (e.phys va) = .package ∨ targetOf (e.phys va) = .tier2 then [] else [condAccess 3 va]
    { block := x.block
      conds := x.conds ++ own
      eff := fun t => match tr with
        | .error _ => t
        | .ok e =>
          let t := t.keepTlb t.cur [e]
          let pa := e.phys va
          let mg := !c.pin || !(op = 0x31 || op = 0x32)
          let m := x.m.getLsbD 16 && mg
          if atomicReturns x.m then
            let no := t.core.ops
            let t := t.sendAtomic t.cur c.tenant pa op z x.b64 x.c64 no true false
            t.onCore fun c => ((c.produce x x.y
              (.atomic (mET x.m = 5 && !x.nat) (if c.pin then some (t.now + atomicPad pa) else none)) 0 none).replyAddr va).gate
                (.atomic pa op z x.b64 x.c64 no true false)
          else (effNone x t).onCore fun c =>
            { c with ops := c.ops + 1 }.gate (.atomic pa op z x.b64 x.c64 c.ops false (atomicMerges op m)) }

/-- aadd (R265). -/
def semAadd (f : Form) (s : State) : Sem := semAtomic ⟨.ATM, 4, 0x30, 0, 3, .atm false⟩ f s

/-- amin (R265). -/
def semAmin (f : Form) (s : State) : Sem := semAtomic ⟨.ATM, 5, 0x33, 0, 3, .atm true⟩ f s

/-- amax (R265). -/
def semAmax (f : Form) (s : State) : Sem := semAtomic ⟨.ATM, 6, 0x36, 0, 3, .atm true⟩ f s

/-- aand (R265). -/
def semAand (f : Form) (s : State) : Sem := semAtomic ⟨.ATM, 7, 0x39, 0, 1, .atm false⟩ f s

/-- aor (R265). -/
def semAor (f : Form) (s : State) : Sem := semAtomic ⟨.ATM, 8, 0x3a, 0, 1, .atm false⟩ f s

/-- axor (R265). -/
def semAxor (f : Form) (s : State) : Sem := semAtomic ⟨.ATM, 9, 0x3b, 0, 1, .atm false⟩ f s

/-- axchg (R265). -/
def semAxchg (f : Form) (s : State) : Sem := semAtomic ⟨.ATM, 10, 0x3c, 0, 1, .atm false⟩ f s

/-- acas (R265). -/
def semAcas (f : Form) (s : State) : Sem := semAtomic ⟨.ATM, 11, 0x3d, 0, 1, .atm false⟩ f s

end Sys2Proof.Machine
end

