-- ==== Sys2Proof/Machine/VecFp.lean ====
section
/-! DEFINITION. Floating lanes of VFP (R216-R219) and the reductions, scans, conversions and quantising operations of
VPM (R110-R112, R223-R228). -/

namespace Sys2Proof.Machine

/-! ## Rounding of an operation -/

/-- QCFG.F8SAT (R104). -/
def Core.f8sat (c : Core) : Bool := (c.creg crQCFG).getLsbD 0

/-- The rounding an operation makes with SEED as it stands (R101, R102). -/
def rndOf (c : Core) (rm : BitVec 3) : Rnd := { rm := rm, seed := c.creg crSEED, sat := c.f8sat }

/-- SEED advances once for an operation of mode 4 (R102). -/
def Core.seedStep (c : Core) (rm : BitVec 3) : Core := if rm = 4 then c.bumpSeed else c

/-- Ors the flags of a list. -/
def orFlags (fs : List FFlags) : FFlags := fs.foldl (· ||| ·) 0

/-- A floating lane operation: each active lane gives a pattern and flags, the flags ORed (R103, R207, R216). -/
def semFloatLanes (row : OpRow) (k : VKind) (use : Use) (rounds : Bool)
    (val : Rnd → Args → FFmt → Nat → Nat → Nat × FFlags) (f : Form) (s : State) : Sem :=
  let c := s.core
  let x := fetchArgs row { use with base := useMerge } f c
  let fm := fmtOf (mET x.m)
  let e := etBits (mET x.m)
  let n := widthBits (mW x.m) / e
  let rm : BitVec 3 := if rounds then effRm c x.m else 0
  { block := x.block, conds := x.conds ++ vecConds c k f row.op true x.m,
    eff := fun s =>
      let r := rndOf s.core rm
      let ls := (List.range n).map fun i =>
        if laneActive c x.m i then val r x fm e i else (if mMRG x.m then laneN e i x.base else 0, 0)
      (effYF x 4 (packLanes e (ls.map Prod.fst)) (orFlags (ls.map Prod.snd)) s).onCore (Core.seedStep · rm) }

/-- The value of lane `i` of an operand. -/
def laneF (fm : FFmt) (e i : Nat) (v : Vec) : FV := fm.decode (laneN e i v)

/-! ## VFP (R216-R219) -/

/-- VFP add (R216). -/
def semVfpAdd (f : Form) (s : State) : Sem :=
  semFloatLanes ⟨.VFP, 4, 0x10, 0, 1, .v .fltR true⟩ .fltR {} true (fun r x fm e i => addRounded r fm (laneN e i x.a) (laneN e i x.b) i) f s

/-- VFP sub (R216). -/
def semVfpSub (f : Form) (s : State) : Sem :=
  semFloatLanes ⟨.VFP, 5, 0x11, 0, 1, .v .fltR true⟩ .fltR {} true (fun r x fm e i => let (v, nv) := FV.add r.dn (laneF fm e i x.a) (laneF fm e i x.b).negate; let (y, fl) := r.fmt fm v i; (y, fl ||| nvIf nv)) f s

/-- VFP mul (R216). -/
def semVfpMul (f : Form) (s : State) : Sem :=
  semFloatLanes ⟨.VFP, 6, 0x12, 0, 1, .v .fltR true⟩ .fltR {} true (fun r x fm e i => let (v, nv) := FV.mul (laneF fm e i x.a) (laneF fm e i x.b); let (y, fl) := r.fmt fm v i; (y, fl ||| nvIf nv)) f s

/-- VFP fma: one rounding of the exact sum (R216). -/
def semVfpFma (f : Form) (s : State) : Sem :=
  semFloatLanes ⟨.VFP, 7, 0x13, 0, 1, .vfma⟩ .fltR { c := true } true (fun r x fm e i => fmaRounded r fm false false (laneF fm e i x.a) (laneF fm e i x.b) (laneF fm e i x.c) i) f s

/-- VFP fms: one rounding of the exact sum (R216). -/
def semVfpFms (f : Form) (s : State) : Sem :=
  semFloatLanes ⟨.VFP, 8, 0x14, 0, 1, .vfma⟩ .fltR { c := true } true (fun r x fm e i => fmaRounded r fm false true (laneF fm e i x.a) (laneF fm e i x.b) (laneF fm e i x.c) i) f s

/-- VFP fnma: one rounding of the exact sum (R216). -/
def semVfpFnma (f : Form) (s : State) : Sem :=
  semFloatLanes ⟨.VFP, 9, 0x15, 0, 1, .vfma⟩ .fltR { c := true } true (fun r x fm e i => fmaRounded r fm true false (laneF fm e i x.a) (laneF fm e i x.b) (laneF fm e i x.c) i) f s

/-- VFP min (R217). -/
def semVfpMin (f : Form) (s : State) : Sem :=
  semFloatLanes ⟨.VFP, 10, 0x16, 0, 1, .v .flt true⟩ .flt {} false (fun _ x fm e i => (minPattern fm (laneN e i x.a) (laneN e i x.b), 0)) f s

/-- VFP max (R217). -/
def semVfpMax (f : Form) (s : State) : Sem :=
  semFloatLanes ⟨.VFP, 11, 0x17, 0, 1, .v .flt true⟩ .flt {} false (fun _ x fm e i => (maxPattern fm (laneN e i x.a) (laneN e i x.b), 0)) f s

/-- VFP abs; operand b is not read (R217). -/
def semVfpAbs (f : Form) (s : State) : Sem :=
  semFloatLanes ⟨.VFP, 12, 0x18, 0, 1, .v .flt false⟩ .flt { b := noB } false (fun _ x fm e i => (if (laneF fm e i x.a).isNan then fm.nan else laneN e i x.a % fm.signW, 0)) f s

/-- VFP neg; operand b is not read (R217). -/
def semVfpNeg (f : Form) (s : State) : Sem :=
  semFloatLanes ⟨.VFP, 13, 0x19, 0, 1, .v .flt false⟩ .flt { b := noB } false (fun _ x fm e i => (if (laneF fm e i x.a).isNan then fm.nan else (laneN e i x.a + fm.signW) % 2 ^ e, 0)) f s

/-- VFP cpsgn: the sign of b on a, even when b is NaN (R217). -/
def semVfpCpsgn (f : Form) (s : State) : Sem :=
  semFloatLanes ⟨.VFP, 17, 0x1d, 0, 1, .v .flt true⟩ .flt {} false (fun _ x fm e i => (if (laneF fm e i x.a).isNan then fm.nan else laneN e i x.a % fm.signW + laneN e i x.b / fm.signW * fm.signW, 0)) f s

/-- a scaled by a power of two, for a finite nonzero a (R218). -/
def scaleFV (v : FV) (k : Int) : FV :=
  match v with
  | .fin n m e => if m = 0 then v else .fin n m (e + k)
  | v => v

/-- A value rounded to an integral value of its format, keeping the sign of zero; NX where it changed (R218). -/
def rintPattern (r : Rnd) (fm : FFmt) (x : Nat) (idx : Nat) : Nat × FFlags :=
  match fm.decode x with
  | .fin n m e =>
    let (k, nx) := roundAt r.rm (if r.rm = 4 then srBits r.seed idx else 0) n m e 0
    ((roundFmt fm false 0 0 (.fin n k 0)).1, if nx then flNX else 0)
  | v => ((roundFmt fm false 0 0 v).1, 0)

/-- VFP scal: a times 2 to the signed lane of b, rounded once (R218). -/
def semVfpScal (f : Form) (s : State) : Sem :=
  semFloatLanes ⟨.VFP, 15, 0x1b, 0, 1, .v .fltR true⟩ .fltR {} true (fun r x fm e i => r.fmt fm (scaleFV (laneF fm e i x.a) (toSigned e (laneN e i x.b))) i) f s

/-- VFP rint; operand b is not read (R218). -/
def semVfpRint (f : Form) (s : State) : Sem :=
  semFloatLanes ⟨.VFP, 16, 0x1c, 0, 1, .v .fltR false⟩ .fltR { b := noB } true (fun r x fm e i => rintPattern r fm (laneN e i x.a) i) f s

/-- The conditions of a floating compare; a NaN makes only ne true (R219). -/
def fcHolds (cc : Nat) (a b : FV) : Bool :=
  match cc with
  | 0 => a.eqv b
  | 1 => !a.eqv b
  | 2 => a.lt b
  | _ => a.lt b || a.eqv b

/-- VFP cmp (R215, R219). -/
def semVfpCmp (f : Form) (s : State) : Sem :=
  semLaneCmp ⟨.VFP, 14, 0x1a, 0, 1, .vcmp .flt⟩ .flt (fun x e i =>
    fcHolds (x.m.toNat / 2 ^ 16 % 4) (laneF (fmtOf (mET x.m)) e i x.a) (laneF (fmtOf (mET x.m)) e i x.b)) f s

/-! ## Reductions and scans (R105, R106, R223, R224) -/

/-- Whether an element type is floating. -/
def etFloat (et : Nat) : Bool := et < 5

/-- A reduction: floating lanes through the rounded tree, integer lanes exactly, an inactive lane as the identity. -/
def semReduce (row : OpRow) (ident : FFmt → Nat) (identI : Bool → Nat → Int)
    (node : Rnd → FFmt → Nat → Nat × FFlags → Nat × FFlags → Nat × FFlags) (comb : Int → Int → Int) (rounds : Bool)
    (f : Form) (s : State) : Sem :=
  let c := s.core
  let x := fetchArgs row { b := noB } f c
  let et := mET x.m
  let fm := fmtOf et
  let e := etBits et
  let n := widthBits (mW x.m) / e
  let rm : BitVec 3 := if rounds && etFloat et then effRm c x.m else 0
  { block := x.block, conds := x.conds ++ vecConds c .red f row.op true x.m,
    eff := fun s =>
      let r := rndOf s.core rm
      if etFloat et then
        let ls := (List.range n).map fun i => (if laneActive c x.m i then laneN e i x.a else ident fm, (0 : FFlags))
        let (y, fl) := (treeFold (fun i a b => node r fm i a b) (Nat.log2 n) ls).headD (0, 0)
        (effYF x 6 (BitVec.ofNat 1024 y) fl s).onCore (Core.seedStep · rm)
      else
        let ls := (List.range n).map fun i => if laneActive c x.m i then laneI (etSigned et) e i x.a else identI (etSigned et) e
        effYF x 6 (BitVec.ofNat 1024 (wrapI 64 (match ls with | [] => 0 | a :: t => t.foldl comb a))) 0 s }

/-- The largest and smallest values of an integer type. -/
def intMax (sg : Bool) (e : Nat) : Int := if sg then 2 ^ (e - 1) - 1 else 2 ^ e - 1
def intMin (sg : Bool) (e : Nat) : Int := if sg then -(2 ^ (e - 1)) else 0

/-- One node of a floating sum, with its index. -/
def sumNode (r : Rnd) (fm : FFmt) (i : Nat) (a b : Nat × FFlags) : Nat × FFlags :=
  let (x, fl) := addRounded r fm a.1 b.1 i
  (x, a.2 ||| b.2 ||| fl)

/-- redsum: −0.0 or 0 for an inactive lane (R223). -/
def semVredsum (f : Form) (s : State) : Sem :=
  semReduce ⟨.VPM, 8, 0x24, 0, 1, .v .red false⟩ (fun fm => fm.signW) (fun _ _ => 0) sumNode (· + ·) true f s

/-- redmin: +infinity or the largest value for an inactive lane (R223). It rounds nothing, yet reads RM (R209). -/
def semVredmin (f : Form) (s : State) : Sem :=
  semReduce ⟨.VPM, 9, 0x25, 0, 1, .v .red false⟩ (fun fm => fm.inf false) intMax
    (fun _ fm _ a b => (minPattern fm a.1 b.1, a.2 ||| b.2)) min true f s

/-- redmax: -infinity or the smallest value for an inactive lane (R223). -/
def semVredmax (f : Form) (s : State) : Sem :=
  semReduce ⟨.VPM, 10, 0x26, 0, 1, .v .red false⟩ (fun fm => fm.inf true) intMin
    (fun _ fm _ a b => (maxPattern fm a.1 b.1, a.2 ||| b.2)) max true f s

/-- The steps of a scan over 2^m lanes, from step `st` on (R106). -/
def scanAll {α : Type} (op : Nat → Nat → α → α → α) : Nat → Nat → List α → List α
  | _, 0, l => l
  | st, m + 1, l => scanAll op (st + 1) m (scanStep (op st) (2 ^ st) l)

/-- scan: running sums by the order of R106; at step s the rounding into lane i uses index i + n s (R224). -/
def semVscan (f : Form) (s : State) : Sem :=
  let c := s.core
  let row : OpRow := ⟨.VPM, 11, 0x27, 0, 1, .v .red false⟩
  let x := fetchArgs row { b := noB, base := useMerge } f c
  let et := mET x.m
  let fm := fmtOf et
  let e := etBits et
  let n := widthBits (mW x.m) / e
  let rm : BitVec 3 := if etFloat et then effRm c x.m else 0
  { block := x.block, conds := x.conds ++ vecConds c .red f row.op true x.m,
    eff := fun s =>
      let r := rndOf s.core rm
      let ls := (List.range n).map fun i =>
        (if laneActive c x.m i then laneN e i x.a else if etFloat et then fm.signW else 0, (0 : FFlags))
      let ys := scanAll (fun st i (a b : Nat × FFlags) =>
        if etFloat et then sumNode r fm (i + n * st) a b else ((a.1 + b.1) % 2 ^ e, 0)) 0 (Nat.log2 n) ls
      (effYF x 6 (maskedLanes c x.m e n x.base fun i => (ys.getD i (0, 0)).1) (orFlags (ys.map Prod.snd)) s).onCore
        (Core.seedStep · rm) }

/-! ## Conversion (R225) -/

/-- One converted element: its pattern and flags. -/
def convert (r : Rnd) (sat : Bool) (es ed : Nat) (x : Nat) (i : Nat) : Nat × FFlags :=
  let lo := intMin (etSigned ed) (etBits ed)
  let hi := intMax (etSigned ed) (etBits ed)
  match etFloat es, etFloat ed with
  | true, true => r.fmt (fmtOf ed) ((fmtOf es).decode x) i
  | true, false =>
    match (fmtOf es).decode x with
    | .nan => (0, flNV)
    | .inf n => (wrapI (etBits ed) (if n then lo else hi), flNV)
    | v =>
      let (k, nx) := roundInt r v i
      if k < lo then (wrapI (etBits ed) lo, flNV)
      else if hi < k then (wrapI (etBits ed) hi, flNV)
      else (wrapI (etBits ed) k, if nx then flNX else 0)
  | false, true => r.fmt (fmtOf ed) (FV.ofInt (laneI (etSigned es) (etBits es) 0 (BitVec.ofNat 1024 x)) 0) i
  | false, false =>
    let v := laneI (etSigned es) (etBits es) 0 (BitVec.ofNat 1024 x)
    (wrapI (etBits ed) (if sat then satI (etSigned ed) (etBits ed) v else v), 0)

/-- cvt: from ET to DT over w / max(es, ed) elements (R225). -/
def semVcvt (f : Form) (s : State) : Sem :=
  let c := s.core
  let row : OpRow := ⟨.VPM, 12, 0x28, 0, 1, .v .cvt false⟩
  let x := fetchArgs row { b := noB, base := useMerge } f c
  let es := etBits (mET x.m)
  let ed := etBits (mDT x.m)
  let n := widthBits (mW x.m) / max es ed
  let rm : BitVec 3 := effRm c x.m
  { block := x.block,
    conds := x.conds ++ vecConds c .cvt f row.op true x.m ++
      (if etOk .cvt (BitVec.ofNat 4 (mDT x.m)) then [] else [condReserved 3 (modeInfo f row.op x.m)]),
    eff := fun s =>
      let r := rndOf s.core rm
      let ls := (List.range n).map fun i =>
        if laneActive c x.m i then convert r (x.m.getLsbD 21) (mET x.m) (mDT x.m) (laneN es i x.a) i
        else (if mMRG x.m then laneN ed i x.base else 0, 0)
      (effYF x 3 (packLanes ed (ls.map Prod.fst)) (orFlags (ls.map Prod.snd)) s).onCore (Core.seedStep · rm) }

/-! ## Quantise and dequantise (R108-R112, R226-R228) -/

/-- The group size of quant and dqnt (R104, R226). -/
def quantGroup (c : Core) : Nat := 32 * 2 ^ ((c.creg crQCFG).toNat / 2 ^ 8 % 4)

/-- The code width (R208: QB). -/
def quantBits (m : BitVec 32) : Nat := if m.getLsbD 16 then 4 else 8

/-- Legend entry j as a value (R108). -/
def legendAt (l : BitVec 256) (j : Nat) : FV := fmtF16.decode (l.toNat / 2 ^ (16 * j) % 2 ^ 16)

/-- Whether a value is positive and finite. -/
def FV.posFin : FV → Bool
  | .fin n m _ => !n && m != 0
  | _ => false

/-- The lowest index of the smallest positive finite Legend entry that satisfies `ok`. -/
def legendLeast (l : BitVec 256) (ok : FV → Bool) : Option Nat :=
  (List.range 16).foldl (fun best j =>
    let v := legendAt l j
    if v.posFin && ok v then
      match best with
      | none => some j
      | some b => if v.lt (legendAt l b) then some j else best
    else best) none

/-- The lowest index of the largest positive finite Legend entry. -/
def legendMost (l : BitVec 256) : Option Nat :=
  (List.range 16).foldl (fun best j =>
    let v := legendAt l j
    if v.posFin then
      match best with
      | none => some j
      | some b => if (legendAt l b).lt v then some j else best
    else best) none

/-- The scale index of a group (R110): the least entry at or above need, or the largest. -/
def scaleIndex (l : BitVec 256) (qb : Nat) (span : FV) : Option Nat :=
  match legendLeast l (fun v => !((FV.mul v (FV.ofInt (2 ^ qb - 1) 0)).1.lt span)) with
  | some j => some j
  | none => legendMost l

/-- x / s rounded to an integer (R110). -/
def roundQuot (rm : BitVec 3) (draw : Nat) (x s : FV) : Int × Bool :=
  let d := x.exp - s.exp
  let num := x.sig.natAbs * 2 ^ d.toNat
  let den := s.sig.natAbs * 2 ^ (-d).toNat
  let (k, nx) := roundRat rm draw x.sign num den
  (if x.sign then -(k : Int) else k, nx)

/-- clamp to 0 .. 2^b - 1, with OF where it changes the value (R110). -/
def clampCode (qb : Nat) (v : Int) : Int × FFlags :=
  if v < 0 then (0, flOF) else if (2 : Int) ^ qb - 1 < v then ((2 : Int) ^ qb - 1, flOF) else (v, 0)

/-- The finite values of a list. -/
def finiteOnly (xs : List FV) : List FV := xs.filter fun v => !v.isNan && !v.isInf

/-- The result of quantising one group (R110, R111): codes, scale index, zero point, flags and whether the group counts
as all-zero. -/
def quantise (l : BitVec 256) (zidx qb : Nat) (r : Rnd) (xs : List FV) : List Nat × Nat × Nat × FFlags × Bool :=
  let zero : FV := .fin false 0 0
  let lo := (finiteOnly xs).foldl (fun a v => if v.lt a then v else a) zero
  let hi := (finiteOnly xs).foldl (fun a v => if a.lt v then v else a) zero
  let nan : FFlags := nvIf (xs.any FV.isNan)
  let zeros := xs.map fun _ => 0
  if lo.isZero && hi.isZero then (zeros, zidx, 0, nan, true)
  else
    match scaleIndex l qb (FV.add false hi lo.negate).1 with
    | none => (zeros, zidx, 0, flNV, true)
    | some j =>
      let s := legendAt l j
      let (z, zf) := clampCode qb (roundQuot 0 0 lo.negate s).1
      let qs := xs.zipIdx.map fun (v, i) =>
        match v with
        | .nan => (z, flNV)
        | .inf n => (if n then 0 else (2 : Int) ^ qb - 1, 0)
        | v =>
          let (k, nx) := roundQuot r.rm (if r.rm = 4 then srBits r.seed i else 0) v s
          let (q, fl) := clampCode qb (k + z)
          (q, fl ||| (if nx then flNX else 0))
      (qs.map (·.1.toNat), j, z.toNat, zf ||| orFlags (qs.map (·.2)), false)

/-- The descriptor of a group (R109). -/
def descriptor (qb j z : Nat) : Nat := if qb = 8 then j * 256 + z else j * 16 + z

/-- Adds one to MSTAT's zero-group count, which saturates (R233). -/
def bumpZgc (m : Word) : Word := if (bits m 48 16 : BitVec 16) = 0xFFFF then m else m + 0x1000000000000

/-- The faults of quant and dqnt (R226, R227, R430). -/
def quantConds (c : Core) (f : Form) (op : BitVec 6) (m : BitVec 32) : List Cond :=
  vecConds c .quant f op false m ++
  (if (c.creg crQCFG).toNat / 2 ^ 8 % 4 = 3 then [condOwn 0x16 1 15 (c.creg crQCFG)] else []) ++
  (if 2048 < quantGroup c * etBits (mET m) ∨ mME m then [condOwn 0x16 2 3 (modeInfo f op m)] else []) ++
  mxConds c [32] ++ ownConds c (.cr (crQCFG.setWidth 8)) 15

/-- quant (R226). It reads the Legend as it stands before its bundle or group, where an mlgd or msfl of the same one writes it (R108;
DESIGN CHOICE, log entry 47). -/
def semVquant (f : Form) (s : State) : Sem :=
  let c := s.core
  let row : OpRow := ⟨.VPM, 13, 0x29, 0, 1, .v .quant true⟩
  let x := fetchArgs row { b := fun c m => 1024 < quantGroup c * etBits (mET m) } f c
  let fm := fmtOf (mET x.m)
  let e := etBits (mET x.m)
  let g := quantGroup c
  let qb := quantBits x.m
  let rm := effRm c x.m
  { block := x.block || (x.nat && c.outstanding x.z), mx := true, conds := x.conds ++ quantConds c f row.op x.m,
    eff := fun s =>
      let r := rndOf s.core rm
      let v := x.b.toNat * 2 ^ 1024 + x.a.toNat
      let xs := (List.range g).map fun i => fm.decode (v / 2 ^ (e * i) % 2 ^ e)
      let (qs, j, z, fl, zg) := quantise c.legend ((c.creg crQCFG).toNat / 2 ^ 12 % 16) qb r xs
      s.onCore fun c =>
        let c := if zg then { c with mstat := bumpZgc c.mstat } else c
        let c := ((c.voidPorts x).putResult x s.now 3 x.y (packLanes qb qs) fl).putResult x s.now 3 x.z
          (BitVec.ofNat 1024 (descriptor qb j z)) 0
        c.seedStep rm }

/-- dqnt (R112, R227). Where q = z the product is a zero of the sign of L[j], with q - z taken as +0 in every rounding mode: the spec gives
that zero no sign (DESIGN CHOICE, log entry 68). -/
def semVdqnt (f : Form) (s : State) : Sem :=
  let c := s.core
  let row : OpRow := ⟨.VPM, 14, 0x2a, 0, 1, .v .quant true⟩
  let x := fetchArgs row {} f c
  let fm := fmtOf (mET x.m)
  let e := etBits (mET x.m)
  let g := quantGroup c
  let qb := quantBits x.m
  let rm := effRm c x.m
  let d := x.b.toNat % 2 ^ (2 * qb)
  let j := d / 2 ^ qb % 16
  let z := d % 2 ^ qb
  { block := x.block || (x.nat && c.outstanding x.z), mx := true, conds := x.conds ++ quantConds c f row.op x.m,
    eff := fun s =>
      let r := rndOf s.core rm
      let ls := (List.range g).map fun i =>
        let (v, nv) := FV.mul (legendAt c.legend j) (FV.ofInt ((laneN qb i x.a : Int) - z) 0)
        let (y, fl) := r.fmt fm v i
        (y, fl ||| nvIf nv)
      let v := ls.foldr (fun p acc => p.1 % 2 ^ e + 2 ^ e * acc) 0
      s.onCore fun c =>
        (((c.voidPorts x).putResult x s.now 3 x.y (BitVec.ofNat 1024 (v % 2 ^ 1024)) (orFlags (ls.map Prod.snd))).putResult
          x s.now 3 x.z (BitVec.ofNat 1024 (v / 2 ^ 1024)) 0).seedStep rm }

end Sys2Proof.Machine
end

