-- ==== Sys2Proof/Machine/Matrix.lean ====
section
/-! DEFINITION. The MTX operations: the matrix configuration, beats in classical, recombined and grouped order, and the
accumulator rows (R107, R113-R118, R231-R241, R430). -/

namespace Sys2Proof.Machine

/-! ## Beat arithmetic -/

/-- An exact value, and whether an invalid case was met on the way to it (R96, R233). -/
abbrev FVn := FV × Bool

/-- The element of a beat operand at line `i` and inner index `k` (R237). -/
def beatElem (et : Nat) (v : Vec) (i k : Nat) : FV :=
  let e := etBits et
  if et < 5 then (fmtOf et).decode (laneN e (32 * k + i) v) else FV.ofInt (laneI (etSigned et) e (32 * k + i) v) 0

/-- The exact sum of two. -/
def fvAdd (a b : FVn) : FVn := let (v, nv) := FV.add false a.1 b.1; (v, nv || a.2 || b.2)

/-- The exact difference of two. -/
def fvSub (a b : FVn) : FVn := fvAdd a (b.1.negate, b.2)

/-- The exact product of two. -/
def fvMul (a b : FVn) : FVn := let (v, nv) := FV.mul a.1 b.1; (v, nv || a.2 || b.2)

/-- The exact sum of products over an inner index (R107, R117). The terms are folded in ascending `k`, so that an invalid case is flagged
where infinities of opposite sign meet before a NaN term does; the spec gives the exact sum no order (DESIGN CHOICE, log entry 46). -/
def fvDot (l r : Nat → FVn) (ks : List Nat) : FVn :=
  ks.foldl (fun acc k => fvAdd acc (fvMul (l k) (r k))) (.fin false 0 0, false)

/-- A pre-added operand element (R116): floating sums are rounded to nearest even into PA, integer sums are exact. -/
def preAdd (et : Nat) (a : FVn) : FVn :=
  if et < 5 then (fmtPA.decode (rndRne.fmt fmtPA a.1 0).1, a.2) else a

/-- The classical sum of element (i, j) (R107). -/
def classicalSum (et : Nat) (a b : Vec) (kc : Nat) (i j : Nat) : FVn :=
  fvDot (fun k => (beatElem et a i k, false)) (fun k => (beatElem et b j k, false)) (List.range kc)

/-- The seven products of the recombined beat at (i, j) of a block (R114-R117); `h` is the inner block size. -/
def product (et : Nat) (a b : Vec) (h : Nat) (t : Nat) (i j : Nat) : FVn :=
  let a11 (k : Nat) : FVn := (beatElem et a i k, false)
  let a12 (k : Nat) : FVn := (beatElem et a i (h + k), false)
  let a21 (k : Nat) : FVn := (beatElem et a (16 + i) k, false)
  let a22 (k : Nat) : FVn := (beatElem et a (16 + i) (h + k), false)
  let b11 (k : Nat) : FVn := (beatElem et b j k, false)
  let b12 (k : Nat) : FVn := (beatElem et b (16 + j) k, false)
  let b21 (k : Nat) : FVn := (beatElem et b j (h + k), false)
  let b22 (k : Nat) : FVn := (beatElem et b (16 + j) (h + k), false)
  let p (x y : Nat → FVn) (k : Nat) : FVn := preAdd et (fvAdd (x k) (y k))
  let m (x y : Nat → FVn) (k : Nat) : FVn := preAdd et (fvSub (x k) (y k))
  let ks := List.range h
  match t with
  | 1 => fvDot (p a11 a22) (p b11 b22) ks
  | 2 => fvDot (p a21 a22) b11 ks
  | 3 => fvDot a11 (m b12 b22) ks
  | 4 => fvDot a22 (m b21 b11) ks
  | 5 => fvDot (p a11 a12) b22 ks
  | 6 => fvDot (m a21 a11) (p b11 b12) ks
  | _ => fvDot (m a12 a22) (p b21 b22) ks

/-- The post-added sum of element (i, j) of the whole tile (R115, R117). -/
def recombinedSum (et : Nat) (a b : Vec) (h : Nat) (i j : Nat) : FVn :=
  let q (t : Nat) : FVn := product et a b h t (i % 16) (j % 16)
  if i < 16 then
    if j < 16 then fvAdd (fvSub (fvAdd (q 1) (q 4)) (q 5)) (q 7) else fvAdd (q 3) (q 5)
  else if j < 16 then fvAdd (q 2) (q 4)
  else fvAdd (fvAdd (fvSub (q 1) (q 2)) (q 3)) (q 6)

/-- The grouped sum of element (i, j), scaled (R113). -/
def groupedSum (et : Nat) (a b : Vec) (legend : BitVec 256) (da db : Nat → BitVec 16) (kc : Nat) (i j : Nat) : FVn :=
  let e := etBits et
  let z (d : BitVec 16) : Int := if et = 10 then (d.toNat % 256 : Nat) else (d.toNat % 16 : Nat)
  let ix (d : BitVec 16) : Nat := if et = 10 then d.toNat / 256 % 16 else d.toNat / 16 % 16
  let sum : Int := (List.range kc).foldl (fun acc k =>
    acc + ((laneN e (32 * k + i) a : Int) - z (da i)) * ((laneN e (32 * k + j) b : Int) - z (db j))) 0
  let c := fvMul (legendAt legend (ix (da i)), false) (legendAt legend (ix (db j)), false)
  fvMul (FV.ofInt sum 0, false) c

/-- An accumulator element updated by an exact contribution (R107): an exact zero leaves it. -/
def accUpdate (r : Rnd) (old : Nat) (v : FVn) (idx : Nat) : Nat × FFlags :=
  if v.1.isZero then (old, nvIf v.2)
  else
    let (x, nv) := FV.add r.dn (fmtF32.decode old) v.1
    let (y, fl) := r.fmt fmtF32 x idx
    (y, fl ||| nvIf (nv || v.2))

/-- A beat: every element of the accumulator, as it stood before the bundle, updated, with the flags (R78, R107, R238). -/
def beat (old c : Core) (sum : Nat → Nat → FVn) : Core :=
  let rm := c.fmodeRm
  let r := rndOf c rm
  let rows := (List.range 32).map fun i => (List.range 32).map fun j =>
    accUpdate r (laneN 32 j (old.acc.get (BitVec.ofNat 5 i))) (sum i j) (32 * i + j)
  let c := { c with acc := Vector.ofFn fun i => packLanes 32 ((rows.getD i.val []).map Prod.fst) }
  (c.orMstat (orFlags (rows.map fun l => orFlags (l.map Prod.snd)))).seedStep rm

/-! ## The operations -/

/-- An MTX operation that changes the matrix state in issue order (R231); the items that it writes whole are correct from then on
(R395). -/
def semMx (row : OpRow) (use : Use) (conds : Args → List Cond) (g : Args → Core → Core) (f : Form) (s : State)
    (whole : Args → List Nat := fun _ => []) : Sem :=
  let x := fetchArgs row use f s.core
  { block := x.block, conds := x.conds ++ conds x, mx := true, eff := fun t => (effNone x t).onCore fun c => (g x c).mxRepair (whole x) }

/-- The newest producer of a core is a matrix read (R397). -/
def Core.markMatrixRead (c : Core) : Core :=
  { c with outst := c.outst.map fun o => if o.no = c.ops then { o with matrix := true } else o }

/-- An MTX operation that reads the matrix state as it stood before its bundle: a long-latency producer of 4 cycles (R78, R231). -/
def semMxRead (row : OpRow) (use : Use) (v : Args → Core → Vec) (items : Args → List Nat) (f : Form) (s : State) : Sem :=
  let x := fetchArgs row use f s.core
  { block := x.block, conds := x.conds ++ mxConds s.core (items x), mx := true
    eff := fun t => (effProduce x 4 (v x s.core) 0 t).onCore Core.markMatrixRead }

/-- MCFG with RES0 bits stored as 0 (R234, R235). -/
def semMcfg (f : Form) (s : State) : Sem :=
  semMx ⟨.MTX, 4, 0x01, 0, 1, .xs false .scal⟩ { b := noB } (fun _ => [])
    (fun x c => { c with mcfg := x.a64 &&& 0xFFFFFFFFFFFFFF03 }) f s (fun _ => [34])

/-- mcfgr (R235). -/
def semMcfgr (f : Form) (s : State) : Sem :=
  semMxRead ⟨.MTX, 5, 0x02, 0, 1, .xs true .none⟩ { a := false, b := noB } (fun _ c => wide c.mcfg) (fun _ => [34]) f s

/-- mlgd (R235). -/
def semMlgd (f : Form) (s : State) : Sem :=
  semMx ⟨.MTX, 6, 0x03, 0, 1, .xs false .vec⟩ { b := noB } (fun _ => [])
    (fun x c => { c with legend := x.a.setWidth 256 }) f s (fun _ => [32])

/-- mlgs (R235). -/
def semMlgs (f : Form) (s : State) : Sem :=
  semMxRead ⟨.MTX, 7, 0x04, 0, 1, .xs true .none⟩ { a := false, b := noB } (fun _ c => c.legend.setWidth 1024) (fun _ => [32]) f s

/-- mdsc (R235): the plane is b[0], or D. -/
def semMdsc (f : Form) (s : State) : Sem :=
  let c0 := s.core
  semMx ⟨.MTX, 8, 0x05, 0, 1, .mdsc⟩ {}
    (fun x => mxConds c0 [34] ++ if x.a64.toNat % 16 ≠ 0 then [condOwn 0x16 5 4 x.a64] else [])
    (fun x c =>
      let tid : BitVec 8 := x.a.extractLsb' 64 8
      let gpl : BitVec 12 := x.a.extractLsb' 72 12
      let m := c.mcfg
      let c := if x.b64.getLsbD 0 then
          { c with dscb := x.a64, mcfg := (m &&& ~~~(0xFFF000FF0000 : Word)) ||| (gpl.setWidth 64 <<< 36) ||| (tid.setWidth 64 <<< 16) }
        else { c with dsca := x.a64, mcfg := (m &&& ~~~(0xFFF00FF00 : Word)) ||| (gpl.setWidth 64 <<< 24) ||| (tid.setWidth 64 <<< 8) }
      { c with descCache := c.descCache.filter fun e => e.tid != tid }) f s (fun x => [if x.b64.getLsbD 0 then 36 else 35])

/-- mzero (R235). -/
def semMzero (f : Form) (s : State) : Sem :=
  semMx ⟨.MTX, 9, 0x06, 0, 1, .xs false .none⟩ { a := false, b := noB } (fun _ => [])
    (fun _ c => { c with acc := RF.fill 0 }) f s (fun _ => accItems)

/-- mstc (R235). -/
def semMstc (f : Form) (s : State) : Sem :=
  semMx ⟨.MTX, 14, 0x0b, 0, 1, .xs false .none⟩ { a := false, b := noB } (fun _ => [])
    (fun _ c => { c with mstat := c.mstat &&& 0x0000FFFFFFFFFF00 }) f s

/-- The reserved dynamic rounding mode of a beat (R71, R425 CODE 0x0005), and the data errors of FMODE and SEED, which it reads (R395). -/
def beatRmConds (c : Core) : List Cond :=
  (if 5 ≤ c.fmodeRm.toNat then [condOperand 5 15 (c.creg crFMODE)] else []) ++ roundConds c 0x1C0 0

/-- mbeat (R238): classical where mode bit 16 is set, else recombined. -/
def semMbeat (f : Form) (s : State) : Sem :=
  let c0 := s.core
  semMx ⟨.MTX, 10, 0x07, 0, 1, .xb false⟩ {}
    (fun x => (if [1, 2, 3, 4, 9, 10, 11, 12].contains (mET x.m) then [] else [condReserved 3 (x.m.setWidth 64)]) ++ beatRmConds c0 ++
      mxConds c0 accItems)
    (fun x c =>
      let et := mET x.m
      let kc := 16 / etBits et
      beat c0 c (if x.m.getLsbD 16 then classicalSum et x.a x.b kc else recombinedSum et x.a x.b kc)) f s

/-- The group size a GSZ field stands for (R234). -/
def gszGroup (g : Nat) : Nat := 32 * 2 ^ g

/-- Fields of MCFG (R234). -/
def mcfgKpos (m : Word) : Nat := (bits m 48 16 : BitVec 16).toNat
def mcfgGpl (m : Word) (b : Bool) : Nat := (bits m (if b then 36 else 24) 12 : BitVec 12).toNat
def mcfgTid (m : Word) (b : Bool) : BitVec 8 := bits m (if b then 16 else 8) 8

/-- The group a grouped beat stands in. -/
def beatGroup (m : Word) : Nat := mcfgKpos m / gszGroup (m.toNat % 4)

/-- The descriptor-cache entry of a plane's group (R236). -/
def Core.descOf (c : Core) (b : Bool) (g : Nat) : Option DescEntry :=
  c.descCache.find? fun e => e.tid == mcfgTid c.mcfg b && e.group == BitVec.ofNat 16 g

/-- The address of the descriptor of line `r` and group `g` of a plane (R109, R239). -/
def Core.descAddr (c : Core) (b : Bool) (g w r : Nat) : Word :=
  (if b then c.dscb else c.dsca) + BitVec.ofNat 64 ((r * (mcfgGpl c.mcfg b + 1) + g) * w)

/-- What reading the 32 descriptors of a plane's group finds (R236): the first failed translation or uncorrectable
descriptor, a held read, or the entry with the state after the reads. -/
inductive DescRead where
  | cond (k : Cond)
  | held
  | entry (ds : List (BitVec 16)) (s : State)
  deriving Repr

/-- Reads the descriptors of lines `r` of a plane's group through the core's L1 (R236). -/
def readDescs (s : State) (n : CoreNo) (b : Bool) (g w : Nat) : List Nat → DescRead
  | [] => .entry [] s
  | r :: rest =>
    let c := s.coreAt n
    let a := c.descAddr b g w r
    match translateRange s n c.tenant c.priv a w .read with
    | .error e => .cond (condPage .read e)
    | .ok (runs, es) =>
      match performRead (s.keepTlb n es) n
          { pieces := piecesOf runs 0 a, base := 0, sext := none } with
      | none => .held
      | some (_, _, some _) => .cond ⟨8, 0x30, 7, 4, a, 0⟩
      | some (s', v, none) =>
        match readDescs s' n b g w rest with
        | .entry ds s'' => .entry (v.setWidth 16 :: ds) s''
        | o => o

/-- Puts an entry at the front of the descriptor cache, which keeps the 64 used last (R236). -/
def Core.useDesc (c : Core) (e : DescEntry) : Core :=
  { c with descCache := (e :: c.descCache.filter fun x => !(x.tid == e.tid && x.group == e.group)).take 64 }

/-- The descriptor width of a grouped format: 2 bytes for INT8, 1 for INT4 (R239). -/
def descWidth (et : Nat) : Nat := if et = 10 then 2 else 1

/-- What an absent descriptor-cache entry does to a beat: a failed fill stops it, else it waits (R236, R430). -/
def descWait (s : State) (b : Bool) (g w : Nat) : Bool × List Cond :=
  match s.core.descOf b g with
  | some _ => (false, [])
  | none => match readDescs s s.cur b g w (List.range 32) with
    | .cond k => (false, [k])
    | _ => (true, [])

/-- The descriptor cache with an entry that it holds as the one used last (R236). -/
def Core.touchDesc (c : Core) (e : DescEntry) : Core := if c.descCache.contains e then c.useDesc e else c

/-- mbeatq (R113, R239): its sources are the Legend, the descriptors and KPOS as they stood before its bundle (R78). -/
def semMbeatq (f : Form) (s : State) : Sem :=
  let c := s.core
  let x := fetchArgs ⟨.MTX, 11, 0x08, 0, 1, .xb true⟩ {} f c
  let et := mET x.m
  let ok := et = 10 || et = 12
  let kc := 16 / etBits et
  let m := c.mcfg
  let g := beatGroup m
  let own := (if ok then [] else [condReserved 3 (x.m.setWidth 64)]) ++ beatRmConds c ++
    (if m.toNat % 4 = 3 then [condOwn 0x16 1 15 m] else []) ++
    (if ok && mcfgKpos m % kc ≠ 0 then [condOwn 0x16 3 15 m] else []) ++
    (if mcfgGpl m false < g ∨ mcfgGpl m true < g then [condOwn 0x16 4 15 m] else [])
  let w := descWidth et
  let wait := if own.isEmpty && x.conds.isEmpty then [descWait s false g w, descWait s true g w] else []
  { block := x.block
    fills := wait.any Prod.fst && !(wait.any fun k => !k.2.isEmpty)
    conds := x.conds ++ mxConds c (accItems ++ imageItems) ++ own ++ wait.flatMap Prod.snd
    mx := true
    eff := fun t => match c.descOf false g, c.descOf true g with
      | some da, some db => (effNone x t).onCore fun d =>
        let d := beat c d (groupedSum et x.a x.b c.legend (fun i => da.desc.getD i 0) (fun j => db.desc.getD j 0) kc)
        let d := (d.touchDesc da).touchDesc db
        { d with mcfg := (d.mcfg &&& 0x0000FFFFFFFFFFFF) ||| ((BitVec.ofNat 16 (mcfgKpos m + kc)).setWidth 64 <<< 48),
                 mstat := d.mstat ||| 0x80 }
      | _, _ => t }

/-- mdrn: the row is a[4:0], or ROW (R240). -/
def semMdrn (f : Form) (s : State) : Sem :=
  semMxRead ⟨.MTX, 12, 0x09, 0, 1, .xr true⟩ { b := noB } (fun x c => c.acc.get (bits x.a 0 5))
    (fun x => [(bits x.a 0 5 : BitVec 5).toNat]) f s

/-- mfil: the row is b[4:0], or ROW (R240). -/
def semMfil (f : Form) (s : State) : Sem :=
  semMx ⟨.MTX, 13, 0x0a, 0, 1, .xr false⟩ {} (fun _ => [])
    (fun x c => { c with acc := c.acc.put (bits x.b 0 5) x.a }) f s (fun x => [(bits x.b 0 5 : BitVec 5).toNat])

end Sys2Proof.Machine
end

