-- ==== Sys2Proof/Machine/Scalar.lean ====
section
/-! DEFINITION. Integer and bit operations (R171-R180). -/

namespace Sys2Proof.Machine

/-! ## Values -/

/-- `min(b, 63)` of a shift count (R178). -/
def shiftCount (b : Word) : Nat := min b.toNat 63

/-- The signed quotient, truncated toward zero; b = 0 gives all ones, and the most negative value over -1 gives itself
(R174, R175). -/
def divS (a b : Word) : Word := if b = 0 then BitVec.allOnes 64 else BitVec.ofInt 64 (a.toInt.tdiv b.toInt)

/-- The unsigned quotient (R174, R175). -/
def divU (a b : Word) : Word := if b = 0 then BitVec.allOnes 64 else BitVec.ofNat 64 (a.toNat / b.toNat)

/-- The signed remainder: a less b times the quotient; b = 0 gives a (R174, R175). -/
def remS (a b : Word) : Word := if b = 0 then a else a - b * divS a b

/-- The unsigned remainder (R174, R175). -/
def remU (a b : Word) : Word := if b = 0 then a else BitVec.ofNat 64 (a.toNat % b.toNat)

/-- Sign-extends the low 32 bits (R174). -/
def sext32 (x : Word) : Word := (x.setWidth 32).signExtend 64

/-- The comparison codes of cmp: eq, ne, lt, ge, ltu, geu (R176). -/
def cmpCode (code : BitVec 3) (a b : Word) : Bool :=
  match code with
  | 0 => a = b
  | 1 => a ≠ b
  | 2 => a.toInt < b.toInt
  | 3 => b.toInt ≤ a.toInt
  | 4 => a.toNat < b.toNat
  | _ => b.toNat ≤ a.toNat

/-- The width of a field operation after the cut at bit 63 (R179). -/
def fieldWidth (off w : Nat) : Nat := if 64 ≤ off then 0 else min w (64 - off)

/-- The zero-extended field (R179). -/
def extractU (a : Word) (off w : Nat) : Word :=
  let w' := fieldWidth off w
  BitVec.ofNat 64 (a.toNat / 2 ^ off % 2 ^ w')

/-- The sign-extended field (R179). -/
def extractS (a : Word) (off w : Nat) : Word :=
  let w' := fieldWidth off w
  if w' = 0 then 0 else ((extractU a off w <<< (64 - w')).sshiftRight (64 - w'))

/-- The base with the field replaced by the low bits of a (R179). -/
def insertField (base a : Word) (off w : Nat) : Word :=
  let w' := fieldWidth off w
  if w' = 0 then base
  else
    let mask : Word := BitVec.ofNat 64 (2 ^ w' - 1) <<< off
    (base &&& ~~~mask) ||| ((a <<< off) &&& mask)

/-- How many bits of the low `n` are set. -/
def popcount (a : Word) : Nat → Nat
  | 0 => 0
  | n + 1 => (if a.getLsbD n then 1 else 0) + popcount a n

/-- The leading zeros of the low `n` bits. -/
def leadingZeros (a : Word) : Nat → Nat
  | 0 => 0
  | n + 1 => if a.getLsbD n then 0 else 1 + leadingZeros a n

/-- The trailing zeros from bit `i` up, over `n` bits. -/
def trailingZeros (a : Word) : Nat → Nat → Nat
  | _, 0 => 0
  | i, n + 1 => if a.getLsbD i then 0 else 1 + trailingZeros a (i + 1) n

/-- cnt: 0 population count, 1 leading zeros, 2 trailing zeros (R180). -/
def countBits (fn : Nat) (a : Word) : Word :=
  BitVec.ofNat 64 (match fn with | 0 => popcount a 64 | 1 => leadingZeros a 64 | _ => trailingZeros a 0 64)

/-- Byte i to byte 7 - i (R180). -/
def byteSwap (a : Word) : Word :=
  (byteOf a 0 ++ byteOf a 1 ++ byteOf a 2 ++ byteOf a 3 ++ byteOf a 4 ++ byteOf a 5 ++ byteOf a 6 ++ byteOf a 7 : BitVec 64)

/-- The offset and width a field operation reads: native code packs both in b, Wyilo has the width in c (R161, R179). -/
def fieldArgs (x : Args) : Nat × Nat :=
  ((bits x.b64 0 8 : BitVec 8).toNat, if x.nat then (bits x.b64 8 8 : BitVec 8).toNat else (bits x.c64 0 8 : BitVec 8).toNat)

/-! ## The operations -/

/-- An operation whose value hangs on its 64-bit operands alone, with its latency (R77, R171-R173). -/
def semValue (row : OpRow) (use : Use) (lat : Nat) (val : Args → Word) (f : Form) (s : State) : Sem :=
  let x := fetchArgs row use f s.core
  { block := x.block, conds := x.conds, eff := effY x lat (wide (val x)) }

/-- Whether a field operation is in Wyilo form, where its width lies in the .c latch (R179). -/
def isWy (f : Form) : Bool :=
  match f with
  | .wy _ => true
  | .nat .. => false

/-- What the field operations read: c only in Wyilo (R179). -/
def useField (f : Form) : Use := { c := isWy f }

/-- add (R174). -/
def semAdd (f : Form) (s : State) : Sem :=
  semValue ⟨.INT, 4, 0x1, 0, 1, .sr .sreg true .any⟩ {} 1 (fun x => x.a64 + x.b64) f s

/-- sub (R174). -/
def semSub (f : Form) (s : State) : Sem :=
  semValue ⟨.INT, 5, 0x2, 0, 1, .sr .sreg true .any⟩ {} 1 (fun x => x.a64 - x.b64) f s

/-- mul: the low 64 bits of the product, L = 3 (R77, R174). -/
def semMul (f : Form) (s : State) : Sem :=
  semValue ⟨.INT, 6, 0x3, 0, 1, .sr .sreg true .any⟩ {} 3 (fun x => x.a64 * x.b64) f s

/-- mulh: the high 64 bits of the signed product (R174). -/
def semMulh (f : Form) (s : State) : Sem :=
  semValue ⟨.INT, 7, 0x4, 0, 1, .sr .sreg true .any⟩ {} 3 (fun x => BitVec.ofInt 64 (x.a64.toInt * x.b64.toInt / 2 ^ 64)) f s

/-- mulhu: the high 64 bits of the unsigned product (R174). -/
def semMulhu (f : Form) (s : State) : Sem :=
  semValue ⟨.INT, 8, 0x5, 0, 1, .sr .sreg true .any⟩ {} 3 (fun x => BitVec.ofNat 64 (x.a64.toNat * x.b64.toNat / 2 ^ 64)) f s

/-- div (R174, R175). -/
def semDiv (f : Form) (s : State) : Sem :=
  semValue ⟨.INT, 9, 0x6, 0, 1, .sr .sreg true .any⟩ {} 1 (fun x => divS x.a64 x.b64) f s

/-- divu (R174, R175). -/
def semDivu (f : Form) (s : State) : Sem :=
  semValue ⟨.INT, 10, 0x7, 0, 1, .sr .sreg true .any⟩ {} 1 (fun x => divU x.a64 x.b64) f s

/-- rem (R174, R175). -/
def semRem (f : Form) (s : State) : Sem :=
  semValue ⟨.INT, 11, 0x8, 0, 1, .sr .sreg true .any⟩ {} 1 (fun x => remS x.a64 x.b64) f s

/-- remu (R174, R175). -/
def semRemu (f : Form) (s : State) : Sem :=
  semValue ⟨.INT, 12, 0x9, 0, 1, .sr .sreg true .any⟩ {} 1 (fun x => remU x.a64 x.b64) f s

/-- min, signed (R174). -/
def semImin (f : Form) (s : State) : Sem :=
  semValue ⟨.INT, 13, 0xa, 0, 1, .sr .sreg true .any⟩ {} 1 (fun x => if x.a64.toInt ≤ x.b64.toInt then x.a64 else x.b64) f s

/-- max, signed (R174). -/
def semImax (f : Form) (s : State) : Sem :=
  semValue ⟨.INT, 14, 0xb, 0, 1, .sr .sreg true .any⟩ {} 1 (fun x => if x.b64.toInt ≤ x.a64.toInt then x.a64 else x.b64) f s

/-- minu (R174). -/
def semMinu (f : Form) (s : State) : Sem :=
  semValue ⟨.INT, 15, 0xc, 0, 1, .sr .sreg true .any⟩ {} 1 (fun x => if x.a64.toNat ≤ x.b64.toNat then x.a64 else x.b64) f s

/-- maxu (R174). -/
def semMaxu (f : Form) (s : State) : Sem :=
  semValue ⟨.INT, 16, 0xd, 0, 1, .sr .sreg true .any⟩ {} 1 (fun x => if x.b64.toNat ≤ x.a64.toNat then x.a64 else x.b64) f s

/-- abs (R174, R175); operand b is not read. -/
def semIabs (f : Form) (s : State) : Sem :=
  semValue ⟨.INT, 17, 0xe, 0, 1, .sr .sreg true .none⟩ { b := noB } 1 (fun x => if x.a64.toInt < 0 then -x.a64 else x.a64) f s

/-- addw (R174). -/
def semAddw (f : Form) (s : State) : Sem :=
  semValue ⟨.INT, 18, 0xf, 0, 1, .sr .sreg true .any⟩ {} 1 (fun x => sext32 (x.a64 + x.b64)) f s

/-- subw (R174). -/
def semSubw (f : Form) (s : State) : Sem :=
  semValue ⟨.INT, 19, 0x10, 0, 1, .sr .sreg true .any⟩ {} 1 (fun x => sext32 (x.a64 - x.b64)) f s

/-- mulw (R174), an INT multiply of L = 3 (R77). -/
def semMulw (f : Form) (s : State) : Sem :=
  semValue ⟨.INT, 20, 0x11, 0, 1, .sr .sreg true .any⟩ {} 3 (fun x => sext32 (x.a64 * x.b64)) f s

/-- lea: a + (b << c[1:0]) (R177). -/
def semLea (f : Form) (s : State) : Sem :=
  semValue ⟨.INT, 21, 0x12, 0, 1, .lea⟩ { c := true } 1 (fun x => x.a64 + (x.b64 <<< (x.c64.toNat % 4))) f s

/-- sel: c[0] ? a : b (R177). -/
def semSel (f : Form) (s : State) : Sem :=
  semValue ⟨.INT, 23, 0x14, 0, 1, .sel⟩ { c := true } 1 (fun x => if x.c64.getLsbD 0 then x.a64 else x.b64) f s

/-- and (R178). -/
def semBitAnd (f : Form) (s : State) : Sem :=
  semValue ⟨.BIT, 4, 0x18, 0, 1, .sr .sreg true .any⟩ {} 1 (fun x => x.a64 &&& x.b64) f s

/-- The source of the carrying form `or d, a, s0` with X = 0 (R396). -/
def carryS (f : Form) : Option Dst :=
  match f with
  | .nat _ _ _ (.sr _ a b 0) => if (bits b 0 6 : BitVec 6) = 0 then some (.s (bits a 0 6)) else none
  | _ => none

/-- or (R178); `or d, a, s0` carries a tag (R396). -/
def semBitOr (f : Form) (s : State) : Sem :=
  (semValue ⟨.BIT, 5, 0x19, 0, 1, .sr .sreg true .any⟩ {} 1 (fun x => x.a64 ||| x.b64) f s).carry s.core
    (fetchArgs ⟨.BIT, 5, 0x19, 0, 1, .sr .sreg true .any⟩ {} f s.core) 1 (carryS f)

/-- xor (R178). -/
def semBitXor (f : Form) (s : State) : Sem :=
  semValue ⟨.BIT, 6, 0x1a, 0, 1, .sr .sreg true .any⟩ {} 1 (fun x => x.a64 ^^^ x.b64) f s

/-- shl: 0 from a count of 64 up (R178). -/
def semShl (f : Form) (s : State) : Sem :=
  semValue ⟨.BIT, 7, 0x1b, 0, 1, .sr .sreg true .any⟩ {} 1 (fun x => if 64 ≤ x.b64.toNat then 0 else x.a64 <<< x.b64.toNat) f s

/-- shr: 0 from a count of 64 up (R178). -/
def semShr (f : Form) (s : State) : Sem :=
  semValue ⟨.BIT, 8, 0x1c, 0, 1, .sr .sreg true .any⟩ {} 1 (fun x => if 64 ≤ x.b64.toNat then 0 else x.a64 >>> x.b64.toNat) f s

/-- sar (R178). -/
def semSar (f : Form) (s : State) : Sem :=
  semValue ⟨.BIT, 9, 0x1d, 0, 1, .sr .sreg true .any⟩ {} 1 (fun x => x.a64.sshiftRight (shiftCount x.b64)) f s

/-- rotr by b[5:0] (R178). -/
def semRotr (f : Form) (s : State) : Sem :=
  semValue ⟨.BIT, 10, 0x1e, 0, 1, .sr .sreg true .any⟩ {} 1 (fun x => x.a64.rotateRight (x.b64.toNat % 64)) f s

/-- extu (R179). -/
def semExtu (f : Form) (s : State) : Sem :=
  semValue ⟨.BIT, 11, 0x1f, 0, 1, .sr .sreg true .any⟩ (useField f) 1 (fun x => extractU x.a64 (fieldArgs x).1 (fieldArgs x).2) f s

/-- exts (R179). -/
def semExts (f : Form) (s : State) : Sem :=
  semValue ⟨.BIT, 12, 0x20, 0, 1, .sr .sreg true .any⟩ (useField f) 1 (fun x => extractS x.a64 (fieldArgs x).1 (fieldArgs x).2) f s

/-- ins: its base is s[D], or the own .y port in Wyilo (R179). -/
def semInsf (f : Form) (s : State) : Sem :=
  semValue ⟨.BIT, 13, 0x21, 0, 1, .sr .sreg true .any⟩ { c := isWy f, base := fun _ _ => true } 1 (fun x => insertField (x.base.setWidth 64) x.a64 (fieldArgs x).1 (fieldArgs x).2) f s

/-- bswap; operand b is not read (R180). -/
def semBswap (f : Form) (s : State) : Sem :=
  semValue ⟨.BIT, 15, 0x23, 0, 1, .sr .sreg true .none⟩ { b := noB } 1 (fun x => byteSwap x.a64) f s

/-- cmp: the condition of mode bits 18:16 into .y, or into p[P] in native code; codes 6 and 7 are reserved (R176). -/
def semCmp (f : Form) (s : State) : Sem :=
  let x := fetchArgs ⟨.INT, 22, 0x13, 0, 1, .sk⟩ {} f s.core
  let code : BitVec 3 := bits x.m 16 3
  { block := x.block,
    conds := x.conds ++ (if 6 ≤ code.toNat then [condReserved 3 (x.m.setWidth 64)] else []),
    eff := effY x 1 (BitVec.ofNat 1024 (cmpCode code x.a64 x.b64).toNat) }

/-- cmpn, native only: the negation of the condition C into p[P] (R161, R176). -/
def semCmpn (f : Form) (s : State) : Sem :=
  let x := fetchArgs ⟨.INT, 0, 0x15, 0, 1, .sk⟩ {} f s.core
  { block := x.block, conds := x.conds,
    eff := effY x 1 (BitVec.ofNat 1024 (!cmpCode (bits x.m 16 3) x.a64 x.b64).toNat) }

/-- cnt: the function is b, and above 2 reserved (R180). -/
def semCnt (f : Form) (s : State) : Sem :=
  let x := fetchArgs ⟨.BIT, 14, 0x22, 0, 1, .sr .sreg true .cnt⟩ {} f s.core
  let fn : BitVec 8 := bits x.b64 0 8
  { block := x.block,
    conds := x.conds ++ (if 2 < fn.toNat then [condReserved 1 x.b64] else []),
    eff := effY x 1 (wide (countBits fn.toNat x.a64)) }

end Sys2Proof.Machine
end

