-- ==== Sys2Proof/Machine/SfnTables.lean ====
section
/-! DEFINITION. The coefficient tables of the special functions, generated by R122 from the functions of R123. -/

namespace Sys2Proof.Machine

/-- The three coefficients of a table entry: C0, C1 and C2 (R121). -/
structure Coef where
  c0 : Nat
  c1 : Int
  c2 : Int
  deriving DecidableEq, Repr

/-- Unpacks an entry of 84 bits: C0 in bits 30:0, C1 in 62:31, C2 in 82:63. -/
def Coef.ofNat (n : Nat) : Coef :=
  let b : Nat := n / 2 ^ 31 % 2 ^ 32
  let c : Nat := n / 2 ^ 63 % 2 ^ 20
  { c0 := n % 2 ^ 31, c1 := if b < 2 ^ 31 then (b : Int) else (b : Int) - 2 ^ 32,
    c2 := if c < 2 ^ 19 then (c : Int) else (c : Int) - 2 ^ 20 }

/-- Entry `j` of a table held as eight words of 32 entries. -/
def tableAt (t : List Nat) (j : Nat) : Coef := Coef.ofNat (t.getD (j / 32) 0 / 2 ^ (84 * (j % 32)) % 2 ^ 84)

/-- 2^((j + t)/256) (R123). -/
def tabExp2 : List Nat :=
  [0x85f0181f70f22cd48a9008598180ebe422b5319100853817fe171a29d2b270084e017ed7b82285355d00848017dceb6226d502a00842817cc66ba2557b810083c817bbed8223db75700837017ab7fb222603a0008310179b1d4220e60520082b8178ac6221f6cd60008260177a7a5a1df4ac0008208176a39da1c7d8660081a8175a04921b076460081501749da8a19924570080f81739bbb2181e28c0080a01729a80216ab0da00804817199f721538f36007fe81709a1fa13c7d96007f9016f9af921257bed007f3816e9c83210e8a31007ee016d9ebda0f7a857007e8816ca1a7a0e0d654007e3016ba54120ca141c007de016aa98920b361a6007d88169ae7f209cbee6007d30168b42320862bd1007cd8167ba74206fa85c007c80166c172a059347d007c28165c91d2042d028007bd8164d173202c7b54007b80163da75201635f5007b28162e421a0000000,
   0x92101a4e5dca5f3a4950091b01a3c28325d95f520091481a29ff3a5bf2c3f0090e01a17e2ca5a50b4e0090801a05d2ea58afc7300901819f3cf8a570ffa2008fb819e1d8a255714ce008f5019cfee2a53d3bea008ef019be101252374eb008e9019ac3e62509bfc4008e28199a79024f01c68008dc81988bff24d68acc008d68197713224bd0ae2008d08196572924a39c9f008ca01953de3248a3ff7008c4019425602470f4dd008be01930d9f2457bb45008b80191f69fa43e9323008b20190e061a4257c6b008ac018fcae4240c7711008a6018eb626a3f38308008a0018da228a3daa0460089a018c8ee9a3c1cebd00894018b7c6923a90e630088e018a6aa723905f2a00888018959a22377c108008820188495a235f33f00087c818739cf2346b7d70087681862affa32e4cb00087081851ceba315f2710086b01840f92a2fda90d00865018302f3a2e57079,
   0x9f481cafe0ea962fbd5009ee01c9c056a94655e2009e701c8837aa929c3c3009e001c7477a290d456c009d901c60c53a8f0dacd009d281c4d20828d483da009cb81c39895a8b84085009c501c25ffc289c10c1009be01c1283b287ff47f009b781bff1522863ebb3009b081bebb402847f64e009aa01bd8604a82c1444009a301bc519fa81045870099c81bb1e0fa7f48a090099601b9eb54a7d8e1be0098f01b8b96e27bd4c980098881b7885b27a1ca8a0098201b6581ba7865b860097b81b528aea76aff800097501b3fa13a74fb66a0096e81b2cc49a73480370096801b19f5127195cda0096181b07328a6fe4c460095b01af47d026e34e6e0095481ae1d4726c863460094e01acf38c26ad8abf0094781abca9fa692c4ce0094101aaa280a67811650093a81a97b2ea65d70770093401a854a8a642e1f90092e01a72eef262865dc0092781a60a00a60dfc14,
   0xadb81f488e72d21e96300ad401f32e6dad02aba900acc81f1d4e3ace3838e00ac501f07c492cc4710500abd81ef249d2ca573fd00ab601edcddf2c868c6a00aae81ec780e2c67ba3a00aa701eb2329ac48fd6000aa001e9cf31ac2a55ce00a9881e87c24ac0bc37300a9101e72a022bed464200a8a01e5d8ca2bcede2b00a8281e4887b2bb08b2100a7b01e339152b924d1500a7401e1ea972b7423f700a6c81e09d012b560fbb00a6581df5051ab38105000a5e81de0488ab1a25a900a5701dcb9a52afc4fb800a5001db6fa6aade8e6d00a4901da268caac0e1bc00a4181d8de56aaa3499500a3a81d79703aa85c5ea00a3381d650932a6856ad00a2c81d50b04aa4afbd000a2581d3c657aa2db54600a1e81d2828b2a1082ff00a1781d13f9f29f364ed00a1081cffd9229d65b0400a0981cebc64a9b9653400a0281cd7c15299c8370009fb81cc3ca3a97fb5aa,
   0xbd70221d648b137a14900bce82205c7331158fb300bc6821ee3a330f395b200bbe821d6bd830d1b33700bb6021bf51130afe82f00bae021a7f4db08e348c00ba602190a8d306c983d00b9e021796ce304b133300b9602162410b029a55c00b8e0214b25430084ea800b86021341972fe70f0900b7e0211d1d9afc5e66e00b760210631aafa4d4c600b6e020ef5592f83da0200b66020d88952f62f61300b5e020c1ccdaf4228e800b56820ab2022f21727100b4e82094831af00d2a000b468207df5baee0496300b3f0206777f2ebfd6ad00b370205109bae9f7a6c00b2f8203aab12e7f349100b27820245be2e5f050e00b200200e1c22e3eebd200b1801ff7ebc2e1ee8ce00b1081fe1cacadfefbf300b0901fcbb91addf253100b0101fb5b6badbf647900af981f9fc392d9fb9bc00af201f89df9ad8024ea00aea81f740acad60a5f500ae301f5e4512d413ccd,
   0xce902533d5135abfe7400ce00251a1493586d78000cd78250065eb561ca4200cce824e6c90b53cd6ab00cc5824cd3de3517fca800cbc824b3c4634f33c2600cb40249a5c934ce951600cab02481064b4aa076400ca282467c19b485930100c998244e8e5b46137d900c91024356c9343cf5db00c880241c5c33418ccf700c7f824035d2b3f4bd1a00c77023ea6f6b3d0c63400c6e023d192f33ace83300c65823b8c7b3389230500c5d023a00d93365769b00c5482387649b341e2e200c4c0236eccab31e67c900c438235645cb2fb054000c3b0233dcfdb2d7bb3500c32823256ae32b4899800c2a0230d16cb291705700c21822f4d38326e6f6200c19022dca10b24b86a700c11022c47f5b228b61700c08822ac6e53205fda000c00022946dfb1e35d3200bf80227c7e3b1c0d4bc00bef822649f1319e642d00be78224cd06b17c0b7600bdf022351243159ca84,
   0xe1482891d013a8791d600e0a82875baeba5f0e1000e0102859b933a36a65600df70283dcadba0e5a9400ded82821efdb9e62ab700de40280628239be16ab00dda027ea73a39961e5d00dd0827ced25396e41ba00dc7027b3442394680af00dbd82797c90b91edb2800db40277c60f38f7511300daa827610bd38cfe25d00da102745c9a38a88ef200d978272a9a4b88156c000d8e8270f7dcb85a39b400d85026f4740b83337bb00d7b826d97d0380c50c300d72026be98ab7e584b800d69026a3c6eb7bed38800d5f8268907bb7983d2100d568266e5b13771c16f00d4d02653c0db74b606100d4402639391372519e400d3a8261ec3a36feede600d3182604608b6d8dc5400d28825ea0fb36b2e51c00d1f825cfd10b68d082b00d16025b5a49b667457100d0d0259b8a436419cd900d040258181fb61c0e5300cfb025678bbb5f699cc00cf20254da76b5d13f33,
   0xf5a82c3dcf23fd3b2d600f5002c1f2f4bfa7845700f4582c00a4abf7b746d00f3a82be22f2bf4f830300f3002bc3cec3f23b00400f2582ba58363ef7fb5b00f1b02b874cf3ecc64f300f1102b692b73ea0ecb700f0682b4b1ed3e75929200efc02b2d26fbe4a566f00ef182b0f43e3e1f383900ee702af1757bdf437dd00edd02ad3bbb3dc9554400ed282ab6167bd9e905b00ec882a9885cbd73e90d00ebe02a7b099bd495f4500eb402a5da1cbd1ef2f000ea982a404e53cf4a3f800e9f82a230f2bcca724900e9582a05e443ca05dcf00e8b829e8cd93c76667600e81829cbcafbc4c8c2a00e77829aedc7bc22ced600e6d029920203bf92e6700e63829753b83bcfaac800e598295888ebba643e600e4f8293bea33b7cf9ac00e458291f5f4bb53cc0800e3b82902e82bb2abae400e31828e684b3b01c62e00e28028ca34ebad8edd100e1e028adf8bbab031ba]

/-- log2(1 + (j + t)/256) (R123). -/
def tabLog2 : List Nat :=
  [0x7edb28292df7b0546eae47ed9202952d3d051daa7e7ed7102977f2304f4451b7ed4f8299d53704caba797ed2d829c2f8584a10a537ed0b829e8e19047734667ece902a0f0fe044d386d7ecc602a35840042316237eca282a5c3eb83f8cd427ec7f02a8340b83ce5d827ec5b02aaa8ad83a3c69c7ec3682ad21de037908487ec1182af9fa9034e223c7ebec82b2221b8323142e7ebc682b4a94382f7ddd37eba082b7352d02cc7edf7eb7a02b9c5e682a0f7077eb5382bc5b7d827545fc7eb2c02bef5ff82496b707eb0402c1957b021d67147eadc02c439fe01f138987eab302c6e39701c4dfac7ea8a02c9925501985bfc7ea6082cc4647016bad377ea3682ceff7c013ed3097ea0b82d1be038111cd1d7e9e082d481ed00e49b1e7e9b502d74b4880b73cb47e98902da1a268089b1897e95c82dcee97005bf9437e92f82dfc8aa802e13897e90182e2a87200000000,
   0x7f12e0250c7840a283e7f7f1168252a4b88a03231e7f0fe825484ef89dde9d07f0e60256683089b892677f0cd82584e8389931cb27f0b4825a37ef096d887e7f09b825c247b0947d59b7f082825e142f892203d67f0690260071408fc12fb7f04f0261fd3088d602d97f0350263f68d08afd33b7f01b0265f332088983ed7f0008267f326886314bb7efe58269f674083c856e7efca826bfd228815d5d17efaf026e073a87ef05ae7ef93827014c507c814ce7ef78027225ca07a102fa7ef5b82743a538779cff97ef3f8276526907527b937ef2282786e15072b058f7ef05827a8d6087036db37eee8827cb05406dbb3c67eecb027ed6fa06b3d78b7eead0281015b868bd8c97ee8f02832f828663b7427ee7082856178863b72ba7ee518287974806130af47ee328289d0fb85ea7fb27ee13028c0e9c85c1d0b57edf3028e50358598fdbf7edd3029095d18570068e,
   0x7f3c1821abca88e920a647f3af821c46b48e7052497f39d821dd3028e4e817b7f38b821f61978e2c97d77f3790220f2790e0a95367f366822285ab8de879757f35382241b340dc6446e7f3410225b3188da3f5fc7f32e02274d5d8d818df87f31a8228ea090d5f0c3d7f307822a89200d3c70a37f2f3822c2aa80d19bb057f2e0022dcea68cf6eb3b7f2cc022f75218cd4011d7f2b802311e1e8cb0fc837f2a40232c9a28c8ddd457f28f823477b48c6aa33a7f27b023628598c474e397f2660237db978c23de1a7f251023991750c0052b27f23c023b49f78bdcabd67f226823d05260bb8e95d7f211023ec3058b950b1c7f1fb0240839d8b7110e77f1e5824246f40b4cfa927f1cf02440d0f0b28c7f27f1b90245d5f58b0478da7f1a20247a1ae0ae00d1d7f18b8249703f0abb848e7f174824b41b00a96defe7f15d824d16070a721c407f146024eed4b8a4d3c26,
   0x7f5b701edb99f929931f67f5a901ef047f127a4c067f59b01f0511b125b51597f58d01f19f77123c41d47f57f01f2ef97121d1d5c7f57101f4417e11fde3d37f56281f5953011de951e7f55401f6eab111bf311f7f54581f84203919fb7b97f53681f99b2c918028cf7f52801faf62f116084457f51901fc530f9140c9fb7f50a01fdb1d11120f9d47f4fb01ff1278910113b17f4eb8200750890e117757f4dc0201d98690c105017f4cc82033ff590a0dc357f4bd0204a85a10809cf27f4ad020612b81060471a7f49d02077f13903fda8c7f48d0208ed71901f57277f47d020a5dd50ffebccd7f46c820bd0438fde0b5d7f45c020d44c08fbd42b47f44b820ebb510f9c62b47f43a821033f90f7b6b3a7f42a0211aebd0f5a5c247f41902132ba20f3935517f4078214aaac0f17f69f7f3f682162be08ef69fea7f3e50217af438ed531117f3d3821934da0eb3a9f0,
   0x7f73d01c7a7a1164d8ed77f73201c8c16316310b8f7f72701c9dc82161476a07f71c01caf90115f7cff47f71101cc16e215db17757f70601cd362895be4d0d7f6fa81ce56d695a170a57f6ef01cf78ee958482277f6e401d09c741567817c7f6d881d1c168954a6e8d7f6cd01d2e7cf952d49437f6c101d40fac151011877f6b581d5390014f2c7427f6a981d663cf14d56a5b7f69d81d7901b14b7fabc7f69181d8bde8149a784c7f68581d9ed38147ce2f37f67981db1e0e145f3a997f66d01dc506d94417f257f66081dd84591423b07f7f65401deb9d39405ce8d7f64781dff0e013e7d9387f63b01e1298213c9d0657f62e01e263bc93abb3fb7f62181e39f92138d83e07f61481e4dd06936f3ffb7f60781e61c1c9350e8327f5fa01e75cd813327c6b7f5ed01e89f3b9313fc8a7f5df81e9e34a92f568767f5d201eb290912d6c0137f5c481ec707992b80347,
   0x7f87201a7090799bb70fb7f86981a7fbd919a0f8d47f86081a8efc2198671777f85801a9e4c4196bdad37f84f01aadae1195134d67f84601abd21b99367f6e7f83d01acca75191bba897f83401adc3ef1900e6167f82b01aebe8c98e602027f82201afba4e98cb0e3b7f81881b0b73818b00aaf7f80f81b1b54a1894f74b7f80601b2b4879879d3fc7f7fc81b3b4f2185ea0b17f7f301b4b68b98435d557f7e981b5b956182809d67f7e001b6bd54980ca6207f7d681b7c28897f132227f7cc81b8c8f417d5adc67f7c301b9d09997ba18f97f7b901bad97b179e73a97f7af01bbe39b1782bdc07f7a501bceefc1766f72b7f79b01bdfb9f974b1fd67f79081bf0988172f37ad7f78681c018b817133e9b7f77c01c1293216f7348c7f77201c23af816db196a7f76781c34e0c96beed227f75d01c4627296a2af9e7f75201c5782b168660c97f74781c68f3a166a008e,
   0x7f96b818ac62a9cec999f7f964818b99981cd3e6a17f95d818c6de81cbb26657f956818d431c9ca258dd7f94f018e19371c897dfa7f948018ef0389c7095af7f940818fc8231c579fec7f9398190a0f79c3e9ca37f93201917ab81c258bc57f92a819255659c0c6d447f923019331019bf341117f91b81940d8e1bda071d7f9140194eb0c9bc0bf587f90c8195c97e1ba769b47f9050196a8e49b8e06217f8fd019789421b74948f7f8f581986a971b5b14f17f8ed81994ce61b4187357f8e5819a30301b27eb4c7f8de019b14779b0e41277f8d6019bf9bd9af488b57f8ce019ce0039adac1e77f8c5819dc74b9ac0ecad7f8bd819eaf979aa708f67f8b5819f98e91a8d16b17f8ad01a083411a7315d07f8a501a16ea29a5906417f89c81a25b0e9a3ee7f47f89401a348869a24bad77f88c01a4370d1a0a7eda7f88381a526a399f033ed7f87a81a6174b99d5d9fd,
   0x7fa3801720d6d9fe8e4f17fa320172c72e1fd1be4c7fa2c017381a99fba8c067fa2681743ce09fa34e117fa208174f8d49f8c04647fa1a8175b5871f74aef17fa14817672f91f5d4dad7fa0e8177312b1f45e08c7fa088177f01f1f2e67817fa028178afd59f16e2827f9fc017970501eff51817f9f6017a318f9ee7b4727f9f0017af3959ed00b497f9e9817bb6631eb855f97f9e3817c79f91ea094767f9dd017d3e589e88c6b37f9d6817e03841e70eca47f9d0817ec97b1e59063d7f9ca017f90401e41136f7f9c3818057d41e29142e7f9bd018120381e11086e7f9b68181e96d9df8f0217f9af8182b3759de0cb397f9a901837e511dc899ab7f9a281844a029db05b697f99c0185168a9d9810647f9950185e3ea1d7fb8917f98e0186b2231d6753e07f987818781369d4ee2457f980818851261d3663b27f979818921f31d1dd81a7f9728189f39f1d053f6d]

/-- 1/(1 + (j + t)/256) (R123). -/
def tabRcp : List Nat :=
  [0x1697fe68a29e1c8b265b016d4fe65c8141ca4b305017127e62e5d61cbe6d9601750fe5ffbc81cd85689017907e5d09ce1cf26e5c017d07e5a0fcb1d0cb58f01811fe570da19d272ca401853fe5403341d41d41d01896fe50f0639d5cac80018dafe4dd5121d77b6550191ffe4ab11f1d92f22301965fe47846b9dae6077019acfe444ed59dca01dd019f57e41103d1de5d6e401a3e7e3dc87f9e01e01e01a887e3a777a9e1e1e1e01ad3fe371d0b9e3a917a01b207e33b90d9e573ac901b6dfe304b5d9e741aa601bbcfe2cd3d51e9131ac01c0cfe29524f9eae807b01c5dfe25c6a59ecc07b301caffe2230b01ee9c7f801d03fe1e90471f07c1f001d587e1ae5419f25f64401daefe172f771f44659e01e067e136ebb9f6310ad01e5f7e0fa2e59f81f82001eb97e0bcbc81fa11caa01f14fe07e9361fc07f0201f71fe03fb029fe01fe001fd07e0000fea0000000,
   0x10767eb6439399ae24ea0109e7eb42fd999c2d14f010c67eb2171519d79f17010ef7eaff93599ec8e9501118feadd62b1a01a01a011427eabade49a16d3f90116cfea980511a2c2a8801197fea74d5e9a41a41a011c37ea514fb9a574107011ef7ea2d7169a6d01a70121c7ea0939c9a82e651012497e9e4a7b1a98ef60012777e9bfba01aaf1d30012a5fe99a6f71ac5701b012d4fe974c6d9adbe880013047e94ebef9af286bd01334fe9285689b094b32013657e9018c41b20364001396fe8da5ed9b37484b013c97e8b2ccf9b4e81b5013fc7e88ad549b65e2e40142ffe8627671b7d6c3e014647e839af01b951e2b01498fe8107d99bacf915014cefe7e6e0c1bc4fd66015057e7bcd711bdd2b8a0153c7e7925ef9bf583ef015747e76776f9c0e0704015ad7e73c1d91c26b539015e6fe7105129c3f8f0201620fe6e41029c5894d10165bfe6b758f1c71c71c,
   0xc5cfeefa55a9756cac200c787eee165e9767dce400c93feec83f41779081200caf7eeaee0f978a4c8100ccbfee954a8179baa6c00ce7fee7b7b217ad220900d04fee6172397beb39200d21fee472f217d05f4100d3f7ee2cb1217e2255100d5d7ee11f7897f405fd00d7b7edf701b1806018000d99feddbced9818181800db8fedc05e4982a4a0200dd7feda4af4983c977b00df77ed88c12184f00c200e177ed6c9301861861800e37fed50243187427bd00e587ed3373e9886e5f100e79fed168161899c0f600e9b7ecf94bc18acb90f00ebd7ecdbd2498bfce8000edf7ecbe14198d3018d00f027eca010598e6527b00f257ec81c6418f9c19000f48fec6334e990d4f1200f6d7ec445b71920fb4a00f91fec2538f1934c68000fb67ec05cc89948b0fd00fdbfebe6155195cbb0c01001febc61251970e4f8010287eba5c2a19852f0e0104efeb852541999999a,
   0x9857f1b4161156397ba009987f1a0e641571ed3c009abff18d8fb15805601009bf7f17a11f958ed231009d2ff1666cb959d61f1009e6ff1529f815ac056b009fb7f13ea9e95babcc600a0f7f12a8b795c9882c00a247f11643c95d867c400a38ff101d2695e75bb900a4e7f0ed36e15f6643400a637f0d870c1605816000a78ff0c37f89614b36800a8eff0ae62d1623fa7700aa4ff0991a1963356b900abaff083a4e1642c85900ad17f06e02b96524f8500ae87f0583319661ec6a00aff7f04235816719f3600b167f02c0979681681700b2dff015ae71691473b00b45fefff23f16a13cd100b5dfefe869696b1490b00b75fefd17e516c16c1700b8e7efba62296d1a62700ba77efa314516e1f76b00bc07ef8b94496f2601700bd9fef73e181702e05c00bf37ef5bfb59713786e00c0d7ef43e149724287f00c27fef2b92b9734f0c500c427ef130f09745d174,
   0x77c7f3d2be893bd60d90078a7f3c3aac13c995a4007987f3b47ae13d5d992007a67f3a52ea93e22cbd007b4ff395c5d13ee8f43007c37f38640193fb0140007d1ff3769d2940782d1007e07f366dcc94141414007ef7f356fea1420b526007fe7f347027142d66260080dff336e7e143a27310081cff326aeb1446f8650082c7f3165689453d9e30083bff305df19460cbc80084bff2f5481946dce340085bff2e4913947ae1480086bff2d3ba2148805220087c7f2c2c27949539e40088cff2b1a9f94a27fad0089d7f2a070494afd6a0008adff28f15094bd3ede008beff27d97f14cab887008cfff26bf8a14d843bf008e17f25a36b94e5e0a7008f2ff24851e94f38f63009047f23649d15015015009167f2241e1150f22e1009287f211ce4951d07eb0093a7f1ff5a2952aff570094cff1ecc14153909490095f7f1da033154725e7009727f1c71f995555555,
   0x5fdff58116112539d7f006087f575061125e227100612ff568e141268b37d0061d7f55ca76927350b900627ff550585927dfa39006327f543f3d9288b0130063d7f53779c9293725c006487f52ae9e129e412a006537f51e44012a91c930065e7f51187e92b404ad00669ff504b5692bef98e00674ff4f7cc492c9fb4e006807f4eacc592d50a010068bff4ddb5692e025c0006977f4d087312eb4ea2006a37f4c341892f684be006aeff4b5e431301c82b006baff4a86ef130d1901006c6ff49ae1993187759006d37f48d3be1323e34a006df7f47f7d9932f5ced006ebff471a68933ae45b006f87f463b66934679ad00704ff455ad013521cfb00711ff4478a1935dce600071eff4394d693698df40072bff42af6c13755bd200738ff41c85d1381381400745ff40dfa6138d22d3007537f3ff54393991c2c00760ff3f093013a524380076e7f3e1b6893b13b14,
   0x4deff6dc18c111a301a004e6ff6d24bd112358e7004eeff6c86f1112c8b8a004f6ff6be8261135c811004feff6b485a113f0e8d00506ff6aa78b11485f0e0050eff6a05b69151b9a4005177f6962da915b1e5f0051f7f68bef491648d5100527ff681a02916e0689005307f67740211778a1900538ff66ccf111811812005417f6624cd118ab0840054a7f657b939194538100552ff64d142119e011a0055bff6425d691a7b96100564ff63794e91b17c680056d7f62cba711bb4a4000576ff621cde11c522fc0057fff616cf111cf06ae00588ff60bbdd91d8f567005927f6009a091e2ef3b0059bff5f563791ecf43c005a4ff5ea1a011f7047e005aeff5debd792012012005b87f5d34db920b470c005c1ff5c7ca892157980005cbff5bc33c121fb781005d5ff5b0894122a0123005df7f5a4cac92345679005e9ff598f83923eb797005f3ff58d11612492492,
   0x4037f7f7fb010080402004097f7efe8e101010100040f7f7e7ca99018243600415ff7dfa00902040810041bff7d7691102864fc00421ff7cf25a103091b5004287f7c6d599038c6b80042eff7be78e9041041000434ff7b60f7104949cc0043b7f7ad991105197f800441ff7a515b9059eea0004487f79c85490624dd30044f7f793e7a906ab59c00455ff78b3cb9073260a0045c7f782846107b9f2a004637f779be89084210800469ff770eb1108cabb300470ff76809d90953f3900477ff75f1ac909ddba70047eff7561dc90a6810a00485ff74d12b10af2f720048cff743f9690b7e6ec004947f73ad1d10c0a7870049b7f7319bd10c97150004a2ff72857410d24456004a9ff71f04090db20a9004b17f715a2110e40656004b8ff70c31290ecf56c004c07f702b1410f5edfb004c7ff6f922290fef011004cf7f6ef83d1107fbbe004d77f6e5d6111111111]

/-- (2^b (1 + (j mod 128 + t)/128))^(-1/2) (R123). -/
def tabRsqrt : List Nat :=
  [0x1bb1fe8e2f7e9cb6271c01c21fe8aab4c9ccd604601c94fe8718bf9ce4d22501d0a7e8377841cfc7da301d827e7fc7461d1463ad01dfd7e7c07ad1d2c853501e7afe7838601d44e33401efb7e7459021d5d7ea901f7efe7069331d76589702005fe6c68911d8f72090208f7e6856b71da8cc0e0211c7e64333c1dc267bf021acfe5ffdb49ddc463702240fe5bb5b21df6689b022d7fe575ac11e10d018023737e52ec6d1e2b7dde024127e4e6a3b1e467328024b4fe49d3ae9e61b1390255bfe4528459e7d395902606fe4067799e990cdb026b67e3b90c19eb52d190276a7e36a38f1ed19b7602822fe319f4d9eee595f028dffe2c83661f0b6849029a1fe274f3a9f28c9b402a697e2202291f467f2802b35fe1c9b891f648a3a02c077e171aad1f82ec8802cdefe117ee11fa1a7bb02dbc7e0bc76b9fc0bd8902e9ffe05f38b1fe02fb102f897e000279a0000000,
   0x1188fee71d019a323a18011c3fee4e4949a43da0b011fffee2a49f9a559dc10123d7ee05d001a6785b40127bfede0d901a799260012bbfedbb62a9a8bc442012fc7ed956a89a9e1bdb0133efed6eee29ab099af01381fed47eb01ac33e42013c6fed205e81ad60a1d0140cfecf845f1ae8fdcb01453feccf9ea1afc19d80149cfeca665c9b0f5ed6014e6fec7c9881b22cd5701532fec5233e1b3665f10157ffec2734d9b4a293c015cefebfb9861b5e17d50161efebcf5b49b72325b01670feba27a49b867971016c47eb74f209b9aedba01719feb46bf29baf8fe201770feb17de19bc46093017c9feae84b39bd9607e01824feab802e1bee9057018817ea870139c03f0d5018dffea554259c1982b3019407ea22c239c2f46b1019a37e9ef7cb9c453d9101a07fe9bb6d99c5b681c01a6efe9869089c71c71c01ad87e950e0f9c885b6401b43fe91a5a59c9f25c6,
   0xbea7f21594f983e706800c0cff1fd7c1184c66df00c2fff1e51d4985a759200c537f1cc77918689cc800c777f1b389b9876dcc700c9bff19a529988535d900cc17f180d101893a84700ce6ff16703c98a2345d00d0d7f14ce9a98b0da6600d347f13281618bf9ab000d5c7f117c9a98ce758b00d84ff0fcc1318dd6b4500dadff0e166a98ec7c3100dd77f0c5b8a18fba8a200e01ff0a9b5c190af0eb00e2cff08d5c9191a556100e58ff070aba9929d65d00e857f053a179939743700eb2ff0363c899492f4700ee0ff0187b4995907ec00f0ffeffa5c19968fe8000f3ffefdbdd59979136300f707efbcfd6198946f600fa1fef9dba81999999a00fd47ef7e12f99aa0bb3010077ef5e04f99ba9da70103b7ef3d8eb99cb4fdd01070fef1cae599dc22be010a6feefb61e99ed16b6010ddfeed9a7819fe2c3101115feeb77d19a0f639f0114efee94e0a9a20bd70,
   0x8877f49ea6996abf7390089cff48d6dd96b7612f008b27f47c09816c2dc73008c8ff46a78f16ce6932008deff458bb916da0798008f5ff446d0b96e5b7d10090cff434b7c96f17a0d009247f42270116fd4e790093bff40ff8f9709354500953ff3fd51c97152e9f0096c7f3ea79c97213ab900984ff3d7705972d59c40099e7f3c434b97398bf2009b7ff3b0c629745d174009d17f39d23f17522a7f009ebff3894d5175e974700a067f375418976b17ff00a217f360ffc9777acdf00a3cff34c8741784561b00a587f337d72979113ec00a74ff322eea979de68900a917f30dccf17aace2b00aae7f2f871197b7cb0c00acbff2e2da417c4dd6600ae9ff2cd07917d2057500b087f2b6f8117df437500b26ff2a0aad97ec97a400b467f28a1ef97fa023f00b667f2735371807838600b867f25c47498151bb800ba77f244f989822cb1800bc87f22d691983091e7,
   0x13957efa806e144d57c6013e4fef803e5145dc3a401435fef57d35946e579b01488fef2ec24947f1450014ddfef05076948ffa6b01534feeda9ed14a10a980158dfeeaf84894b24586015e87ee83b4814c3abe9016457ee572a714d53e7a016a4fee29e2114e6fdf301705fedfbd6d94f8eb1701769fedcd043150b06a9017cffed9d655951d5174018387ed6cf56152fcc47018a37ed3baf4954277f4019117ed098dd1555555501981fecd68b995686548019f4feca2a31957ba8b101a6afec6dce9158f207801ae3fec3808195a2cd8c01b5ffec0149995b6b0e301bdefebc98cc15cacb7801c617eb90cb115df1e4c01ce77eb56fdd15f3aa6701d707eb1c1e0960870d901dfd7eae0249161d72b801e8dfeaa309f1632b12001f227ea64c6816482d3801fbafea25525965de82b020577e9e4a531673e32f020f7fe9a2b68968a1f810219cfe95f7d996a09e66,
   0xc65ff396213928604bf00c8fff37d02392927b2d00cba7f3638e0929f0ae500ce5ff349c3112abb43c00d11ff32f9fb92b8778b00d3f7f31522512c5552a00d6cff2fa49292d24d7400d9bff2df12792df60c600dcb7f2c37c812ec8f7e00dfbff2a785612f9d9fd00e2d7f28b2b4130740a500e5fff26e6c31314c3d900e937f2514631322640000ec7ff233b739330218100efd7f215bd4133dfcc700f33ff1f7562134bf63d00f6bff1d87fa935a0e5200fa47f1b93799368457600fde7f1997ba13769c1d010197f179497138512ba01055ff1589e91393a9c6010937f13778893a261ba010d27f115d4c93b13b14011127f0f3b0b13c0365101153ff0d109913cf53f401196ff0addca93de9480011db7f08a27193edf87f01220ff065e5f93fd8078012687f041164940d2cfa012b17f01bb4f141cfe94012fb7eff5bec942cf5da013477efcf308943d1362,
   0x86cff628fd711249d7b008857f617f36112e7d030089e7f606b7e91386dad008b77f5f54a391426fac008d0ff5e3a99914c8332008eaff5d1d521156a87300904ff5bfcc09160dfa20091fff5ad8d6916b28f50093aff59b187117584a2009567f5886c3917ff2e0009727f57587c918a73e60098f7f5626a4919507ed009ac7f54f12b919faf2e009c9ff53b80291aa69e5009e7ff527b1991b5384c00a067f513a5f91c01aa000a257f4ff5c591cb111f00a44ff4ead3991d61c0700a64ff4d60aa91e13b9800a857f4c100711ec701200aa6ff4abb3d11f7b9b800ac87f496239920318cc00aeaff4804ea920e8d9300b0dff46a33c921a185200b317f453d1b1225b94f00b55ff43d273123170d300b7a7f42632f123d3f2600b9fff40ef3a9249249200bc67f3f76801255216400bed7f3df8e8926135e900c14ff3c765e126d626f00c3cff3aeeca1279a746,
   0x607ff7f3f371008060500616ff7e7c6010101828006267f7db79b90183688006367f7cf0e31020614400645ff7c282f1028987c00655ff7b5d789030dc4f006667f7a90b910392cdd00676ff79c1e810418a4800687ff78f0ff1049f4b100698ff781df610526c39006a9ff7748c5105af103006bb7f76716410638332006cd7f7597cb906c22e9006df7f74bbf29074d04b006f17f73ddd1907d8b7c00703ff72fd5f908654a300716ff721a94108f2be300729ff713566109811630073d7f704dcc10a1054a00750ff6f63bd90aa07bd00764ff6e773110b318e600778ff6d881d10bc38ec0078d7f6c967790c567f7007a27f6ba23690cea631007b77f6aab5010d7f3c5007ccff69b1ba10e150dd007e2ff68b56990eabda4007f8ff67b65410f43a460080f7f66b46f10fdc6f0008267f65afae910763cf0083d7f64a80791111111008557f639d6e111acee5]

/-- (2^b (1 + (j mod 128 + t)/128))^(1/2) (R123). -/
def tabSqrt : List Nat :=
  [0x7f47f81cb622823aa44957f46381ccd5b9238d82d67f44701ce4cd62370a9c27f42a81cfc78ca353b91f7f40d01d145ec2336b0b37f3ef01d2c803231990447f3d101d44de222fc57957f3b281d5d79822df06697f39301d76535a2c19c827f37381d8f6cb22a419a27f35301da8c6a22867d897f33201dc2623a268c7f47f31101ddc409a24af8a37f2ef01df662e222d0f517f2cc81e10ca4a20f0bbb7f2a901e2b77f21f0ed9a7f28581e466d221d2b4a77f26101e61ab1a1b4609b7f23c01e7d331a195f12c7f21681e990682177660f7f1f001eb526a2158bef97f1c901ed194e2139fb9b7f1a101eee52aa11b1ba77f17881f0b617a0fc1ecd7f14f81f28c2c20dd04bb7f12581f4678120bdcd1e7f0fa81f64830209e77a07f0cf01f82e53207f03ec7f0a281fa1a04205f71aa7f07501fc0b5ea03fc07f7f04701fe027ea01ff0107f01801ffff8120000000,
   0x7f74181a32372a716f2af7f73001a43d7126fcb7a87f71e01a559ac26e26aef7f70c01a6782aa6c80c617f6f981a798f4a6ad9bd87f6e701a8bc122693192f7f6d401a9e18b267884427f6c101ab0967a65ddceb7f6ad81ac33b0264323027f69a01ad606d262856617f68601ae8fa7260d76e17f67201afc16725f284587f65d81b0f5b6a5d77e9f7f64901b22c9da5bc658d7f63381b36626a5a138f77f61e81b4a25aa585f8b37f60881b5e143256aa4967f5f281b722eaa54f3c747f5dc81b8675b2533c0227f5c601b9ae9f25182f727f5af01baf8c0a4fc8a377f59781bc45caa4e0d0437f58001bd95c8a4c501677f56801bee8c524a91d727f55001c03ecc248d24367f53701c197e8a47115807f51e01c2f427a454f1207f50481c45394a438b6e27f4ea81c5b63c241c66937f4d081c71c2b240000007f4b601c8856ea3e382f37f49b01c9f213a3c6ef37,
   0x7f9110183e6e6aa3cc7d47f9050184c64e2a24826b7f8f88185a738aa0c2eff7f8ec818689aba9f3cd787f8e001876dab29db5dbd7f8d38188533c29c2dfb67f8c701893a62a9aa53497f8ba018a2323a991b85d7f8ad018b0d83a9790ed77f8a0018bf9882960569f7f892818ce73529478f997f885018dd690292eb9ab7f877818ec79ea915d4b97f86a018fba6528fce0a97f85c0190aee9a8e3dd5f7f84e0191a53028cacabe7f83f81929d3fa8b1a8ab7f8310193971ca89877087f822819492cd287f35b87f813819590572865e49f7f80481968fc0284c839f7f7f58197910da83312987f7e6019894462819916e7f7d681999970280000007f7c7019aa09127e65e307f7b7019ba9afa7ccabde7f7a7019cb4d2a7b2e8ea7f796819dc200279915337f786019ed13f277f30997f775819fe29627653afb7f76481a0f60ca74b34367f75301a20ba927311c28,
   0x7fa53816abf5d2d2a96847fa4b016b75fc2d13e4d97fa42816c2db02cfd27bb7fa39816ce67bace65f1a7fa31016da0622ccf8ae37fa28016e5b652cb8ab057fa1f016f1788aca1bf6e7fa16016fd4cf2c8ac80b7fa0c8170933bac73c4ca7fa03817152d12c5cb59a7f9fa01721392ac459a677f9f08172d5832c2e731e7f9e7017398a5ac173fad7f9dd01745cfdac0000007f9d38175228dabe8b4047f9c98175e95a2bd15ba47f9bf8176b1652bb9f6ce7f9b581777ab32ba2856e7f9ab81784546ab8b076e7f9a1017911232b737cbb7f9968179de4cab5be53f7f98c017aacc6ab4440e77f981817b7c942b2c8f9c7f977017c4db9ab14d1497f96c017d203a2afd05da7f961017df41a2ae52d377f956017ec95caacd474b7f94a817fa0062ab554007f93f8180781a2a9d533f7f9340181519d2a8544f27f92881822c92aa6d29007f91c818308ff2a54ff54,
   0x7efbb8289aa90327026117ef94028bb80a32477afc7ef6c028dca87b21eaee87ef43828fe21cb1f5c1837ef1a0291fede31ccb27b7eef0029420e1b1a3817d7eec50296483db17a2e347ee99829875083150b84a7ee6d829aa75831271f677ee40829cdf45b0fd63327ee13029f1ce830d383517ede482a1605830a97f677edb502a3a9af307f57177ed8502a5f907b0550a017ed5482a84e7b302a97c57ed2282aaaa24b00000007ecf002ad0c20afd5424e7ecbc82af748bafaa5e497ec8802b1e3822f7f53887ec5302b459222f5421a37ec1c82b6d58a2f28c82e7ebe582b958da2efd46bb7ebad02bbe3322ed19cda7eb7402be74b2aea5ca1b7eb3982c10d7e2e79ce0a7eafe02c3adb6ae4da8307eac182c65580ae2158177ea8402c90500adf4dd437ea4502cbbc5c2dc837387ea0502ce7bb92d9b65777e9c382d143402d6e67807e98102d413192d413ccd,
   0x7f3a28250c055b747f6297f38982524f22b722ddad7f3708253e118b6fdac2b7f35682557642b6d861707f33c82570eabb6b2fd497f3228258aa5eb68d7f817f307825a49673667e7e37f2ec825bebd0364236397f2d1825d91a6361c6a4d7f2b5825f3af535f683e87f2998260e7c935d082d27f27d0262982eb5aa66d37f26002644c3235842fb07f242826603e1355ddd2f7f2248267bf4935376f167f20682697e76b510e5287f1e8026b417834ea3f297f1c9026d085b34c37cda7f1a9826ed32f349c9dfe7f1898270a201b475a2547f169027274e1b44e899d7f14802744bdeb42753977f12682762708b40000007f1050278066f33d88e947f0e28279ea2233b0ff107f0bf827bd2323389512d7f09c027dbeb0b36184a67f078027fafae333999337f0538281a53d33118e8c7f02e82839f6eb2e964677f00882859e5632c11a797efe28287a205b298b076,
   0x7f63182249382bbbb94b97f6208225cf733b9941a27f60f82270d87bb76daba7f5fe02284dc73b545fdf7f5ec822990373b31d0ef7f5db022ad4debb0f2dc77f5c9022c1bc43aec76427f5b6822d64ee3ac9aa3c7f5a4822eb0633aa6c9927f592022ffe2a3a83d41d7f57f02314e4aba60c9ba7f56c0232a0caba3daa417f5588233f5b23a1a758d7f54582354d08b9f72b777f5318236a6d4b9d3cbd87f51d8238031eb9b056897f509823961edb98ccb607f4f5023ac34a39692a377f4e0823c273bb94572e37f4cb823d8dca3921a53a7f4b6823ef6fe38fdc1147f4a1024062e038d9c6457f48b0241d17838b5b4a27f475824342cf38918c007f45f0244b6ee386d4c327f44882462dde3848f50c7f4318247a7a7b82486607f41a82492454380000007f403024aa3edb7db61be7f3eb824c267db7b6ab6b7f3d3824dac0db791dcd67f3bb024f34a7b76cf5d1,
   0x7f7fa020100a0bfdff7fc7f7ee020202e4bfbfdfe07f7e1820306b03f9fb7937f7d582040c07bf7f7efd7f7c9020512ee3f5f36067f7bc02061b683f3edc937f7af82072579bf1e728c7f7a282083126befdf7d77f79582093e733edd6c5a7f788820a4d643ebccffc7f77b020b5dfd3e9c22a17f76e020c7042be7b642f7f760820d8438be5a948b7f752820e99e4be39b39a7f745020fb14abe18c1407f7370210ca6f3df7bd637f7290211e556bdd6a7e47f71a821302063db580aa7f70c02142082bd9447957f6fd821540d0bd72fc8b7f6ef021662f5bd519f6d7f6e0021786f5bd30301d7f6d10218acd6bd0eae7f7f6c20219d49dbced1a737f6b2821afe4fbccb73dc7f6a3021c29f23ca9ba9a7f693021d578abc87ee8e7f683821e871e3c660f997f673821fb8b33c441d9a7f6630220ec4ebc2218727f652822221f63c0000007f642022359b03bddd423]

/-- sin(pi/2 (j + t)/256) (R123). -/
def tabSin : List Nat :=
  [0x7f86a8315bea3860cd9ba7f8a78316a9af05db76787f8e483178d1b85aa04c17f921831868e7857885117f95e83193d100546f7e17f99c031a099385155dac7f9d9031ace6f84e3b6ec7fa16831b8ba284b2041c7fa54031c412a848045b57fa91031cef06044e7c347face831d9533041ca8127fb0c031e33b003eac9cb7fb49831eca7b83b8e1d97fb87031f59948386f0b97fbc5031fe0f90354f6e57fc02832060a78322f4d87fc408320d89f82f0eb0d7fc7e032148df82beda017fcbc0321b166828cc22f7fcf983221233025aa4127fd3783226b45022880277fd758322bc9a81f656e87fdb30323063401c428d17fdf10323480f8191f65f7fe2f0323822d815fc00d7fe6d0323b48c812d86577feab0323df2c80fb49ba7fee90324020d80c90ab07ff2703241d2e8096c9b67ff650324308f006487487ffa303243c2f803243e27ffe10324401000000000,
   0x7f10102e8e7a18c1071d87f13a82eac0510be1d4997f17402ec91ce0bb31a087f1ae02ee5c140b8442987f1e782f01f1e8b554ebf7f22182f1dae98b263eef7f25c02f38f700af7139c7f29602f53cae8ac7cd3b7f2d082f6e2a10a986c407f30b02f881428a68f1217f34582fa188f8a395c537f38082fba8840a09ae4a7f3bb02fd311c89d9e77d7f3f602feb25509aa08617f43183002c2a097a116d7f46c83019e97894a03177f4a8030309998919ddd67f4e383046d2d88e9a2207f51f0305c94f88b9506c7f55a83071dfc8888e9317f59683086b3088586ce87f5d20309b0e98827dc077f60e030aef2307f737077f64a830c25db07c67e5f7f686830d550d8795b2887f6c2830e7cb88764d3f97f6ff030f9cd90733e32d7f73b8310b56b8702e09b7f7780311c66e06d1ccbc7f7b48312cfde06a0a8097f7f10313d1b8866f72fd7f82e0314cbfb063e2e0f,
   0x7ea2b029f704c919d5a0a7ea5e82a2247591734d647ea9282a4d21f914915af7eac702a77943111eb3547eafb82aa19da90f426bb7eb3002acb3de90c9704d7eb6482af4749909e90747eb9982b1d414907387997ebcf02b45a39904856277ec0402b6d9b2901cfc877ec3a02b952788ff17b267ec6f82bbc4860fc5d26e7eca582be2fd50f9a02cb7ecdb82c0945f8f6e0ca97ed1202c2f21f8f41f0757ed4882c5490f0f15ae9c7ed7f02c799290ee9478a7edb602c9e2668ebcbbae7eded02cc24c30e900b747ee2482ce60388e63374d7ee5b82d094c10e363fa57ee9382d2c2580e0924ec7eecb02d4e8f78ddbe7927ef0302d7089a8dae88057ef3b02d9213b8d8106b67ef7302db32d58d5364167efab82dd3d630d25a0947efe402df40e00cf7bca27f01d02e13d468cc9b8b17f05582e332918c9b95327f08e82e520bd0c6d52977f0c802e707c40c3ef153,
   0x7e42b823c2b65167cf7857e457823fa06e965919267e48402430feb963503a37e4b1024679d41610b7557e4dd8249de1f15ec34967e50b024d3cc495c77bbe7e538825095bc15a28d2a7e5660253e8fd957d69357e59402573680955810397e5c2025a7e3d953282937e5f0825dc02b950cc09f7e61f8260fc4314e6cabc7e64e0264327b94c0a1467e67d826762ce149a449c7e6ad026a8d321473b51c7e6dc826db19f944cf3257e70c8270d00f9425ff187e73c8273e87993fed9537e76d0276fad613d782397e79e027a071e13affa297e7ce827d0d49938841867e80002800d51136058b17e8310283072d9338400d7e8628285fad7930ff7fd7e8948288e84792e780e47e8c6828bcf7612bedb267e8f9028eb05c929607277e92b82918af3926d054d7e95e02945f349243d5fc7e99102972d17921a79997e9c40299f49711f0f08c7e9f7829cb5aa91c73b3a,
   0x7df3e01c2e9861a7f58537df6101c6fd6d1a63091b7df8401cb0cf11a4678c87dfa781cf18081a29a7a07dfcb01d31ea89a0c95eb7dfef01d720c919ef43ef7e01381db1e5e99d1b1f67e03801df176019b3e0487e05d01e30bc31995cf2f7e08201e6fb7e99777ef57e0a781eae6881958efe57e0cd81eeccd6993a224a7e0f381f2ae60991b16707e11a01f68b1b98fbcca47e14101fa62ff18dc45337e16801fe360098bc806b7e18f82020417989c7e9a7e1b70205cd3a987c40107e1df0209915f985bc51b7e207020d507d983b0e0c7e22f82110a8b981a1b347e2588214bf8017f8ece37e28182186f5217d7836d7e2ab021c19f897b5df227e2d4821fbf6a979400577e2fe82235f9e9771e75f7e3288226fa8c174f948e7e353022a902a972d08387e37e022e2070170a42b37e3a90231ab5516e744557e3d4023530cf96c40d747e4000238b0d816a09e66,
   0x7db930138539b9d7d0b037dbab013cde419d6961747dbc3814165da1d556f537dbdc0145ea591d4134d17dbf5014a6bb41d2cb2217dc0e814ee9df9d17e7747dc28815364d11d02d4ff7dc428157dc7d1ced7af47dc5d015c50d89cd7d98a7dc780160c1d89cc1f0f47dc9301652f729cabc16a7dcaf0169999a9c954b217dcca816e00471c7e8e527dce70172636c1c678b357dd038176c2ff1c5042017dd20817b1ef59c38b2f27dd3d817f77449c20de407dd5b0183cbe19c08c4267dd7901881cc19bf064e17dd97818c69da1bd7c0ac7ddb60190b3209bbed7c57ddd48194f88a9ba5aa677ddf401993a0d1b8c38d27de13819d779e1b7283457de3381a1b1329b5889ff7de5381a5e6c09b3e4d3f7de7401aa183d9b23cd477de9501ae459f1b090a587deb601b26edb9aee04b47ded781b693e79ad2bc9e7def981bab4b99ab732597df1b81bed1471a9b6629,
   0x7d94e00a1bd0b1f58a2b17d95a80a691c21f4e603b7d96700ab64de9f43d0867d97480b036541f38f3ac7d98200b506171f2dc9c97d99000b9d41b1f2252f77d99e00bea0549f168f547d9ad00c36ab79f0a7efc7d9bc00c833389efe220c7d9cb80ccf9cb9ef178a47d9db00d1be651ee482e27d9eb80d680f89ed740e77d9fc00db417b1ec9b2d47da0d00dfffe09ebbd8c97da1e00e4bc1d9eadb2e97da3000e976261e9f41577da4200ee2dee9e9084367da5400f2e36b1e817bab7da6700f796909e7227db7da7a00fc47531e6288ec7da8d8100f5a71e529f047daa10105a1811e426a4b7dab5810a4ad59e31eae87daca010ef1991e2121057dadf011395c01e100cca7daf40118373f1dfeae627db09811cd60a9ded05f87db1f812172171ddb13b77db3601260b599dc8d7cb7db4c812aa1c69db652627db63812f35531da383a97db7b0133c5f31d906bcf,
   0x7d8858004ef4e1fffd8867d8860009de901fff62177d886800ecdb99ffe9cb47d8880013bcbe9ffd88617d8898018ab931ffc251e7d88b801d9a2a9ffa72f07d88d802288791ff871db7d890002776729ff621e37d893802c640a9ff383107d896803151351ff095667d89a80363de59fed58ed7d89e803b2a109fe9cdad7d8a3004015a99fe5f3af7d8a8004500a41fe1cafd7d8ad8049eaf49fdd53a07d8b3004ed48e9fd88da47d8b98053bd669fd379147d8bf8058a56f9fce15fd7d8c6805d8c9d9fc8646d7d8ce006272e51fc264717d8d5806758399fbc16187d8dd806c3c8f9fb579727d8e580711fda1fae8e8e7d8ee8076020d1fa7557f7d8f7807ae31d9f9fce567d901007fc2fe9f97f9257d90b0084a1a41f8fd6007d91500897f029f8764fa7d91f808e5b0e1f7ea62a7d92a809335ba1f7599a47d93600980efa9f6c3f7e7d941809ce6c49f6297d0]

/-- cos(pi/2 (j + t)/256) (R123). -/
def tabCos : List Nat :=
  [0x7d941ff67f1049f6c3f7e7d9367f6cca459f7599a47d92aff71a4f19f7ea62a7d91fff7680fc9f8764fa7d9157f7b5e5b1f8fd6007d90b7f803d011f97f9257d9017f851ce21f9fce567d8f7ff89fdf21fa7557f7d8eeff8ee0259fae8e8e7d8e5ff93c3701fb579727d8ddff98a7c59fbc16187d8d5ff9d8d1a1fc264717d8ce7fa273619fc8646d7d8c6ffa75a901fce15fd7d8bfffac42991fd379147d8b9ffb12b709fd88da47d8b37fb6150a9fdd53a07d8adffbaff5b1fe1cafd7d8a87fbfea561fe5f3af7d8a37fc4d5ef1fe9cdad7d89effc9c21a1fed58ed7d89affceaeca9ff095667d896ffd39bf51ff383107d893ffd8898d1ff621e37d8907fdd77861ff871db7d88dffe265d49ffa72f07d88bffe7546c1ffc251e7d889ffec43409ffd88617d8887ff132461ffe9cb47d886fff6216f9fff62177d8867ffb10b19fffd8867d885ffffffffa0000000,
   0x7db7b7ed0caac9da383a97db63fed55e389db652627db4cfed9f4a59dc8d7cb7db367ede8de81ddb13b77db1ffee329f51ded05f87db09fee7c8c09dfeae627daf47eec6a3f9e100cca7dadf7ef10e669e2121057daca7ef5b5299e31eae87dab5fefa5e7e1e426a4b7daa17eff0a581e529f047da8dff03b8ac9e6288ec7da7a7f08696f1e7227db7da677f0d1c941e817bab7da547f11d2111e9084367da427f1689d99e9f41577da307f1b43e21eadb2e97da1e7f20001e9ebbd8c97da0d7f24be841ec9b2d47d9fc7f297f069ed740e77d9ebff2e419a9ee482e27d9db7f3306339ef178a47d9cbff37ccc69efe220c7d9bc7f3c95479f0a7efc7d9ad7f415fab1f168f547d99e7f462be49f2252f77d9907f4af9e89f2dc9c97d9827f4fc9ab1f38f3ac7d974ff549b209f43d0867d9677f596e3d1f4e603b7d95aff5e42f49f58a2b17d94e7f63193b1f6297d0,
   0x7df1bfe454b461ab732597def9fe496c181ad2bc9e7ded7fe4d91241aee04b47deb67e51ba601b090a587de957e55e7c21b23cd477de747e5a193f1b3e4d3f7de53fe5e4ecd1b5889ff7de33fe6288619b7283457de13fe66c5f29b8c38d27ddf47e6b07751ba5aa677ddd4fe6f4cde9bbed7c57ddb67e7396251bd7c0ac7dd97fe77e33d9bf064e17dd797e7c341e1c08c4267dd5b7e8088ba9c20de407dd3dfe84e1099c38b2f27dd20fe893d009c5042017dd03fe8d9c939c678b357dce77e91ffb89c7e8e527dccafe9666649c954b217dcaf7e9ad08d1cabc16a7dc937e9f3e269cc1f0f47dc787ea3af271cd7d98a7dc5d7ea823829ced7af47dc42feac9b2e9d02d4ff7dc28feb1161f9d17e7747dc0efeb5944b9d2cb2217dbf57eba15a69d4134d17dbdc7ebe9a259d556f537dbc3fec321bd9d6961747dbab7ec7ac639d7d0b037db937ecc3a0c9d906bcf,
   0x7e4007dcacf2f96c40d747e3d47dce54aa96e744557e3a97dd1df8f970a42b37e37e7dd56fd5172d08387e3537dd90573174f948e7e328fddca0611771e75f7e2fefde04095179400577e2d4fde3e60717b5df227e2ab7de790ad97d7836d7e281fdeb407f97f8ece37e258fdeef574181a1b347e22ffdf2af82183b0e0c7e2077df66ea0185bc51b7e1df7dfa32c5187c40107e1b77dfdfbe8189c7e9a7e18ffe01c9fe98bc806b7e1687e059d0098dc45337e1417e0974e418fbcca47e11a7e0d519f191b16707e0f3fe113328993a224a7e0cdfe1519771958efe57e0a7fe19048119777ef57e0827e1cf43c9995cf2f7e05d7e20e89f99b3e0487e0387e24e1a119d1b1f67e013fe28df3699ef43ef7dfef7e2ce1569a0c95eb7dfcb7e30e7f79a29a7a07dfa7fe34f30e9a4678c87df847e3902929a63091b7df617e3d16791a7f58537df3e7e412eb89a9b6629,
   0x7e9f7fd660b6911f0f08c7e9c47d68d2e8121a79997e9917d6ba0cb1243d5fc7e95e7d6e750c126d054d7e92bfd714fa3129607277e8f97d74308992bedb267e8c6fd7717b892e780e47e894fd7a0528130ff7fd7e862fd7cf8d21338400d7e8317d7ff2ae936058b17e8007d82f2b6138841867e7cefd85f8e193affa297e79e7d89052993d782397e76d7d8c178613fed9537e73cfd8f2ff01425ff187e70cfd924e60144cf3257e6dcfd9572cd9473b51c7e6ad7d989d31949a449c7e67dfd9bcd8414c0a1467e64e7d9f03bc94e6cabc7e61ffda23fd4150cc09f7e5f0fda581c2153282937e5c27da8c97f155810397e5947dac1702157d69357e5667daf6a4395a28d2a7e538fdb2c33b15c77bbe7e50b7db621e095ec34967e4ddfdb9862b9610b7557e4b17dbcf014163503a37e4847dc05f91165919267e457fdc3d49a967cf7857e42bfdc74f2796a09e66,
   0x7f0c87d1adf428c6d52977f08efd1ccd6e0c9b95327f055fd1ec2b98cc9b8b17f01d7d20bf200cf7bca27efe47d22c29c8d25a0947efabfd24cd2a8d5364167ef737d26dec48d8106b67ef3b7d28f7658dae88057ef037d2b17080ddbe7927eecb7d2d3da78e0924ec7ee93fd2f6b3e8e363fa57ee5bfd319fc78e63374d7ee24fd33db3c8e900b747eded7d361d990ebcbbae7edb67d3866d70ee9478a7ed7f7d3ab6f08f15ae9c7ed48fd3d0de00f41f0757ed127d3f6ba00f6e0ca97ecdbfd41d02a8f9a02cb7eca5fd443b798fc5d26e7ec6ffd46ad870ff17b267ec3a7d49264d901cfc877ec047d4ba5c6104856277ebcf7d4e2beb107387997eb99fd50b8b6109e90747eb64fd534c2110c9704d7eb307d55e62510f426bb7eafbfd5886bc911eb3547eac77d5b2de0114915af7ea92fd5ddb8a11734d647ea5efd608fb3119d5a0a7ea2b7d634a5511c73b3a,
   0x7f82e7cec2e47866f72fd7f7f17ced302206a0a8097f7b4fcee399186d1ccbc7f7787cef4a940702e09b7f73bfcf063270733e32d7f6ff7cf183478764d3f97f6c2fcf2aaf20795b2887f686fcf3da2507c67e5f7f64afcf510dd07f737077f60e7cf64f168827dc077f5d27cf794cf08586ce87f596fcf8e2038888e9317f55afcfa36b008b9506c7f51f7cfb92d208e9a2207f4e3fcfcf6660919ddd67f4a87cfe6168894a03177f46cfcffd3d6097a116d7f431fd014daa89aa08617f3f67d02cee309d9e77d7f3bb7d04577b8a09ae4a7f380fd05e7708a395c537f345fd077ebd8a68f1217f30b7d091d5f0a986c407f2d0fd0ac3510ac7cd3b7f2967d0c708f8af7139c7f25c7d0e25160b263eef7f221fd0fe0e10b554ebf7f1e7fd11a3eb8b8442987f1ae7d136e318bb31a087f1747d153fae8be1d4997f13afd17185e0c1071d87f1017d18f83b8c3ef153,
   0x7ffe17cdbc3d0803243e27ffa37cdbcf71006487487ff657cdbe2d18096c9b67ff277cdbfdf280c90ab07fee97cdc20d300fb49ba7feab7cdc4b73812d86577fe6d7cdc7dd2815fc00d7fe2f7cdcb7f08191f65f7fdf17cdcf9cc01c428d17fdb37cdd436581f656e87fd75fcdd94bb022880277fd37fcddedcd025aa4127fcf9fcde4e99828cc22f7fcbc7cdeb72082beda017fc7e7cdf276082f0eb0d7fc40fcdf9f588322f4d87fc02fce01f070354f6e57fbc57ce0a66b8386f0b97fb877ce1358403b8e1d97fb49fce1cc5003eac9cb7fb0c7ce26acd041ca8127facefce310fa044e7c347fa917ce3bed5848045b57fa547ce4745d84b2041c7fa16fce5319084e3b6ec7f9d97ce5f66c85155dac7f99c7ce6c2f00546f7e17f95efce79718857885117f921fce872e405aa04c17f8e4fce9565105db76787f8a7fcea415c860cd9ba7f86afceb3405063e2e0f]

/-- tanh((j + t)/32) (R123). -/
def tabTanh : List Nat :=
  [0x5671a870b1f5c17f0e1a5553fa0760a1c6177d838e541cb07b86a7c9704bb1b530bf881255051686650c5210e086e362b1602609b512ef08cbdbaa95788ff15069c892b0bec14e8d8964fc53898b85d1145323e54f45009ed009693b75f8c4eed08a4f2bcb13157dff4ec110ab1af66126d76f74ec4d0b142bf811bf47eb4efbc8b763aff910af47e4f6950bd76f60105086f3501060c3755fe8f90108d50f390c9576858ec9a9ec521510cf1544f8dfd7356537678d4a6f740d2b94f75518d0da045fd8c543f0a56fc78df2553c8b77a9ef592108e401b398a96162b5b8570e89183989afcc505e27b8eccd05888c51ccf610530f0acd2807d65faa641a48f429f4e86e3f4106762a8f73e01f05ee3fe46ad938f9e331d04f5af1f6e7830fc1476303fab325723928fdcd8e702fdc205761520ff0b18e81ff55997a04c0ffcaa0d80ffeaad7e0041000aa8d00000000,
   0x7706801333fc29ec6abfa767e2014642a49eb2dfee75ee6815a64df1e9ddab975572016fb5a09e8789ed74b80018644a61e6fda237410b019e223d1e56b6f47360f81b75f3b1e3c0af172a8901d20cfa1e1fbf9871e7481ee3d501e01bd4f711cd020c02839de1eb5970490822b6f401dc02fd56f6bc024c96861d9c6fb06e84d826f8b991d768ea96d943829461e99d4e6f466c99d82bb2cfb9d23f2d96b95c02e400489cf6f9786a87f830eef1f9cc762076970b833c0c7c9c950a3368504036b6ade1c5fce826726d839d1c149c278a5365f5003d1310b1bec17f264bb48407b98d9bad50a5637a58440c4039b6b0cbf62331047c5d299b2523bb60e6684ba8fc31adb6c595f95884fb64451a8dbcbc5e41c053ee07c1a3bea985ceca0585072c19e5cb5c5b97d85cdd7ac198b34645a45506194d7d192bfb3758f7286675fdd18c7f5c757afc06b80158185efab5,
   0x7eb43002afd8b9fd4e1f67e9f0002dbf5e9fd21c107e8880030ae309fcf28a47e7098033ccd61fcc04ce7e57280371e511fc8ad767e3c2803aa5d21fc51f577e1f7003e66ba9fc156f47e00f004264a21fbd509b7de088046a3561fb9085d7dbe1804b26de9fb47a0e7d998804ff3829fafa13d7d72b80550dc89faa79357d498005a7a7d1fa4fcf57d1db80603eb29f9f272e7cef480665fca1f98f23d7cbe0006ce3729f9258267c89b0073cfae9f8b52907c523807b2ad91f83dabf7c1760082fba99f7be98f7bd90008b49361f73776b7b96e00941afb1f6a7c4d7b50d009d78dd1f60efb37b06900a76b2e1f56c8977ab7f80b1fab19f4bfd6c7a64b80bd30a29f4084167a0ca80c916b49f3451e179af780d5b71b9f275b77794cf00e31c8d9f1994df78e4c80f152471f0af16f7876c0100640d9efb63c27802881105e351eeaddb67787e01214da01ed9505e,
   0x7fd2b0005d83c1ffa26c27fcfc800638a91ff9c63b7fcca80069f4b9ff95f7b7fc9600070c899ff8f21d7fc5d800780d01ff87db27fc218007fc931ff801c77fbe20008804d1ff77de17fb9e00090c819ff6f17a7fb560009a1bb9ff65c097fb09000a408f1ff5bcf77fab7800ae99a9ff513a67fa60800b9d851ff45f6d7fa04000c5d019ff39f997f9a1000d28cd9ff2d36b7f938800e01b31ff1fa187f8c9000ee8899ff112c67f852000fde349ff01c917f7d40010e3a79fef16827f74d8011f9e51fedff967f6be801321ff9fecd6b87f62680145d1b1feb9ac07f5850015ac6e9fea4a747f4d8801711441fe8e4877f42180188cfb1fe767967f35f001a21089fe5d2267f28f801bcef91fe422a77f1b3801d98729fe2576d7f0c9001f7f349fe06eb07efd00021851b1fde668f7eec70023ac201fdc3d067edad0025f65d1fd9eff37ec818028660c1fd77d11,
   0x7ff9e0000ca9e9fff354f7ff978000d7af9fff283c7ff908000e5981fff1a527ff898000f4661fff0b827ff82000104291ffefbbe7ff7a000114ef9ffeeaf57ff71000126cb9ffed9177ff68000139ce1ffec6127ff5e00014e0a1ffeb1d47ff53800163949ffe9c477ff4880017a829ffe85567ff3c800192ea9ffe6ceb7ff300001ace59ffe52ec7ff228001c88d9ffe37417ff148001e5fd9ffe19cd7ff05800205539ffdfa727fef5000226ae9ffdd9127fee400024a301ffdb58b7fed180026ffb9ffd8fba7febe000298369ffd67787fea98002c3099ffd3c9e7fe930002f09f1ffd0f017fe7b800321249ffcde737fe62800354ca9ffcaac47fe4800038bc41ffc73c07fe2b8003c6491ffc392f7fe0d800404931ffbfad97fded800446e09ffbb87d7fdcb80048d739ffb71db7fda70004d8929ffb26aa7fd80000528889ffad6a27fd5700057da49ffa8171,
   0x7fff280001b6c9fffe4917fff200001d311fffe2cc7fff100001f131fffe0ea7fff0000021149fffdee97ffef000023369fffdcc77ffee0000257c1fffda817ffec800027e69fffd8167ffeb80002a799fffd5837ffea00002d369fffd2c67ffe8800030211fffcfdb7ffe70000333c1fffccc07ffe5800036899fffc9727ffe400003a0e1fffc5ed7ffe200003dcc9fffc22e7ffe0000041c91fffbe317ffde000046071fffb9f37ffdc00004a8b1fffb56e7ffd980004f5a1fffb09f7ffd7000054781fffab817ffd4800059ea9fffa60e7ffd180005fb71fffa0417ffce800065e39fff9a147ffcb80006c759fff93817ffc8000073741fff8c827ffc480007ae61fff850f7ffc0800082d31fff7d217ffbc80008b431fff74b17ffb80000943e1fff6bb57ffb380009dcd9fff62247ffae8000a7fa9fff57f67ffa98000b2d01fff4d207ffa38000be581fff4196,
   0x7fffe000003b61ffffc4a7fffe000003f39ffffc0c7fffe000004349ffffbcb7fffe0000047a1ffffb867fffd800004c41ffffb3c7fffd800005129ffffaed7fffd800005669ffffa997fffd000005bf9ffffa407fffd0000061e9ffff9e17fffd000006839ffff97c7fffc800006ef1ffff9107fffc800007619ffff89e7fffc000007db9ffff8247fffc0000085d1ffff7a27fffb800008e71ffff7187fffb8000097a1ffff6857fffb00000a169ffff5e87fffb00000abd9ffff5427fffa80000b6e9ffff4907fffa00000c2b9ffff3d47fff980000cf49ffff30b7fff980000dca1ffff2357fff900000eae1ffff1517fff880000fa01ffff05f7fff8000010a21fffef5c7fff7800011b51fffee4a7fff7000012d91fffed257fff6800014109fffebee7fff58000155b9fffeaa37fff5000016bc1fffe9427fff4800018339fffe7ca7fff3800019c31fffe63b,
   0x809fffff7f7ffff800000891fffff777ffff800000919fffff6e7ffff8000009b1fffff657ffff800000a51fffff5b7ffff800000b01fffff507ffff800000bb1fffff457ffff800000c71fffff397ffff800000d41fffff2c7ffff800000e19fffff1e7ffff800000f01fffff107ffff800000ff9fffff007ffff800001101ffffef07ffff800001221ffffede7ffff800001349ffffecb7ffff800001489ffffeb87ffff8000015d9ffffea27ffff800001741ffffe8c7ffff0000018c1ffffe747ffff000001a59ffffe5a7ffff000001c11ffffe3f7ffff000001de1ffffe227ffff000001fc9ffffe037ffff0000021d9ffffde27ffff000002409ffffdc07ffff000002659ffffd9a7ffff0000028d1ffffd737fffe800002b71ffffd497fffe800002e41ffffd1c7fffe800003139ffffcec7fffe800003469ffffcb97fffe8000037c9ffffc83]

/-- erf((j + t)/64) (R123). -/
def tabErf : List Nat :=
  [0x720d48723ae46103693a37249e873f1b080fc37d55728ae075a05cf0f4eb44a72d03077465f18ed840e77319d078e32da0e602c1d7367a87a7640d0de67f6173b9b07bff12d0d6b44b3740fd87d7d1fe8cee8696746a087eefe6e0c70500e74c8308056e920bf0aca2752a3081b1ab38b6fa854758ff082ffb4e0aed4fa175f95884409170a69af7a7666408573d0089e4d54676d698869903e095eced8774a3087afc4808d7aa7177c0e888b7ae1884f76b5783a9089b061787c642aa78b7108a9984a873c1db47936388b72c2c86b1178e79b7d88c3bcc8062540447a3bc88cf45808598a82f7ac1d88d9c216850b5ff17b49d08e32eab047d78697bd3908eb87c003ef02b47c5ed88f2ca3a836010237ceb808f8f36802d0b2347d79488fe00fa8240fa907e0800901f11001b0faff7e9778904c22e8120c5647f2778906734780906bb87fb7c890703ba00000000,
   0x729d2036ce0e49ac16fc77269b83880dae1a89c8517238303a39d921a506af57208a03bf8c989a1551a171db303dbd68499d8768671aff83f876d71999d41971872841568d01959651a7160d8432a76a99172495713d304502d6318d30dec711c4846df533988d1cd470fe4048bf91818454d5f70e3384aa330d17fb9bfb70cb504c89cd297b0057970b6a84e72fee1762870f70a558505e5aa17131e5f709780524b71b16c1c976708d385439d1f166e86d07086985629061161955607083c0581895b95c2348f7084c05a0805c1569243d7089a85bf6d83950e24ca7092a05de48cc14b13714709fa05fd0a0a14525c7970b0d061ba8f193f196dd70c63063a1d17938ee8a870dfd86585df7132a54cc70fdc867662f512c3dec07120106942363925b8a897146b86b1968591f15cb57171c06ceb39491855a6071a1306eb71c31117893171d508707c84290a7ef5c,
   0x7a2fc80ff29331edabfc779f97810b36291eca6ccd79c218117b1d81eb9558e7989c01249e3a9ea7730f795070131fd379e94be3479164013fd0a11e812fc678db2814e1a301e6cc071789f4815cdb861e5768c47862a016c16279e41213778254817bcb7d1e29e22b77e75018bfcce1e11a3e977a8c019cab421df85ea97769a81add7dc9dde0a90772a281bf837b9dc29fb676ea501d1aed61da6162476aa281e45a799d8865da7669d81f786c79d6986d076296820b33f59d4970fa75e8f821f62081d281c4a75a89823410d49d0580b37568702493ffc1ce1962c75289025eeeec1cbc54b474e9102751cdb1c95b45674aa1028bc8c79c6dad28746bb02a2f1781c443756742e102ba95761c194b1d73f1402d2b3109bece0d873b5702eb48589bbef0fc737ab030453201b8f741f73412831dd0fa1b5e62fd7308f8337bf381b2bb67a72d2403521aec1af767a7,
   0x7ea40002d084a9fd6f34f7e90a802fe6e01fd40bd77e7c70032ede71fd0f5317e67500361f249fcdacca7e51500397c6c1fca2fee7e3a5803d079b9fc67bcf7e2270040c29f1fc28d7e7e0988044af6c1fbe61ef7defa0048d0049fb9f5f47dd4b804d26751fb546427db8c0051b4d59fb04f687d9bb80567d469fab0dd97d7d9805b81f41fa57de07d5e60060c5119f9f9ba97d3e0806648dc9f99633b7d1c9006c0f999f92d0787cf9f00721b941f8bdf207cd6280786f1e1f848acb7cb13807f0c8f9f7cceef7c8b10085f6449f74a6da7c63c008d2e9d9f6c0db47c3b40094b7fc9f62fe807c118809c94c59f59741b7be6a00a4c75d9f4f693b7bba880ad52281f44d8707b8d400b637869f39bc247b5ec80bf79d79f2e0e9a7b2f200c91b751f21c9f17afe500d31eb21f14e8217acc580dd85da1f0762fe7a99400e8532f1ef934377a65100f388e91eea5557,
   0x7fd1c0004d1fd9ffc60537fce58005354b1ffc10197fcab00059fe29ffbb9707fc6d0006123c9ffb5bdf7fc2b00068cda1ffaf6e77fbe4800710421ffa89fe7fb9980079d021ffa14957fb4a800833b09ff9960f7faf60008d4ea9ff90dcb7fa9c800981551ff87b197fa3d800a399e9ff7dd427f9d8800afe7d9ff733817f96e000bd0b01ff67d087f8fd000cb0ff9ff5b8fb7f885800da03d9ff4e6727f807800e9f451ff404767f782000faefc1ff312047f6f50010d0519ff20e0a7f660001204409ff0f7667f5c300134bcd1fefcce77f51d8014a8079fee8d487f46f80161a0b1fed37387f3b80017a2fd9febc9517f2f7001944119fea42197f22c001afe851fe8a0057f156801cd3a21fe6e1747f076801ec4be9fe504b27ef8b8020d33c9fe307f37ee950023008b9fe0e9557ed9280254e261fdea6e07ec840027bd949fdc3e837eb68802a506b1fd9ae14,
   0x7ffc70000501c9fffcce47ffc1800057ec1fffc7a37ffbc000060721fffc1e17ffb5800069be9fffbb8f7ffaf000073e29fffb4a27ffa780007eef1fffad0c7ff9f80008af81fffa4bc7ff97000098121fff9ba47ff8e0000a6539fff91b17ff840000b5d41fff86d07ff790000c6ae1fff7aec7ff6d8000d8fc9fff6def7ff610000ecdd9fff5fc07ff53800102701fff50457ff44800119d69fff3f637ff35000133351fff2cfb7ff2400014eb21fff18ec7ff1200016c771fff03137fefe00018cb09ffeeb4a7fee90001af8d9ffed1687fed28001d5401ffeb5417feba0001fdfe1ffe96a87fea000022a001ffe75687fe84000259831ffe514c7fe6580028cc79ffe2a1a7fe458002c4129ffdff937fe230002ffac1ffdd1757fdfe00033fe21ffd9f797fdd6800385061ffd69527fdac8003cf6f1ffd2eae7fd7f80041f799ffcef377fd4f800475871ffcaa8f,
   0x7fffd800003279ffffe417fffd000003841ffffe0c7fffd000003eb1ffffdd07fffc8000045d1ffffd8e7fffc000004db9ffffd447fffb800005679ffffcf27fffb000006029ffffc977fffa800006ae1ffffc317fffa0000076c1ffffbc17fff98000083d9ffffb437fff9000009259ffffab87fff800000a259ffffa1e7fff700000b401ffff9737fff680000c781ffff8b57fff500000dcf9ffff7e37fff400000f4a9ffff6fa7fff3000010ec1ffff5f87fff1800012b79ffff4db7fff0000014b19ffff3a07ffee800016de1ffff2437ffed000019419ffff0c27ffeb00001be19fffef197ffe900001ec39fffed447ffe6800021ed9fffeb3f7ffe4000025661fffe9047ffe1800029349fffe68f7ffde80002d609fffe3db7ffdb800031f29fffe0e07ffd8000036f39fffdd997ffd400003c6d1fffd9fe7ffd00000426a1fffd6077ffcb800048f59fffd1ac,
   0x139ffffff700000000000161ffffff500000000000189ffffff4000000000001c1ffffff2000000000001f9ffffff000000000000239fffffee00000000000289fffffec000000000002d9fffffe900000000000339fffffe6000000000003a1fffffe300000000000419fffffdf7ffff800000499fffffdb7ffff800000531fffffd67ffff8000005d9fffffd07ffff800000691fffffca7ffff800000761fffffc37ffff800000851fffffbb7ffff800000951fffffb27ffff800000a79fffffa87ffff800000bc1fffff9d7ffff800000d31fffff917ffff000000ec9fffff837ffff000001091fffff737ffff000001291fffff627ffff0000014c9fffff4e7ffff000001749fffff387fffe800001a09fffff1f7fffe800001d19fffff047fffe800002089ffffee57fffe000002451ffffec27fffe000002891ffffe9c7fffd800002d41ffffe71]

end Sys2Proof.Machine
end

