-- ==== Sys2Proof/Machine/Sfn.lean ====
section
/-! DEFINITION. The special functions (R121-R125, R229). -/

namespace Sys2Proof.Machine

/-- The quadratic of a table entry at position D (R121): Y, over 2^29. -/
def quadratic (t : List Nat) (j d : Nat) : Int :=
  let k := tableAt t j
  let sq : Nat := d * d / 2 ^ 15
  (k.c0 : Int) + k.c1 * (d : Int) / 2 ^ 20 + k.c2 * (sq : Int) / 2 ^ 16

/-- Floor of `± m * 2^e` (R123). -/
def floorScaled (neg : Bool) (m : Nat) (e : Int) : Int :=
  let v : Int := if neg then -(m : Int) else m
  if 0 ≤ e then v * 2 ^ e.toNat else v / 2 ^ (-e).toNat

/-- The table value of a 23-bit F: j in bits 22:15, D in bits 14:0 (R123). -/
def tableOf (t : List Nat) (x : Nat) : Int := quadratic t (x / 2 ^ 15 % 256) (x % 2 ^ 15)

/-- The exponent and the 23 fraction bits of a finite nonzero magnitude (R123). -/
def normalise (m : Nat) (e : Int) : Int × Nat :=
  let lg := Nat.log2 m
  ((lg : Int) + e, (m - 2 ^ lg) * 2 ^ 23 / 2 ^ lg)

/-- The rounded result of an exact `y * 2^k` (R121). -/
def sfnRound (fm : FFmt) (y : Int) (k : Int) : Nat × FFlags := roundFmt fm false 0 0 (FV.ofInt y (k - 29))

/-- `1.0` of a sign. -/
def onePattern (fm : FFmt) (neg : Bool) : Nat := (roundFmt fm false 0 0 (.fin neg 1 0)).1

/-- Whether `m * 2^e` is at or above `2^k`. -/
def atLeastPow (m : Nat) (e k : Int) : Bool := decide (k ≤ (Nat.log2 m : Int) + e)

/-- One lane of exp2: the reduction of R123 and the bypassed inputs of R124. -/
def sfnExp2 (fm : FFmt) (x : Nat) : Nat × FFlags :=
  match fm.decode x with
  | .nan => (fm.nan, 0)
  | .inf n => (if n then 0 else fm.inf false, 0)
  | .fin neg m e =>
    if m ≠ 0 ∧ !neg ∧ atLeastPow m e 7 then (fm.inf false, flOF ||| flNX)
    else if neg ∧ (FV.fin neg m e).lt (.fin true 160 0) then (0, flUF ||| flNX)
    else
      let X := floorScaled neg m (e + 23)
      sfnRound fm (tableOf tabExp2 (X % 2 ^ 23).toNat) (X / 2 ^ 23)

/-- One lane of log2: the reduction of R123 and the bypassed inputs of R124. -/
def sfnLog2 (fm : FFmt) (x : Nat) : Nat × FFlags :=
  match fm.decode x with
  | .nan => (fm.nan, 0)
  | .inf n => if n then (fm.nan, flNV) else (fm.inf false, 0)
  | .fin neg m e =>
    if m = 0 then (fm.inf true, flDZ)
    else if neg then (fm.nan, flNV)
    else
      let (k, F) := normalise m e
      sfnRound fm (k * 2 ^ 29 + tableOf tabLog2 F) 0

/-- One lane of reciprocal: the reduction of R123 and the bypassed inputs of R124. -/
def sfnRcp (fm : FFmt) (x : Nat) : Nat × FFlags :=
  match fm.decode x with
  | .nan => (fm.nan, 0)
  | .inf n => (if n then fm.signW else 0, 0)
  | .fin neg m e =>
    if m = 0 then (fm.inf neg, flDZ)
    else
      let (k, F) := normalise m e
      let y := tableOf tabRcp F
      sfnRound fm (if neg then -y else y) (-k)

/-- The table value of a root function: `b` is the exponent's low bit (R123). -/
def rootTable (t : List Nat) (k : Int) (F : Nat) : Int :=
  quadratic t (128 * (k % 2).toNat + F / 2 ^ 16 % 128) (F / 2 % 2 ^ 15)

/-- One lane of reciprocal square root: the reduction of R123 and the bypassed inputs of R124. -/
def sfnRsqrt (fm : FFmt) (x : Nat) : Nat × FFlags :=
  match fm.decode x with
  | .nan => (fm.nan, 0)
  | .inf n => if n then (fm.nan, flNV) else (0, 0)
  | .fin neg m e =>
    if m = 0 then (fm.inf neg, flDZ)
    else if neg then (fm.nan, flNV)
    else
      let (k, F) := normalise m e
      sfnRound fm (rootTable tabRsqrt k F) (-(k / 2))

/-- One lane of square root: the reduction of R123 and the bypassed inputs of R124. -/
def sfnSqrt (fm : FFmt) (x : Nat) : Nat × FFlags :=
  match fm.decode x with
  | .nan => (fm.nan, 0)
  | .inf n => if n then (fm.nan, flNV) else (fm.inf false, 0)
  | .fin neg m e =>
    if m = 0 then (if neg then fm.signW else 0, 0)
    else if neg then (fm.nan, flNV)
    else
      let (k, F) := normalise m e
      sfnRound fm (rootTable tabSqrt k F) (k / 2)

/-- The quadrant and 23-bit position of |x| in half-turns (R123). -/
def halfTurns (m : Nat) (e : Int) : Nat × Nat :=
  let t := (floorScaled false m (e + 24) % 2 ^ 25).toNat
  (t / 2 ^ 23, t % 2 ^ 23)

/-- One lane of sin(pi x): the reduction of R123 and the bypassed inputs of R124. -/
def sfnSinpi (fm : FFmt) (x : Nat) : Nat × FFlags :=
  match fm.decode x with
  | .nan => (fm.nan, 0)
  | .inf _ => (fm.nan, flNV)
  | .fin neg m e =>
    if m = 0 then (if neg then fm.signW else 0, 0)
    else if !atLeastPow m e (-12) then roundFmt fm false 0 0 (FV.mul (.fin neg m e) (fmtF32.decode 0x40490FDB)).1
    else
      let (q, F) := halfTurns m e
      let y := tableOf (if q % 2 = 0 then tabSin else tabCos) F
      if y = 0 then (if neg then fm.signW else 0, 0)
      else sfnRound fm (if (decide (2 ≤ q)) != neg then -y else y) 0

/-- One lane of cos(pi x): the reduction of R123 and the bypassed inputs of R124. -/
def sfnCospi (fm : FFmt) (x : Nat) : Nat × FFlags :=
  match fm.decode x with
  | .nan => (fm.nan, 0)
  | .inf _ => (fm.nan, flNV)
  | .fin _ m e =>
    if m = 0 then (onePattern fm false, 0)
    else
      let (q, F) := halfTurns m e
      let y := tableOf (if q % 2 = 0 then tabCos else tabSin) F
      sfnRound fm (if q = 1 ∨ q = 2 then -y else y) 0

/-- One lane of tanh: the reduction of R123 and the bypassed inputs of R124. -/
def sfnTanh (fm : FFmt) (x : Nat) : Nat × FFlags :=
  match fm.decode x with
  | .nan => (fm.nan, 0)
  | .inf n => (onePattern fm n, 0)
  | .fin neg m e =>
    if m = 0 ∨ !atLeastPow m e (-12) then (x, 0)
    else if atLeastPow m e 3 then (onePattern fm neg, flNX)
    else
      let y := tableOf tabTanh (floorScaled false m (e + 20)).toNat
      sfnRound fm (if neg then -y else y) 0

/-- One lane of erf: the reduction of R123 and the bypassed inputs of R124. -/
def sfnErf (fm : FFmt) (x : Nat) : Nat × FFlags :=
  match fm.decode x with
  | .nan => (fm.nan, 0)
  | .inf n => (onePattern fm n, 0)
  | .fin neg m e =>
    if m = 0 then (if neg then fm.signW else 0, 0)
    else if !atLeastPow m e (-12) then roundFmt fm false 0 0 (FV.mul (.fin neg m e) (fmtF32.decode 0x3F906EBB)).1
    else if atLeastPow m e 2 then (onePattern fm neg, flNX)
    else
      let y := tableOf tabErf (floorScaled false m (e + 21)).toNat
      sfnRound fm (if neg then -y else y) 0

/-- An SFN operation: every lane at width 1,024, no mask; result and flags land 14 cycles after commit (R211, R229). -/
def semSfn (row : OpRow) (fn : FFmt → Nat → Nat × FFlags) (f : Form) (s : State) : Sem :=
  let c := s.core
  let x := fetchArgs row { b := noB } f c
  let fm := fmtOf (mET x.m)
  let e := etBits (mET x.m)
  { block := x.block,
    conds := x.conds ++ (if !etFlt (BitVec.ofNat 4 (mET x.m)) || mW x.m ≠ 0 || mME x.m then
      [condReserved 3 (modeInfo f row.op x.m)] else []),
    eff := fun s =>
      let ls := (List.range (1024 / e)).map fun i => fn fm (laneN e i x.a)
      effProduce x 14 (packLanes e (ls.map Prod.fst)) (orFlags (ls.map Prod.snd)) s }

/-- vexp2 (R229). -/
def semVexp2 (f : Form) (s : State) : Sem :=
  semSfn ⟨.SFN, 4, 0x30, 0, 1, .sfn⟩ sfnExp2 f s

/-- vlog2 (R229). -/
def semVlog2 (f : Form) (s : State) : Sem :=
  semSfn ⟨.SFN, 5, 0x31, 0, 1, .sfn⟩ sfnLog2 f s

/-- vrcp (R229). -/
def semVrcp (f : Form) (s : State) : Sem :=
  semSfn ⟨.SFN, 6, 0x32, 0, 1, .sfn⟩ sfnRcp f s

/-- vrsqrt (R229). -/
def semVrsqrt (f : Form) (s : State) : Sem :=
  semSfn ⟨.SFN, 7, 0x33, 0, 1, .sfn⟩ sfnRsqrt f s

/-- vsqrt (R229). -/
def semVsqrt (f : Form) (s : State) : Sem :=
  semSfn ⟨.SFN, 8, 0x34, 0, 1, .sfn⟩ sfnSqrt f s

/-- vsinpi (R229). -/
def semVsinpi (f : Form) (s : State) : Sem :=
  semSfn ⟨.SFN, 9, 0x35, 0, 1, .sfn⟩ sfnSinpi f s

/-- vcospi (R229). -/
def semVcospi (f : Form) (s : State) : Sem :=
  semSfn ⟨.SFN, 10, 0x36, 0, 1, .sfn⟩ sfnCospi f s

/-- vtanh (R229). -/
def semVtanh (f : Form) (s : State) : Sem :=
  semSfn ⟨.SFN, 11, 0x37, 0, 1, .sfn⟩ sfnTanh f s

/-- verf (R229). -/
def semVerf (f : Form) (s : State) : Sem :=
  semSfn ⟨.SFN, 12, 0x38, 0, 1, .sfn⟩ sfnErf f s

end Sys2Proof.Machine
end

