-- ==== Sys2Proof/Machine/Issue.lean ====
section
/-! DEFINITION. Issue: the operations of a bundle or move group judged together, held, committed or stopped (R66, R74-R79,
R159, R187, R420-R423, R434-R437), and native bundles (R72-R76, R150, R181). -/

namespace Sys2Proof.Machine

/-- What the issue logic sees of an operation of the catalogue; none for any other instruction. -/
def semOf (i : Instr) (s : State) : Option Sem :=
  match i with
  | .add f => some (semAdd f s)
  | .sub f => some (semSub f s)
  | .mul f => some (semMul f s)
  | .mulh f => some (semMulh f s)
  | .mulhu f => some (semMulhu f s)
  | .div f => some (semDiv f s)
  | .divu f => some (semDivu f s)
  | .rem f => some (semRem f s)
  | .remu f => some (semRemu f s)
  | .imin f => some (semImin f s)
  | .imax f => some (semImax f s)
  | .minu f => some (semMinu f s)
  | .maxu f => some (semMaxu f s)
  | .iabs f => some (semIabs f s)
  | .addw f => some (semAddw f s)
  | .subw f => some (semSubw f s)
  | .mulw f => some (semMulw f s)
  | .lea f => some (semLea f s)
  | .cmp f => some (semCmp f s)
  | .sel f => some (semSel f s)
  | .cmpn f => some (semCmpn f s)
  | .bitAnd f => some (semBitAnd f s)
  | .bitOr f => some (semBitOr f s)
  | .bitXor f => some (semBitXor f s)
  | .shl f => some (semShl f s)
  | .shr f => some (semShr f s)
  | .sar f => some (semSar f s)
  | .rotr f => some (semRotr f s)
  | .extu f => some (semExtu f s)
  | .exts f => some (semExts f s)
  | .insf f => some (semInsf f s)
  | .cnt f => some (semCnt f s)
  | .bswap f => some (semBswap f s)
  | .br f => some (semBr f s)
  | .jmp f => some (semJmp f s)
  | .call f => some (semCall f s)
  | .callr f => some (semCallr f s)
  | .ret f => some (semRet f s)
  | .loop f => some (semLoop f s)
  | .lexit f => some (semLexit f s)
  | .susp f => some (semSusp f s)
  | .spawn f => some (semSpawn f s)
  | .exit f => some (semExit f s)
  | .crrd f => some (semCrrd f s)
  | .crwr f => some (semCrwr f s)
  | .crset f => some (semCrset f s)
  | .sysCrclr f => some (semSysCrclr f s)
  | .trap f => some (semTrap f s)
  | .tret f => some (semTret f s)
  | .issueat f => some (semIssueat f s)
  | .frmwait f => some (semFrmwait f s)
  | .timeat f => some (semTimeat f s)
  | .accsp f => some (semAccsp f s)
  | .accfl f => some (semAccfl f s)
  | .msps f => some (semMsps f s)
  | .msfl f => some (semMsfl f s)
  | .mark f => some (semMark f s)
  | .pbld f => some (semPbld f s)
  | .psend f => some (semPsend f s)
  | .dwait f => some (semDwait f s)
  | .darm f => some (semDarm f s)
  | .dread f => some (semDread f s)
  | .dadd f => some (semDadd f s)
  | .dset f => some (semDset f s)
  | .vaiAdd f => some (semVaiAdd f s)
  | .vaiSub f => some (semVaiSub f s)
  | .vaiMul f => some (semVaiMul f s)
  | .vaiMulh f => some (semVaiMulh f s)
  | .vaiMin f => some (semVaiMin f s)
  | .vaiMax f => some (semVaiMax f s)
  | .vaiAbs f => some (semVaiAbs f s)
  | .vaiAnd f => some (semVaiAnd f s)
  | .vaiOr f => some (semVaiOr f s)
  | .vaiXor f => some (semVaiXor f s)
  | .vaiShl f => some (semVaiShl f s)
  | .vaiShr f => some (semVaiShr f s)
  | .vaiSar f => some (semVaiSar f s)
  | .vaiCmp f => some (semVaiCmp f s)
  | .vfpAdd f => some (semVfpAdd f s)
  | .vfpSub f => some (semVfpSub f s)
  | .vfpMul f => some (semVfpMul f s)
  | .vfpFma f => some (semVfpFma f s)
  | .vfpFms f => some (semVfpFms f s)
  | .vfpFnma f => some (semVfpFnma f s)
  | .vfpMin f => some (semVfpMin f s)
  | .vfpMax f => some (semVfpMax f s)
  | .vfpAbs f => some (semVfpAbs f s)
  | .vfpNeg f => some (semVfpNeg f s)
  | .vfpCmp f => some (semVfpCmp f s)
  | .vfpScal f => some (semVfpScal f s)
  | .vfpRint f => some (semVfpRint f s)
  | .vfpCpsgn f => some (semVfpCpsgn f s)
  | .vperm f => some (semVperm f s)
  | .vcmpr f => some (semVcmpr f s)
  | .vexpd f => some (semVexpd f s)
  | .vmatch f => some (semVmatch f s)
  | .vredsum f => some (semVredsum f s)
  | .vredmin f => some (semVredmin f s)
  | .vredmax f => some (semVredmax f s)
  | .vscan f => some (semVscan f s)
  | .vcvt f => some (semVcvt f s)
  | .vquant f => some (semVquant f s)
  | .vdqnt f => some (semVdqnt f s)
  | .vbcst f => some (semVbcst f s)
  | .vexp2 f => some (semVexp2 f s)
  | .vlog2 f => some (semVlog2 f s)
  | .vrcp f => some (semVrcp f s)
  | .vrsqrt f => some (semVrsqrt f s)
  | .vsqrt f => some (semVsqrt f s)
  | .vsinpi f => some (semVsinpi f s)
  | .vcospi f => some (semVcospi f s)
  | .vtanh f => some (semVtanh f s)
  | .verf f => some (semVerf f s)
  | .mcfg f => some (semMcfg f s)
  | .mcfgr f => some (semMcfgr f s)
  | .mlgd f => some (semMlgd f s)
  | .mlgs f => some (semMlgs f s)
  | .mdsc f => some (semMdsc f s)
  | .mzero f => some (semMzero f s)
  | .mbeat f => some (semMbeat f s)
  | .mbeatq f => some (semMbeatq f s)
  | .mdrn f => some (semMdrn f s)
  | .mfil f => some (semMfil f s)
  | .mstc f => some (semMstc f s)
  | .ld f => some (semLd f s)
  | .ldLong f => some (semLdLong f s)
  | .st f => some (semSt f s)
  | .stLong f => some (semStLong f s)
  | .ldsp f => some (semLdsp f s)
  | .stsp f => some (semStsp f s)
  | .ldrs f => some (semLdrs f s)
  | .strs f => some (semStrs f s)
  | .gath f => some (semGath f s)
  | .scat f => some (semScat f s)
  | .tagl f => some (semTagl f s)
  | .tagw f => some (semTagw f s)
  | .fes f => some (semFes f s)
  | .fec f => some (semFec f s)
  | .sbind f => some (semSbind f s)
  | .sfree f => some (semSfree f s)
  | .sstat f => some (semSstat f s)
  | .copy f => some (semCopy f s)
  | .bbset f => some (semBbset f s)
  | .bbwait f => some (semBbwait f s)
  | .cmnt f => some (semCmnt f s)
  | .fence f => some (semFence f s)
  | .icinv f => some (semIcinv f s)
  | .tclk f => some (semTclk f s)
  | .tculk f => some (semTculk f s)
  | .aadd f => some (semAadd f s)
  | .amin f => some (semAmin f s)
  | .amax f => some (semAmax f s)
  | .aand f => some (semAand f s)
  | .aor f => some (semAor f s)
  | .axor f => some (semAxor f s)
  | .axchg f => some (semAxchg f s)
  | .acas f => some (semAcas f s)
  | _ => none

/-! ## Conditions and their report (R434-R436) -/

/-- One operation or plain move of a bundle or group: the slot position it takes (R449), the index of its move, and what it
does. -/
structure Part where
  slot : BitVec 3
  move : Nat
  sem : Sem

/-- A condition with the slot and the move that raise it. -/
structure Found where
  slot : BitVec 3
  move : Nat
  cond : Cond
  deriving DecidableEq, Repr

/-- The data error of a datapath check that has failed in a slot in which the bundle at hand executes (R392 CODE 0x0004, R395). -/
def Core.checkFound (c : Core) (ps : List Part) : List Found :=
  match c.check with
  | some (slot, at_) =>
    if at_.all (· == c.ctx.pc) then
      ((ps.find? fun p => p.slot == slot).map fun p => (⟨slot, p.move, ⟨6, 0x30, 4, 15, 0, 0⟩⟩ : Found)).toList
    else []
  | none => []

/-- The accumulator-absent condition (R66, R88). -/
def condAbsent (aown : Word) : Cond := ⟨2, 0x01, 0, 15, aown, 0⟩

/-- Whether the accumulator is absent (R66). -/
def Core.accAbsent (c : Core) : Bool := c.aown != c.creg crSAVEA

/-- The conditions of a part. -/
def Part.found (c : Core) (p : Part) : List Found :=
  (if p.sem.mx && c.accAbsent then [⟨p.slot, p.move, condAbsent c.aown⟩] else []) ++
    p.sem.conds.map fun k => ⟨p.slot, p.move, k⟩

/-- The conditions that are evaluated (R435): rank 8 only where ranks 1-7 find nothing, rank 9 only where nothing does. -/
def evaluated (fs : List Found) : List Found :=
  let a := fs.filter fun f => decide (f.cond.rank ≤ 7)
  if a ≠ [] then a
  else
    let b := fs.filter fun f => decide (f.cond.rank = 8)
    if b ≠ [] then b else fs

/-- The order in which the operands of one move are named (R436). -/
def opndOrder (o : BitVec 4) : Nat :=
  match o with | 4 => 0 | 1 => 1 | 2 => 2 | 3 => 3 | 0 => 4 | 5 => 5 | _ => 6

/-- The place of a condition in the order of R435 and R436: rank, slot, CLASS, CODE, move and operand. -/
def Found.key (f : Found) : Nat :=
  ((((f.cond.rank * 8 + f.slot.toNat) * 2 ^ 8 + f.cond.cls.toNat) * 2 ^ 16 + f.cond.code.toNat) * 2 ^ 8 + f.move % 2 ^ 8) * 8 +
    opndOrder f.cond.opnd

/-- The condition reported (R435). -/
def reported : List Found → Option Found
  | [] => none
  | f :: r => match reported r with
    | some g => if g.key < f.key then some g else some f
    | none => some f

/-- Whether a trap is handled at supervisor level (R87, R419, R438, R461). -/
def supLevel (cls : BitVec 8) (code : BitVec 16) : Bool :=
  cls = 0x01 || cls = 0x02 || cls = 0x12 || cls = 0x20 || cls = 0x21 || cls = 0x30 || cls = 0x42 ||
    (cls = 0x00 && decide (128 ≤ code.toNat))

/-- The slots in which a condition of ranks 2 to 8 was found (R435). -/
def faultMask (fs : List Found) : BitVec 8 :=
  fs.foldl (fun m f => if 2 ≤ f.cond.rank ∧ f.cond.rank ≤ 8 then m ||| ((1 : BitVec 8) <<< f.slot.toNat) else m) 0

/-- The trap registers of a bundle's conditions (R88, R421, R435, R481); none where it has none. -/
def trapOf (all : List Found) (tvpc : Word) : Option TrapInfo :=
  let fs := evaluated all
  match reported fs with
  | none => none
  | some f =>
    let k := f.cond
    let mask : BitVec 8 := if 2 ≤ k.rank ∧ k.rank ≤ 8 then faultMask fs else 0
    let idx := if k.rank = 2 then ((fs.filter fun g => decide (g.cond.rank = 2)).map Found.move).foldl min f.move
      else if k.rank = 9 then 0xFF else f.move
    some { sup := supLevel k.cls k.code, cls := k.cls, code := k.code, tvpc := tvpc,
           tslot := if k.rank = 9 then 0 else (f.slot.setWidth 64 <<< 8) ||| mask.setWidth 64,
           tinfo := k.tinfo, tmove := tmoveOf k.opnd idx, va := k.va }

/-! ## Holding (R60, R76, R338, R353, R399) -/

/-- Gives up the reservations of an open sheet of core `m`: a sheet of its current depth is discarded, one under a trap is
doomed and releases them at once (R338, R448). -/
def State.yieldSheet (s : State) (m : CoreNo) (d : BitVec 2) : State :=
  let c := s.coreAt m
  if c.depth = d then s.discardLate m d
  else match c.sheets.get d with
    | none => s
    | some sh =>
      let s := s.setCoreAt m { c with sheets := c.sheets.put d (some { sh with doomed := true, takes := [], firstResv := none }) }
      (s.untake sh.takes).withMem fun x => x.unlock m sh.gen

/-- The open sheet of a core that has taken a reservation, by depth, with when it took the first (R338). -/
def Core.reserving (c : Core) : Option (BitVec 2 × Nat) :=
  [(2 : BitVec 2), 1, 0].findSome? fun d => match c.sheets.get d with
    | some sh => sh.firstResv.map fun t => (d, t)
    | none => none

/-- Whether a gated entry is the value of a reservation. -/
def Gated.isReserved : Gated → Bool
  | .resv _ _ => true
  | .atomic _ _ _ _ _ _ ret _ => ret
  | _ => false

/-- Two sheets that hold reservations meet (R338): the one whose first is the later is discarded, ties against the higher
core number. A sheet without one waits. A sheet that has committed can no longer be discarded: the open one is (log entry 37). -/
def State.meet (s : State) (n m : CoreNo) : State :=
  match (s.coreAt n).reserving, (s.coreAt m).reserving with
  | some (d, t), some (d', t') =>
    if t' < t ∨ (t' = t ∧ m.toNat < n.toNat) then s.yieldSheet n d else s.yieldSheet m d'
  | some (d, _), none => if (s.coreAt m).committed.any fun e => e.2.isReserved then s.yieldSheet n d else s
  | _, _ => s

/-- What holds a bundle: its own registers, a wait of R338, or a full queue; and the core whose reservation it meets. -/
structure Held where
  regs : Bool := false
  waits : Bool := false
  queue : Bool := false
  meets : Option CoreNo := none
  why : Option WaitOn := none
  /-- What the parts of the bundle that are held otherwise than by registers wait for. -/
  whys : List (Option WaitOn) := []
  deriving DecidableEq, Repr

/-- Whether a pinned copy of the core's own has its padded time still ahead (R351). -/
def State.copyAhead (s : State) (n : CoreNo) (p : BitVec 256 → Bool) : Bool :=
  ((s.coreAt n).copyQ.any fun e => p e.cmd && e.due.isSome && !s.copyRipe n e) ||
  (s.coreAt n).committed.any fun g => match g.2 with | .copy e => p e.cmd && e.due.isSome | _ => false

/-- Whether what a wait of the pinned regime is for will come of the core's own doing at a padded time that is still ahead: the wait is an
ordinary one of R76 up to then, since the core domain must go on for it (R350-R353). -/
def State.comesInTime (s : State) (n : CoreNo) (w : WaitOn) : Bool :=
  let c := s.coreAt n
  let now := s.plat.cycle - c.frozen
  match w with
  | .barrier k => s.copyAhead n fun d => ccBbe d && ccBb d == k
  | .counter k _ => s.copyAhead n fun d => ccDce d && ccDc d == k
  | .granules m gs => m = n && s.copyAhead n fun d =>
      ccDsp d = 1 && gs.any ((granRange (ccDst d).toNat (ccLen d)).contains ·)
  | .stream q =>
    let d := (c.ctx.q.get q).desc
    decide (now < (c.ctx.q.get q).base.headD 0 + s.elementPad n c d (sdAddr d (sdPos d)))
  | .place => s.copyAhead n fun _ => true
  | .room q => c.wbuf.any (fun w => w.q == q && decide (now < w.due)) || c.committed.any fun e => e.2.isPush q

/-- Whether a hold freezes a pinned core (R353): it is not on registers alone, and something that it is for is late. -/
def State.freezes (s : State) (n : CoreNo) (h : Held) : Bool :=
  (h.waits || h.queue) && (s.coreAt n).pin && !(h.whys.all fun w => match w with | some w => s.comesInTime n w | none => false)

/-- The core stays held. A pinned core freezes on what is late (R353), a hold on registers or streams counts for the watchdog (R399), and a
sheet with a reservation gives way and runs again once what held it has come (R338). -/
def State.holdCore (s : State) (n : CoreNo) (h : Held) : State :=
  let c := s.coreAt n
  let other := h.waits || h.queue
  let s := s.setCoreAt n { c with
    stalled := s.freezes n h
    holding := !other || !h.queue && h.whys.all fun w => match w with | some (.stream _) | some (.room _) => true | _ => false }
  match h.meets with
  | some m => s.meet n m
  | none =>
    if h.waits then match (s.coreAt n).sheet with
      | some sh =>
        if sh.firstResv.isSome then
          let t := s.discardLate n (s.coreAt n).depth
          t.setCoreAt n { t.coreAt n with waitOn := h.why }
        else s
      | none => s
    else s

/-- What holds the parts of a bundle, if anything does. -/
def heldBy (ps : List Part) : Option Held :=
  let bs := ps.filter fun p => p.sem.block
  if bs.isEmpty then none
  else some { regs := bs.any fun p => !p.sem.waits && !p.sem.queue, waits := bs.any fun p => p.sem.waits,
              queue := bs.any fun p => p.sem.queue, meets := bs.findSome? fun p => p.sem.meets
              why := bs.findSome? fun p => if p.sem.waits then p.sem.why else none
              whys := (bs.filter fun p => p.sem.waits || p.sem.queue).map fun p => p.sem.why }

/-- What comes of a bundle before it commits: it is held, it is stopped, or it may commit. -/
inductive Judged where
  | held (h : Held)
  | trap (t : TrapInfo)
  | clear
  deriving DecidableEq, Repr

/-- What holds a bundle, if anything does. -/
def Judged.hold : Judged → Option Held
  | .held h => some h
  | _ => none

/-- Whether issueat, frmwait or timeat holds the next bundle of a core (R190-R192, R354). -/
def Core.timeHeld (c : Core) : Bool :=
  match c.hold with
  | .none | .overrun _ _ => false
  | .issueAt t => decide ((c.creg crSFC).toNat < t.toNat) || (c.pin && c.pend ≠ [])
  | .frmWait _ | .timeAt _ => true
  | .settle | .boundary _ _ => c.pend ≠ []

/-- Whether something besides its operands holds the next bundle of a core (R190-R192, R252, R262, R351, R354). -/
def State.holdsNext (s : State) (c : Core) : Bool :=
  decide (s.plat.cycle - c.frozen < c.nextIssue) || c.timeHeld || s.mustFreeze s.cur ||
  c.committed.any fun e => match e.2 with | .streamFree _ | .icinv _ _ _ => true | _ => false

/-! ## Commit (R78, R79, R130, R187) -/

/-- Whether a core stands where a request for pre-emption may take its task (R60, R192): the request does not wait for the next bundle to
issue, and that bundle is not under a hold of the pinned regime, whose outcome would be lost. -/
def Core.mayPart (c : Core) : Bool := !c.waitsIssue && (c.hold = .none || !c.pin)

/-- A stamp that has passed as its bundle issues sets LATE (R190). -/
def Core.stampLate (c : Core) : Core :=
  match c.hold with
  | .issueAt t => if t.toNat < (c.creg crSFC).toNat then c.setLate else c
  | _ => c

/-- A bundle of the open sheet has issued. -/
def Core.beginSheet (c : Core) : Core :=
  match c.sheet with
  | some sh => if sh.begun then c else c.setSheet (some { sh with begun := true })
  | none => c

/-- The bundle issues: what held it is over. -/
def Core.beginIssue (c : Core) : Core :=
  { c.stampLate with hold := .none, waitsIssue := false, stalled := false, holding := false, hung := 0, armHeld := false
                     descAt := none }.beginSheet

/-- The effects of a bundle's parts: explicit writes of flag registers, which what the issue itself sets follows, the operations in order,
the other control-register writes. An explicit write of SEED so comes after the increments of the bundle's mode-4 operations, which it
replaces (R102; DESIGN CHOICE, log entry 48). -/
def applyParts (ps : List Part) (s : State) : State :=
  let s := (ps.foldl (fun s p => p.sem.early s) s).onCore Core.beginIssue
  let s := ps.foldl (fun s p => p.sem.eff s) s
  ps.foldl (fun s p => p.sem.late s) s

/-- The transfers of a bundle (R132); control falls on where it has none. -/
def applyXfers (ps : List Part) (fall : State → State) (s : State) : State :=
  let xs := ps.filterMap fun p => p.sem.xfer
  if xs.isEmpty then fall s else xs.foldl (fun s f => f s) s

/-- The software trap of a bundle (R87, R188), taken with control at the next group. -/
def State.softTrap (s : State) (n : CoreNo) (ps : List Part) : State :=
  match ps.findSome? fun p => p.sem.soft.map fun k => (p.move, k) with
  | none => s
  | some (idx, k) =>
    let c := s.coreAt n
    if c.running.isNone ∨ c.leaving ≠ .none then s
    else
      let t : TrapInfo := { sup := supLevel 0 (k.setWidth 16), cls := 0, code := k.setWidth 16, tvpc := c.ctx.pc, tslot := 0,
                            tinfo := k.setWidth 64, tmove := tmoveOf 4 idx }
      s.setCoreAt n { c with pendTrap := some t }

/-- The lines that a gated entry touches at their homes. -/
def Gated.lines : Gated → List Nat
  | .store pa _ bs => linesOf pa bs.length
  | .atomic pa op z _ _ _ _ _ => linesOf pa (atomicBytes op z)
  | .cmnt ls _ _ => ls
  | .push w => if w.space = 0 then w.runs.flatMap fun r => linesOf r.1 r.2.1 else []
  | _ => []

/-- The core whose reservation the gated entries of a sheet meet that a bundle has committed with a reservation of its own, the state
before and after being `s` and `t` (R325, R330, R338; log entry 37). -/
def State.commitMeets (s t : State) (n : CoreNo) : Option CoreNo :=
  let gs := ((t.coreAt n).committed.drop (s.coreAt n).committed.length).map Prod.snd
  if gs.any Gated.isReserved then (gs.flatMap Gated.lines).findSome? (s.mem.lineHolder n) else none

/-- Commits a bundle on the current core. -/
def State.commitParts (s : State) (ps : List Part) (fall : State → State) : State :=
  ((applyXfers ps fall (applyParts ps s)).softTrap s.cur ps)

/-- The spoiled sheet of a core that a bundle has brought to a commit point, the state before and after being `s` and `t` (R394). -/
def State.spoilt (s t : State) (n : CoreNo) : Option Sheet :=
  match (s.coreAt n).sheet with
  | some sh => if sh.spoiled && !((t.coreAt n).sheets.get (s.coreAt n).depth).any (fun x => x.gen == sh.gen) then some sh else none
  | none => none

/-- Commits a bundle or group on the current core, `s0` being the state before its moves; one that would commit a sheet whose entries
meet another sheet's reservation is held, and one that would commit a spoiled sheet ends in its discard. -/
def State.commitChecked (s s0 : State) (ps : List Part) (fall : State → State) : State :=
  let t := s.commitParts ps fall
  match s0.commitMeets t s.cur, s0.spoilt t s.cur with
  | some m, _ => s0.holdCore s.cur { waits := true, meets := some m }
  | none, some sh => s0.spoilSheet s.cur sh
  | none, none => t

/-- A bundle stops with a trap: an overrun that is outranked lapses and sets LATE (R435). -/
def Core.stopWith (c : Core) (t : TrapInfo) : Core :=
  let c := match c.hold with
    | .overrun _ _ => if t.cls = 0x41 then { c with hold := .none } else { c with hold := .none }.setLate
    | _ => c
  { c with pendTrap := some t, stalled := false, holding := false, check := none }

/-- The pinned overrun that a hold has become (R354, R481). -/
def Core.overrunFound (c : Core) : List Found :=
  match c.hold with
  | .overrun code tinfo => [⟨0, 0xFF, ⟨9, 0x41, code, 15, tinfo, 0⟩⟩]
  | _ => []

/-- Judges the parts of a bundle, with the conditions that no part of it raises (R76, R434, R435): held by operands, queues and waits, then
by descriptors where nothing above rank 8 stops it, then stopped. -/
def Core.judge (c : Core) (ps : List Part) (more : List Found) : Judged :=
  match heldBy ps with
  | some h => .held h
  | none =>
    let fs := more ++ (ps.flatMap (Part.found c)) ++ c.checkFound ps
    if (ps.any fun p => p.sem.fills) && fs.all (fun f => decide (8 ≤ f.cond.rank)) then .held { regs := true }
    else match trapOf (fs ++ c.overrunFound) c.ctx.pc with
      | some t => .trap t
      | none => .clear

/-! ## An operation by itself -/

/-- The guard of a form (R74); a trigger's guard is its move's. -/
def Core.guardOf (c : Core) : Form → Bool
  | .wy _ => true
  | .nat _ gn g _ => c.ctx.guard gn g

/-- The slot position of an operation by itself: its slot, or the lowest its unit may take (R158, R449). -/
def unitSlot (u : Unit13) : BitVec 3 :=
  match u with
  | .INT | .BIT | .BRC | .SYS => 0
  | .PKT => 1
  | .VAI | .VFP | .VPM => 2
  | .SFN => 4
  | .MTX => 5
  | .LDS | .XFR | .ATM => 6

/-- The slot of a form. -/
def formSlot (row : OpRow) : Form → BitVec 3
  | .wy _ => unitSlot row.unit
  | .nat slot _ _ _ => slot

/-- An operation issued by itself on the current core: its guard, its holds, its conditions, and its effect (R74-R79). -/
def issueSem (row : OpRow) (f : Form) (m : Sem) (s : State) : State :=
  let c := s.core
  if !c.guardOf f then s
  else
    let p : Part := { slot := formSlot row f, move := 0, sem := m }
    match c.judge [p] [] with
    | .held h => s.holdCore s.cur h
    | .trap t => s.onCore (Core.stopWith · t)
    | .clear => s.commitParts [p] id

/-- The meaning of an operation of the catalogue by itself; an ill-formed term faults. -/
def issueOp (i : Instr) (m : Sem) (s : State) : Host.Outcome State Fault Refusal :=
  match opRow i with
  | some (row, f) => if formOk row f then .next (issueSem row f m s) else .fault .illFormed
  | none => .fault .illFormed

end Sys2Proof.Machine
end

