-- ==== Sys2Proof/Machine/Moves.lean ====
section
/-! DEFINITION. Move groups (R130-R137, R139-R141): what a move reads and writes, stream pops and pushes (R82, R83, R428), the
positions of a group's moves (R449), and the group as one bundle (R79, R341, R436). -/

namespace Sys2Proof.Machine

/-! ## Streams (R82, R83, R428) -/

/-- Whether an element of a stream lies outside its space, breaks its alignment, or lies in a slice that the tenant does not
own (R81, R243, R428 CODE 0x0008). A stream's staging space is its own cluster's. -/
def State.elementBad (s : State) (n : CoreNo) (d : BitVec 256) (a : Word) : Bool :=
  a.toNat % sdAlign d ≠ 0 || (outside (sdSpace d) a (sdBytes d)).isSome ||
  (sdSpace d = 2 && (a.toNat / 2 ^ 24 ≠ clusterOf n || (s.unowned (s.coreAt n).tenant a (sdBytes d)).isSome))

/-- The TINFO of an element fault (R428). -/
def elementInfo (q : BitVec 3) (a : Word) : Word := q.setWidth 64 ||| (a <<< 8)

/-- A move's source as read: its value, what holds it, the empty stream among it, its conditions, and the tag a carrying move copies
(R396). -/
structure MRead where
  val : Vec := 0
  block : Bool := false
  why : Option WaitOn := none
  conds : List Cond := []
  tag : Option Word := none
  mx : Bool := false
  deriving DecidableEq, Repr

/-- The faults of an access to a stream, a push or a pop (R428, R435): of one that is not bound; else of one that is used up, of the other
direction, or whose next element is bad. -/
def State.streamConds (s : State) (n : CoreNo) (q : BitVec 3) (d : BitVec 256) (opnd : BitVec 4) (push : Bool) : List Cond :=
  let a := sdAddr d (sdPos d)
  if !sdBound d then [condStream 1 opnd (q.setWidth 64)]
  else
    (if sdTotal d ≤ sdPos d then [condStream (if push then 3 else 2) opnd (q.setWidth 64)] else []) ++
    (if sdWrite d ≠ push then [condStream (if push then 5 else 4) opnd (q.setWidth 64)] else []) ++
    (if sdPos d < sdTotal d ∧ s.elementBad n d a then [condStream 8 opnd (elementInfo q a)] else [])

/-- Pops the next element of a read stream (R82): the core goes on with POS one on. -/
def State.pop (s : State) (n : CoreNo) (c : Core) (q : BitVec 3) (opnd : BitVec 4) : MRead × Core :=
  let st := c.ctx.q.get q
  let d := st.desc
  let now := s.plat.cycle - c.frozen
  let own := s.streamConds n q d opnd false
  if own ≠ [] then ({ conds := own }, c)
  else match st.fetched with
    | [] => ({ block := true, why := some (.stream q) }, c)
    | e :: r =>
      if now < e.due then ({ block := true, why := some (.stream q) }, c)
      else
        ({ val := e.val
           conds := (match e.fault with | some (code, va) => [⟨8, 0x21, code, 4, va, 0⟩] | none => []) ++
             (match e.tag with | some t => [⟨6, 0x30, 2, opnd, tagPlain t, t⟩] | none => []) },
         let st' : Stream := { desc := sdSetPos d (sdPos d + 1), fetched := r, base := st.base ++ [now] }
         { c with ctx := { c.ctx with q := c.ctx.q.put q st' } })

/-- What a push finds: whether the stream has room, the conditions it meets, and the element to be gated with its translations (R83, R428,
R443). -/
structure MPush where
  block : Bool := false
  conds : List Cond := []
  elem : Option StreamWrite := none
  tlb : List TlbEntry := []
  deriving DecidableEq, Repr

/-- Judges a push of a value to a stream (R83). The elements that the open sheet has pushed leave only as it commits, and take no place
before (DESIGN CHOICE, log entry 71: the spec does not say whether they count). -/
def State.judgePush (s : State) (n : CoreNo) (c : Core) (q : BitVec 3) (v : Vec) : MPush :=
  let d := (c.ctx.q.get q).desc
  let a := sdAddr d (sdPos d)
  let k := sdBytes d
  let own := s.streamConds n q d 5 true
  if own ≠ [] then { conds := own }
  else
    let full := decide (streamDepth ≤ (c.wbuf.filter fun w => w.q == q).length + (c.committed.filter fun e => e.2.isPush q).length)
    let w (runs : List (Nat × Nat × Bool)) : StreamWrite :=
      { q := q, space := sdSpace d, runs := runs, bytes := leBytes k v.toNat }
    if sdSpace d = 0 then
      match translateRange s n c.tenant c.priv a k .write with
      | .error e => { block := full, conds := [condPage .write e] }
      | .ok (runs, es) => { block := full, elem := some (w runs), tlb := es }
    else { block := full, elem := some (w [(a.toNat, k, false)]) }

/-- Takes a pushed element: POS goes one on and the element is gated (R83, R337); in the pinned regime its place is free one
padded latency later (R351). -/
def Core.takePush (c : Core) (q : BitVec 3) (now : Nat) (w : StreamWrite) : Core :=
  let st := c.ctx.q.get q
  let c := { c with ctx := { c.ctx with q := c.ctx.q.put q { st with desc := sdSetPos st.desc (sdPos st.desc + 1) } } }
  c.gate (.push { w with due := if c.pin then now + streamPad w.space else 0, no := c.ops })

/-! ## Sources and destinations (R133, R140) -/

/-- Whether a move's destination is a trigger port (R128). -/
def GMove.isTrigger (m : GMove) : Bool := m.dst.getLsbD 11 && decide (4 ≤ (bits m.dst 0 5 : BitVec 5).toNat)

/-- The class and index of a register reference (R140). -/
def refClass (r : BitVec 12) : BitVec 3 := bits r 8 3
def refIndex (r : BitVec 12) : BitVec 8 := bits r 0 8

/-- Whether a move is a carrying move (R396): from a register or result port to an s or v register. -/
def GMove.carries (m : GMove) : Bool :=
  m.form = 0 && !m.dst.getLsbD 11 && decide ((refClass m.dst).toNat < 2) &&
  (m.src.getLsbD 11 || decide ((refClass m.src).toNat < 2))

/-- The operand a condition of a move's source names: the trigger value, or the source of a plain move (R71, R421). -/
def GMove.opnd (m : GMove) : BitVec 4 := if m.isTrigger then 4 else 0

/-- A tagged source: copied by a carrying move, consumed by any other (R396). -/
def MRead.tagged (r : MRead) (m : GMove) (c : Core) (d : Dst) : MRead :=
  let r := { r with conds := r.conds ++ ownConds c d m.opnd }
  match c.tagOf d with
  | none => r
  | some a => if m.carries then { r with tag := some a } else { r with conds := r.conds ++ [⟨6, 0x30, 2, m.opnd, tagPlain a, a⟩] }

/-- Reads a move's source (R130, step 2; R133, R134): the second component is the core after a pop. -/
def State.readMove (s : State) (n : CoreNo) (c : Core) (m : GMove) : MRead × Core :=
  if m.form ≠ 0 then ({ val := wide m.imm }, c)
  else if m.src.getLsbD 11 then
    let ix : BitVec 6 := bits m.src 5 6
    let p := c.port ix
    let res : BitVec 5 := bits m.src 0 5
    let (v, d) : PortVal × Dst := if res = 0 then (p.y, .y ix) else if res = 1 then (p.z, .z ix) else (p.f, .none)
    match v with
    | .void => ({ conds := [condOperand 3 m.opnd 0] }, c)
    | .wait => ({ block := true }, c)
    | .val x => (MRead.tagged { val := x } m c d, c)
  else
    let i := refIndex m.src
    match refClass m.src with
    | 0 => (MRead.tagged { val := wide (c.ctx.rdS (i.setWidth 6)), block := !c.ctx.fullS (i.setWidth 6) } m c (.s (i.setWidth 6)), c)
    | 1 => (MRead.tagged { val := c.ctx.rdV (i.setWidth 5), block := !c.ctx.fullV (i.setWidth 5) } m c (.v (i.setWidth 5)), c)
    | 2 => ({ val := (BitVec.ofBool (c.ctx.rdP (i.setWidth 4))).setWidth 1024, conds := ownConds c (.p (i.setWidth 4)) m.opnd }, c)
    | 3 => ({ val := (c.ctx.k.get (i.setWidth 3)).setWidth 1024, conds := ownConds c (.k (i.setWidth 3)) m.opnd }, c)
    | 4 => s.pop n c (i.setWidth 3) m.opnd
    | 5 => ({ val := wide (s.crRead i), conds := crConds c i false m.opnd ++ crBadConds c i m.opnd, mx := crIsMx i }, c)
    | _ => ({ val := c.acc.get (i.setWidth 5), conds := mxConds c [(i.setWidth 5).toNat], mx := true }, c)

/-- The register destination of a move, as one that a producer may be outstanding to. -/
def GMove.dstReg (m : GMove) : Dst :=
  if m.dst.getLsbD 11 then .none
  else match refClass m.dst with
    | 0 => .s ((refIndex m.dst).setWidth 6)
    | 1 => .v ((refIndex m.dst).setWidth 5)
    | _ => .none

/-- Writes a move's value to its latch, register or acc row (R130, step 3; R133); streams and control registers are written
at commit. -/
def Core.writeMove (c : Core) (m : GMove) (v : Vec) (tag : Option Word) : Core :=
  if m.dst.getLsbD 11 then
    let ix : BitVec 6 := bits m.dst 5 6
    let p := c.port ix
    let code : BitVec 5 := bits m.dst 0 5
    c.setPort ix (if code = 1 then { p with b := some v } else if code = 2 then { p with c := some v }
      else if code = 3 then { p with m := v.setWidth 32 } else { p with a := some v })
  else
    let i := refIndex m.dst
    match refClass m.dst with
    | 0 => if i = 0 then c else (c.wrDst (.s (i.setWidth 6)) v).retag (.s (i.setWidth 6)) tag
    | 1 => (c.wrDst (.v (i.setWidth 5)) v).retag (.v (i.setWidth 5)) tag
    | 2 => (c.wrDst (.p (i.setWidth 4)) v).retag (.p (i.setWidth 4)) none
    | 3 => (c.wrDst (.k (i.setWidth 3)) v).retag (.k (i.setWidth 3)) none
    | 6 => { c with acc := c.acc.put (i.setWidth 5) v }.mxRepair [(i.setWidth 5).toNat]
    | _ => c

/-! ## Positions (R449) -/

/-- The positions an operation of a unit may take (R72, R158). -/
def unitSlots (u : Unit13) : List (BitVec 3) :=
  match u with
  | .INT | .BIT | .BRC | .SYS => [0, 1]
  | .PKT => [1]
  | .VAI | .VFP | .VPM => [2, 3, 4]
  | .SFN => [4]
  | .MTX => [5]
  | .LDS | .XFR | .ATM => [6, 7]

/-- The positions an operation may take, by its unit and trigger code: lea, sel and loop take S0 alone (R158). -/
def opSlots (u : Unit13) (code : BitVec 5) : List (BitVec 3) :=
  if (u = .INT && (code = 21 || code = 23)) || (u = .BRC && code = 9) then [0] else unitSlots u

/-- The positions of a group's operations, by port, in the order of the trigger moves: the lowest allowed one that no
earlier operation holds, else the lowest allowed. -/
def triggerSlots (ms : List GMove) : List (BitVec 6 × BitVec 3) :=
  ms.foldl (fun acc m =>
    if m.isTrigger then match portOf m.dst with
      | some (u, ix, code) =>
        let free := (opSlots u code).find? fun k => !(acc.any fun e => e.2 == k)
        acc ++ [(ix, free.getD (unitSlot u))]
      | none => acc
    else acc) []

/-- The position of a move. -/
def slotOfMove (ts : List (BitVec 6 × BitVec 3)) (m : GMove) : BitVec 3 :=
  match portOf m.dst with
  | some (u, ix, _) => match ts.find? fun e => e.1 == ix with | some e => e.2 | none => unitSlot u
  | none => match refClass m.dst with
    | 1 | 3 => 2
    | 4 => 6
    | 6 => 5
    | _ => 0

/-! ## A group as one bundle -/

/-- What a plain move or the move part of a trigger is to the issue logic: its source's holds and conditions, the conditions
of its destination, and its push or control-register write. -/
def State.movePart (s : State) (n : CoreNo) (slot : BitVec 3) (idx : Nat) (m : GMove) (r : MRead) : Part :=
  let c := s.coreAt n
  let isReg := !m.dst.getLsbD 11
  let i := refIndex m.dst
  let cls := refClass m.dst
  let base : Sem := { block := r.block || c.outstanding m.dstReg, waits := r.why.isSome, why := r.why, conds := r.conds,
                      mx := r.mx || (isReg && (cls = 6 || (cls = 5 && crIsMx i))) }
  let sem : Sem :=
    if isReg && cls = 5 then
      let write (t : State) : State := t.crUpdate i fun _ => crWritten i (s.crRead i) (r.val.setWidth 64)
      { base with conds := r.conds ++ crConds c i true 5
                  early := if crIsFlags i then fun t => (write t).afterWrite i else id
                  late := if crIsFlags i then id else write }
    else if isReg && cls = 4 then
      let p := s.judgePush n c (i.setWidth 3) r.val
      { base with block := base.block || p.block, queue := p.block && !r.block, conds := r.conds ++ p.conds
                  why := if p.block && !r.block then some (.room (i.setWidth 3)) else r.why
                  early := match p.elem with
                    | some w => fun t => (t.keepTlb t.cur p.tlb).onCore fun c => c.takePush (i.setWidth 3) t.now w
                    | none => id }
    else base
  { slot := slot, move := idx, sem := sem }

/-- An operation some of whose operands could not be read, `other` being the same one with other values in their place: what it finds rests
on no value that was not read (R435). -/
def Sem.unread (m other : Sem) : Sem := { m with conds := m.conds.filter other.conds.contains, block := m.block && other.block }

/-- A move's source with another value where it could not be read. -/
def MRead.other (r : MRead) : MRead := if r.conds.isEmpty then r else { r with val := ~~~r.val }

/-- A group's moves with their index that execute (R130, step 1; R131). -/
def executing (c : Core) (ms : List GMove) : List (Nat × GMove) :=
  ((List.range ms.length).zip ms).filter fun e => c.ctx.guard e.2.n e.2.g

/-- The reads of the executing moves, in move order, and the core after their pops (R130, step 2). -/
def State.readMoves (s : State) (n : CoreNo) (c : Core) : List (Nat × GMove) → List (Nat × GMove × MRead) × Core
  | [] => ([], c)
  | (i, m) :: r =>
    let (x, c1) := s.readMove n c m
    let (xs, c2) := State.readMoves s n c1 r
    ((i, m, x) :: xs, c2)

/-- The breakpoint that stands at a group, if an enabled one does (R87, R88, R91). -/
def Core.breakpoint (c : Core) : Option TrapInfo :=
  let ctl := c.creg crBRKCTL
  let a := ctl.getLsbD 0 && c.creg crBRKA = c.ctx.pc
  let b := ctl.getLsbD 1 && c.creg crBRKB = c.ctx.pc
  if c.ctx.brkSkip || !(a || b) then none
  else some { sup := true, cls := 2, code := 0, tvpc := c.ctx.pc, tslot := 0,
              tinfo := if a then c.ctx.pc else c.ctx.pc ||| 1, tmove := tmoveOf 15 0xFF }

/-- Whether an enabled breakpoint stands in a range of text (R87). -/
def Core.breakIn (c : Core) (va : Word) (words : Nat) : Bool :=
  let ctl := c.creg crBRKCTL
  let hit (a : Word) : Bool := decide (va.toNat ≤ a.toNat) && decide (a.toNat < va.toNat + 4 * words)
  (ctl.getLsbD 0 && hit (c.creg crBRKA)) || (ctl.getLsbD 1 && hit (c.creg crBRKB))

/-- Whether an enabled breakpoint stands in the text of the open sheet. -/
def Core.breakAhead (c : Core) : Bool := match c.sheet with | some sh => c.breakIn sh.entry sh.text.length | none => false

/-- A sheet that a group stops with a fault, a breakpoint or an absent accumulator is discarded and run again from its entry, one
group per bundle, until the group raises the trap itself (R150, R341). -/
def State.replaySheet (s : State) (n : CoreNo) : State :=
  let c := s.coreAt n
  match c.sheet with
  | none => s
  | some sh =>
    let s := s.discardSheet n c.depth
    let c := (s.coreAt n).openSheet sh.text none false
    s.setCoreAt n c.byGroups

/-- A group of a core stops with a trap (R341): a sheet that does not run one group per bundle yet is replayed first. A pinned overrun of a
hold that an earlier sheet has set stands through the replay; one that the sheet itself sets is met again by it (R354, R481). -/
def State.stopGroup (s : State) (n : CoreNo) (t : TrapInfo) : State :=
  let c := s.coreAt n
  let stop : State := s.setCoreAt n { c.stopWith { t with time := s.mtime } with group := [] }
  match c.sheet with
  | some sh => if sh.replay then stop else s.replaySheet n
  | none => stop

/-- Whether a move triggers spawn, which comes after every other effect of its group (R132). -/
def GMove.spawns (m : GMove) : Bool := match portOf m.dst with | some (.BRC, _, k) => k = 12 | _ => false

/-- The value written to a trigger is its operand a (R128). -/
def State.operandA (s : State) (n : CoreNo) (m : GMove) (v : Vec) : State :=
  let c := s.coreAt n
  let ix : BitVec 6 := bits m.dst 5 6
  s.setCoreAt n (c.setPort ix { c.port ix with a := some v })

/-- The state in which a group's operations start: its moves read and written (R130, steps 2 and 3); with the parts of its
moves and of its operations. -/
def State.groupParts (s : State) (n : CoreNo) (ms : List GMove) : State × List Part × List Part :=
  let c := s.coreAt n
  let ts := triggerSlots ms
  let (rs, c1) := s.readMoves n c (executing c ms)
  let write (g : MRead → MRead) : State := s.setCoreAt n (rs.foldl (fun c (_, m, r) => c.writeMove m (g r).val r.tag) c1)
  let s1 := write id
  let moves := rs.map fun (i, m, r) => s.movePart n (slotOfMove ts m) i m r
  let lost := rs.any fun (_, _, r) => !r.conds.isEmpty
  let part (st other : State) (i : Nat) (m : GMove) (r : MRead) : Option Part :=
    match decodeTrigger m.dst with
    | some op => (semOf op (st.operandA n m r.val)).map fun x =>
      let y := if lost then semOf op (other.operandA n m r.other.val) else none
      { slot := slotOfMove ts m, move := i, sem := match y with | some y => x.unread y | none => x : Part }
    | none => none
  let ops := rs.filterMap fun (i, m, r) => if m.isTrigger ∧ ¬ m.spawns then part s1 (write MRead.other) i m r else none
  let after := applyParts (moves ++ ops) s1
  let spawns := rs.filterMap fun (i, m, r) => if m.spawns then part after after i m r else none
  (s1, moves, ops ++ spawns)

/-- The data errors of the guards that a group's moves read (R131, R392, R395). -/
def guardFound (c : Core) (ms : List GMove) : List Found :=
  ((List.range ms.length).zip ms).flatMap fun (i, m) =>
    (ownConds c (.p m.g) 15).map fun k => { slot := slotOfMove (triggerSlots ms) m, move := i, cond := k }

/-- Judges a group as one bundle (R76, R130, R435): what its operations find is of no use while a source of its moves is still to come. -/
def Core.judgeGroup (c : Core) (ms : List GMove) (moves ops : List Part) : Judged :=
  if c.pend ≠ [] then .held { regs := true }
  else c.judge (moves ++ (if moves.any (fun p => p.sem.block) then [] else ops)) (guardFound c ms)

/-- A failed check names the group at an address, which has issued without it (R392). -/
def Core.checkOver (c : Core) (at_ : Word) : Core :=
  match c.check with
  | some (_, a) => if a = some at_ then { c with check := none } else c
  | none => c

/-- Runs a whole group of `words` words on core `n` as one bundle: held, stopped, or committed with control at the next group
(R76, R79, R130, R437). -/
def State.issueGroup (s : State) (n : CoreNo) (ms : List GMove) (words : Nat) : State :=
  let s := { s with cur := n }
  let c := s.core
  if s.holdsNext c then s
  else match c.breakpoint with
    | some t => s.stopGroup n t
    | none =>
      let (s1, moves, ops) := s.groupParts n ms
      match c.judgeGroup ms moves ops with
      | .held h => s.holdCore n h
      | .trap t => s.stopGroup n t
      | .clear =>
        let was := c.ctx.pc
        let s2 := s1.onCore fun c => { c.checkOver was with
          group := [], ctx := { c.ctx with pc := was + BitVec.ofNat 64 (4 * words), brkSkip := false } }
        s2.commitChecked s (moves ++ ops) fun t => t.fallOn n was

/-- A move of the group at hand: kept until the group is whole, which its last move makes it (R139). -/
def State.takeMove (s : State) (e : BitVec 1) (m : GMove) : State :=
  let c := s.core
  if e = 0 then s.setCore { c with group := c.group ++ [m] }
  else
    let ms := c.group ++ [m]
    s.issueGroup s.cur ms (ms.map GMove.words).sum

/-- MOVE_REGISTER (R139, form 0). -/
def execMoveRegister (e n : BitVec 1) (g : BitVec 4) (d src : BitVec 12) (s : State) : Host.Outcome State Fault Refusal :=
  if WellFormed (.moveRegister e n g d src) then .next (s.takeMove e ⟨n, g, 0, d, src, 0⟩) else .fault .illFormed

/-- MOVE_IMMEDIATE12 (R139, form 1). -/
def execMoveImmediate12 (e n : BitVec 1) (g : BitVec 4) (d imm : BitVec 12) (s : State) : Host.Outcome State Fault Refusal :=
  if WellFormed (.moveImmediate12 e n g d imm) then .next (s.takeMove e ⟨n, g, 1, d, imm, imm.signExtend 64⟩) else .fault .illFormed

/-- MOVE_IMMEDIATE32 (R139, form 2). -/
def execMoveImmediate32 (e n : BitVec 1) (g : BitVec 4) (d : BitVec 12) (imm : BitVec 32) (s : State) :
    Host.Outcome State Fault Refusal :=
  if WellFormed (.moveImmediate32 e n g d imm) then .next (s.takeMove e ⟨n, g, 2, d, 0, imm.signExtend 64⟩) else .fault .illFormed

/-- MOVE_IMMEDIATE64 (R139, form 3). -/
def execMoveImmediate64 (e n : BitVec 1) (g : BitVec 4) (d : BitVec 12) (imm : BitVec 64) (s : State) :
    Host.Outcome State Fault Refusal :=
  if WellFormed (.moveImmediate64 e n g d imm) then .next (s.takeMove e ⟨n, g, 3, d, 0, imm⟩) else .fault .illFormed

end Sys2Proof.Machine
end

