-- ==== Sys2Proof/Machine/Bundle.lean ====
section
/-! DEFINITION. Native bundles (R72-R79, R150, R181, R422, R423), and BUNDLE_ISSUE. -/

namespace Sys2Proof.Machine

/-! ## Slots -/

/-- The decode fault of a refused slot word (R422). -/
def decodeCode : Reject → BitVec 16
  | .undefinedOpcode => 1
  | .illegalGuard => 3
  | .partialOverlap => 5
  | _ => 2

/-- A decode fault (R422, R434). -/
def condDecode (code : BitVec 16) : Cond := ⟨3, 0x10, code, 15, 0, 0⟩

/-- A slot of a bundle: idle, with a decode fault, or an executing operation (R73, R74). -/
inductive SlotRead where
  | idle
  | bad (code : BitVec 16)
  | op (i : Instr)
  deriving DecidableEq, Repr

/-- Reads a slot (R73-R75): an illegal guard faults in any slot, a slot whose guard is false is not decoded further. -/
def readSlot (c : Core) (slot : BitVec 3) (w ext : BitVec 32) : SlotRead :=
  if w = 0 then .idle
  else if !guardOk (bits w 4 1) (bits w 0 4) then .bad 3
  else if !c.ctx.guard (bits w 4 1) (bits w 0 4) then .idle
  else match decodeSlot slot w ext with
    | .error r => .bad (decodeCode r)
    | .ok none => .idle
    | .ok (some i) => .op i

/-- The slots of a bundle's eight words, the right slots that long forms take over left idle (R75). -/
def readSlots (c : Core) (ws : List (BitVec 32)) : List (BitVec 3 × SlotRead) :=
  (List.range 8).map fun k =>
    let slot : BitVec 3 := BitVec.ofNat 3 k
    let taken := (k = 1 || k = 3 || k = 7) && takesRight (slot - 1) (ws.getD (k - 1) 0)
    (slot, if taken then .idle else readSlot c slot (ws.getD k 0) (ws.getD (k + 1) 0))

/-- The parts of a bundle: its executing operations and decode faults, and the illegal bundle of two control transfers (R159,
R422 CODE 0x0004). -/
def State.bundleParts (s : State) (ws : List (BitVec 32)) : List Part :=
  let ps := (readSlots s.core ws).filterMap fun (slot, r) => match r with
    | .idle => none
    | .bad code => some ({ slot := slot, move := 0xFF, sem := { conds := [condDecode code] } } : Part)
    | .op i => (semOf i s).map fun m =>
      let g := ownConds s.core (.p (bits (ws.getD slot.toNat 0) 0 4)) 15
      ({ slot := slot, move := 0xFF, sem := { m with conds := m.conds ++ g } } : Part)
  let isCtl (p : Part) : Bool := p.sem.ctl || p.sem.soft.isSome
  if 1 < (ps.filter isCtl).length then
    ps.map fun p => if isCtl p then { p with sem := { p.sem with conds := condDecode 4 :: p.sem.conds } } else p
  else ps

/-! ## A native bundle -/

/-- Whether a reported condition is an image defect (R423). -/
def TrapInfo.defect (t : TrapInfo) : Bool := t.cls = 0x10 || (t.cls = 0x11 && t.code = 1)

/-- The groups of a text, from word offset `off` on. -/
def groupsOf (text : List (BitVec 32)) : Nat → Nat → List (List GMove)
  | 0, _ => []
  | fuel + 1, off => match groupAt text off with
    | .group ms k => ms :: groupsOf text fuel (off + k)
    | _ => []

/-- The classes of conditions that a plain move can raise: an empty or void read, a control register, a stream, a page fault of a stream's
element and a data error (R436). -/
def plainRaises (cls : BitVec 8) : Bool := [0x11, 0x12, 0x14, 0x21, 0x30].contains cls

/-- Whether no move of the open sheet's text can raise the condition that a slot of a native bundle reports (R436): none triggers an
operation of its unit, and no plain move raises conditions of its class. Which move could raise it the spec does not say otherwise
(DEDUCED, log entry 73). -/
def State.noReplay (s : State) (n : CoreNo) (slots : List (BitVec 3 × SlotRead)) (t : TrapInfo) : Bool :=
  let first : BitVec 3 := bits t.tslot 8 3
  let ms := match (s.coreAt n).sheet with | some sh => (groupsOf sh.text (sh.text.length + 1) 0).flatten | none => []
  2 ≤ t.cls.toNat && t.cls ≠ 0x41 && (slots.find? fun x => x.1 == first).any fun x => match x.2 with
  | .op i => (opRow i).any fun r =>
      !(ms.any fun m => (m.isTrigger && (portOf m.dst).any fun p => p.1 = r.1.unit) || (!m.isTrigger && plainRaises t.cls))
  | _ => false

/-- An image defect is taken without replay (R423, R436). -/
def State.imageDefect (s : State) (n : CoreNo) (e : SheetMapEntry) (im : ImageRef) (k : Nat) (ws : List (BitVec 32)) (t : TrapInfo) :
    State :=
  let c := s.coreAt n
  let first := (bits t.tslot 8 3 : BitVec 3).toNat
  let s := s.discardSheet n c.depth
  let c := s.coreAt n
  s.setCoreAt n (c.stopWith { t with
    tvpc := im.text + BitVec.ofNat 64 e.vent, time := s.mtime
    tmove := tmoveOf 15 0xFF
    tinfo := ws.getD first 0 ++ BitVec.ofNat 32 k })

/-- Whether bundle `k` is the last of the kernel of the innermost active loop (R85, R183): by its native length, or, where the loop was
not started natively, the last of the loop sheet that the kernel is (log entry 21). -/
def Core.endsKernel (c : Core) (im : ImageRef) (e : SheetMapEntry) (k : Nat) : Bool :=
  match c.ctx.loops with
  | [] => false
  | l :: _ =>
    let body := lcBody (c.ctx.lc.get l)
    let len := c.kernels.get l
    if len = 0 then e.loop && body = im.text + BitVec.ofNat 64 e.vent && decide (e.nent + e.nbs ≤ k + 1)
    else match im.sheetAt body with | some b => k + 1 == b.nent + len | none => false

/-- Control falls on from bundle `k` of a native sheet: past the end of a kernel pass, to the next bundle, or out of the sheet
(R85, R150; log entry 21). -/
def State.nativeFall (s : State) (n : CoreNo) (im : ImageRef) (e : SheetMapEntry) (k : Nat) : State :=
  let c := s.coreAt n
  let here := im.text + BitVec.ofNat 64 e.vent
  let leave (next : Word) : State :=
    let t := s.setCoreAt n { c with ctx := { c.ctx with pc := next } }
    if (t.endsPass n here).isSome then State.passEnds n here 4 t else s.transfer n next
  match c.ctx.loops, c.endsKernel im e k with
  | l :: _, true => leave (s.afterKernel n l)
  | _, _ =>
    if k + 1 < e.nent + e.nbs ∧ (im.sheetOfBundle (k + 1)).isNone then
      match c.sheet with
      | some sh => s.setCoreAt n (c.setSheet (some { sh with bundle := some (k + 1) }))
      | none => s
    else leave (s.nativeNext n im e k)

/-- A native sheet goes on as text at the group behind a software trap (R188, R341). -/
def State.toText (s : State) (n : CoreNo) (a : Word) : State :=
  let c := s.coreAt n
  (s.setCoreAt n { c with ctx := { c.ctx with pc := a } }.byGroups).fallOn n (a - 4)

/-- Issues the next bundle of an open native sheet (R76, R79): it misses the bundle cache, is held, is stopped, or commits. A software
trap is taken after its group without a replay (R188, R341). -/
def State.issueNative (s : State) (n : CoreNo) (im : ImageRef) (e : SheetMapEntry) (k : Nat) : State :=
  let s := { s with cur := n }
  let c := s.core
  if s.holdsNext c then s
  else if c.breakAhead then s.replaySheet n
  else match s.bundleWords n im k with
  | none => (s.fillBundle n im k).getD (s.replaySheet n)
  | some ws =>
    let ps := s.bundleParts ws
    match c.judge ps [] with
    | .held h => s.holdCore n h
    | .trap t => if t.defect || s.noReplay n (readSlots c ws) t then s.imageDefect n e im k ws t else s.replaySheet n
    | .clear =>
      let now := s.now
      let soft := ps.any fun p => p.sem.soft.isSome
      let (next, idx) := (s.controlOf n im e k).getD (s.nativeNext n im e k, 0xFF)
      let ps := if soft then ps.map fun p => { p with move := idx } else ps
      let s1 := s.onCore fun c => { c with ctx := { c.ctx with brkSkip := false }, check := none }
      let t := s1.commitChecked s ps fun t => if soft then t.toText n next else t.nativeFall n im e k
      t.setCoreAt n ((t.coreAt n).holdNext (now + 1))

/-- Whether a core can issue: it runs a task, and neither a trap nor a departure is under way. -/
def State.canIssue (s : State) (n : CoreNo) : Bool :=
  let c := s.coreAt n
  !s.plat.failStop && c.running.isSome && c.pendTrap.isNone && c.leaving = .none && !(c.loopSave && c.depth == 0)

/-- Issues the next bundle of a core: of its native sheet, or the one-group bundle of its translated text. -/
def State.issueNext (s : State) (n : CoreNo) : State :=
  if !s.canIssue n then s
  else match s.nativeSheet n with
    | some (im, e, k) => s.issueNative n im e k
    | none =>
      let c := s.coreAt n
      match c.sheet with
      | none => s
      | some sh =>
        if c.group ≠ [] then s
        else match groupAt sh.text (c.sheetOff sh) with
          | .group ms words => s.issueGroup n ms words
          | _ => s

/-- BUNDLE_ISSUE (R76). -/
def execBundleIssue (n : CoreNo) (s : State) : Host.Outcome State Fault Refusal :=
  if coreOk n then .next (s.issueNext n) else .fault .illFormed

end Sys2Proof.Machine
end

