-- ==== Sys2Proof/Machine/Route.lean ====
section
/-! DEFINITION. Where a packet goes: routers and their links, moves and default routes (R14, R15, R17-R20, R271-R273), detours
round dead links (R477), and hop budgets (R472). -/

namespace Sys2Proof.Machine

/-! ## Routers -/

/-- The edge router of a port (R359). -/
def edgeOf (port : Nat) : RouterNo := BitVec.ofNat 8 (224 + port)

/-- The coordinates of a router; an edge router reads as u = 14 and v its port (R14, R278). -/
def routerUV (r : RouterNo) : Nat × Nat := if isEdge r then (14, edgePort r) else clusterUV r.toNat

/-- The router at coordinates (R14). -/
def routerAtUV (u v : Nat) : RouterNo := BitVec.ofNat 8 (28 * (2 * (v / 4) + u / 7) + 7 * (v % 4) + u % 7)

/-- The neighbour of an on-package router (R15). -/
def neighbour (r : RouterNo) (d : Nat) : RouterNo :=
  let (u, v) := clusterUV r.toNat
  if d = 6 then routerAtUV ((u + 1) % 14) v
  else if d = 7 then routerAtUV ((u + 13) % 14) v
  else if d = 8 then routerAtUV u ((v + 1) % 16)
  else routerAtUV u ((v + 15) % 16)

/-- The opposite direction (R271). -/
def oppositeDir (d : Nat) : Nat := if d % 2 = 0 then d + 1 else d - 1

/-- The package's coordinate and extent on an axis, and a packet's destination coordinate (R19, R269, R359). -/
def State.axis (s : State) (k : Nat) : Nat × Nat :=
  let p := s.reg 0x30
  ((bits p (16 - 8 * k) 8 : BitVec 8).toNat, (bits p (48 - 8 * k) 8 : BitVec 8).toNat + 1)
def Packet.destAxis (p : Packet) (k : Nat) : Nat := (bits p.dest (24 - 8 * k) 8 : BitVec 8).toNat

/-- Whether a port is connected (R19). -/
def State.connected (s : State) (port : Nat) : Bool := decide ((s.axis (port / 2)).2 ≠ 1)

/-- The coordinates of the package that a port leads to (R19): one further on its axis, round the torus. -/
def State.beyond (s : State) (port : Nat) : List Nat :=
  (List.range 3).map fun k =>
    let (own, n) := s.axis k
    if k ≠ port / 2 then own else if port % 2 = 0 then (own + 1) % n else (own + n - 1) % n

/-! ## Links -/

/-- The state of a link. -/
def State.linkAt (s : State) (l : LinkNo) : LinkState := ((s.fab.links.find? fun e => e.1 == l).map Prod.snd).getD {}

/-- The state with a link's state replaced. -/
def State.setLink_ (s : State) (l : LinkNo) (x : LinkState) : State :=
  { s with fab := { s.fab with links := (l, x) :: s.fab.links.filter fun e => e.1 != l } }

/-- Whether a link is dead (R475). -/
def State.dead (s : State) (l : LinkNo) : Bool := (s.linkAt l).dead

/-- The link of a router in a direction. -/
def linkOf (r : RouterNo) (d : Nat) : LinkNo := ⟨r, BitVec.ofNat 4 d, 0⟩
/-- The base-die link of an edge router toward a die. -/
def inwardLink (r : RouterNo) (die : Nat) : LinkNo := ⟨r, 10, BitVec.ofNat 3 die⟩
/-- The torus link of a port. -/
def torusLink (port : Nat) : LinkNo := linkOf (edgeOf port) port

/-- One hop: its link, the router at its end where that is of this package, and the arrival code there (R272). -/
structure Hop where
  link : LinkNo
  next : Option RouterNo
  adir : BitVec 4
  deriving DecidableEq, Repr

/-- Whether a hop goes over a torus link. -/
def Hop.torus (h : Hop) : Bool := h.next.isNone

/-- Why a transit instruction or a move fails (R470). -/
abbrev Reason := BitVec 10

/-- The hop of an on-package link: the arrival code is the link's direction, also on the way to an attach router (R272). -/
def plainHop (r : RouterNo) (d : Nat) : Hop := ⟨linkOf r d, some (neighbour r d), BitVec.ofNat 4 d⟩

/-- The die whose attach router for a port a packet on a die goes to: the die's own, or, where its base-die link is dead, that
of die d XOR 1 (R477). -/
def State.attachDie (s : State) (die port : Nat) : Option Nat :=
  if !s.dead (linkOf (attachAt die port) port) then some die
  else
    let e := oppositeDir die
    if !s.dead (linkOf (attachAt e port) port) then some e else none

/-- The direction on the package from a router toward another: along u, then along v (R272). -/
def towards (r goal : RouterNo) : Nat :=
  let (u, v) := clusterUV r.toNat
  let (u', v') := clusterUV goal.toNat
  if u ≠ u' then (if u < u' then 6 else 7) else if v < v' then 8 else 9

/-- The hop of an on-package router toward the edge router of a port (R272); the second component is the direction of the
on-package link it takes, if it takes one. -/
def State.outwardHop (s : State) (r : RouterNo) (port : Nat) : Except Reason (Hop × Option Nat) :=
  match s.attachDie (r.toNat / 28) port with
  | none => .error 7
  | some die =>
    let a := attachAt die port
    if r = a then .ok (⟨linkOf r port, some (edgeOf port), BitVec.ofNat 4 port⟩, none)
    else .ok (plainHop r (towards r a), some (towards r a))

/-- The hop of an edge router inward, to the die that DEST selects (R272), or past a dead link to die d XOR 1 (R477). -/
def State.inwardHop (s : State) (r : RouterNo) (p : Packet) : Except Reason Hop :=
  if 13 < p.destU then .error 0xE
  else
    let die := 2 * (p.destV / 4) + p.destU / 7
    let hop (d : Nat) : Hop := ⟨inwardLink r d, some (attachAt d (edgePort r)), 11⟩
    if !s.dead (inwardLink r die) then .ok (hop die)
    else if !s.dead (inwardLink r (oppositeDir die)) then .ok (hop (oppositeDir die))
    else .error 7

/-- The hop of a move in a direction that a program names (R272): a dead link stands in its way (R477). A direction out of the package, or
inward, is judged by the link of its own move, and takes R477's detour to die d XOR 1 where that serves: the spec does not say which of the
links on its way R282 and R477 mean (DESIGN CHOICE, log entry 70). -/
def State.namedHop (s : State) (r : RouterNo) (p : Packet) (d : Nat) : Except Reason Hop :=
  if isEdge r then
    if d = edgePort r then
      (if !s.connected d ∨ s.dead (torusLink d) then .error 7 else .ok ⟨torusLink d, none, BitVec.ofNat 4 d⟩)
    else s.inwardHop r p
  else if d < 6 then
    match s.outwardHop r d with
    | .error e => .error e
    | .ok (h, _) => if s.dead h.link then .error 7 else .ok h
  else if s.dead (linkOf r d) then .error 7
  else .ok (plainHop r d)

/-! ## Default routes (R273, R477) -/

/-- The direction toward a coordinate on a ring: the even code up, the odd one down (R273). -/
def ringDir (own dest n up : Nat) : Nat := if (dest + n - own) % n ≤ n / 2 then up else up + 1

/-- The ports that a default route may leave the package by: on each axis that differs, its direction and, over a dead link,
the opposite one (R273, R477). A move out of an unconnected port fails at that port's edge router (R272). -/
def State.portChoice (s : State) (p : Packet) : List Nat → Except Reason Nat
  | [] => .error 7
  | k :: r =>
    let (own, n) := s.axis k
    if p.destAxis k = own then State.portChoice s p r
    else
      let up := (p.destAxis k + n * 256 - own) % n
      let down := (own + n * 256 - p.destAxis k) % n
      let d := if up ≤ down then 2 * k else 2 * k + 1
      if !s.dead (torusLink d) then .ok d
      else if !s.dead (torusLink (oppositeDir d)) then .ok (oppositeDir d)
      else State.portChoice s p r

/-- An on-package step of a default route with its detours (R477). -/
def State.axisStep (s : State) (r : RouterNo) (d : Nat) : Except Reason Hop :=
  if !s.dead (linkOf r d) then .ok (plainHop r d)
  else
    let o := oppositeDir d
    let e := if d < 8 then 8 else 6
    if !s.dead (linkOf r o) then .ok (plainHop r o)
    else if !s.dead (linkOf r e) then .ok (plainHop r e)
    else .error 7

/-- The default route of a packet at a router (R273): a hop, or none where it is a delivery. -/
def State.defaultHop (s : State) (r : RouterNo) (p : Packet) : Except Reason (Option Hop) :=
  if 13 < p.destU then .error 0xE
  else if (List.range 3).any fun k => p.destAxis k ≠ (s.axis k).1 then
    match s.portChoice p [0, 1, 2] with
    | .error e => .error e
    | .ok d =>
      if isEdge r then (s.namedHop r p d).map some
      else match s.outwardHop r d with
        | .error e => .error e
        | .ok (h, none) => .ok (some h)
        | .ok (_, some e) => (s.axisStep r e).map some
  else if isEdge r then (s.inwardHop r p).map some
  else
    let (u, v) := clusterUV r.toNat
    if p.destU ≠ u then (s.axisStep r (ringDir u p.destU 14 6)).map some
    else if p.destV ≠ v then (s.axisStep r (ringDir v p.destV 16 8)).map some
    else .ok none

/-! ## Moves -/

/-- The hops that a move charges: a relay switch charges its own (R20, R472). -/
def Hop.charge (h : Hop) : Nat := if h.torus ∧ Config.relayOn (h.link.dir.setWidth 3) then 2 else 1

/-- The packet with hops charged (R272). -/
def Packet.charged (p : Packet) (n : Nat) : Packet :=
  (p.setHdr 160 (p.budget - BitVec.ofNat 8 n)).setHdr 168 (BitVec.ofNat 8 (min (p.hops.toNat + n) 255))

/-- The pinned cost of a hop in meridian units (R355). -/
def Hop.cost (h : Hop) : Nat :=
  16 * (match h.next with
    | none => 384 + (if Config.relayOn (h.link.dir.setWidth 3) then 256 else 0)
    | some t =>
      if isEdge t ∨ isEdge h.link.router then 64
      else if t.toNat / 28 ≠ h.link.router.toNat / 28 then 48 else 32)

/-- Puts a packet on the queue of a link. -/
def State.enqueue (s : State) (l : LinkNo) (x : FPacket) : State :=
  let r := s.routerAt l.router
  s.setRouterAt l.router
    (if l.dir = 10 then { r with inward := r.inward.put l.die (r.inward.get l.die ++ [x]) }
     else { r with out := r.out.put l.dir (r.out.get l.dir ++ [x]) })

/-- Moves a packet over a hop: the hop is charged, and the packet, its stack discarded, waits on the link's queue with
its state before the move (R272, R274, R278, R476). -/
def State.sendOver (s : State) (h : Hop) (p : Packet) (time : Nat) (before : Packet) (was : BitVec 4) : State :=
  s.enqueue h.link { p := { p.charged h.charge with stack := [], pc := 0 }, adir := h.adir, time := time + h.cost,
                     before := before, was := was }

/-- The flits of a packet (R268). -/
def Packet.flits (p : Packet) : Nat := 3 + (p.plen + 31) / 32

/-- The packets waiting on a link's queue. -/
def State.linkQueue (s : State) (l : LinkNo) : List FPacket :=
  if l.dir = 10 then (s.routerAt l.router).inward.get l.die else (s.routerAt l.router).out.get l.dir

/-- The occupancy of a link's queue in flits, 0 to 64 (R278). -/
def State.occupancy (s : State) (l : LinkNo) : Nat := min 64 ((s.linkQueue l).map fun x => x.p.flits).sum

/-- The link that a move in a direction would take, whatever its state (R278); none where DEST names no die. -/
def State.occLink (s : State) (r : RouterNo) (p : Packet) (d : Nat) : Option LinkNo :=
  if isEdge r then
    if d = edgePort r then some (torusLink d)
    else match s.inwardHop r p with
      | .ok h => some h.link
      | .error _ => if 13 < p.destU then none else some (inwardLink r (2 * (p.destV / 4) + p.destU / 7))
  else if d < 6 then match s.outwardHop r d with
    | .ok (h, _) => some h.link
    | .error _ => some (linkOf (attachAt (r.toNat / 28) d) d)
  else some (linkOf r d)

end Sys2Proof.Machine
end

