-- ==== Sys2Proof/Machine/Transit.lean ====
section
/-! DEFINITION. The transit engine: runs and the 36 transit instructions (R274-R284, R286), combining (R284), parking (R286,
R469-R471), and the checks of a delivery (R285, R473). -/

namespace Sys2Proof.Machine

/-! ## Parking (R286, R469-R471) -/

/-- Parks a packet at a router; with the park area full it is discarded and reported. -/
def State.parkAt (s : State) (r : RouterNo) (p : Packet) (adir : BitVec 4) (fault : Bool) (code : Reason) : State :=
  let rt := s.routerAt r
  match (List.range 16).find? fun i => (rt.park.get (BitVec.ofNat 4 i)).isNone with
  | none => s.report { src := 0x22, sev := 2, unit := r.setWidth 16, ten := some p.ten, addr := 16,
                       synd := (p.tag.setWidth 64 <<< 16) ||| code.setWidth 64 }
  | some i =>
    let e : ParkEntry := { p := p, reason := BitVec.ofBool fault ++ (0 : BitVec 5) ++ code, adir := adir,
                           mtime := BitVec.ofNat 64 s.mtime }
    let s := s.setRouterAt r { rt with park := rt.park.put (BitVec.ofNat 4 i) (some e) }
    let s := if fault then s.report { src := 0x3E, sev := 6, unit := r.setWidth 16, ten := some p.ten,
                                      addr := BitVec.ofNat 64 i, synd := code.setWidth 64 } else s
    let ctl := s.reg (routerBlock r + 0x8008)
    if ctl.getLsbD 63 then s.raiseMsix (bits ctl 16 11 : BitVec 11).toNat else s

/-! ## Runs (R274) -/

/-- Sets the run of a router. -/
def State.setRun (s : State) (r : RouterNo) (x : Option Run) : State :=
  s.setRouterAt r { s.routerAt r with run := x }

/-- A tenant's window at a router: its base and size in 256-byte units (R287). -/
def State.windowAt (s : State) (r : RouterNo) (t : BitVec 5) : Nat × Nat :=
  let w := s.rreg r t 0
  let base := (bits w 0 8 : BitVec 8).toNat
  let size := (bits w 16 9 : BitVec 9).toNat
  (base, if 256 < base + size then 0 else size)

/-- The words that a waypoint instruction cannot read: uncorrectable or fenced ones (R470). -/
def Router.unreadable (rt : Router) : List Nat := rt.badWords ++ rt.fencedWords

/-- An uncorrectable or fenced waypoint word is met (R391, R405): its record names the lowest such word of the tenant's window. -/
def State.reportWaypoint (s : State) (r : RouterNo) (t : BitVec 5) : State :=
  let (base, size) := s.windowAt r t
  let bad := (s.routerAt r).unreadable
  let w := ((List.range (64 * size)).map (· + 64 * base)).find? fun w => bad.contains w
  s.report { src := 0x21, sev := 2, unit := r.setWidth 16, ten := some t, addr := BitVec.ofNat 64 (w.getD 0) }

/-- Executes a transit instruction on the open run of the current router (R274): `f` gives the state after it, or the reason
for which the packet parks with its state as it stood before. -/
def State.transit (s : State) (f : RouterNo → Run → Except Reason State) : State :=
  let r := s.curRouter
  if s.plat.failStop then s
  else match (s.routerAt r).run with
    | none => s
    | some run => match f r run with
      | .ok t => t
      | .error e => (if e = 0xC then s.reportWaypoint r run.p.ten else s).setRun r none |>.parkAt r run.p run.adir true e

/-- The run goes on with another packet state at the instruction `1 + n` further (R274, R281). -/
def State.runOn (s : State) (r : RouterNo) (run : Run) (p : Packet) (n : Nat) : State :=
  s.setRun r (some { run with p := { p with pc := run.p.pc + 1 + n } })

/-- An instruction that only changes the packet and goes on. -/
def State.packetOp (s : State) (g : Packet → Except Reason Packet) : State :=
  s.transit fun r run => (g run.p).map fun p => s.runOn r run p 0

/-- Pushes a value (R274). -/
def Packet.push (p : Packet) (v : BitVec 32) : Except Reason Packet :=
  if 4 ≤ p.stack.length then .error 4 else .ok { p with stack := v :: p.stack }

/-- Pops a value (R274). -/
def Packet.pop (p : Packet) : Except Reason (BitVec 32 × Packet) :=
  match p.stack with
  | [] => .error 5
  | v :: r => .ok (v, { p with stack := r })

/-- Pops b, then a, and pushes `f a b` (R277). -/
def Packet.binary (f : BitVec 32 → BitVec 32 → BitVec 32) (p : Packet) : Except Reason Packet := do
  let (b, p) ← p.pop
  let (a, p) ← p.pop
  p.push (f a b)

/-- Whether the run has a permission, by bit of R287; without it the packet parks (R470). -/
def Run.need (run : Run) (bit : Nat) : Except Reason Unit :=
  if run.mask.getLsbD bit then .ok () else .error (BitVec.ofNat 10 (0x10 + bit))

/-! ## Moves of the stack and arithmetic (R277) -/

/-- pushi. -/
def execPushi (n : BitVec 10) (s : State) : Host.Outcome State Fault Refusal :=
  .next (s.packetOp fun p => p.push (n.signExtend 32))

/-- xtnd. -/
def execXtnd (n : BitVec 10) (s : State) : Host.Outcome State Fault Refusal :=
  .next (s.packetOp fun p => do
    let (x, p) ← p.pop
    p.push ((x <<< 10) ||| n.setWidth 32))

/-- ldw. -/
def execLdw (i : BitVec 2) (s : State) : Host.Outcome State Fault Refusal := .next (s.packetOp fun p => p.push (p.w.get i))

/-- stw. -/
def execStw (i : BitVec 2) (s : State) : Host.Outcome State Fault Refusal :=
  .next (s.packetOp fun p => do
    let (x, p) ← p.pop
    return { p with w := p.w.put i x })

/-- dup. -/
def execDup (s : State) : Host.Outcome State Fault Refusal :=
  .next (s.packetOp fun p => do
    let (x, _) ← p.pop
    p.push x)

/-- drop. -/
def execDrop (s : State) : Host.Outcome State Fault Refusal := .next (s.packetOp fun p => p.pop.map Prod.snd)

/-- swap. -/
def execSwap (s : State) : Host.Outcome State Fault Refusal :=
  .next (s.packetOp fun p => do
    let (b, p) ← p.pop
    let (a, p) ← p.pop
    let p ← p.push b
    p.push a)

/-- add. -/
def execTransitAdd (s : State) : Host.Outcome State Fault Refusal := .next (s.packetOp (Packet.binary fun a b => a + b))

/-- sub. -/
def execTransitSub (s : State) : Host.Outcome State Fault Refusal := .next (s.packetOp (Packet.binary fun a b => a - b))

/-- and. -/
def execTransitAnd (s : State) : Host.Outcome State Fault Refusal := .next (s.packetOp (Packet.binary fun a b => a &&& b))

/-- or. -/
def execTransitOr (s : State) : Host.Outcome State Fault Refusal := .next (s.packetOp (Packet.binary fun a b => a ||| b))

/-- xor. -/
def execTransitXor (s : State) : Host.Outcome State Fault Refusal := .next (s.packetOp (Packet.binary fun a b => a ^^^ b))

/-- shl: 0 for a shift of 32 or more. -/
def execTransitShl (s : State) : Host.Outcome State Fault Refusal :=
  .next (s.packetOp (Packet.binary fun a b => if 32 ≤ b.toNat then 0 else a <<< b.toNat))

/-- shr: 0 for a shift of 32 or more. -/
def execTransitShr (s : State) : Host.Outcome State Fault Refusal :=
  .next (s.packetOp (Packet.binary fun a b => if 32 ≤ b.toNat then 0 else a >>> b.toNat))

/-- addi. -/
def execAddi (n : BitVec 10) (s : State) : Host.Outcome State Fault Refusal :=
  .next (s.packetOp fun p => do
    let (x, p) ← p.pop
    p.push (x + n.signExtend 32))

/-- 1 or 0. -/
def flag32 (b : Bool) : BitVec 32 := if b then 1 else 0

/-- ceq. -/
def execCeq (s : State) : Host.Outcome State Fault Refusal := .next (s.packetOp (Packet.binary fun a b => flag32 (a == b)))

/-- clt. -/
def execClt (s : State) : Host.Outcome State Fault Refusal := .next (s.packetOp (Packet.binary fun a b => flag32 (a.slt b)))

/-- cltu. -/
def execCltu (s : State) : Host.Outcome State Fault Refusal := .next (s.packetOp (Packet.binary fun a b => flag32 (a.ult b)))

/-! ## The environment (R278) -/

/-- A router's position in the layout of DEST (R278). -/
def State.here (s : State) (r : RouterNo) : BitVec 32 :=
  let p := s.reg 0x30
  let (u, v) := routerUV r
  (bits p 16 8 : BitVec 8) ++ (bits p 8 8 : BitVec 8) ++ (bits p 0 8 : BitVec 8) ++ BitVec.ofNat 4 u ++ BitVec.ofNat 4 v

/-- The counter that env dc reads (R278): 0 at an edge router and on a core of another tenant. -/
def State.envCounter (s : State) (r : RouterNo) (p : Packet) (d : BitVec 10) : BitVec 32 :=
  if isEdge r then 0
  else
    let core : CoreNo := BitVec.ofNat 11 (8 * r.toNat + (bits d 5 3 : BitVec 3).toNat)
    let c := s.coreAt core
    let ten := match c.running with | some x => some x.tenant | none => c.lastTenant
    if ten = some p.ten then c.dc.get (bits d 0 5) else 0

/-- The value of an environment selector (R278), or the reason it parks for; the state changes only where the value is free. -/
def State.envValue (s : State) (r : RouterNo) (run : Run) (d : BitVec 10) : Except Reason (State × BitVec 32) :=
  let p := run.p
  let n := d.toNat
  if n = 0 then .ok (s, p.hops.setWidth 32)
  else if n = 1 then .ok (s, p.budget.setWidth 32)
  else if n = 2 then .ok (s, s.here r)
  else if n = 3 then .ok (s, p.orig)
  else if n = 4 then .ok (s, run.adir.setWidth 32)
  else if n = 5 then .ok (s, p.cgen.setWidth 32)
  else if n = 6 then .ok (s, p.tag.setWidth 32)
  else if n = 7 then .ok (s, p.plenField.setWidth 32)
  else if n = 8 then .ok (s, p.dest)
  else if 0x10 ≤ n ∧ n ≤ 0x19 then
    if p.pin then .ok (s, 0)
    else match s.occLink r p (n - 0x10) with
      | some l => .ok (s, BitVec.ofNat 32 (s.occupancy l))
      | none => .ok ({ s with free := s.free + 1 }, (Config.freeWord s.free).setWidth 32)
  else if 0x100 ≤ n ∧ n ≤ 0x1FF then (run.need 9).map fun _ => (s, s.envCounter r p d)
  else .error 3

/-- env. -/
def execEnv (sel : BitVec 10) (s : State) : Host.Outcome State Fault Refusal :=
  .next (s.transit fun r run => do
    let (t, v) ← s.envValue r run sel
    let p ← run.p.push v
    return t.runOn r run p 0)

/-! ## The waypoint window (R279, R287) -/

/-- The store's index of word `f` of a tenant's window, of a range of `n` words that must be usable (R279, R470). -/
def State.windowIx (s : State) (r : RouterNo) (t : BitVec 5) (f n : Nat) (bad : List Nat) : Except Reason Nat :=
  let (base, size) := s.windowAt r t
  if 64 * size < f + n then .error 8
  else if (List.range n).any fun k => bad.contains (64 * base + f + k) then .error 0xC
  else .ok (64 * base + f)

/-- A waypoint word, and the state with one written: its whole check unit, so that it is correct from then on (R395). -/
def State.wpWord (s : State) (r : RouterNo) (i : Nat) : BitVec 32 :=
  BitVec.ofNat 32 (leNat (Memory.read (s.routerAt r).waypoint (4 * i) 4))
def State.setWpWord (s : State) (r : RouterNo) (i : Nat) (v : BitVec 32) : State :=
  let rt := s.routerAt r
  s.setRouterAt r { rt with waypoint := Memory.write rt.waypoint (4 * i) (leBytes 4 v.toNat), badWords := rt.badWords.filter (· != i) }

/-- wpld. -/
def execWpld (s : State) : Host.Outcome State Fault Refusal :=
  .next (s.transit fun r run => do
    run.need 0
    let (f, p) ← run.p.pop
    let i ← s.windowIx r p.ten f.toNat 1 (s.routerAt r).unreadable
    let p ← p.push (s.wpWord r i)
    return s.runOn r run p 0)

/-- wpst. -/
def execWpst (s : State) : Host.Outcome State Fault Refusal :=
  .next (s.transit fun r run => do
    run.need 1
    let (v, p) ← run.p.pop
    let (f, p) ← p.pop
    let i ← s.windowIx r p.ten f.toNat 1 (s.routerAt r).fencedWords
    return (s.setWpWord r i v).runOn r run p 0)

/-- wpadd. -/
def execWpadd (s : State) : Host.Outcome State Fault Refusal :=
  .next (s.transit fun r run => do
    run.need 2
    let (v, p) ← run.p.pop
    let (f, p) ← p.pop
    let i ← s.windowIx r p.ten f.toNat 1 (s.routerAt r).unreadable
    let p ← p.push (s.wpWord r i)
    return (s.setWpWord r i (s.wpWord r i + v)).runOn r run p 0)

/-- wpclm. -/
def execWpclm (s : State) : Host.Outcome State Fault Refusal :=
  .next (s.transit fun r run => do
    run.need 2
    let (v, p) ← run.p.pop
    let (f, p) ← p.pop
    let i ← s.windowIx r p.ten f.toNat 1 (s.routerAt r).unreadable
    let p ← p.push (flag32 (s.wpWord r i == 0))
    return (if s.wpWord r i = 0 then s.setWpWord r i v else s).runOn r run p 0)

/-! ## The payload (R280) -/

/-- Payload word `i`, and the packet with it replaced. -/
def Packet.word (p : Packet) (i : Nat) : BitVec 32 := BitVec.ofNat 32 (leNat ((p.payload.drop (4 * i)).take 4))
def Packet.setWord (p : Packet) (i : Nat) (v : BitVec 32) : Packet :=
  { p with payload := p.payload.take (4 * i) ++ leBytes 4 v.toNat ++ p.payload.drop (4 * i + 4) }

/-- add_T (R280). -/
def addT (t : BitVec 1) (a b : BitVec 32) : BitVec 32 :=
  if t = 0 then a + b else BitVec.ofNat 32 (addRounded rndRne fmtF32 a.toNat b.toNat 0).1

/-- pld. -/
def execPld (i : BitVec 6) (s : State) : Host.Outcome State Fault Refusal :=
  .next (s.packetOp fun p => if p.plen / 4 ≤ i.toNat then .error 9 else p.push (p.word i.toNat))

/-- pst. -/
def execPst (i : BitVec 6) (s : State) : Host.Outcome State Fault Refusal :=
  .next (s.packetOp fun p => do
    let (v, p) ← p.pop
    if p.plen / 4 ≤ i.toNat then .error 9 else .ok (p.setWord i.toNat v))

/-- pvadd. -/
def execPvadd (t : BitVec 1) (at_ : BitVec 6) (s : State) : Host.Outcome State Fault Refusal :=
  .next (s.transit fun r run => do
    run.need 0
    let (n, p) ← run.p.pop
    let (f, p) ← p.pop
    if n.toNat < 1 ∨ 64 < n.toNat ∨ p.plen / 4 < at_.toNat + n.toNat then .error 9
    else
      let i ← s.windowIx r p.ten f.toNat n.toNat (s.routerAt r).unreadable
      let p := (List.range n.toNat).foldl (fun (p : Packet) k =>
        p.setWord (at_.toNat + k) (addT t (p.word (at_.toNat + k)) (s.wpWord r (i + k)))) p
      return s.runOn r run p 0)

/-! ## Skips (R281) -/

/-- skz. -/
def execSkz (n : BitVec 4) (s : State) : Host.Outcome State Fault Refusal :=
  .next (s.transit fun r run => do
    let (x, p) ← run.p.pop
    return s.runOn r run p (if x = 0 then n.toNat else 0))

/-- sknz. -/
def execSknz (n : BitVec 4) (s : State) : Host.Outcome State Fault Refusal :=
  .next (s.transit fun r run => do
    let (x, p) ← run.p.pop
    return s.runOn r run p (if x = 0 then 0 else n.toNat))

/-- skip. -/
def execSkip (n : BitVec 4) (s : State) : Host.Outcome State Fault Refusal :=
  .next (s.transit fun r run => .ok (s.runOn r run run.p n.toNat))

/-! ## Cloning (R282) -/

/-- The directions of a mask, in ascending code. -/
def maskDirs (m : BitVec 10) : List Nat := (List.range 10).filter fun d => m.getLsbD d

/-- The hops of a clon's copies: at an edge router all directions but its own send one inward copy. None where one of them
leads to an unconnected port or a dead link (R282); an inward copy whose DEST names no die has no hop (R269). -/
def State.clonHops (s : State) (r : RouterNo) (p : Packet) (m : BitVec 10) : Option (List (Option Hop)) :=
  let ds := maskDirs m
  let ds := if isEdge r then
      (ds.filter fun d => d = edgePort r || (ds.find? fun e => e != edgePort r) == some d)
    else ds
  ds.foldr (fun d acc => match s.namedHop r p d, acc with
    | .ok h, some hs => if !isEdge r && decide (d < 6) && !s.connected d then none else some (some h :: hs)
    | .error e, some hs => if e = 0xE then some (none :: hs) else none
    | _, none => none) (some [])

/-- Sends one copy: a move that needs more budget than the copy has parks it by itself (R282, R472), and so does an inward one whose
DEST names no die (R269). -/
def State.sendCopy (s : State) (r : RouterNo) (run : Run) (o : Option Hop) : State :=
  let p := { run.p.setHdr 176 (run.p.cgen + 1) with stack := [], pc := 0 }
  match o with
  | none => s.parkAt r p run.adir true 0xE
  | some h => if p.budget.toNat < h.charge then s.parkAt r p run.adir true 6 else s.sendOver h p run.time p run.adir

/-- clon (R282). -/
def execClon (m : BitVec 10) (s : State) : Host.Outcome State Fault Refusal :=
  .next (s.transit fun r run => do
    run.need 4
    if m = 0 ∨ run.p.budget = 0 ∨ run.p.cgen = 15 ∨ run.cloned then .error 0xA
    else match s.clonHops r run.p m with
      | none => .error 0xA
      | some hs =>
        if hs.any (fun o => o.any Hop.torus) ∧ ¬ run.mask.getLsbD 5 then .error 0xA
        else .ok ((hs.foldl (fun s h => s.sendCopy r run h) s).runOn r { run with cloned := true } run.p 0))

/-! ## Combining (R284) -/

/-- The sum of payloads word by word, from the first on. -/
def sumPayloads (t : BitVec 1) (p : Packet) (ps : List Packet) : Packet :=
  ps.foldl (fun (p : Packet) q => (List.range (p.plen / 4)).foldl (fun (p : Packet) i => p.setWord i (addT t (p.word i) (q.word i))) p) p

/-- The children of a slot, in ascending index. -/
def CombSlot.children (x : CombSlot) : List FPacket :=
  (List.range 16).filterMap fun c => (x.entries.find? fun e => e.1 == c).map Prod.snd

/-- The packet that a release continues with (R284): the lowest child's state with the sum and w3. -/
def CombSlot.released (x : CombSlot) : Option FPacket :=
  match x.children with
  | [] => none
  | f :: r =>
    let p := sumPayloads x.key.flt f.p (r.map FPacket.p)
    some { f with p := { p with w := p.w.put 3 (BitVec.ofNat 16 (r.length + 1) ++ x.have_), pc := p.pc + 1 } }

/-- Releases a slot's children present (R284): complete, or at its deadline. -/
def State.releaseSlot (s : State) (r : RouterNo) (i : BitVec 6) (complete : Bool) : State :=
  let rt := s.routerAt r
  let x := rt.slots.get i
  match x.released with
  | none => s
  | some f => s.setRouterAt r { rt with
      combRel := rt.combRel ++ [f]
      slots := rt.slots.put i (if complete then {} else { x with st := .closed, entries := [], missing := x.key.m &&& ~~~x.have_ }) }

/-- Whether an open slot's deadline has come (R284). -/
def CombSlot.due (x : CombSlot) (now : Nat) : Bool := x.st = .opened && x.d ≠ 0 && decide (x.t0 + x.d.toNat ≤ now)

/-- comb (R284). A slot whose deadline passed in an earlier cycle has been released by then. -/
def execComb (t : BitVec 1) (s : State) : Host.Outcome State Fault Refusal :=
  .next (s.transit fun r run => do
    run.need 3
    let (c, p) ← run.p.pop
    let (m, p) ← p.pop
    let (d, p) ← p.pop
    let i : BitVec 6 := p.tag.setWidth 6
    if ¬ (s.rreg r p.ten 0x48).getLsbD i.toNat ∨ 15 < c.toNat ∨ 0xFFFF < m.toNat ∨ ¬ m.getLsbD c.toNat then .error 0xB
    else
      let x0 := (s.routerAt r).slots.get i
      let s := if x0.due s.plat.cycle ∧ x0.t0 + x0.d.toNat < s.plat.cycle then s.releaseSlot r i false else s
      let rt := s.routerAt r
      let x := rt.slots.get i
      let key : CombKey := ⟨p.ten, p.tag, p.plenField, t, m.setWidth 16⟩
      let bit : BitVec 16 := (1 : BitVec 16) <<< c.toNat
      if x.st = .closed ∧ x.key = key then
        let miss := x.missing &&& ~~~bit
        .ok (s.setRouterAt r { rt with run := none, slots := rt.slots.put i (if miss = 0 then {} else { x with missing := miss }) })
      else
        let x : CombSlot := if x.st = .free then { st := .opened, key := key, d := d, t0 := s.plat.cycle } else x
        if x.key ≠ key ∨ x.have_.getLsbD c.toNat then .error 0xB
        else
          let x := { x with have_ := x.have_ ||| bit, entries := x.entries ++ [(c.toNat, { p := p, adir := run.adir, time := run.time })] }
          let s := s.setRouterAt r { rt with run := none, slots := rt.slots.put i x }
          .ok (if x.have_ = key.m then s.releaseSlot r i true else s))

/-! ## Deliveries (R285, R473) -/

/-- The tenant whose scratchpad and counters a core's are (R195). -/
def State.coreTenant (s : State) (n : CoreNo) : Option (BitVec 5) :=
  match (s.coreAt n).running with | some x => some x.tenant | none => (s.coreAt n).lastTenant

/-- The end of a delivery's space (R242). -/
def deliveryLimit (tsp : BitVec 2) : Nat := match tsp with | 0 => 2 ^ 57 | 1 => 2 ^ 20 | _ => 224 * 2 ^ 24

/-- The owner of the staging slice that an address lies in (R243). -/
def State.stageOwner (s : State) (a : Nat) : Option (BitVec 5) :=
  let w := s.reg (0x3000000 + 8 * (a / 2 ^ 24))
  let f : BitVec 6 := w.extractLsb' (6 * (a / 2 ^ 21 % 8)) 6
  if f.getLsbD 5 then some (f.setWidth 5) else none

/-- Checks a delivery (R473): the physical runs of one to memory, or the reason of its refusal. -/
def State.checkDelivery (s : State) (run : Run) : Except Reason (List (Nat × Nat × Bool) × List TlbEntry) :=
  let p := run.p
  let a := p.taddr.toNat
  let n := p.plen
  let core := decide (p.tcore.toNat < 1792)
  if p.tsp = 3 then .error 0x24
  else if ¬ run.mask.getLsbD (6 + p.tsp.toNat) then .error (BitVec.ofNat 10 (0x16 + p.tsp.toNat))
  else if (n ≠ 0 ∧ (deliveryLimit p.tsp < a + n ∨ a % 16 ≠ 0)) ∨ (¬ core ∧ (p.ce ∨ (p.tsp = 1 ∧ n ≠ 0))) then .error 0x21
  else if ((p.ce ∨ (p.tsp = 1 ∧ n ≠ 0)) ∧ s.coreTenant p.tcore ≠ some p.ten) ∨
      (p.tsp = 2 ∧ n ≠ 0 ∧ (s.stageOwner a ≠ some p.ten ∨ s.stageOwner (a + n - 1) ≠ some p.ten)) then .error 0x22
  else if n = 0 then .ok ([], [])
  else if p.tsp = 0 then
    match translateRange s noCore p.ten false p.taddr n .write with
    | .error _ => .error 0x20
    | .ok (runs, es) =>
      if runs.any fun (pa, k, _) => (List.range k).any fun i => s.mem.fenced.contains ((pa + i) / 16) then .error 0x23
      else .ok (runs, es)
  else if p.tsp = 2 ∧ (List.range n).any (fun i => s.plat.stageFenced.contains ((a + i) / 8)) then .error 0x23
  else .ok ([], [])

/-- The pinned cost of a delivery in meridian units (R355). -/
def deliveryCost (tsp : BitVec 2) : Nat := 16 * (match tsp with | 0 => 192 | 1 => 48 | _ => 96)

/-- Starts a delivery (R285): it is on its way to its target, and the run ends. -/
def State.deliver (s : State) (r : RouterNo) (run : Run) : Except Reason State :=
  match s.checkDelivery run with
  | .error e => .error e
  | .ok (runs, es) =>
    let x : Deliv := { p := { run.p with stack := [] }, router := r, adir := run.adir, time := run.time + deliveryCost run.p.tsp,
                       runs := runs, left := List.range (run.p.plen / 16) }
    let s := (s.setRun r none).keepTlb noCore es
    .ok (if run.p.plen = 0 ∧ ¬ run.p.ce then s else { s with fab := { s.fab with deliveries := s.fab.deliveries ++ [x] } })

/-! ## Terminators (R283, R286) -/

/-- Moves the run's packet over a hop (R283): LEV out of the package, and the hop budget (R472). -/
def State.moveRun (s : State) (r : RouterNo) (run : Run) (p : Packet) (h : Hop) : Except Reason State := do
  if h.torus then run.need 5
  if p.budget.toNat < h.charge then .error 6 else .ok ((s.setRun r none).sendOver h p run.time run.p run.adir)

/-- fwd. -/
def execFwd (d : BitVec 4) (s : State) : Host.Outcome State Fault Refusal :=
  .next (s.transit fun r run =>
    if d.toNat ≤ 9 then do
      let h ← s.namedHop r run.p d.toNat
      s.moveRun r run run.p h
    else if d = 0xD then do
      let (x, p) ← run.p.pop
      if 9 < x.toNat then .error 3
      else
        let h ← s.namedHop r p x.toNat
        s.moveRun r run p h
    else if d = 0xE then do
      match ← s.defaultHop r run.p with
      | some h => s.moveRun r run run.p h
      | none => s.deliver r run
    else .error 3)

/-- Whether a direction is dead (R477): an unconnected port is not, and a move out of it fails. -/
def State.deadDir (s : State) (r : RouterNo) (p : Packet) (d : Nat) : Bool :=
  if isEdge r && d == edgePort r then s.dead (torusLink d)
  else match s.namedHop r p d with | .error 7 => true | _ => false

/-- The direction that least chooses (R283): the least occupied one that is not dead (R477), ties to the lowest code. The occupancy of an
inward direction that names no one die is a free value, as env gives it (log entry 62). -/
def State.leastDir (s : State) (r : RouterNo) (p : Packet) (m : BitVec 10) : Option Nat :=
  let ds := (maskDirs m).filter fun d => !s.deadDir r p d
  if p.pin then ds.head?
  else
    let occ (d : Nat) : Nat := match s.occLink r p d with
      | some l => s.occupancy l
      | none => (Config.freeWord s.free).toNat % 2 ^ 32
    ds.foldl (fun best d => match best with
      | none => some d
      | some b => if occ d < occ b then some d else some b) none

/-- The state after least has sampled the occupancies: a free one has been drawn. -/
def State.sampled (s : State) (r : RouterNo) (p : Packet) (m : BitVec 10) : State :=
  if (maskDirs m).any fun d => (s.occLink r p d).isNone then { s with free := s.free + 1 } else s

/-- least. -/
def execLeast (m : BitVec 10) (s : State) : Host.Outcome State Fault Refusal :=
  .next (s.transit fun r run =>
    if m = 0 then .error 3
    else match s.leastDir r run.p m with
      | none => .error 7
      | some d => do
        let h ← s.namedHop r run.p d
        (s.sampled r run.p m).moveRun r run run.p h)

/-- dlvr. -/
def execDlvr (s : State) : Host.Outcome State Fault Refusal := .next (s.transit fun r run => s.deliver r run)

/-- park. -/
def execPark (c : BitVec 10) (s : State) : Host.Outcome State Fault Refusal :=
  .next (s.transit fun r run => (run.need 10).map fun _ => (s.setRun r none).parkAt r run.p run.adir false c)

/-- kill. -/
def execKill (s : State) : Host.Outcome State Fault Refusal := .next (s.transit fun r _ => .ok (s.setRun r none))

end Sys2Proof.Machine
end

