-- ==== Sys2Proof/Machine/Fabric.lean ====
section
/-! DEFINITION. The events of the fabric: injections, runs, deliveries, deadlines, links and bearing exchanges (R270-R276, R284,
R285, R324, R347, R355, R474-R477, R483). -/

namespace Sys2Proof.Machine

/-! ## Slots of meridian time (R346, R355) -/

/-- The slot that the current meridian time lies in, and the first slot boundary at or after a time. -/
def State.slotCeil (s : State) (t : Nat) : Nat := (t + s.slotLen - 1) / s.slotLen * s.slotLen

/-! ## Injection (R270, R355) -/

/-- Whether a packet of a core's send queue may enter its router now: a pinned one at a slot boundary after the slot it joined
in, one a slot (R355). -/
def State.mayInject (s : State) (c : Core) (e : SendEntry) : Bool :=
  !e.p.pin || (s.atSlot && decide (e.slot < s.slotNow) && decide (c.pinSlot < s.slotNow))

/-- Takes an entry out of a queue. -/
def takeEntry (e : SendEntry) : List SendEntry → List SendEntry
  | [] => []
  | x :: r => if x = e then r else x :: takeEntry e r

/-- The entry that a core injects next: the first of its pinned ones where it may enter, else the first of the others. -/
def State.nextInjection (s : State) (c : Core) : Option SendEntry :=
  match (c.sendQ.find? fun e => e.p.pin).filter (s.mayInject c) with
  | some e => some e
  | none => c.sendQ.find? fun e => !e.p.pin

/-- Injects a packet into the router of a core's cluster and raises its local counter (R199, R270); a packet with an invalid
header parks there (R470). -/
def State.inject (s : State) (n : CoreNo) : State :=
  let c := s.coreAt n
  match s.nextInjection c with
  | none => s
  | some e =>
    let r : RouterNo := BitVec.ofNat 8 (clusterOf n)
    let s := s.setCoreAt n { c with sendQ := takeEntry e c.sendQ, pinSlot := if e.p.pin then s.slotNow else c.pinSlot }
    let s := if e.bad then s.parkAt r e.p 10 true 0xE
      else
        let rt := s.routerAt r
        s.setRouterAt r { rt with inj := rt.inj ++ [{ p := e.p, adir := 10, time := if e.p.pin then s.slotNow * s.slotLen else s.mtime }] }
    match e.count with
    | some k => s.countAt n k 1 none
    | none => s

/-- A pinned packet that may enter its router at a slot boundary does so (R355). -/
def State.injectPinned (s : State) (n : CoreNo) : State :=
  match ((s.coreAt n).sendQ.find? fun e => e.p.pin).filter (s.mayInject (s.coreAt n)) with
  | some _ => s.inject n
  | none => s

/-- PACKET_INJECTION (R270). -/
def execPacketInjection (n : CoreNo) (s : State) : Host.Outcome State Fault Refusal :=
  if coreOk n then .next (if s.plat.failStop then s else s.inject n) else .fault .illFormed

/-! ## Runs (R274) -/

/-- Starts a run of a packet at a router: its mask is read, and a pinned packet is charged for the run (R274, R355). -/
def State.startRun (s : State) (r : RouterNo) (x : FPacket) (key : Nat) : State :=
  let mask : BitVec 16 := (s.rreg r x.p.ten (8 + 8 * x.p.psel.toNat)).setWidth 16
  (s.meetAt (.runs r) key).setRun r (some { p := x.p, adir := x.adir, mask := mask, time := x.time + 16 * 64 })

/-- The next packet of a queue: the channel of pinned packets is served first (R355). -/
def nextOf (q : List FPacket) : Option FPacket :=
  match q.find? fun x => x.p.pin with
  | some x => some x
  | none => q.head?

/-- A queue without its first occurrence of a packet. -/
def takeOf (x : FPacket) : List FPacket → List FPacket
  | [] => []
  | y :: r => if y = x then r else y :: takeOf x r

/-- The port whose attach router a router is, if it is one (R18). -/
def attachPort (r : RouterNo) : Option Nat := (List.range 6).find? fun k => attachAt (r.toNat / 28) k = r

/-- The link that an arrival comes over (R272). -/
def arrivalLink (r : RouterNo) : RunSource → Option LinkNo
  | .arrival d =>
    if isEdge r ∨ d.toNat < 6 ∨ 9 < d.toNat then none
    else some (linkOf (neighbour r (oppositeDir d.toNat)) d.toNat)
  | .inward die =>
    if isEdge r then some (linkOf (attachAt die.toNat (edgePort r)) (edgePort r))
    else match attachPort r with
      | some k => if die.toNat = r.toNat / 28 then some (inwardLink (edgeOf k) die.toNat) else none
      | none => none
  | _ => none

/-- Takes a packet off a link, which is not about to retrain: its flits have passed, so that the retries of one flit start anew (R475). -/
def State.takeFromLink (s : State) (l : LinkNo) (x : FPacket) : State :=
  let rt := s.routerAt l.router
  let s := s.setRouterAt l.router
    (if l.dir = 10 then { rt with inward := rt.inward.put l.die (takeOf x (rt.inward.get l.die)) }
     else { rt with out := rt.out.put l.dir (takeOf x (rt.out.get l.dir)) })
  let k := s.linkAt l
  if k.retries = 0 ∧ k.retrains = 0 then s else s.setLink_ l { k with retries := 0, retrains := 0 }

/-- The place of a run among those that start in one router cycle (R276): an edge router's arrivals from the dies are moves in the direction
of its port (R371). -/
def runKey (r : RouterNo) : RunSource → Nat
  | .arrival d => d.toNat
  | .inward _ => if isEdge r then edgePort r else 10
  | .injection => 11
  | .park _ => 12
  | .combine => 13

/-- Begins a run at a router from one of its events (R274), in the order of the router's cycle (R276). -/
def State.beginRun (s : State) (r : RouterNo) (src : RunSource) : State :=
  let rt := s.routerAt r
  if s.plat.failStop ∨ rt.run.isSome ∨ ¬ s.mayMeet (.runs r) (runKey r src) then s
  else match src with
    | .injection => match nextOf rt.inj with
      | some x => (s.setRouterAt r { rt with inj := takeOf x rt.inj }).startRun r x (runKey r src)
      | none => s
    | .park _ => match rt.parkRel with
      | x :: q => (s.setRouterAt r { rt with parkRel := q }).startRun r x (runKey r src)
      | [] => s
    | .combine => match rt.combRel with
      | x :: q => (s.setRouterAt r { rt with combRel := q }).startRun r x (runKey r src)
      | [] => s
    | .arrival d =>
      if isEdge r then
        if d.toNat = oppositeDir (edgePort r) then match nextOf rt.torusIn with
          | some x => (s.setRouterAt r { rt with torusIn := takeOf x rt.torusIn }).startRun r x (runKey r src)
          | none => s
        else s
      else match arrivalLink r src with
        | some l => match nextOf (s.linkQueue l) with
          | some x => if s.dead l ∨ 8 ≤ (s.linkAt l).retries then s else (s.takeFromLink l x).startRun r x (runKey r src)
          | none => s
        | none => s
    | .inward _ => match arrivalLink r src with
      | some l => match nextOf (s.linkQueue l) with
        | some x => if s.dead l ∨ 8 ≤ (s.linkAt l).retries then s else (s.takeFromLink l x).startRun r x (runKey r src)
        | none => s
      | none => s

/-- TRANSIT_RUN (R274). -/
def execTransitRun (r : RouterNo) (from_ : RunSource) (s : State) : Host.Outcome State Fault Refusal :=
  if routerOk r then .next (s.beginRun r from_) else .fault .illFormed

/-- The instruction that a router's run executes next, or the reason for which it parks (R274, R470). -/
def Run.fetch (run : Run) : Except Reason Instr :=
  if 15 < run.p.pc then .error 1
  else match decodeTransit (run.p.prog.get (BitVec.ofNat 4 run.p.pc)) with
    | .ok i => .ok i
    | .error .unassignedTransit => .error 2
    | .error _ => .error 3

/-! ## Combine slots (R284, R474) -/

/-- COMBINE_DEADLINE_RELEASE (R284). -/
def execCombineDeadlineRelease (r : RouterNo) (slot : BitVec 6) (s : State) : Host.Outcome State Fault Refusal :=
  if routerOk r then
    .next (if s.plat.failStop ∨ ¬ ((s.routerAt r).slots.get slot).due s.plat.cycle then s
      else (s.releaseSlot r slot false).meetAt (.slot r slot) 1)
  else .fault .illFormed

/-- Releases every combine slot whose deadline has come, as the cycle of its deadline ends (R284). -/
def State.endSlots (s : State) : State :=
  s.fab.routers.foldl (fun s (kr : Nat × Router) => (List.range 64).foldl (fun s i =>
    if (kr.2.slots.get (BitVec.ofNat 6 i)).due s.plat.cycle then s.releaseSlot (BitVec.ofNat 8 kr.1) (BitVec.ofNat 6 i) false else s) s) s

/-- Frees a combine slot (R474): a deadline that has come releases it first (R487). -/
def State.freeSlot (s : State) (r : RouterNo) (t : BitVec 5) (i : BitVec 6) : State :=
  let s := if ((s.routerAt r).slots.get i).due s.plat.cycle then s.releaseSlot r i false else s
  let rt := s.routerAt r
  let x := rt.slots.get i
  let s := s.setRouterAt r { rt with slots := rt.slots.put i {} }
  if x.st = .opened then
    s.report
      { src := 0x22, sev := 2, unit := r.setWidth 16, ten := some t, addr := i.setWidth 64, count := BitVec.ofNat 32 x.entries.length }
  else s

/-- Frees the combine slots of a mask that belong to a tenant (R474). -/
def State.freeSlots (s : State) (r : RouterNo) (t : BitVec 5) (v : Word) : State :=
  ((List.range 64).filter fun i => v.getLsbD i && (s.rreg r t 0x48).getLsbD i).foldl
    (fun s i => s.freeSlot r t (BitVec.ofNat 6 i)) s

/-- CSFREE (R474). -/
def execCsfree (r : RouterNo) (t : BitVec 5) (v : Word) (s : State) : Host.Outcome State Fault Refusal :=
  if routerOk r then .next (if s.plat.failStop then s else s.freeSlots r t v) else .fault .illFormed

/-! ## Park commands (R286, R469) -/

/-- Releases a parked packet (R286): it waits to run at instruction 0 with arrival code 12, its payload as its header's PLEN
then says. -/
def State.releaseParked (s : State) (r : RouterNo) (entry : BitVec 4) : State :=
  let rt := s.routerAt r
  match rt.park.get entry with
  | none => s
  | some e =>
    let p := { e.p with stack := [], pc := 0, payload := (e.p.payload ++ List.replicate 256 0).take (min 256 e.p.plenField.toNat) }
    s.setRouterAt r { rt with
      park := rt.park.put entry none
      parkRel := rt.parkRel ++ [{ p := p, adir := 12, time := s.slotCeil (s.mtime + 1) }] }

/-- Discards a parked packet (R469). -/
def State.discardParked (s : State) (r : RouterNo) (entry : BitVec 4) : State :=
  let rt := s.routerAt r
  s.setRouterAt r { rt with park := rt.park.put entry none }

/-- PKCMD_RELEASE (R286). -/
def execPkcmdRelease (r : RouterNo) (entry : BitVec 4) (s : State) : Host.Outcome State Fault Refusal :=
  if routerOk r then .next (if s.plat.failStop then s else s.releaseParked r entry) else .fault .illFormed

/-- PKCMD_DISCARD (R469). -/
def execPkcmdDiscard (r : RouterNo) (entry : BitVec 4) (s : State) : Host.Outcome State Fault Refusal :=
  if routerOk r then .next (if s.plat.failStop then s else s.discardParked r entry) else .fault .illFormed

/-! ## Delivery (R285, R324, R355) -/

/-- The die that a router's deliveries leave from; 8 is the base die (R324). -/
def deliveryDie (r : RouterNo) : BitVec 4 := if isEdge r then 8 else BitVec.ofNat 4 (r.toNat / 28)

/-- The physical address at an offset of runs. -/
def runAt : List (Nat × Nat × Bool) → Nat → Nat
  | [], _ => 0
  | (pa, n, _) :: r, k => if k < n then pa + k else runAt r (k - n)

/-- Writes bytes to a core's scratchpad: the 8-byte words they cover whole are correct from then on (R395). -/
def Core.scratchWrite (c : Core) (off : Nat) (bs : List Byte) : Core :=
  { c with scratch := Memory.write c.scratch off bs
           scratchBad := c.scratchBad.filter fun w => !(decide (off ≤ 8 * w) && decide (8 * w + 8 ≤ off + bs.length)) }

/-- Writes bytes to staging, likewise. -/
def State.stageWrite (s : State) (a : Nat) (bs : List Byte) : State :=
  { s with plat := { s.plat with
      staging := Memory.write s.plat.staging a bs
      stageBad := s.plat.stageBad.filter fun w => !(decide (a ≤ 8 * w) && decide (8 * w + 8 ≤ a + bs.length)) } }

/-- Whether the staging slice at an address is being cleared (R243). -/
def State.stageBusy (s : State) (a : Nat) : Bool := s.plat.clearing.contains (a / 2 ^ 24, BitVec.ofNat 3 (a / 2 ^ 21))

/-- Whether a slice that a range of staging touches is being cleared: the range is shorter than a slice (R243). -/
def State.stageBusyRange (s : State) (a n : Nat) : Bool := s.stageBusy a || s.stageBusy (a + n - 1)

/-- Lands a granule of a delivery at its target (R285, R324); none while the target is reserved or being cleared, or its core number moves
to a spare (R414). A byte that was dirty in the die's cache stays dirty there: the spec does not say (DESIGN CHOICE, log entry 72). -/
def State.landGranule (s : State) (x : Deliv) (g : Nat) : Option State :=
  let p := x.p
  let bs := (p.payload.drop (16 * g)).take 16
  let a := p.taddr.toNat + 16 * g
  if p.tsp = 0 then
    let pa := runAt x.runs (16 * g)
    let d := deliveryDie x.router
    if s.mem.locks.any (fun l => l.line == pa / 128) then none
    else
      let s := s.withMem fun m => m.leave d pa bs
      if d = 8 ∨ targetOf pa ≠ .package then some s
      else match findLine (pa / 128) (s.mem.dieCache.get (d.setWidth 3)) with
        | none => some s
        | some l => some (s.withMem fun m => m.putDie (d.setWidth 3) (l.store (pa % 128) false bs))
  else if p.tsp = 1 then
    if (s.granHolder noCore p.tcore [a / 16]).isSome ∨ ¬ s.mayMeet (.scratch p.tcore) portLast then none
    else
      let c := (s.coreAt p.tcore).scratchWrite a bs
      some ((s.setCoreAt p.tcore { c with emptyGran := granFill c.emptyGran [a / 16] }).meetAt (.scratch p.tcore) portLast)
  else if s.stageBusy a then none
  else some ((s.stageWrite a bs).staged a bs.length portLast)

/-- The deliveries with entry `i` replaced, or taken out. -/
def setDeliv (x : Option Deliv) : Nat → List Deliv → List Deliv
  | _, [] => []
  | 0, _ :: r => match x with | some y => y :: r | none => r
  | i + 1, y :: r => y :: setDeliv x i r

/-- The state with delivery `i` replaced, or ended. -/
def State.putDeliv (s : State) (i : Nat) (x : Option Deliv) : State :=
  { s with fab := { s.fab with deliveries := setDeliv x i s.fab.deliveries } }

/-- Whether a pinned delivery must let an earlier one go first: of packets from one origin with equal programs and destinations
(R291). -/
def Deliv.after (x : Deliv) (earlier : List Deliv) : Bool :=
  x.p.pin && earlier.any fun y => y.p.pin && y.p.orig == x.p.orig && y.p.dest == x.p.dest && y.p.prog == x.p.prog

/-- The granule of a delivery that lands next: the granules land in any order (R285, R308, R332). -/
def State.nextGranule (s : State) (x : Deliv) : Option Nat :=
  if x.left.length ≤ 1 then x.left.head? else x.left[(Config.freeWord s.free).toNat % x.left.length]?

/-- Whether a delivery may take effect (R355, R291): a pinned one not before its slot boundary, nor ahead of an earlier one of its origin. -/
def State.mayDeliver (s : State) (i : Nat) (x : Deliv) : Bool :=
  !(x.p.pin && decide (s.mtime < s.slotCeil x.time)) && !x.after (s.fab.deliveries.take i)

/-- Granule `g` of delivery `i` lands. -/
def State.deliverGranule (s : State) (i : Nat) (x : Deliv) (g : Nat) : Option State :=
  (s.landGranule x g).map fun s => { s with free := s.free + 1 }.putDeliv i (some { x with left := x.left.erase g })

/-- A delivery whose granules have landed ends: the counter rises as a release at system scope, once the granules have left the base die
(R324) and the die may send its marker (R319), in the order of its cycle (R203). -/
def State.deliverEnd (s : State) (i : Nat) (x : Deliv) : State :=
  let d := deliveryDie x.router
  let key := 1 + x.adir.toNat
  if ¬ x.p.ce then s.putDeliv i none
  else if (d = 8 ∧ ¬ s.mem.baseQ.isEmpty) ∨ ¬ s.mem.mayRelease d ∨ ¬ s.mayMeet (.counter x.p.tcore x.p.dcIx) key then s
  else
    let s := (s.withMem fun m => m.release d).putDeliv i none
    (s.countAt x.p.tcore x.p.dcIx 1 (some (s.mem.vc.get d))).meetAt (.counter x.p.tcore x.p.dcIx) key

/-- A delivery goes on (R285): one of its granules lands, or, after the last, its end. -/
def State.deliveryStep (s : State) (i : Nat) : State :=
  match s.fab.deliveries[i]? with
  | none => s
  | some x =>
    if !s.mayDeliver i x then s
    else match s.nextGranule x with
      | some g => (s.deliverGranule i x g).getD s
      | none => s.deliverEnd i x

/-- Pinned deliveries whose slot boundary has come take effect, every granule and the count, as far as nothing keeps them out (R355), from
the delivery of a number on; `fuel` bounds the steps. -/
def State.deliverRipe (i : Nat) : Nat → State → State
  | 0, s => s
  | fuel + 1, s => match s.fab.deliveries[i]? with
    | none => s
    | some x =>
      if !x.p.pin || !s.mayDeliver i x then State.deliverRipe (i + 1) fuel s
      else
        let t := if x.left = [] then some (s.deliverEnd i x) else x.left.findSome? (s.deliverGranule i x)
        match t with
        | none => State.deliverRipe (i + 1) fuel s
        | some t =>
          if x.left = [] ∧ t.fab.deliveries.length = s.fab.deliveries.length then State.deliverRipe (i + 1) fuel s
          else State.deliverRipe i fuel t

/-- The steps that all deliveries take together. -/
def State.deliverySteps (s : State) : Nat := (s.fab.deliveries.map fun x => x.left.length + 2).sum

/-- DELIVERY (R285). -/
def execDelivery (i : Nat) (s : State) : Host.Outcome State Fault Refusal :=
  .next (if s.plat.failStop then s else s.deliveryStep i)

/-! ## Bounds and skews (R347, R348, R483) -/

/-- The parent among the ports that a bearing exchange has reached: the neighbour nearest the datum, ties to the lowest code
(R347); with the bound that it gives. -/
def parentOf (bs : List (BitVec 3 × Nat × Nat)) : Option (BitVec 3 × Nat) :=
  (List.range 6).foldl (fun acc k => match bs.find? fun b => b.1 == BitVec.ofNat 3 k with
    | none => acc
    | some (p, d, b) => match acc with
      | none => some (p, d, b)
      | some (_, d', _) => if d < d' then some (p, d, b) else acc) (none : Option (BitVec 3 × Nat × Nat))
    |>.map fun x => (x.1, x.2.2)

/-- The bound on the offset of the packages that receive a launch (R348): this package's, and, where the launch has levels beyond it,
what the others' are, which is free. -/
def State.skewBound (s : State) (l : Launch) : Nat :=
  max ((s.reg 0x008).toNat % 2 ^ 32) (if l.localLevels.length < l.levels then (Config.otherBound s.free).toNat else 0)

/-- Sets the bound on the package's offset. Where the skew of the packages that a launch runs on, this one's or another's bound having
risen, is above one slot, the launch leaves the pinned regime at the next tick (R348, R482, R483). -/
def State.setBound (s : State) (b : Nat) : State :=
  let s := s.setReg 0x008 (BitVec.ofNat 64 (min b 0xFFFFFFFF))
  { s.syncAll (fun l => decide (s.slotLen < 2 * s.skewBound l)) 1 with free := s.free + 1 }

/-- The bound that the package holds after its bearings (R347, R483): the datum's is 0, and without a parent it is unknown. -/
def State.takeBound (s : State) : State :=
  if (s.reg 0x010).getLsbD 0 then s.setBound 0
  else match parentOf s.plat.bearings with
    | some (_, b) => s.setBound b
    | none => s.setBound 0xFFFFFFFF

/-! ## Links (R475-R477) -/

/-- The SRC and UNIT of a link's records (R405). -/
def linkSrc (l : LinkNo) : BitVec 8 × BitVec 16 :=
  if isEdge l.router ∧ l.dir ≠ 10 then (0x2B, BitVec.ofNat 16 (edgePort l.router))
  else if isEdge l.router ∨ l.dir.toNat < 6 then (0x2A, l.router.setWidth 16)
  else if (neighbour l.router l.dir.toNat).toNat / 28 ≠ l.router.toNat / 28 then (0x29, l.router.setWidth 16)
  else (0x28, l.router.setWidth 16)

/-- LINK_CRC_RETRY (R475): a flit on its way is refused and sent again; each retry is counted. -/
def execLinkCrcRetry (l : LinkNo) (s : State) : Host.Outcome State Fault Refusal :=
  if linkOk l then
    let k := s.linkAt l
    .next (if s.plat.failStop ∨ k.dead ∨ 8 ≤ k.retries ∨ (s.linkQueue l).isEmpty then s
      else
        let (src, unit) := linkSrc l
        (s.setLink_ l { k with retries := k.retries + 1 }).report { src := src, sev := 0, unit := unit, link := some l })
  else .fault .illFormed

/-- A link dies (R475, R476): the packets on it park at the sending router as before their moves, and a torus port's bearing is no more
(R483); `rep` marks a death that the bit error rate of a lane brings (R411). -/
def State.killLink (s : State) (l : LinkNo) (rep : Bool) : State :=
  let (src, unit) := linkSrc l
  let q := s.linkQueue l
  let s := s.setLink_ l { s.linkAt l with dead := true }
  let rt := s.routerAt l.router
  let s := s.setRouterAt l.router
    (if l.dir = 10 then { rt with inward := rt.inward.put l.die [] } else { rt with out := rt.out.put l.dir [] })
  let s := q.foldl (fun s x => s.parkAt l.router x.before x.was true 0xD) s
  let s := s.report { src := src, sev := 3, unit := unit, test := some 3, rep := rep }
  if src = 0x2B then
    { s with plat := { s.plat with bearings := s.plat.bearings.filter fun b => b.1 != l.dir.setWidth 3 } }.takeBound
  else s

/-- The lanes or wires that a link may lose (R413): a torus port's 2 spares beside its 16 lanes, and then 8 of these, at half its peak;
one wire in 32 of any other link, whose wires the spec does not count (log entry 28). -/
def linkSpares (l : LinkNo) : Nat :=
  if (linkSrc l).1 = 0x2B then 10 else max 1 (Config.linkWires (linkSrc l).1 (linkSrc l).2 / 32)

/-- The lanes at which a torus port runs (R413): 16, or 8 once its spares are gone. -/
def LinkState.lanes (k : LinkState) : Nat := if k.spared ≤ 2 then 16 else if k.spared ≤ 10 then 8 else 0

/-- A lane or wire of a link is spared (R413), or the link dies where none is left; the answer is the TEST value of a record that awaits
it. -/
def State.spareLane (s : State) (l : LinkNo) (rep : Bool) : State × BitVec 8 :=
  let k := s.linkAt l
  if k.dead then (s, 3)
  else if k.spared < linkSpares l then (s.setLink_ l { k with retries := 0, retrains := 0, spared := k.spared + 1 }, 2)
  else (s.killLink l rep, 3)

/-- A retrained link that still fails spares a lane or wire, with the record of it, or dies (R475). -/
def State.spareRecord (s : State) (l : LinkNo) (rep : Bool) : State :=
  let (src, unit) := linkSrc l
  match s.spareLane l rep with
  | (t, 2) => t.report { src := src, sev := 3, unit := unit, synd := BitVec.ofNat 64 (t.linkAt l).spared, test := some 2, rep := rep }
  | (t, _) => t

/-- LINK_RETRAIN (R411, R475): after eight retries the link retrains; a lane whose bit error rate is too high at any retraining is spared at
once, and a link that still fails spares a lane or wire, or dies. -/
def execLinkRetrain (l : LinkNo) (spared : Bool) (s : State) : Host.Outcome State Fault Refusal :=
  if linkOk l then
    let k := s.linkAt l
    .next (if s.plat.failStop ∨ k.dead ∨ k.retries < 8 then s
      else if Config.berHigh s.plat.cycle then s.spareRecord l true
      else if k.retrains = 0 then s.setLink_ l { k with retries := 0, retrains := 1 }
      else if spared then s.spareRecord l false
      else s.killLink l false)
  else .fault .illFormed

/-! ## Torus traffic -/

/-- A packet comes in over a torus port: it waits at the edge router, the code of the move that brought it being the opposite
direction's (R19, R272). -/
def State.torusArrive (s : State) (port : BitVec 3) (p : Packet) (time : Nat) : State :=
  if s.plat.failStop ∨ 6 ≤ port.toNat ∨ ¬ s.connected port.toNat ∨ s.dead (torusLink port.toNat) then s
  else
    let r := edgeOf port.toNat
    let rt := s.routerAt r
    s.setRouterAt r { rt with torusIn := rt.torusIn ++
      [{ p := { p with stack := [], pc := 0 }, adir := BitVec.ofNat 4 (oppositeDir port.toNat), time := time }] }

/-- A packet leaves over a torus port, which does not retrain (R475): it is another package's from then on. -/
def State.torusLeave (s : State) (port : BitVec 3) : State :=
  let l := torusLink port.toNat
  if s.plat.failStop ∨ 6 ≤ port.toNat ∨ s.dead l ∨ 8 ≤ (s.linkAt l).retries then s
  else match nextOf (s.linkQueue l) with
    | none => s
    | some x =>
      let s := s.takeFromLink l x
      { s with fab := { s.fab with sent := s.fab.sent ++ [(port, s.beyond port.toNat, x.p)] } }

/-! ## Bearing exchange (R347) -/

/-- The offset from a neighbour that four timestamps give (R347): half of an odd difference is rounded down, the spec gives no rounding
(DESIGN CHOICE, log entry 63). -/
def bearingOffset (t1 t2 t3 t4 : Word) : Int := ((t2 - t1).toInt - (t4 - t3).toInt) / 2

/-- BEARING_EXCHANGE (R347), over a connected link in the first cycle of every 64th tick: `dist` and `bound` are the
neighbour's hop distance to the datum and its BOUND. -/
def execBearingExchange (port : BitVec 3) (dist : BitVec 16) (bound : BitVec 32) (t1 t2 t3 t4 : Word) (s : State) :
    Host.Outcome State Fault Refusal :=
  .next (
    let ticks := 64 * s.tickPeriod
    if s.plat.failStop ∨ 6 ≤ port.toNat ∨ ¬ s.connected port.toNat ∨ s.dead (torusLink port.toNat) ∨
        s.mtime / ticks = (s.plat.mtimeMicro - s.cycleMicro) / 1000000 / ticks then s
    else
      let off := bearingOffset t1 t2 t3 t4
      let b := if bound = 0xFFFFFFFF then 0xFFFFFFFF else off.natAbs + bound.toNat + 16
      let s := { s with plat := { s.plat with
        bearings := (port, dist.toNat, b) :: s.plat.bearings.filter fun x => x.1 != port } }
      let own := match parentOf s.plat.bearings with | some (p, _) => p == port | none => false
      let slew := if (s.reg 0x010).getLsbD 0 then 0
        else if own then max (-100) (min 100 (Config.slewFor off)) else s.plat.slew
      { s with plat := { s.plat with slew := slew } }.takeBound)

end Sys2Proof.Machine
end

