-- ==== Sys2Proof/Machine/Landing.lean ====
section
/-! DEFINITION. What happens at a core beside the issue of its bundles: results landing, stream transfers, translations,
descriptor fills, trap entries and requests for pre-emption (R68, R82, R83, R89, R236, R334, R351, R352, R441). -/

namespace Sys2Proof.Machine

/-- Whether a core runs a task in a package that has not stopped. -/
def State.alive (s : State) (n : CoreNo) : Bool := !s.plat.failStop && (s.coreAt n).running.isSome

/-- The core-domain cycle of a core (R350). -/
def State.nowOf (s : State) (n : CoreNo) : Nat := s.plat.cycle - (s.coreAt n).frozen

/-- An event at a core: an ill-formed core number faults, and a stopped package or an idle core does nothing. -/
def coreEvent (n : CoreNo) (f : State → State) (s : State) : Host.Outcome State Fault Refusal :=
  if coreOk n then .next (if s.alive n then f s else s) else .fault .illFormed

/-! ## Results (R68, R211, R212, R352, R396) -/

/-- Whether a result may land: its value is known, and in the pinned regime, or at a fixed latency, its cycle has come. -/
def Outst.landable (o : Outst) (now : Nat) : Option Vec :=
  match o.awaits with
  | .ready v none => some v
  | .ready v (some d) => if d ≤ now then some v else none
  | _ => none

/-- Lands the `i`-th outstanding result of a core. -/
def State.landResult (s : State) (n : CoreNo) (i : Nat) : State :=
  let c := s.coreAt n
  match c.outst[i]? with
  | none => s
  | some o => match o.landable (s.nowOf n) with
    | none => s
    | some v => s.setCoreAt n ({ c with outst := c.outst.eraseIdx i }.land o v)

/-- RESULT_LANDING (R68). -/
def execResultLanding (n : CoreNo) (i : Nat) (s : State) : Host.Outcome State Fault Refusal :=
  coreEvent n (fun s => s.landResult n i) s

/-! ## Streams (R82, R83, R351, R462) -/

/-- The first word of a staging range that is uncorrectable or lies in a fenced row, as the address of its granule. -/
def State.stageTag (s : State) (a n : Nat) : Option Word :=
  ((List.range n).find? fun i => s.plat.stageBad.contains ((a + i) / 8) || s.plat.stageFenced.contains ((a + i) / 8)).map
    fun i => BitVec.ofNat 64 ((a + i) / 16 * 16)

/-- The next element that a read stream's transfer unit fetches: its address, or none while it has none to fetch. -/
def State.nextElement (s : State) (n : CoreNo) (q : BitVec 3) : Option Word :=
  let c := s.coreAt n
  let st := c.ctx.q.get q
  let d := st.desc
  let i := sdPos d + st.fetched.length
  let a := sdAddr d i
  if !sdBound d || sdWrite d || st.base.isEmpty || sdTotal d ≤ i || s.elementBad n d a then none else some a

/-- Adds a fetched element to a stream; in the pinned regime it is due one padded latency after its credit (R351). -/
def Core.addElement (c : Core) (q : BitVec 3) (e : StreamElem) (lat : Nat) : Core :=
  let st := c.ctx.q.get q
  let e := { e with due := if c.pin then st.base.headD 0 + lat else 0 }
  let st' : Stream := { st with fetched := st.fetched ++ [e], base := st.base.drop 1 }
  { c with ctx := { c.ctx with q := c.ctx.q.put q st' } }

/-- Fetches an element at an address of the stream's space; a fetch that its pile holds is noted, and none that waits otherwise. -/
def State.fetchElement (s : State) (n : CoreNo) (q : BitVec 3) (a : Word) : Option State :=
  let c := s.coreAt n
  let d := (c.ctx.q.get q).desc
  let k := sdBytes d
  match sdSpace d with
  | 0 =>
    match translateRange s n c.tenant c.priv a k .read with
    | .error (va, e) => some (s.setCoreAt n (c.addElement q { fault := some (pageFaultCode .read e, va) } 768))
    | .ok (runs, es) =>
      match performRead (s.keepTlb n es) n
          { pieces := piecesOf runs 0 a, base := 0, sext := none } with
      | none => some ((s.keepTlb n es).noteHolds n none runs)
      | some (t, v, e) => some (t.setCoreAt n ((t.coreAt n).addElement q { val := v, tag := e } (padOf runs)))
  | 1 =>
    let v := BitVec.ofNat 1024 (leNat (s.scratchRead n n a.toNat k))
    some (s.setCoreAt n (c.addElement q { val := v, tag := (s.scratchTag n n a.toNat k).map markScratch } (streamPad 1)))
  | sp =>
    if s.stageBusyRange a.toNat k ∨ ¬ s.mayStage a.toNat k 0 then none
    else
      let v := BitVec.ofNat 1024 (leNat (Memory.read s.plat.staging a.toNat k))
      some (s.setCoreAt n (c.addElement q { val := v, tag := (s.stageTag a.toNat k).map markStaging } (streamPad sp)))

/-- STREAM_FETCH (R82). -/
def execStreamFetch (n : CoreNo) (q : BitVec 3) (s : State) : Host.Outcome State Fault Refusal :=
  coreEvent n (fun s => match s.nextElement n q with
    | none => s
    | some a => (s.fetchElement n q a).getD s) s

/-! ## Translations (R334, R440, R441) -/

/-- Whether a core stands at a sheet entry and waits for a translation (R334): no image, sheet or fault point serves it. -/
def State.awaitsSheet (s : State) (n : CoreNo) : Bool :=
  let c := s.coreAt n
  let a := c.ctx.pc
  s.canIssue n && c.sheet.isNone && (s.pointFor n a).isNone &&
  (match s.objAt c.tenant a with
   | none => false
   | some o => (s.atlasAt n o a).isNone) &&
  (match s.imageAt n a with
   | some im => (im.sheetAt a).isNone
   | none => true)

/-- The pipelines that have failed for a core's pending translation. -/
def State.setPipes (s : State) (n : CoreNo) (k : Nat) : State :=
  { s with plat := { s.plat with pipesFailed := Tbl.put n.toNat k s.plat.pipesFailed } }

/-- TRANSLATION_COMPLETE (R334), of a sheet of at most `groups` groups: as many as the text and the Cartographer's scheme give, and no
other number, so that every translation of a text ends alike. -/
def execTranslationComplete (die : BitVec 3) (n : CoreNo) (groups : Nat) (s : State) : Host.Outcome State Fault Refusal :=
  coreEvent n (fun s =>
    let a := (s.coreAt n).ctx.pc
    if dieOf n = die ∧ s.awaitsSheet n ∧ groups = s.sheetGroups n a then (s.translateSheet n a groups).setPipes n 0
    else s) s

/-- TRANSLATION_RETRY (R441): an attempt of one pipeline has failed and is recorded; after all four the region's first group is
a fault point. -/
def execTranslationRetry (die : BitVec 3) (n : CoreNo) (s : State) : Host.Outcome State Fault Refusal :=
  coreEvent n (fun s =>
    if dieOf n ≠ die ∨ ¬ s.awaitsSheet n then s
    else
      let c := s.coreAt n
      let k := Tbl.get 0 s.plat.pipesFailed n.toNat + 1
      let s := s.report { src := 0x12, sev := if k < 4 then 0 else 1, unit := die.setWidth 16, ten := some c.tenant,
                          vpc := c.ctx.pc, task := c.creg crTASK }
      if k < 4 then s.setPipes n k
      else match s.objAt c.tenant c.ctx.pc with
        | none => s
        | some o =>
          (s.putPoint (s.pointAt n o (o.regionOf ((c.ctx.pc.toNat - o.text.toNat) / 4)).1 0x20 3 (tmoveOf 15 0xFF) 0 true)).setPipes n 0) s

/-! ## The descriptor cache (R236) -/

/-- The grouped beat of a core's next bundle that waits for descriptors, and for them alone (R236, R435), with the state that its mode is
read in. -/
def State.waitingBeat (s : State) (n : CoreNo) : Option (Form × State) :=
  let s := { s with cur := n }
  let waits (ps : List Part) (j : Judged) : Bool := j.hold.isSome && (heldBy ps).isNone && ps.any fun p => p.sem.fills
  if !s.canIssue n || s.holdsNext s.core then none
  else match s.nativeSheet n with
    | some (im, _, k) =>
      match s.bundleWords n im k with
      | some ws =>
        if waits (s.bundleParts ws) (s.core.judge (s.bundleParts ws) []) then
          (readSlots s.core ws).findSome? fun x => match x.2 with
          | .op (.mbeatq f) => some (f, s)
          | _ => none
        else none
      | none => none
    | none => match s.core.sheet with
      | none => none
      | some sh => match groupAt sh.text (s.core.sheetOff sh) with
        | .group ms _ =>
          let (t, moves, ops) := s.groupParts n ms
          if waits (moves ++ ops) (s.core.judgeGroup ms moves ops) then
            (executing s.core ms).findSome? fun x => match decodeTrigger x.2.dst with
            | some (.mbeatq f) => if x.2.isTrigger then some (f, t) else none
            | _ => none
          else none
        | _ => none

/-- Fills a plane's entry of a group where it is absent; a fill that fails or is held leaves the cache as it is. -/
def State.fillPlane (s : State) (n : CoreNo) (b : Bool) (g w : Nat) : State :=
  let c := s.coreAt n
  match c.descOf b g with
  | some _ => s
  | none => match readDescs s n b g w (List.range 32) with
    | .entry ds t => t.setCoreAt n ((t.coreAt n).useDesc
        { tid := mcfgTid c.mcfg b, group := BitVec.ofNat 16 g, desc := ds })
    | _ => s

/-- The width of the descriptors that a waiting beat reads. -/
def beatWidth (f : Form) (t : State) : Nat := descWidth (mET (fetchArgs ⟨.MTX, 11, 0x08, 0, 1, .xb true⟩ {} f t.core).m)

/-- The core-domain cycle in which a pinned beat's fill completes: one padded latency of its slowest descriptor after the beat began to
wait (R351). -/
def State.fillDue (s : State) (n : CoreNo) (f : Form) (t : State) : Nat :=
  let c := s.coreAt n
  let g := beatGroup c.mcfg
  let w := beatWidth f t
  let pad (b : Bool) (r : Nat) : Nat := match translateRange s n c.tenant c.priv (c.descAddr b g w r) w .read with
    | .ok (runs, _) => padOf runs
    | .error _ => 768
  c.descAt.getD (s.nowOf n) + (List.range 32).foldl (fun m r => max m (max (pad false r) (pad true r))) 768

/-- Whether a pinned core waits for descriptors whose time has passed (R352). -/
def State.fillLate (s : State) (n : CoreNo) : Bool :=
  (s.coreAt n).pin && (s.coreAt n).descAt.isSome && match s.waitingBeat n with
  | some (f, t) => decide (s.fillDue n f t ≤ s.nowOf n)
  | none => false

/-- A pinned beat that waits for descriptors as a cycle ends has begun to wait (R351). -/
def State.markFill (s : State) (n : CoreNo) : State :=
  let c := s.coreAt n
  if c.pin ∧ c.descAt.isNone ∧ (s.waitingBeat n).isSome then s.setCoreAt n { c with descAt := some (s.nowOf n) } else s

/-- DESCRIPTOR_CACHE_FILL (R236): the entries that the waiting beat needs are read through the L1, in the pinned regime at their padded
time (R351). -/
def execDescriptorCacheFill (n : CoreNo) (s : State) : Host.Outcome State Fault Refusal :=
  coreEvent n (fun s => match s.waitingBeat n with
    | none => s
    | some (f, t) =>
      if (s.coreAt n).pin ∧ s.nowOf n < s.fillDue n f t then s else
      let w := beatWidth f t
      let g := beatGroup (s.coreAt n).mcfg
      (s.fillPlane n false g w).fillPlane n true g w) s

/-! ## Traps and requests -/

/-- TRAP_ENTRY (R89); a page fault that is held enters no handler (R447). -/
def execTrapEntry (n : CoreNo) (s : State) : Host.Outcome State Fault Refusal :=
  coreEvent n (fun s => match (s.coreAt n).pendTrap with
    | none => s
    | some t => if s.faultHeld n t then s else s.enterTrap n) s

/-- A request for pre-emption reaches a core: one that comes while issueat, frmwait or timeat holds the next bundle waits for that to issue
(R192). -/
def Core.asked (c : Core) : Core := { c with preempt := true, waitsIssue := c.waitsIssue || (!c.preempt && c.timeHeld) }

/-- A pre-emption request reaches a core's task (R59), and with it the other members of its gang. -/
def State.requestCore (s : State) (n : CoreNo) (own : Bool) : State :=
  match (s.coreAt n).running with
  | none => s
  | some r =>
    { s with cores := s.cores.map fun (kc : Nat × Core) => (kc.1, match kc.2.running with
      | some x =>
        if kc.1 = n.toNat then { kc.2.asked with sliceCut := kc.2.sliceCut || own && !kc.2.preempt }
        else if r.gang ≠ 0 ∧ x.gang = r.gang ∧ x.tenant = r.tenant ∧ x.handle = r.handle then kc.2.asked
        else kc.2
      | none => kc.2) }

/-- The cores whose tasks meet a test. -/
def State.coresWith (s : State) (p : Nat → Running → Bool) : List CoreNo :=
  (s.cores.filter fun kc => match kc.2.running with | some r => p kc.1 r | none => false).map fun kc => BitVec.ofNat 11 kc.1

/-- PREEMPTION_REQUEST (R59): the supervisor names a core, a launch or a tenant. -/
def execPreemptionRequest (who : PreemptTarget) (s : State) : Host.Outcome State Fault Refusal :=
  let hit (k : Nat) (r : Running) : Bool := match who with
    | .core n => k == n.toNat
    | .launch t h => r.tenant == t && r.handle == h
    | .tenant t => r.tenant == t
  .next (if s.plat.failStop then s else (s.coresWith hit).foldl (fun s n => s.requestCore n false) s)

end Sys2Proof.Machine
end

