-- ==== Sys2Proof/Machine/CopyEnd.lean ====
section
/-! DEFINITION. The end of a copy: what its completion does to its barrier, its counter, its key slot and its granules (R255-R257,
R351, R364). -/

namespace Sys2Proof.Machine

/-! ## The end of a copy (R256, R257, R465) -/

/-- Lowers a byte barrier's pending count; its action fires as the count reaches 0 (R257). -/
def State.barrierLess (s : State) (n : CoreNo) (bb : BitVec 3) (k : Nat) : State :=
  let c := s.coreAt n
  let b := c.bb.get bb
  let b' : Barrier := { b with pending := b.pending - BitVec.ofNat 63 k }
  if b'.pending = 0 then
    let s := s.setCoreAt n { c with bb := c.bb.put bb { b' with action := none } }
    match b.action with
    | some (a, h, t) => { s with dist := { s.dist with wakes := s.dist.wakes ++ [⟨a, h, t⟩] } }
    | none => s
  else s.setCoreAt n { c with bb := c.bb.put bb b' }

/-- The bytes of granule `g` of a copy. -/
def granBytes (d : BitVec 256) (g : Nat) : Nat := min 16 (ccLen d - 16 * g)

/-- Takes entry `i` off a core's copy queue. -/
def State.dropCopy (s : State) (n : CoreNo) (i : Nat) : State :=
  let c := s.coreAt n
  s.setCoreAt n { c with copyQ := c.copyQ.eraseIdx i }

/-- The key slot that a decrypting copy names (R364). -/
def State.keyFor (s : State) (e : CopyEntry) : Option KeySlot :=
  s.plat.keys.find? fun k => k.tenant == e.tenant && k.handle == e.handle && k.slot == ccKsl e.cmd

/-- A copy has completed: its delivery counter (R256) and its key slot's counter (R364) go up. -/
def State.copyDone (s : State) (n : CoreNo) (i : Nat) (e : CopyEntry) : State :=
  let s := s.dropCopy n i
  let s := if ccDec e.cmd then
      { s with plat := { s.plat with keys := s.plat.keys.map fun k =>
          if k.tenant == e.tenant && k.handle == e.handle && k.slot == ccKsl e.cmd then { k with counter := k.counter + 1 } else k } }
    else s
  if ccDce e.cmd then s.countAt n (ccDc e.cmd) 1 none else s

/-! ## Pinned copies (R351) -/

/-- Completes a pinned copy: its full bits, its barrier's count and its counter together (R351). -/
def State.finishPinned (s : State) (n : CoreNo) (i : Nat) (e : CopyEntry) : State :=
  let d := e.cmd
  let c := s.coreAt n
  let s := if ccDsp d = 1 then
      s.setCoreAt n { c with emptyGran := granFill c.emptyGran (granRange (ccDst d).toNat (ccLen d)) } else s
  let s := if ccBbe d ∧ ccLen d ≠ 0 then s.barrierLess n (ccBb d) (ccLen d) else s
  s.copyDone n i e

/-- Completes the pinned copies of a core whose bytes have landed and whose time has come; `fuel` bounds how many. -/
def State.finishCopies (s : State) (n : CoreNo) : Nat → State
  | 0 => s
  | fuel + 1 =>
    let c := s.coreAt n
    match ((List.range c.copyQ.length).zip c.copyQ).find? fun x =>
        x.2.started && x.2.left.isEmpty && s.copyRipe n x.2 && (ccLen x.2.cmd ≠ 0 || x.1 = 0) with
    | none => s
    | some (i, e) => State.finishCopies (s.finishPinned n i e) n fuel

/-- Completes the wholly landed pinned copies of a core's own task at once, as a save counts them (R62); `fuel` bounds how many. -/
def State.finishLanded (s : State) (n : CoreNo) : Nat → State
  | 0 => s
  | fuel + 1 =>
    let c := s.coreAt n
    match ((List.range c.copyQ.length).zip c.copyQ).find? fun x =>
        !x.2.armed && x.2.owner == c.creg crSAVEA && x.2.started && x.2.left.isEmpty && (ccLen x.2.cmd ≠ 0 || x.1 = 0) with
    | none => s
    | some (i, e) => State.finishLanded (s.finishPinned n i e) n fuel

end Sys2Proof.Machine
end

