-- ==== Sys2Proof/Machine/Context.lean ====
section
/-! DEFINITION. Contexts in their save areas: the save of a pre-empted or held task, its resumption, and the watchdogs over both
(R60-R65, R86, R195, R251, R258, R259, R397, R399, R400, R447, R453, R454). -/

namespace Sys2Proof.Machine

/-! ## Clearing a core (R195, R251) -/

/-- The core's private state as core reset leaves it: scratchpad, full bits, tags, barriers, counters and arms. -/
def Core.clearPrivate (c : Core) : Core :=
  { c with
    scratch := [], emptyGran := [], scratchBad := [], tagBad := [], dc := RF.fill 0, dcClk := RF.fill none, arms := RF.fill (RF.fill {})
    tagTable := c.tagTable.map fun (w : Word) => w &&& ~~~((1 : Word) <<< 63)
    bb := c.bb.map fun (b : Barrier) => { b with pending := 0, action := none } }

/-- The end of a core reset, once every copy queued on the core's engine has completed (R251, R400): the private state is cleared,
and no tenant is the last. -/
def State.endReset (s : State) (n : CoreNo) : State :=
  let c := s.coreAt n
  if !c.resetting || !c.copyQ.isEmpty then s
  else s.setCoreAt n { c.clearPrivate with
    lastTenant := none, bb := RF.fill {}, tagTable := RF.fill 0, sendQ := [], fired := [], armHeld := false, resetting := false }

/-- A core reset (R67, R400): the matrix state, the L1 and the trap-free context go at once, the private state once its copies have
completed; until then the core takes no task. -/
def State.coreReset (s : State) (n : CoreNo) : State :=
  (s.setCoreAt n { s.coreAt n with
    cycBase := s.plat.cycle, l1 := [], utlb := [], aown := 0, descCache := [], acc := RF.fill 0, mxBad := [], legend := 0, mstat := 0
    mcfg := 0, dsca := 0, dscb := 0, armHeld := false, resetting := true }).endReset n

/-! ## The image of a context (R63, R64, R467) -/

/-- The copies of a core's task that have still to land (R62). -/
def Core.ownCopies (c : Core) : List CopyEntry := c.copyQ.filter fun e => !e.armed && e.owner == c.creg crSAVEA

/-- The key slots and places of a core's own decrypting copies, in their order (R364). -/
def Core.ownDecs (c : Core) : List (BitVec 4 × Nat) := (c.ownCopies.filter fun e => ccDec e.cmd).map fun e => (ccKsl e.cmd, e.seq)

/-- A barrier's saved pending count: the lengths of the task's unfinished copies bound to it (R62). -/
def Core.savedCount (c : Core) (b : Nat) : Nat :=
  ((c.ownCopies.filter fun e => e.cmd.getLsbD 167 && (e.cmd.extractLsb' 164 3 : BitVec 3).toNat == b).map
    fun e => (e.cmd.extractLsb' 128 32 : BitVec 32).toNat).sum

/-- Bytes 0x0040-0x073F of a save area (R63). -/
def Core.saveLow (c : Core) : List Byte :=
  (List.range 24).flatMap (fun i => leBytes 8 (if i < 23 then c.creg (BitVec.ofNat 5 i) else 0).toNat) ++
  (List.range 64).flatMap (fun i => leBytes 8 (c.ctx.rdS (BitVec.ofNat 6 i)).toNat) ++
  (List.range 8).flatMap (fun i => leBytes 16 (c.ctx.k.get (BitVec.ofNat 3 i)).toNat) ++
  (List.range 4).flatMap (fun i => leBytes 16 (c.ctx.lc.get (BitVec.ofNat 2 i)).toNat) ++
  leBytes 8 c.ctx.sfull.toNat ++ leBytes 4 c.ctx.vfull.toNat ++ leBytes 2 (c.ctx.p ||| 1).toNat ++ List.replicate 2 0 ++
  List.replicate 48 0 ++
  (List.range 8).flatMap (fun i => leBytes 32 (c.ctx.q.get (BitVec.ofNat 3 i)).desc.toNat) ++
  (List.range 16).flatMap (fun i => leBytes 32 (match c.ownCopies[i]? with | some e => e.cmd.toNat | none => 0)) ++
  (List.range 8).flatMap fun i =>
    leBytes 8 (c.savedCount i % 2 ^ 63 + (if (c.bb.get (BitVec.ofNat 3 i)).fail then 2 ^ 63 else 0))

/-- Bytes 0x0780-0x17FF of a save area (R63). -/
def Core.saveHigh (c : Core) : List Byte :=
  (List.range 8).flatMap (fun i =>
    let b := c.bb.get (BitVec.ofNat 3 i)
    leBytes 8 b.addr.toNat ++ leBytes 2 b.code.toNat ++ List.replicate 6 0) ++
  (List.range 32).flatMap fun i => leBytes 128 (c.ctx.rdV (BitVec.ofNat 5 i)).toNat

/-- Stores a list of blocks at their virtual addresses for a context's save; the reason of SYND where one fails, and none while
one is held. -/
def State.saveBlocks (s : State) (n : CoreNo) : List (Word × List Byte) → Except (BitVec 8) (Option State)
  | [] => .ok (some s)
  | (a, bs) :: r => match s.ctxStore n a bs with
    | .error (.translation _ _) => .error 2
    | .error (.bad _) => .error 3
    | .ok none => .ok none
    | .ok (some t) => State.saveBlocks t n r

/-! ## The save (R62) -/

/-- What an attempt at a save comes to: it waits, it is refused by a tagged register (R397), it fails, or it is done. -/
inductive SaveResult where
  | waits (s : State)
  | tagged (t : TrapInfo)
  | fails (synd : BitVec 8)
  /-- The state, and the slots and places of the decrypting copies that it has taken off the queue (R364). -/
  | done (s : State) (decs : List (BitVec 4 × Nat))
  deriving Repr

/-- The data error of a save that meets a tagged register (R392 CODE 0x0006, R397): the lowest one. -/
def Core.saveTagged (c : Core) : Option TrapInfo :=
  match c.tags.filterMap fun t => regForm t.reg with
  | [] => none
  | x :: r =>
    let low := r.foldl (fun m y => if y.toNat < m.toNat then y else m) x
    some { sup := true, cls := 0x30, code := 6, tvpc := c.ctx.pc, tslot := 0, tinfo := low.setWidth 64, tmove := tmoveOf 15 0xFF }

/-- Whether steps 1 and 2 of a save are over: every producer has landed, and the write streams are drained (R62). -/
def Core.drained (c : Core) : Bool :=
  c.outst.isEmpty && c.pend.isEmpty && c.wbuf.isEmpty && !c.committed.any fun e => match e.2 with | .push _ => true | _ => false

/-- Whether a save has still to wait: for producers, write streams, other tasks' copies, started copies that an arm queued with a
barrier, gated stores, and what its release waits for (R62, R259, R319). -/
def State.saveWaits (s : State) (n : CoreNo) : Bool :=
  let c := s.coreAt n
  !s.mayLeave n ||
  c.copyQ.any fun e => if e.armed then e.started && e.cmd.getLsbD 167 else e.owner != c.creg crSAVEA

/-- The context after a save has taken its copies off the queue (R62, R258). -/
def Core.afterSave (c : Core) : Core :=
  { c with copyQ := c.copyQ.filter fun e => e.armed || e.owner != c.creg crSAVEA
           bb := RF.fill {} }

/-- Tries to save the context of core `n`, which stands at a boundary (R62): with `loop` it is saved under LOOP. -/
def State.saveContext (s : State) (n : CoreNo) (loop : Bool) : SaveResult :=
  let c := s.coreAt n
  let s := s.setCoreAt n { c with saving := true, armHeld := c.armHeld || c.drained }
  if s.saveWaits n then .waits s
  else match (s.coreAt n).saveTagged with
    | some t => .tagged t
    | none =>
      let s := s.finishLanded n 16
      let c := s.coreAt n
      let a := c.creg crSAVEA
      match s.ctxLoad n a 64 with
      | .error (.translation _ _) => .fails 2
      | .error (.bad _) => .fails 3
      | .ok none => .waits s
      | .ok (some (s1, hdr)) =>
        let blocks := [(a + 0x40, c.saveLow), (a + 0x780, c.saveHigh), (a, c.saveHeader n 1 loop (hdr.getLsbD 18))]
        match s1.saveBlocks n blocks with
        | .error e => .fails e
        | .ok none => .waits s
        | .ok (some s2) =>
          let s3 := releaseAt (flushL1 s2 n) n 3
          .done (s3.setCoreAt n (s3.coreAt n).afterSave) c.ownDecs

/-- A save that cannot complete loses the task (R454). -/
def State.saveFails (s : State) (n : CoreNo) (synd : BitVec 8) : State := (s.writeIncomplete n).loseTask n 0x31 synd

/-- Clears STOP of the innermost loop of a context that is not saved at the loop's boundary, so that it goes on when it
resumes. -/
def Core.unstop (c : Core) : Core :=
  match c.ctx.loops with
  | e :: _ =>
    let x := c.ctx.lc.get e
    { c with ctx := { c.ctx with lc := c.ctx.lc.put e (lcSet x (lcCount x) false (lcAct x)) } }
  | [] => c

/-- The loop boundary that a context was saved at, made again (R86): STOP is cleared and the boundary evaluated. -/
def State.remakeBoundary (s : State) (n : CoreNo) : State :=
  let c := ({ s.coreAt n with loopSave := false, preempt := false }).unstop
  let s := s.setCoreAt n c
  match c.ctx.loops with
  | e :: _ =>
    let (t, ended) := s.passBoundary n e (s.afterKernel n e)
    if ended then State.passEnds n (lcBody (c.ctx.lc.get e)) 3 t else t
  | [] => s

/-- A save meets a tagged register (R397): the data error stands against the request, which is taken again after TRET (R58,
R418). -/
def State.refuseSave (s : State) (n : CoreNo) (t : TrapInfo) : State :=
  s.setCoreAt n { s.coreAt n with pendTrap := some t, armHeld := false, saving := false }

/-- Adds a waiting task to the launch of a core's task. -/
def State.addWaiting (s : State) (r : Running) (w : Waiting) : State :=
  match s.findLaunch r.tenant r.handle with
  | none => s
  | some l => s.modLaunch l.order fun l => { l with waiting := l.waiting ++ [w] }

/-- A saved task leaves its core (R62): Pre-empted, or Held (R41, R447). A task whose launch was cancelled stays so by CP. -/
def State.saved (s : State) (n : CoreNo) (decs : List (BitVec 4 × Nat)) (w : Word → List (BitVec 2) → TaskMem → Waiting) : State :=
  let c := s.coreAt n
  match c.running with
  | none => s
  | some r => (s.leaveCore n 2).addWaiting r (w (c.creg crSAVEA) c.ctx.loops { s.taskMem n with decs := decs })

/-- The sync fault that is due at a commit point of a core (R482). -/
def State.syncNow (s : State) (c : Core) : Bool := c.syncDue ≠ 0 && decide (c.syncAt ≤ s.mtime)

/-- Whether a core stands at a boundary of R60 at which its task can be saved: a sync fault that is due there comes first (R487). -/
def State.atBoundary (s : State) (n : CoreNo) : Bool :=
  let c := s.coreAt n
  c.depth == 0 && c.pendTrap.isNone && c.leaving = .none && c.sheet.isNone && c.group.isEmpty && c.mayPart && !s.syncNow c

/-- What holds the next bundle of a core, besides its time (R60, R76): its registers, a stream, a granule, a counter, a barrier or a
queue. -/
def State.nextHeld (s : State) (n : CoreNo) : Option Held :=
  let s := { s with cur := n }
  let c := s.core
  if c.running.isNone ∨ c.pendTrap.isSome ∨ c.leaving ≠ .none then none
  else match s.nativeSheet n with
    | some (im, _, k) => (s.bundleWords n im k).bind fun ws => (c.judge (s.bundleParts ws) []).hold
    | none => match c.sheet with
      | none => none
      | some sh => match groupAt sh.text (c.sheetOff sh) with
        | .group ms _ =>
          let (_, moves, ops) := s.groupParts n ms
          (c.judgeGroup ms moves ops).hold
        | _ => none

/-- Whether what a discarded sheet of a core waits for has come (R338): a counter above the value that it waits below, a barrier without
pending bytes, full granules, or an element fetched. -/
def State.waitMet (s : State) (n : CoreNo) : Bool :=
  let c := s.coreAt n
  match c.waitOn with
  | none => true
  | some (.counter k v) => decide (v.toNat ≤ (c.dc.get k).toNat)
  | some (.barrier k) => (c.bb.get k).pending = 0
  | some (.granules m gs) => gs.all fun g => !(s.coreAt m).emptyGran.contains g && (s.granHolder n m [g]).isNone
  | some (.stream q) => match (c.ctx.q.get q).fetched with | e :: _ => decide (e.due ≤ s.plat.cycle - c.frozen) | [] => false
  | some (.room _) | some .place => true

/-- Whether the next bundle of a core is blocked (R60). A bundle that issueat, frmwait or timeat holds is not: a request waits for the
first boundary after it issues (R192). -/
def State.blocked (s : State) (n : CoreNo) : Bool :=
  !(s.coreAt n).timeHeld && ((s.nextHeld n).isSome || !s.waitMet n)

/-- A bundle whose stamp has passed, and that its registers still hold, gives its core up: it issues later than its stamp (R190). -/
def Core.partHold (c : Core) : Core :=
  match c.hold with
  | .issueAt _ => { c with hold := .none }.setLate
  | _ => c

/-- Goes on with a pre-emption (R60-R62): a blocked core first abandons its sheet. -/
def State.preemptStep (s : State) (n : CoreNo) : State :=
  let c := s.coreAt n
  if !c.preempt then s
  else
    let give := decide (c.depth = 0) && s.blocked n
    let s := if give then s.discardSheet n 0 else s
    if !s.atBoundary n || !(give || c.saving || c.ctx.loops.isEmpty || c.loopSave) then s
    else
      let s := s.setCoreAt n (s.coreAt n).partHold
      let c := s.coreAt n
      let loop := c.loopSave && (match c.ctx.loops with | e :: _ => lcBody (c.ctx.lc.get e) == c.ctx.pc | [] => false)
      let s := if loop then s else s.setCoreAt n c.unstop
      match s.saveContext n loop with
      | .waits t => t
      | .tagged t => s.refuseSave n t
      | .fails synd => s.saveFails n synd
      | .done t decs => t.saved n decs fun a loops k => .preempted a n c.sliceCut loops k

/-- PREEMPTION_SAVE (R60-R64). -/
def execPreemptionSave (n : CoreNo) (s : State) : Host.Outcome State Fault Refusal := coreEvent n (fun s => s.preemptStep n) s

/-! ## Held page faults (R446, R447) -/

/-- The 64 bytes of a held-fault entry (R446). -/
def heldEntry (c : Core) (t : TrapInfo) : List Byte :=
  let cause : Word := 0x8000000000000000 ||| (t.cls.setWidth 64 <<< 16) ||| t.code.setWidth 64
  [cause, t.tvpc, t.tinfo, c.creg crSAVEA, c.creg crTASK, t.tslot, t.tmove, BitVec.ofNat 64 t.time].flatMap fun w => leBytes 8 w.toNat

/-- Writes an entry to a tenant's held-fault ring, releases, advances TAIL and raises VEC (R447). -/
def State.queueFault (s : State) (ten : BitVec 5) (e : List Byte) : State :=
  let blk := tenantBlock ten
  let tail := (s.treg ten 0x68).toNat
  let ctl := s.treg ten 0x58
  let pa := (bits (s.treg ten 0x50) 6 46 : BitVec 46).toNat * 64 + 64 * (tail % ringSize (ctl.toNat % 32) 2 12)
  let s := (s.withMem fun m => m.leave 8 pa e).baseRelease
  (s.setReg (blk + 0x68) (BitVec.ofNat 64 ((tail + 1) % 2 ^ 32))).raiseMsix (bits ctl 16 11 : BitVec 11).toNat

/-- Goes on with the hold of a page fault (R447): the sheet is discarded, the context is saved at its entry, the entry is
written, and the task is Held. -/
def State.holdStep (s : State) (n : CoreNo) : State :=
  let c := s.coreAt n
  match c.pendTrap with
  | none => s
  | some t =>
    if !s.faultHeld n t then s
    else
      let s := s.discardSheet n 0
      let s := s.setCoreAt n { (s.coreAt n).unstop with loopSave := false, group := [], pendTrap := some t }
      match s.saveContext n false with
      | .waits u => u
      | .tagged x => s.refuseSave n x
      | .fails synd => s.saveFails n synd
      | .done u decs => (u.queueFault c.tenant (heldEntry (u.coreAt n) t)).saved n decs fun a loops k => .held a n loops k

/-- PAGE_FAULT_HOLD (R447). -/
def execPageFaultHold (n : CoreNo) (s : State) : Host.Outcome State Fault Refusal := coreEvent n (fun s => s.holdStep n) s

/-! ## Resumption (R65, R86, R454) -/

/-- The header of a save area that a task resumes from, or the SYND of R454. -/
def headerSynd (hdr : List Byte) : Option (BitVec 8) :=
  let flags := leNat ((hdr.drop 2).take 2)
  if leNat (hdr.take 2) ≠ 1 ∨ flags % 2 = 0 ∨ flags / 2 % 2 = 1 then some 5 else none

/-- The number that `k` bytes at an offset of an image hold. -/
def imgNat (img : List Byte) (o k : Nat) : Nat := leNat ((img.drop o).take k)

/-- The bits of a loop register and of a stream register that are RES0 (R80, R84), which read as 0 whatever a save area holds (R8). -/
def lcHeld (x : BitVec 128) : BitVec 128 := x &&& ~~~((0x3FFFFF : BitVec 128) <<< 2)
def sdHeld (x : BitVec 256) : BitVec 256 := x &&& ~~~((0x3FF : BitVec 256) <<< 213)

/-- The context that a save area describes (R63): the matrix state and the accumulator image are not part of it. The order in which the
active loops nest has no place in it: the model keeps it beside the area (DESIGN CHOICE, log entry 38; R65, R86). -/
def ctxOfImage (img : List Byte) (loops : List (BitVec 2)) : Ctx :=
  { s := Vector.ofFn fun i => BitVec.ofNat 64 (imgNat img (0x100 + 8 * i.val) 8)
    sfull := BitVec.ofNat 64 (imgNat img 0x3C0 8)
    v := Vector.ofFn fun i => BitVec.ofNat 1024 (imgNat img (0x800 + 128 * i.val) 128)
    vfull := BitVec.ofNat 32 (imgNat img 0x3C8 4)
    p := BitVec.ofNat 16 (imgNat img 0x3CC 2) ||| 1
    k := Vector.ofFn fun i => BitVec.ofNat 128 (imgNat img (0x300 + 16 * i.val) 16)
    q := Vector.ofFn fun i => { desc := sdHeld (BitVec.ofNat 256 (imgNat img (0x400 + 32 * i.val) 32)) }
    lc := Vector.ofFn fun i => lcHeld (BitVec.ofNat 128 (imgNat img (0x380 + 16 * i.val) 16))
    cr := Vector.ofFn fun i =>
      if i.val < 23 then BitVec.ofNat 64 (imgNat img (0x40 + 8 * i.val) 8) &&& crHeld (BitVec.ofNat 5 i.val) else 0
    code := BitVec.ofNat 64 (imgNat img 16 8)
    coords := Vector.ofFn fun i => BitVec.ofNat 16 (imgNat img (40 + 2 * i.val) 2)
    lastSusp := BitVec.ofNat 64 (imgNat img 32 8)
    pc := BitVec.ofNat 64 (imgNat img 8 8) &&& 0x01FFFFFFFFFFFFFC
    loops := loops }

/-- The streams of a resumed context fetch anew from the core-domain cycle at which they resume (R62, R351). -/
def Ctx.restartStreams (c : Ctx) (now : Nat) : Ctx :=
  { c with q := c.q.map fun (st : Stream) => { st with base := if sdBound st.desc then List.replicate streamDepth now else [] } }

/-- The copies of a save area that are issued again, in their order (R65): entries that are all zero are unused. A decrypting copy
keeps its place in the order of its slot (R364). -/
def copiesOfImage (img : List Byte) (r : Running) (pin : Bool) (now seq : Nat) (decs : List (BitVec 4 × Nat)) : List CopyEntry :=
  let cmds := ((List.range 16).map fun i => BitVec.ofNat 256 (imgNat img (0x500 + 32 * i) 32)).filter (· ≠ 0)
  (((List.range cmds.length).zip cmds).foldl (fun (acc : List CopyEntry × List (BitVec 4 × Nat)) (i, d) =>
    let old := if ccDec d then acc.2.head?.map Prod.snd else none
    let e : CopyEntry := { cmd := d, tenant := r.tenant, handle := r.handle, owner := r.savea, task := r.task, armed := false,
                           priv := false, seq := old.getD (seq + i), left := copyGranules d, due := if pin then some now else none }
    (acc.1 ++ [e], if ccDec d then acc.2.drop 1 else acc.2)) ([], decs)).1

/-- The barriers of a core as a saved task resumes on it (R65, R467, R386): the saved counts join what stands, and a saved FAIL flag with
its code and address is restored; an action that stands stays (DESIGN CHOICE, log entry 39: the spec does not say what becomes of what
another task of the tenant has left at a barrier). -/
def mergeBarriers (old saved : RF 3 Barrier) : RF 3 Barrier :=
  Vector.zipWith (fun o x => { o with
    pending := o.pending + x.pending, fail := o.fail || x.fail, code := if x.fail then x.code else o.code
    addr := if x.fail then x.addr else o.addr }) old saved

/-- The byte barriers of a save area (R63, R467). -/
def barriersOfImage (img : List Byte) : RF 3 Barrier :=
  Vector.ofFn fun i =>
    let w := imgNat img (0x700 + 8 * i.val) 8
    { pending := BitVec.ofNat 63 w, fail := decide (2 ^ 63 ≤ w), addr := BitVec.ofNat 64 (imgNat img (0x780 + 16 * i.val) 8)
      code := BitVec.ofNat 16 (imgNat img (0x788 + 16 * i.val) 2) }

/-- The sync fault that a task takes at a commit point (R482). -/
def syncTrap (s : State) (c : Core) (cause : BitVec 16) : TrapInfo :=
  { sup := true, cls := 0x42, code := cause, tvpc := c.ctx.pc, tslot := 0, tinfo := s.reg 0x008, tmove := tmoveOf 15 0xFF }

/-- Whether a core must be cleared before the first bundle of a task of a tenant (R195, R251). -/
def Core.mustClear (c : Core) (t : BitVec 5) : Bool := c.lastTenant.isSome && c.lastTenant ≠ some t

/-- The scratchpad granules that copies will land in, made empty (R254, step 3). -/
def emptied (empty : List Nat) (es : List CopyEntry) : List Nat :=
  es.foldl (fun acc e => if ccDsp e.cmd = 1 then granEmpty acc (granRange (ccDst e.cmd).toNat (ccLen e.cmd)) else acc) empty

/-- Resumes a saved task on core `n` from the bytes of its save area (R65): a task saved under LOOP makes its boundary again, and
one whose launch has left the pinned regime takes its sync fault. -/
def State.resumeTask (s : State) (n : CoreNo) (l : Launch) (savea : Word) (loops : List (BitVec 2)) (k : TaskMem) (gang slice : Nat)
    (img : List Byte) : State :=
  let c := s.coreAt n
  let flags := leNat ((img.drop 2).take 2)
  let now := s.nowOf n
  let ctx := (ctxOfImage img loops).restartStreams now
  let pin := (ctx.creg crPSTAT).getLsbD 1
  let r : Running := { tenant := l.tenant, handle := l.handle, savea := savea, task := k.task,
                       cancelPending := decide (flags / 8 % 2 = 1), gang := gang }
  let copies := copiesOfImage img r pin now s.plat.copySeq k.decs
  let c := if c.mustClear l.tenant then c.clearPrivate else c
  let c := { c with
    running := some r, ctx := ctx, l1 := [], sliceLeft := if pin then 0 else slice, clock := k.heard
    copyQ := c.copyQ ++ copies, bb := mergeBarriers c.bb (barriersOfImage img), emptyGran := emptied c.emptyGran copies }
  let c := c.traceAdd 4 0 (ctx.creg crTASK) (s.cyc c)
  let s := (s.setCoreAt n c).floorClock pin
  let s := { s with plat := { s.plat with copySeq := s.plat.copySeq + copies.length } }
  let s := if flags / 16 % 2 = 1 then s.remakeBoundary n else s
  if pin ∧ ¬ l.pinned then s.setCoreAt n { s.coreAt n with pendTrap := some (syncTrap s (s.coreAt n) l.syncCause) }
  else if pin then s.setCoreAt n { s.coreAt n with syncDue := l.syncCause, syncAt := l.syncAt } else s

/-! ## Watchdogs (R398-R400, R453) -/

/-- The hang period (R398). -/
def State.hangPeriod (s : State) : Nat :=
  let h := (s.reg 0x130).toNat % 64
  2 ^ (if h < 16 ∨ 40 < h then 40 else h)

/-- Whether a core is held only by its own pipeline or by a producer that has not landed, in a cycle in which it issues nothing (R399):
its next bundle is held by its registers or a stream, a late result freezes it, a trap, a departure or a save waits for producers, the last
bundle still takes its time, or the next one waits for what must leave before it. Waits on time, on a counter, a barrier, a granule or a
queue do not count. -/
def State.hangs (s : State) (n : CoreNo) : Bool :=
  let c := s.coreAt n
  let landing := c.outst ≠ [] || c.pend ≠ []
  c.running.isSome && c.waitOn.isNone &&
    (match c.hold with | .none | .overrun _ _ => true | .settle | .boundary _ _ => landing | _ => false) &&
    (c.holding || s.lateResult n || s.fillLate n || ((c.pendTrap.isSome || c.saving || c.leaving ≠ .none) && landing) ||
      decide (s.plat.cycle - c.frozen + 1 < c.nextIssue) ||
      c.hold = .settle || c.committed.any fun e => match e.2 with | .streamFree _ | .icinv _ _ _ => true | _ => false)

/-- The hang watchdog counts a cycle of a core (R399). -/
def State.watch (s : State) (n : CoreNo) : State :=
  let c := s.coreAt n
  if s.hangs n then s.setCoreAt n { c with hung := c.hung + 1 } else s

/-- HANG_WATCHDOG_EXPIRY (R399, R453): at DEPTH 0 the task's pre-emption with the grace of R400, otherwise its loss. -/
def execHangWatchdogExpiry (n : CoreNo) (s : State) : Host.Outcome State Fault Refusal :=
  coreEvent n (fun s =>
    let c := s.coreAt n
    if c.hung < s.hangPeriod then s
    else if c.depth ≠ 0 then (s.writeIncomplete n).loseTask n 0x30 0
    else
      let s := match c.running with
        | some r => if c.pin then s.syncAll (fun l => l.tenant == r.tenant && l.handle == r.handle && l.taken) 3 else s
        | none => s
      let s := s.report { src := 0x30, sev := 3, unit := n.setWidth 16, ten := some c.tenant, vpc := c.ctx.pc, task := c.creg crTASK }
      let s := (s.discardSheet n 0).requestCore n false
      s.setCoreAt n { s.coreAt n with hung := 0, saving := true, graceStart := some (c.graceStart.getD s.plat.cycle) }) s

/-- SAVE_GRACE_EXPIRY (R400): the save is stopped, the header marked, the core reset and the task lost. -/
def execSaveGraceExpiry (n : CoreNo) (s : State) : Host.Outcome State Fault Refusal :=
  coreEvent n (fun s =>
    match (s.coreAt n).graceStart with
    | none => s
    | some t => if s.plat.cycle < t + 65536 then s else ((s.writeIncomplete n).loseTask n 0x31 1).coreReset n) s

end Sys2Proof.Machine
end

