-- ==== Sys2Proof/Machine/Distributor.lean ====
section
/-! DEFINITION. The master distributor: launch queues, placement, grants, wakes and cancellation (R27-R41, R43, R48-R57, R59,
R361, R362, R381, R456, R459). -/

namespace Sys2Proof.Machine

/-! ## Domains (R27) -/

/-- The unit of a domain that a core lies in. -/
def instOf (dom n : Nat) : Nat :=
  match dom with | 0 => n | 1 => n / 8 | 2 => n / 224 | _ => 0

/-- The cores of a unit of a domain. -/
def coresOf (dom inst : Nat) : List Nat :=
  match dom with
  | 0 => [inst]
  | 1 => (List.range 8).map (· + 8 * inst)
  | 2 => (List.range 224).map (· + 224 * inst)
  | _ => List.range 1792

/-- The units of a domain inside a unit of an enclosing one. -/
def instsIn (dom encl inst : Nat) : List Nat :=
  if dom = encl then [inst]
  else match dom with
    | 0 => coresOf encl inst
    | 1 => if encl = 2 then (List.range 28).map (· + 28 * inst) else List.range 224
    | 2 => List.range 8
    | _ => [0]

/-- The unit with the most members that meet a test, the lowest-numbered of equals (R35). -/
def mostOf (p : Nat → Bool) (dom : Nat) (insts : List Nat) : Option Nat :=
  (insts.foldl (fun (acc : Option (Nat × Nat)) i =>
    let k := ((coresOf dom i).filter p).length
    match acc with
    | none => some (i, k)
    | some (_, m) => if m < k then some (i, k) else acc) none).map Prod.fst

/-! ## Placement (R31, R32, R35, R36) -/

/-- Tasks in a group of level `j` (R31). -/
def Launch.groupSize (l : Launch) (j : Nat) : Nat := (l.localLevels.filter (· ≤ j)).foldl (fun n i => n * l.extent i) 1

/-- The outermost gang-placed level, whose groups are granted whole (R32). -/
def Launch.gangLevel (l : Launch) : Option Nat := (l.localLevels.filter l.gang).getLast?

/-- Tasks that one grant of the head offers. -/
def Launch.grantSize (l : Launch) : Nat := match l.gangLevel with | some j => l.groupSize j | none => 1

/-- A number that tasks of one gang share, and 0 for a launch without gangs. -/
def Launch.gangOf (l : Launch) (i : Nat) : Nat := match l.gangLevel with | some j => i / l.groupSize j + 1 | none => 0

/-- The units selected top-down for task `i`: the home, and the bindings (R35). -/
def Launch.place (l : Launch) (idle : Nat → Bool) (i : Nat) :
    List Nat → Nat × Nat → List (Nat × Nat × Nat) → Option ((Nat × Nat) × List (Nat × Nat × Nat))
  | [], home, bound => some (home, bound)
  | j :: r, (encl, inst), bound =>
    let g := i / l.groupSize j
    match bound.find? fun b => b.1 == j && b.2.1 == g with
    | some (_, _, x) => Launch.place l idle i r (l.dom j, x) bound
    | none => match mostOf idle (l.dom j) (instsIn (l.dom j) encl inst) with
      | some x => Launch.place l idle i r (l.dom j, x) (bound ++ [(j, g, x)])
      | none => none

/-- The home of task `i`, the core that it takes there, and the bindings (R35, R36). -/
def Launch.placeTask (l : Launch) (idle : Nat → Bool) (i : Nat) (bound : List (Nat × Nat × Nat)) :
    Option ((Nat × Nat) × Nat × List (Nat × Nat × Nat)) :=
  match l.place idle i l.localLevels.reverse (3, 0) bound with
  | none => none
  | some (home, b) => ((coresOf home.1 home.2).find? idle).map fun n => (home, n, b)

/-- Places tasks on distinct cores: the task indices with their cores, and the bindings (R32). -/
def Launch.placeAll (l : Launch) (idle : Nat → Bool) : List Nat → List (Nat × Nat) → List (Nat × Nat × Nat) →
    Option (List (Nat × Nat) × List (Nat × Nat × Nat))
  | [], acc, bound => some (acc, bound)
  | i :: r, acc, bound =>
    match l.placeTask (fun n => idle n && !(acc.any fun x => x.2 == n)) i bound with
    | none => none
    | some (_, n, b) => Launch.placeAll l idle r (acc ++ [(i, n)]) b

/-! ## Idle cores and reservations (R52, R54, R412, R414) -/

/-- Whether a core can be granted a task. -/
def State.coreFree (s : State) (n : Nat) : Bool :=
  let c := s.coreAt (BitVec.ofNat 11 n)
  c.inService && !c.fenced && c.running.isNone && !c.resetting

/-- Whether a reservation keeps a core from a grant that is not its own launch's gang. -/
def State.barred (s : State) (own : Option Launch) (n : Nat) : Bool :=
  s.dist.reserved.toList.any fun o => match o with
    | none => false
    | some r => instOf r.dom.toNat n == r.inst && (match own with
      | some l => !(r.tenant == l.tenant && r.handle == l.handle)
      | none => true)

/-- Whether a queue is served (R49). -/
def State.queueOn (s : State) (t : BitVec 5) (q : BitVec 3) : Bool :=
  (s.treg t (0x208 + 32 * q.toNat)).getLsbD 63 && (s.treg t 0).getLsbD 63

/-- The launches of a queue that are taken and open, oldest first. -/
def State.served (s : State) (t : BitVec 5) (q : BitVec 3) : List Launch :=
  s.dist.launches.filter fun l => l.tenant == t && l.queue == q && l.taken && l.isOpen

/-- The head of a queue that still offers tasks (R51). -/
def State.offering (s : State) (t : BitVec 5) (q : BitVec 3) : Option Launch := (s.served t q).find? fun l => decide (l.next < l.tasks)

/-- The free save areas of a tenant's pool, lowest index first (R50). -/
def State.freeAreas (s : State) (t : BitVec 5) : List Nat :=
  (List.range ((s.treg t 0x010).toNat % 65536)).filter fun k => !s.dist.areas.contains (t, k)

/-- The unit that a blocked head gang reserves (R54): the lowest-numbered that could hold it, where none has the idle cores. -/
def State.wantsReserve (s : State) (l : Launch) : Option Reservation :=
  match l.gangLevel with
  | none => none
  | some j =>
    let idle (n : Nat) : Bool := s.coreFree n && !s.barred (some l) n
    let tasks := (List.range l.grantSize).map (· + l.next)
    if (l.placeAll idle tasks [] l.bound).isSome then none
    else
      let outer := (l.localLevels.filter fun k => decide (j < k)).reverse
      match l.place idle l.next outer (3, 0) l.bound with
      | none => none
      | some ((encl, inst), _) =>
        let insts := match l.bound.find? fun b => b.1 == j && b.2.1 == l.next / l.groupSize j with
          | some (_, _, x) => [x]
          | none => instsIn (l.dom j) encl inst
        let count (p : Nat → Bool) (i : Nat) : Nat := ((coresOf (l.dom j) i).filter p).length
        if insts.any fun i => decide (l.grantSize ≤ count idle i) then none
        else (insts.find? fun i => decide (l.grantSize ≤ count (fun n => !(s.coreAt (BitVec.ofNat 11 n)).fenced) i)).map fun i =>
          { tenant := l.tenant, handle := l.handle, dom := BitVec.ofNat 4 (l.dom j), inst := i }

/-- All queues of all tenants, in ascending order. -/
def allQueues : List (BitVec 5 × BitVec 3) :=
  (List.range 32).flatMap fun t => (List.range 8).map fun q => (BitVec.ofNat 5 t, BitVec.ofNat 3 q)

/-- Makes the reservations that stand now (R54): one for each class. A reservation whose launch offers no gang any more ends. -/
def State.reserve (s : State) : State :=
  let live (r : Reservation) : Bool := s.dist.launches.any fun l =>
    l.tenant == r.tenant && l.handle == r.handle && l.taken && l.isOpen && decide (l.next < l.tasks)
  let s := { s with dist := { s.dist with reserved := s.dist.reserved.map fun (o : Option Reservation) => o.filter live } }
  (List.range 4).foldl (fun s c =>
    let k : BitVec 2 := BitVec.ofNat 2 c
    if (s.dist.reserved.get k).isSome then s
    else match allQueues.findSome? fun (t, q) =>
        if s.queueOn t q && s.queueClass t q == k then (s.offering t q).bind s.wantsReserve else none with
      | some r => { s with dist := { s.dist with reserved := s.dist.reserved.put k (some r) } }
      | none => s) s

/-! ## Candidates (R51, R52, R456) -/

/-- Whether the base die may read a virtual range of a tenant at its piles under its clock and another one (R312, R318), with no line of it
locked (R42). -/
def State.baseReadable (s : State) (t : BitVec 5) (a : Word) (n : Nat) (k : Option Clock) : Bool :=
  match translateRange s noCore t true a n .read with
  | .error _ => true
  | .ok (runs, _) => runs.all fun r => !s.mem.lockedRange r.1 r.2.1 && (linesOf r.1 r.2.1).all fun x =>
      targetOf (x * 128) ≠ .package || s.mem.readableAt 8 (clockWith (s.mem.vc.get 8) k) x

/-- A ready record as read for dispatch (R38, R456): its bytes, or the SYND for which its task is lost. The coordinates are checked of a
spawned record. -/
def State.readyRecord (s : State) (l : Launch) (a : Word) (woken : Bool) : Except (BitVec 8 × Word × Word) Vec :=
  match s.devLoad l.tenant a 64 with
  | .error _ => .error (1, 0, 0)
  | .ok bs =>
    let v := BitVec.ofNat 1024 (leNat bs)
    let pc := v.extractLsb' 0 64 &&& 0x01FFFFFFFFFFFFFC
    let code := v.extractLsb' 64 64
    if !(s.plat.objects.any fun o => o.code == code && codeTenant o.code == l.tenant) then .error (2, l.handle.setWidth 64 <<< 32, pc)
    else if !woken && !s.coordsOk l fun j => (v.extractLsb' (128 + 16 * j) 16 : BitVec 16).toNat then .error (3, l.handle.setWidth 64 <<< 32, pc)
    else .ok v

/-- The linear index of coordinates (R30). -/
def Launch.linear (l : Launch) (co : Nat → Nat) : Nat := l.localLevels.reverse.foldl (fun n j => n * l.extent j + co j) 0

/-- What a grant gives to cores. -/
inductive Pick where
  /-- Undispatched tasks of a launch, with their cores. -/
  | tasks (l : Launch) (ps : List (Nat × Nat)) (bound : List (Nat × Nat × Nat))
  /-- A ready record. -/
  | record (l : Launch) (w : Waiting) (a : Word) (woken : Bool) (v : Vec) (i core : Nat) (bound : List (Nat × Nat × Nat))
  /-- A ready record that is lost. -/
  | lost (l : Launch) (w : Waiting) (synd : BitVec 8) (task pc : Word)
  /-- A pre-empted task. -/
  | resume (l : Launch) (w : Waiting) (savea : Word) (core : Nat)
  deriving DecidableEq, Repr

/-- A dispatchable candidate: what is granted, its home, and whether its own time slice expired (R51). -/
structure Cand where
  pick : Pick
  home : Nat × Nat
  sliced : Bool := false
  deriving DecidableEq, Repr

/-- The cores a candidate is granted. -/
def Cand.cores (c : Cand) : List Nat :=
  match c.pick with
  | .tasks _ ps _ => ps.map Prod.snd
  | .record _ _ _ _ _ _ n _ | .resume _ _ _ n => [n]
  | .lost .. => []

/-- Whether a core lies in a candidate's home. -/
def Cand.holds (c : Cand) (n : Nat) : Bool := instOf c.home.1 n == c.home.2

/-- The home of a task that left a core (R36): the unit of its level 0's domain that holds the core. -/
def Launch.homeOf (l : Launch) (n : CoreNo) : Nat × Nat :=
  match l.localLevels.head? with
  | some 0 => (l.dom 0, instOf (l.dom 0) n.toNat)
  | _ => (3, 0)

/-- The candidate that a waiting task is, if it is dispatchable (R52): a pre-empted task goes back to the core that holds its
accumulator (R65), and a record is read behind the release of what wrote it (R312, R318). -/
def State.waitingCand (s : State) (l : Launch) (w : Waiting) : Option Cand :=
  let idle (n : Nat) : Bool := s.coreFree n && !s.barred none n
  match w with
  | .preempted a n sliced _ _ =>
    let home := l.homeOf n
    let cores := if (s.coreAt n).aown = a ∧ a ≠ 0 then [n.toNat] else coresOf home.1 home.2
    (cores.find? idle).map fun k => { pick := .resume l w a k, home := home, sliced := sliced }
  | .ready a woken k =>
    if !s.baseReadable l.tenant a 64 k.rel then none
    else match s.readyRecord l a woken with
    | .error (synd, task, pc) => some { pick := .lost l w synd task pc, home := (3, 0) }
    | .ok v =>
      if (s.freeAreas l.tenant).isEmpty then none
      else
        let i := l.linear fun j => (v.extractLsb' (128 + 16 * j) 16 : BitVec 16).toNat
        (l.placeTask idle i l.bound).map fun (home, k, b) => { pick := .record l w a woken v i k b, home := home }
  | _ => none

/-- The candidate that a launch's next undispatched task or group is (R51, R52). A core that a reservation keeps from the launch is not
counted idle in the choice of an instance (DESIGN CHOICE, log entry 32; R35). -/
def State.offerCand (s : State) (l : Launch) : Option Cand :=
  let own := if l.gangLevel.isSome then some l else none
  let idle (n : Nat) : Bool := s.coreFree n && !s.barred own n
  let tasks := (List.range l.grantSize).map (· + l.next)
  if (s.freeAreas l.tenant).length < l.grantSize then none
  else match l.placeAll idle tasks [] l.bound with
    | none => none
    | some (ps, b) =>
      let home := match l.placeTask idle l.next l.bound with | some (h, _, _) => h | none => (3, 0)
      some { pick := .tasks l ps b, home := home }

/-- The dispatchable candidates of a queue, in the order of R51. The active launches of a queue that is no longer served run on, their
waiting tasks among them (R49, R362). -/
def State.queueCands (s : State) (t : BitVec 5) (q : BitVec 3) : List Cand :=
  let on := s.queueOn t q
  let ls := (s.served t q).filter fun l => on || decide (l.tasks ≤ l.next)
  let of_ (p : Waiting → Bool) : List Cand := ls.flatMap fun l => (l.waiting.filter p).filterMap (s.waitingCand l)
  of_ (fun w => match w with | .preempted .. => true | _ => false) ++
    of_ (fun w => match w with | .ready .. => true | _ => false) ++
    (match s.offering t q with | some l => if on then (s.offerCand l).toList else [] | none => [])

/-- A queue's next grant (R51): a task whose own slice expired stands back behind every other candidate for a core of its home. -/
def nextOfQueue (cs : List Cand) : Option Cand :=
  let back (c : Cand) : Bool := c.sliced && cs.any fun d => d != c && d.cores.any c.holds
  match cs.find? fun c => !back c with
  | some c => some c
  | none => cs.head?

/-! ## Service across queues (R53) -/

/-- A tenant's weight (R360). -/
def State.weight (s : State) (t : BitVec 5) : Nat := max 1 (bits (s.treg t 0) 12 4 : BitVec 4).toNat

/-- The queues of a tenant in a class, in rotation after the one served last (R53). -/
def State.queueTurn (s : State) (t : BitVec 5) (c : BitVec 2) : List (BitVec 3) :=
  let last := ((s.dist.lastQueue.get t).get c).toNat
  ((List.range 8).map fun i => BitVec.ofNat 3 (last + 1 + i)).filter fun q => s.queueClass t q == c

/-- The tenants in the order that a class's round visits them. -/
def State.tenantTurn (s : State) (c : BitVec 2) : List (BitVec 5) :=
  let (t, k) := s.dist.round.get c
  (if 0 < k then [t] else []) ++ (List.range 32).map fun i => BitVec.ofNat 5 (t.toNat + 1 + i)

/-- The next grant of the package: its class, tenant and queue, and the candidate. -/
def State.nextGrant (s : State) : Option (BitVec 2 × BitVec 5 × BitVec 3 × Cand) :=
  (List.range 4).findSome? fun k =>
    let c : BitVec 2 := BitVec.ofNat 2 k
    (s.tenantTurn c).findSome? fun t => (s.queueTurn t c).findSome? fun q =>
      (nextOfQueue (s.queueCands t q)).map fun x => (c, t, q, x)

/-- The round of a class after a grant to a tenant. -/
def State.advanceRound (s : State) (c : BitVec 2) (t : BitVec 5) (q : BitVec 3) : State :=
  let (t0, k) := s.dist.round.get c
  let next := if t0 = t ∧ 0 < k then (t, k - 1) else (t, s.weight t - 1)
  { s with dist := { s.dist with
      round := s.dist.round.put c next, lastQueue := s.dist.lastQueue.put t ((s.dist.lastQueue.get t).put c q) } }

/-- A queue has made a grant to cores: the sliced tasks whose home holds one take their place again (R51). -/
def State.unslice (s : State) (t : BitVec 5) (q : BitVec 3) (cores : List Nat) : State :=
  { s with dist := { s.dist with launches := s.dist.launches.map fun l =>
      if l.tenant == t && l.queue == q then
        { l with waiting := l.waiting.map fun w => match w with
          | .preempted a n true loops k =>
            let home := l.homeOf n
            .preempted a n (!(cores.any fun k => instOf home.1 k == home.2)) loops k
          | w => w }
      else l } }

/-! ## Beginning a task (R40, R50) -/

/-- The context that a task begins with (R40). -/
def State.freshCtx (s : State) (l : Launch) (i idx : Nat) (co : Nat → BitVec 16) (live : Nat → BitVec 32) (code pc savea : Word) : Ctx :=
  let t := l.tenant
  let task : Word := l.handle ++ BitVec.ofNat 32 i
  let c : Ctx := { code := code, pc := pc, coords := Vector.ofFn fun j => co j.val }
  let c := (List.range 8).foldl (fun (c : Ctx) j => (c.wrS (BitVec.ofNat 6 (48 + j)) ((co j).setWidth 64)).wrS
    (BitVec.ofNat 6 (56 + j)) ((live j).setWidth 64)) c
  (((((((c.setCreg crTASK task).setCreg crTENANT (t.setWidth 64)).setCreg crSAVEA savea).setCreg crTFBASE
    (s.treg t 0x038 + BitVec.ofNat 64 (512 * idx))).setCreg crTVEC (s.treg t 0x080)).setCreg crSVEC (s.treg t 0x088)).setCreg crPSTAT
    (if l.pinned then 2 else 0))

/-- Begins a task on a core (R40): the core is cleared for another tenant's task, the L1 is invalidated, and the dispatch is an
acquire of what the record's writer released (R312). A task that begins anew takes the next number (R47). An entry that begins no
region faults before any group (R456). Header bytes 32-39 will name the record that a woken task was dispatched from: a SUSP that has
returned at once is not the task's last (R64; DESIGN CHOICE, log entry 66). -/
def State.beginTask (s : State) (n : CoreNo) (l : Launch) (i : Nat) (co : Nat → BitVec 16) (live : Nat → BitVec 32) (code pc : Word)
    (from_ : Option Word) (k : TaskMem) : State :=
  match s.freeAreas l.tenant with
  | [] => s
  | idx :: _ =>
    let savea := s.treg l.tenant 0x008 + BitVec.ofNat 64 (10240 * idx)
    let ctx := { s.freshCtx l i idx co live code pc savea with lastSusp := from_.getD 0 }
    let c := s.coreAt n
    let c := if c.mustClear l.tenant then c.clearPrivate else c
    let ok := s.targetOk l.tenant pc
    let trap : TrapInfo := { sup := false, cls := 0x15, code := 1, tvpc := pc, tslot := 0, tinfo := pc, tmove := tmoveOf 15 0xFF }
    let no := if k.task = 0 then s.dist.tasks + 1 else k.task
    let c := { c with
      running := some { tenant := l.tenant, handle := l.handle, savea := savea, task := no, gang := l.gangOf i }
      ctx := ctx, l1 := [], sliceLeft := if l.pinned then 0 else s.sliceOf l, clock := k.heard
      syncDue := if l.pinned then l.syncCause else 0, syncAt := l.syncAt
      pendTrap := if ok then none else some trap }
    let c := c.traceAdd 4 0 (ctx.creg crTASK) (s.cyc c)
    let dist := { s.dist with areas := (l.tenant, idx) :: s.dist.areas, tasks := max s.dist.tasks no }
    let s := { (s.setCoreAt n c).floorClock l.pinned with dist := dist }
    acquireAt s n (clockJoin (clockJoin (some (s.mem.vc.get 8)) k.rel) (match from_ with
      | some a => match translate s noCore l.tenant true a .read with
        | .ok e => if targetOf (e.phys a) = .package then some (s.mem.piles.get (pileOf (e.phys a))).oc else none
        | .error _ => none
      | none => none))

/-- The coordinates of task `i` of a launch at a level (R29, R30). -/
def State.coordOf (s : State) (l : Launch) (i j : Nat) : Nat :=
  if l.levels ≤ j then 0
  else if l.dom j < 4 then i / ((l.localLevels.filter (· < j)).foldl (fun n k => n * l.extent k) 1) % l.extent j
  else match s.extIndex l.tenant (l.dom j) with | some (x, _) => x | none => 0

/-- Whether a core that takes a tenant's task must still wait for the copies of another's (R251). -/
def State.mustWait (s : State) (t : BitVec 5) (n : Nat) : Bool :=
  let c := s.coreAt (BitVec.ofNat 11 n)
  c.mustClear t && !c.copyQ.isEmpty

/-- Lets held-back copies of arms go on cores whose next task belongs to another tenant: it cannot issue its first bundle before they
have completed, and then finds every barrier cleared (R251, R259; DEDUCED, log entry 42). -/
def State.releaseCopies (s : State) (ns : List Nat) : State :=
  ns.foldl (fun s n => s.setCoreAt (BitVec.ofNat 11 n) { s.coreAt (BitVec.ofNat 11 n) with armHeld := false }) s

/-- Takes a waiting task out of its launch. -/
def State.dropWaiting (s : State) (l : Launch) (w : Waiting) : State := s.modLaunch l.order fun l => { l with waiting := l.waiting.erase w }

/-- A waiting task is lost (R402, R454, R456): it is discarded, its record written and its launch cancelled. -/
def State.loseWaiting (s : State) (l : Launch) (w : Waiting) (src synd : BitVec 8) (task pc : Word) : State :=
  let s := s.dropWaiting l w
  let s := match w.area with | some a => (s.freeArea l.tenant a).releaseAcc a | none => s
  let s := s.report { src := src, sev := 4, ten := some l.tenant, synd := synd.setWidth 64, vpc := pc, task := task }
  let s := match s.findLaunch l.tenant l.handle with
    | some l => if l.cancelled then s else s.cancelLaunch l
    | none => s
  s.endTask l.tenant l.handle

/-- TASK and the virtual PC of a waiting task (R402): those of its save area, or its linear index and its record's PC; 0 where they cannot
be read. -/
def State.waitingId (s : State) (l : Launch) (w : Waiting) : Word × Word :=
  match w with
  | .preempted a _ _ _ _ | .held a _ _ _ => match s.devLoad l.tenant a 64 with
    | .ok img => (BitVec.ofNat 64 (imgNat img 24 8), BitVec.ofNat 64 (imgNat img 8 8) &&& 0x01FFFFFFFFFFFFFC)
    | .error _ => (0, 0)
  | .ready a _ _ | .suspended a _ => match s.devLoad l.tenant a 64 with
    | .ok bs =>
      let v := BitVec.ofNat 1024 (leNat bs)
      (l.handle ++ BitVec.ofNat 32 (l.linear fun j => (v.extractLsb' (128 + 16 * j) 16 : BitVec 16).toNat),
        v.extractLsb' 0 64 &&& 0x01FFFFFFFFFFFFFC)
    | .error _ => (0, 0)

/-- Grants a candidate that is no pre-empted task. -/
def State.grant (s : State) (c : Cand) : State :=
  match c.pick with
  | .tasks l ps b =>
    let s := s.modLaunch l.order fun l => { l with next := l.next + ps.length, bound := b }
    let s := if l.gangLevel.isSome then s.endReservation l else s
    ps.foldl (fun s (i, n) =>
      s.beginTask (BitVec.ofNat 11 n) l i (fun j => BitVec.ofNat 16 (s.coordOf l i j)) l.arg l.code l.entry none {}) s
  | .record l w a woken v i n b =>
    let s := s.modLaunch l.order fun l => { l with waiting := l.waiting.erase w, bound := b }
    s.beginTask (BitVec.ofNat 11 n) l i (fun j => v.extractLsb' (128 + 16 * j) 16) (fun j => v.extractLsb' (256 + 32 * j) 32)
      (v.extractLsb' 64 64) (v.extractLsb' 0 64 &&& 0x01FFFFFFFFFFFFFC) (if woken then some a else none) w.mem
  | .lost l w synd task pc => s.loseWaiting l w 0x38 synd task pc
  | .resume .. => s

/-- TASK_DISPATCH (R40, R51-R54): the distributor's next grant, where it begins tasks. -/
def execTaskDispatch (s : State) : Host.Outcome State Fault Refusal :=
  .next (
    if s.plat.failStop then s
    else
      let s := s.reserve
      match s.nextGrant with
      | none => s
      | some (k, t, q, c) =>
        match c.pick with
        | .resume .. => s
        | _ =>
          if c.cores.any (s.mustWait t) then s.releaseCopies (c.cores.filter (s.mustWait t))
          else (((s.advanceRound k t q).grant c).unslice t q c.cores).reserve)

/-- The area bytes that a resumption reads (R65): those below the accumulator image, through the piles. -/
def State.readArea (s : State) (t : BitVec 5) (a : Word) : Except DevErr (List Byte) := s.devLoad t a 0x1800

/-- The lines of a save area that a resumption reads. -/
def State.areaLines (s : State) (t : BitVec 5) (a : Word) : List Nat := match translateRange s noCore t true a 0x2800 .read with
  | .ok (runs, _) => runs.flatMap fun r => linesOf r.1 r.2.1
  | .error _ => []

/-- Whether a die's reads of a range may be performed at their piles (R318). -/
def State.areaReadable (s : State) (n : CoreNo) (t : BitVec 5) (a : Word) (k : Nat) : Bool :=
  match translateRange s noCore t true a k .read with
  | .error _ => true
  | .ok (runs, _) => runs.all fun (pa, k, _) => (linesOf pa k).all fun x =>
      (targetOf (x * 128) ≠ .package || s.mem.readable ((dieOf n).setWidth 4) x) && !s.mem.lockedFor n x

/-- The header of a save area whose restore fails gets INC = 1 and VALID = 0, its other flags and bytes as they stand, where it
can be written (R454). -/
def State.markIncomplete (s : State) (t : BitVec 5) (a : Word) : State :=
  match s.devLoad t (a + 2) 2 with
  | .error _ => s
  | .ok bs => match s.devStore t (a + 2) (leBytes 2 (leNat bs / 4 * 4 + 2)) with
    | .ok u => u
    | .error _ => s

/-- The active loops of a waiting task, the innermost first. -/
def Waiting.loops : Waiting → List (BitVec 2)
  | .preempted _ _ _ ls _ | .held _ _ ls _ => ls
  | _ => []

/-- Grants a pre-empted task (R65): an area that cannot be read, or whose header is wrong, loses it (R454); so does one whose read a pile
has given up (R463). -/
def State.grantResume (s : State) (l : Launch) (w : Waiting) (a : Word) (n : CoreNo) : State :=
  match (if (s.areaLines l.tenant a).any (s.mem.gaveUp n) then .error (.bad 0) else s.readArea l.tenant a) with
  | .error _ => (s.markIncomplete l.tenant a).loseWaiting l w 0x31 4 0 0
  | .ok img =>
    let task := BitVec.ofNat 64 (imgNat img 24 8)
    match headerSynd img with
    | some e => (s.markIncomplete l.tenant a).loseWaiting l w 0x31 e task (BitVec.ofNat 64 (imgNat img 8 8))
    | none =>
      (s.dropWaiting l w).resumeTask n l a w.loops w.mem (l.gangOf (task.toNat % 2 ^ 32)) (s.sliceOf l) img

/-- TASK_RESUME (R65, R312): the distributor's next grant, where it is a pre-empted task; the resumption acquires what the task's last
release released, takes the area's lines out of the die cache, and reads the area once what they wrote back has reached it (R295). -/
def execTaskResume (s : State) : Host.Outcome State Fault Refusal :=
  .next (
    if s.plat.failStop then s
    else
      let s := s.reserve
      match s.nextGrant with
      | none => s
      | some (k, t, q, c) =>
        match c.pick with
        | .resume l w a core =>
          let n : CoreNo := BitVec.ofNat 11 core
          if s.mustWait t core then s.releaseCopies [core]
          else
            let u := acquireAt s n (clockJoin (some (s.mem.vc.get 8)) w.mem.rel)
            let ls := u.areaLines t a
            let u := ls.foldl (fun s x => dropDie s (dieOf n) x) u
            if !u.areaReadable n t a 0x1800 ∧ ¬ ls.any (u.mem.gaveUp n) then u.noteHolds n none (ls.map fun x => (128 * x, 128, false))
            else ((u.advanceRound k t q).grantResume l w a n).unslice t q c.cores
        | _ => s)

/-! ## Time slices (R59, R381) -/

/-- Whether a queue of a class or a higher one holds a candidate for a core, were it idle (R59, R381). -/
def State.candidateFor (s : State) (n : CoreNo) (cls : Nat) : Bool :=
  let u := s.setCoreAt n { s.coreAt n with running := none, inService := true }
  allQueues.any fun (t, q) => decide ((s.queueClass t q).toNat ≤ cls) &&
    (u.queueCands t q).any fun c => c.cores.contains n.toNat || (c.cores ≠ [] && c.holds n.toNat)

/-- TIME_SLICE_EXPIRY (R59). -/
def execTimeSliceExpiry (n : CoreNo) (s : State) : Host.Outcome State Fault Refusal :=
  coreEvent n (fun s =>
    let c := s.coreAt n
    match c.running with
    | none => s
    | some r => match s.findLaunch r.tenant r.handle with
      | none => s
      | some l =>
        if !c.sliceExpired || c.preempt || c.pin then s
        else if s.candidateFor n (s.queueClass l.tenant l.queue).toNat then s.requestCore n true else s) s

/-! ## Launch queues (R33, R48, R361, R459) -/

/-- The records of a ring (R360). -/
def State.queueSize (s : State) (t : BitVec 5) (q : BitVec 3) : Nat :=
  let z := (s.treg t (0x208 + 32 * q.toNat)).toNat % 32
  2 ^ (if 16 < z then 16 else z)

/-- Cancels the launch of a handle, where there is one (R57). -/
def State.cancelFound (s : State) (t : BitVec 5) (handle : BitVec 32) : State :=
  match s.findLaunch t handle with
  | some l => if l.cancelled then s else s.cancelLaunch l
  | none => s

/-- The physical address of record `i` of a queue's ring. -/
def State.recordAt (s : State) (t : BitVec 5) (q : BitVec 3) (i : Nat) : Nat :=
  (bits (s.treg t (0x200 + 32 * q.toNat)) 7 45 : BitVec 45).toNat * 128 + 128 * (i % s.queueSize t q)

/-- Makes record `i` of a queue visible (R51, R361). A record that cannot be read is all zero (DESIGN CHOICE, log entry 43): the spec does
not say what a record whose read is uncorrectable holds. A CANCEL that has come since its tail index acts on it (R362). -/
def State.showRecord (s : State) (t : BitVec 5) (q : BitVec 3) (i : Nat) : State :=
  let rec_ : BitVec 1024 := match s.mem.devRead (s.recordAt t q i) 128 with
    | .ok bs => BitVec.ofNat 1024 (leNat bs)
    | .error _ => 0
  let l : Launch := { tenant := t, queue := q, index := BitVec.ofNat 32 i, order := s.dist.order, rec_ := rec_,
                      deps := rec_.extractLsb' 160 16 }
  let s := { s with dist := { s.dist with launches := s.dist.launches ++ [l], order := s.dist.order + 1 } }
  s.plat.cancels.foldl (fun s x => if x.1 = t then s.cancelFound x.1 x.2 else s) s

/-- Reads the records that tail indexes have covered, in order, as far as the base die's reads of them are performed (R318, R361); `fuel`
bounds how many. -/
def State.showPending (s : State) : Nat → State
  | 0 => s
  | fuel + 1 => match s.dist.pending with
    | [] => s
    | (t, q, i) :: r =>
      let pa := s.recordAt t q i
      if s.mem.lockedRange pa 128 ∨ (targetOf pa = .package ∧ ¬ s.mem.readable 8 (pa / 128)) then s
      else State.showPending ({ s with dist := { s.dist with pending := r } }.showRecord t q i) fuel

/-- A write of a queue's tail index (R361): the records it covers become visible, or it is ignored and reported. A CANCEL of the same
cycle acts after it (R362). -/
def State.writeTail (s : State) (t : BitVec 5) (q : BitVec 3) (tail : Word) : State :=
  let head := (s.treg t (0x210 + 32 * q.toNat)).toNat
  let old := (s.treg t (0x218 + 32 * q.toNat)).toNat
  let new := tail.toNat % 2 ^ 32
  let d (x : Nat) : Nat := (x + 2 ^ 32 - head) % 2 ^ 32
  if d old ≤ d new ∧ d new ≤ s.queueSize t q then
    let s := s.setReg (tenantBlock t + 0x218 + 32 * q.toNat) (BitVec.ofNat 64 new)
    let s := s.withMem fun m => { m with vc := m.vc.put 8 ((List.range 8).foldl (fun k p =>
      clockMax k (m.piles.get (BitVec.ofNat 3 p)).oc) (m.vc.get 8)) }
    let s := { s with dist := { s.dist with
      pending := s.dist.pending ++ (List.range (d new - d old)).map fun i => (t, q, (old + i) % 2 ^ 32) } }
    s.showPending s.dist.pending.length
  else s.report { src := 0x3C, sev := 6, ten := some t, addr := q.setWidth 64 }

/-- LQTAIL_WRITE (R361): the host's write over the tenant's own doorbell page, on the tenant's IDE stream, which a locked interface
accepts (R357, R358). Any other way to a tail register is `State.writeTenantReg`, or the host's `HostAct.bar`. -/
def execLqtailWrite (t : BitVec 5) (q : BitVec 3) (tail : Word) (s : State) : Host.Outcome State Fault Refusal :=
  .next (if s.plat.failStop then s else s.writeTail t q tail)

/-- The cores of the unit of a domain that has the most that are not fenced (R32, R414). -/
def State.coresPer (s : State) (dom : Nat) : Nat :=
  let full := (coresOf dom 0).length
  let fenced (i : Nat) : Nat := ((coresOf dom i).filter fun n => (s.coreAt (BitVec.ofNat 11 n)).fenced).length
  ((instsIn dom 3 0).map fun i => full - fenced i).foldl max 0

/-- The checks of a launch that is taken as head (R459): the lowest SYND that applies. -/
def State.launchSynd (s : State) (l : Launch) : Option Word :=
  let n := l.levels
  let js := List.range (min n 8)
  let badExt (j : Nat) : Bool := 4 ≤ l.dom j && l.dom j < 8 && (match s.extIndex l.tenant (l.dom j) with
    | some (_, x) => l.extent j != x
    | none => true)
  let badGang (j : Nat) : Bool := l.gang j && (4 ≤ l.dom j || decide (s.coresPer (l.dom j) < l.groupSize j))
  let vcnt := (bits (s.treg l.tenant 0) 0 12 : BitVec 12).toNat
  if n < 1 ∨ 8 < n ∨ (List.range 8).any (fun j => decide (n ≤ j) && l.lvl j ≠ 0) then some 0x10
  else if js.any (fun j => 8 ≤ l.dom j || (0 < j && l.dom j < l.dom (j - 1)) || badExt j) then some 0x11
  else if 2 ^ 32 < l.tasks ∨ js.any badGang then some 0x12
  else if l.entry &&& ~~~(0x01FFFFFFFFFFFFFC : Word) ≠ 0 then some 0x13
  else if !(s.plat.objects.any fun o => o.code == l.code && codeTenant o.code == l.tenant) then some 0x14
  else if l.handle = 0 ∨ s.dist.launches.any (fun x => x.order != l.order && x.tenant == l.tenant && x.handle == l.handle && x.taken && x.isOpen)
    then some 0x15
  else if l.done.toNat % 8 ≠ 0 ∨ (l.flagNotify ∧ vcnt ≤ l.vec.toNat) then some 0x16
  else if (l.rec_.extractLsb' 178 6 : BitVec 6) ≠ 0 ∨ js.any (fun j => (bits (l.lvl j) 21 11 : BitVec 11) ≠ 0) ∨
      (l.rec_.extractLsb' 912 112 : BitVec 112) ≠ 0 then some 0x17
  else if l.flagPin ∧ s.slotLen < 2 * s.skewBound l then some 0x18
  else none

/-- Takes the head of a queue (R51, R459), or passes over one that was cancelled. -/
def State.takeLaunch (s : State) (t : BitVec 5) (q : BitVec 3) : State :=
  let head := s.treg t (0x210 + 32 * q.toNat)
  if !s.queueOn t q || (s.offering t q).isSome then s
  else match s.dist.launches.find? fun l => l.tenant == t && l.queue == q && !l.taken && l.index == head.setWidth 32 with
    | none => s
    | some l =>
      let up (s : State) : State := s.setReg (tenantBlock t + 0x210 + 32 * q.toNat) ((head + 1) &&& 0xFFFFFFFF)
      if l.completed then (up s).modLaunch l.order fun l => { l with taken := true }
      else if l.deps ≠ 0 then s
      else match s.launchSynd l, { s with free := s.free + 1 } with
        | some e, s =>
          let s := (up s).modLaunch l.order fun l => { l with taken := true, refused := true }
          let s := s.report { src := 0x38, sev := 6, ten := some t, synd := e }
          s.complete { l with taken := true, refused := true }
        | none, s => (up s).modLaunch l.order fun l =>
            { l with taken := true, pinned := l.flagPin, live := l.live + BitVec.ofNat 64 l.tasks }

/-- LAUNCH_TAKE (R51, R459). -/
def execLaunchTake (t : BitVec 5) (q : BitVec 3) (s : State) : Host.Outcome State Fault Refusal :=
  .next (if s.plat.failStop then s else (s.showPending s.dist.pending.length).takeLaunch t q)

/-! ## Cancellation (R57, R362) -/

/-- Cancels a launch by its handle (R57); one that names no launch acts on one that becomes visible in the same cycle (R362). -/
def State.cancelHandle (s : State) (t : BitVec 5) (handle : BitVec 32) : State :=
  if (s.findLaunch t handle).isSome then s.cancelFound t handle
  else { s with plat := { s.plat with cancels := (t, handle) :: s.plat.cancels } }

/-- CANCEL (R57). -/
def execCancel (t : BitVec 5) (handle : BitVec 32) (s : State) : Host.Outcome State Fault Refusal :=
  .next (if s.plat.failStop then s else s.cancelHandle t handle)

/-- Cancels every active or visible launch of a tenant, in queue order (R362). -/
def State.cancelAll (s : State) (t : BitVec 5) : State :=
  (List.range 8).foldl (fun s q =>
    (s.dist.launches.filter fun l => l.tenant == t && l.queue == BitVec.ofNat 3 q && l.isOpen && !l.cancelled).foldl (fun s l =>
      match s.dist.launches.find? fun x => x.order == l.order with
      | some x => if x.isOpen ∧ ¬ x.cancelled then s.cancelLaunch x else s
      | none => s) s) s

/-- TENANT_DISABLE (R360, R362): TCTL.EN is cleared, which a locked interface does not let happen (R358). -/
def execTenantDisable (t : BitVec 5) (s : State) : Host.Outcome State Fault Refusal :=
  .next (if s.plat.failStop ∨ s.plat.tdisp.get t ≠ .unlocked ∨ ¬ (s.treg t 0).getLsbD 63 then s
    else (s.setReg (tenantBlock t) (s.treg t 0 &&& 0x7FFFFFFFFFFFFFFF)).cancelAll t)

/-! ## Wakes (R43) -/

/-- The task suspended on a record, by the record's physical address: its launch and the address it was suspended under. -/
def State.suspendedOn (s : State) (pa : Nat) : Option (Launch × Word × TaskMem) :=
  s.dist.launches.findSome? fun l => l.waiting.findSome? fun w => match w with
    | .suspended a k => match translate s noCore l.tenant true a .read with
      | .ok e => if e.phys a = pa then some (l, a, k) else none
      | .error _ => none
    | _ => none

/-- Applies a wake to its record (R43); none while the record's line is locked or held. A wake that meets S = 1 on a record on which no
task of the package is suspended has no effect (DESIGN CHOICE, log entry 45). -/
def State.applyWake (s : State) (w : WakeReq) : Option State :=
  match s.findLaunch w.tenant w.handle with
  | none => some s
  | some l0 =>
    if l0.cancelled then some s
    else match translate s noCore w.tenant true w.addr .rw with
      | .error _ => some (s.report { src := 0x38, sev := 6, ten := some w.tenant, addr := w.addr, synd := 0x21 })
      | .ok e =>
        let pa := e.phys w.addr
        if s.mem.locks.any (fun k => k.line == pa / 128) || (targetOf pa = .package && !s.mem.readable 8 (pa / 128)) then none
        else if s.mem.isBad (pa / 16) then
          some (s.report { src := 0x38, sev := 2, ten := some w.tenant, addr := w.addr, synd := 0x22 })
        else
          let v : Word := BitVec.ofNat 64 (leNat (Memory.read s.mem.mem pa 8))
          let put (x : Word) : State := s.withMem fun m => m.homeWrite 8 pa (leBytes 8 x.toNat)
          if v.getLsbD 63 then match s.suspendedOn pa with
            | none => some s
            | some (l, a, k) =>
              if l.tenant ≠ w.tenant then some s
              else some ((put (v &&& 0x7FFFFFFFFFFFFFFF)).modLaunch l.order fun l =>
                { l with waiting := l.waiting.erase (.suspended a k) ++ [.ready a true k] })
          else if v.getLsbD 62 then some s
          else some (put (v ||| 0x4000000000000000))

/-- WAKE (R43): the distributor applies the `i`-th wake on its way. -/
def execWake (i : Nat) (s : State) : Host.Outcome State Fault Refusal :=
  .next (if s.plat.failStop then s
    else match s.dist.wakes[i]? with
      | none => s
      | some w => match s.applyWake w with
        | none => s
        | some t => { t with dist := { t.dist with wakes := t.dist.wakes.eraseIdx i } })

end Sys2Proof.Machine
end

