-- ==== Sys2Proof/Machine/CopyEngine.lean ====
section
/-! DEFINITION. The copy engines and the actions of fired arms: sends, copies queued by arms, the start of a copy and its
granules (R196, R253-R259, R323, R351, R364, R465-R468, R488). -/

namespace Sys2Proof.Machine

/-! ## Reads with no bundle (R488) -/

/-- What a read with no bundle comes to: it is held, it fails to translate at an address, it is uncorrectable at a virtual
address, or it gives its bytes. -/
inductive Got where
  | held (s : State)
  | fault (va : Word)
  | bad (va : Word) (pa : Nat)
  | got (s : State) (bs : List Byte)
  deriving Repr

/-- Runs cut after `k` bytes. -/
def cutRuns : Nat → List (Nat × Nat × Bool) → List (Nat × Nat × Bool) × List (Nat × Nat × Bool)
  | _, [] => ([], [])
  | k, (pa, n, nc) :: r =>
    if k = 0 then ([], (pa, n, nc) :: r)
    else if n ≤ k then ((pa, n, nc) :: (cutRuns (k - n) r).1, (cutRuns (k - n) r).2)
    else ([(pa, k, nc)], (pa + k, n - k, nc) :: r)

/-- Reads physical runs in chunks of 128 bytes, of device registers in granules, for a core, apart from what its open sheets hold back. -/
def State.readChunks (s : State) (n : CoreNo) (clk : Option Clock) : Nat → List (Nat × Nat × Bool) → Word → Got
  | 0, _, _ => .got s []
  | _, [], _ => .got s []
  | fuel + 1, runs, va =>
    let (now, later) := cutRuns (if (runs.any fun r => targetOf r.1 = .device) then 16 else 128) runs
    let k := (now.map fun r => r.2.1).sum
    match performRead s n { pieces := piecesOf now 0 va, base := 0, sext := none, clock := clk, held := some (0, []) } with
    | none => .held (s.noteHolds n clk now)
    | some (_, _, some a) => .bad a (runAt now (a - va).toNat)
    | some (t, v, none) => match State.readChunks t n clk fuel later (va + BitVec.ofNat 64 k) with
      | .got u bs => .got u (leBytes k v.toNat ++ bs)
      | x => x

/-- The clock that a die's reads carry which wait for another clock as well (R289, R318). -/
def State.clockOf (s : State) (n : CoreNo) (k : Option Clock) : Option Clock :=
  k.map fun x => clockMax (s.mem.vc.get ((dieOf n).setWidth 4)) x

/-- Reads a virtual range of a tenant for a core, behind the release of clock `clk` where there is one (R255, R289, R488). -/
def State.readRange (s : State) (n : CoreNo) (t : BitVec 5) (priv : Bool) (va : Word) (k : Nat) (clk : Option Clock := none) : Got :=
  match translateRange s n t priv va k .read with
  | .error (a, _) => .fault a
  | .ok (runs, es) =>
    (s.keepTlb n es).readChunks n (s.clockOf n clk) (k / 16 + runs.length + 1) runs va

/-! ## Fired arms (R196, R270) -/

/-- Takes the first fired action of a kind off a core's list. -/
def takeFired (k : BitVec 2) : List Fired → List Fired
  | [] => []
  | f :: r => if f.kind = k then r else f :: takeFired k r

/-- The state with a core's first fired action of a kind taken. -/
def State.tookFired (s : State) (n : CoreNo) (k : BitVec 2) : State :=
  let c := s.coreAt n
  s.setCoreAt n { c with fired := takeFired k c.fired }

/-- Drops a fired action whose read has failed (R488): `which` is 1 a descriptor or command, 2 a payload, 3 a base-table
entry. -/
def State.dropAction (s : State) (n : CoreNo) (f : Fired) (which : Word) (bad : Option Nat) (va : Word) : State :=
  let s := s.tookFired n f.kind
  match bad with
  | none => s.report { src := if f.kind = 1 then 0x3E else 0x3D, sev := 6, unit := n.setWidth 16, ten := some f.tenant, addr := va,
                       synd := which }
  | some pa => s.report
      { src := (s.failingStorage n pa).1, sev := 1, unit := (s.failingStorage n pa).2, ten := some f.tenant, addr := va, synd := which }

/-- The lines of a base-table entry go out of the core's L1 and die cache before an armed send reads it: its read follows the release
that fired the arm (R289; log entry 41). -/
def State.freshBase (s : State) (n : CoreNo) (t : BitVec 5) (ix : BitVec 8) : State :=
  if ix.getLsbD 7 then match translateRange s n t false (btAddr s t ix) 8 .read with
    | .error _ => s
    | .ok (runs, _) => (runs.flatMap fun r => linesOf r.1 r.2.1).foldl (fun s x => cmntLine s n 2 1 x) s
  else s

/-- A base-table entry of a tenant (R289): 0 and no read where the index byte's top bit is clear. -/
def State.baseEntry (s : State) (n : CoreNo) (t : BitVec 5) (ix : BitVec 8) (clk : Option Clock) : Got :=
  if ix.getLsbD 7 then s.readRange n t false (btAddr s t ix) 8 clk else .got s (leBytes 8 0)

/-- Whether the launch of an arm's owner is pinned on this package (R270). -/
def State.ownerPinned (s : State) (f : Fired) : Bool :=
  match s.findLaunch f.tenant f.handle with | some l => l.pinned | none => false

/-- Puts an armed send's packet on the core's send queue, with the slot in which its arm fired (R355). -/
def State.queueSend (s : State) (n : CoreNo) (p : Packet) (slot : Nat) (bad : Bool) : State :=
  let s := s.tookFired n 1
  let c := s.coreAt n
  s.setCoreAt n { c with sendQ := c.sendQ ++ [{ p := p, count := none, slot := slot, bad := bad }] }

/-- The payload bytes that a send reads: none where PLEN is invalid (R269, R470). -/
def Packet.readLen (p : Packet) : Nat := if 256 < p.plenField.toNat ∨ p.plenField.toNat % 16 ≠ 0 then 0 else p.plenField.toNat

/-- ARMED_SEND (R196, R270, R488): the descriptor, its base-table entries and its payload are read after the release that fired the
arm, and the packet joins the send queue, once that has a place; one with an invalid header parks at its injection (R470). -/
def State.armedSend (s : State) (n : CoreNo) : State :=
  let c := s.coreAt n
  match c.fired.find? fun f => f.kind = 1 with
  | none => s
  | some f =>
    if 8 ≤ c.sendQ.length then s
    else match s.readRange n f.tenant false f.arg 128 f.clk with
      | .held u => u
      | .fault va => s.dropAction n f 1 none va
      | .bad va pa => s.dropAction n f 1 (some pa) va
      | .got s1 bs =>
        let v : Vec := BitVec.ofNat 1024 (leNat bs)
        let p := packetOf v
        let q := p.stamped (s.origin n) f.tenant (s.ownerPinned f)
        let s1 := (s1.freshBase n f.tenant p.tbx).freshBase n f.tenant p.pbx
        match s1.baseEntry n f.tenant p.tbx f.clk with
        | .held u => u
        | .fault va => s.dropAction n f 3 none va
        | .bad va pa => s.dropAction n f 3 (some pa) va
        | .got s2 tb => match s2.baseEntry n f.tenant p.pbx f.clk with
          | .held u => u
          | .fault va => s.dropAction n f 3 none va
          | .bad va pa => s.dropAction n f 3 (some pa) va
          | .got s3 pb =>
            let q := if p.tbx.getLsbD 7 then q.rebased (BitVec.ofNat 64 (leNat tb)) else q
            let pa : Word := v.extractLsb' 640 64 + BitVec.ofNat 64 (leNat pb)
            match (if p.readLen = 0 then Got.got s3 [] else s3.readRange n f.tenant false pa p.readLen f.clk) with
            | .held u => u
            | .fault va => s.dropAction n f 2 none va
            | .bad va x => s.dropAction n f 2 (some x) va
            | .got s4 pay => s4.queueSend n { q with payload := pay } (f.slot.getD s.slotNow) (hdrFault p).isSome

/-- ARMED_SEND. -/
def execArmedSend (n : CoreNo) (s : State) : Host.Outcome State Fault Refusal :=
  if coreOk n then .next (if s.plat.failStop then s else s.armedSend n) else .fault .illFormed

/-- Sets a barrier's FAIL flag, and its stored code and address where FAIL was clear (R465). -/
def Barrier.fails (b : Barrier) (code : BitVec 16) (addr : Word) : Barrier :=
  if b.fail then b else { b with fail := true, code := code, addr := addr }

/-- Queues an arm's copy command (R259): one that fails its checks fails its barrier and is reported. -/
def State.armedCopy (s : State) (n : CoreNo) : State :=
  match (s.coreAt n).fired.find? fun f => f.kind = 2 with
  | none => s
  | some f =>
    match s.readRange n f.tenant false f.arg 32 f.clk with
    | .held u => u
    | .fault va => s.dropAction n f 1 none va
    | .bad va pa => s.dropAction n f 1 (some pa) va
    | .got s1 bs =>
      let s1 := s1.tookFired n 2
      let d := BitVec.ofNat 256 (leNat bs)
      let c := s1.coreAt n
      match copyChecks s1 f.tenant d with
      | (code, _) :: _ =>
        let c := if ccBbe d then { c with bb := c.bb.put (ccBb d) ((c.bb.get (ccBb d)).fails 8 (ccSrc d)) } else c
        (s1.setCoreAt n c).report { src := 0x3D, sev := 6, unit := n.setWidth 16, ten := some f.tenant, addr := f.arg,
                                    synd := code.setWidth 64 &&& 0xFF }
      | [] =>
        let e : CopyEntry := { cmd := d, tenant := f.tenant, handle := f.handle, owner := 0, armed := true, seq := s1.plat.copySeq,
                               left := copyGranules d, cmdAddr := f.arg }
        let empty := if ccDsp d = 1 then granEmpty c.emptyGran (granRange (ccDst d).toNat (ccLen d)) else c.emptyGran
        let s2 := s1.setCoreAt n { c with copyQ := c.copyQ ++ [e], emptyGran := empty }
        { s2 with plat := { s2.plat with copySeq := s2.plat.copySeq + 1 } }

/-- ARMED_COPY_QUEUE (R259). -/
def execArmedCopyQueue (n : CoreNo) (s : State) : Host.Outcome State Fault Refusal :=
  if coreOk n then .next (if s.plat.failStop then s else s.armedCopy n) else .fault .illFormed

/-! ## Copies that fail (R465, R466) -/

/-- Why a copy fails (R466): the code and address its barrier stores, and the record it leaves. -/
structure CopyFail where
  code : BitVec 16
  addr : Word
  rec_ : ErrRec
  deriving DecidableEq, Repr

/-- A failure that is no data error (R465). -/
def CopyEntry.refused (e : CopyEntry) (n : CoreNo) (src : BitVec 8) (code : BitVec 16) (addr : Word) : CopyFail :=
  ⟨code, addr, { src := src, sev := 6, unit := n.setWidth 16, ten := some e.tenant, addr := addr, synd := code.setWidth 64 }⟩

/-- A source that proves uncorrectable (R465): the storage it lies in. -/
def CopyEntry.spoiled (e : CopyEntry) (src : BitVec 8) (unit : BitVec 16) (addr at_ : Word) : CopyFail :=
  ⟨3, addr, { src := src, sev := 1, unit := unit, ten := some e.tenant, addr := at_, synd := 3 }⟩

/-- A copy fails (R465): it counts as complete, with its landed granules full, its barrier failed and lowered. -/
def State.copyFails (s : State) (n : CoreNo) (i : Nat) (e : CopyEntry) (f : CopyFail) : State :=
  let d := e.cmd
  let s := s.dropCopy n i
  let c := s.coreAt n
  let landed := (copyGranules d).filter fun g => !e.left.contains g
  let c := if e.due.isSome ∧ ccDsp d = 1 then
      { c with emptyGran := granFill c.emptyGran (landed.map (· + (ccDst d).toNat / 16)) } else c
  let s := s.setCoreAt n c
  let s := if ccBbe d then
      let c := s.coreAt n
      let unlanded := if e.due.isSome then ccLen d else (e.left.map (granBytes d)).sum
      (s.setCoreAt n { c with bb := c.bb.put (ccBb d) ((c.bb.get (ccBb d)).fails f.code f.addr) }).barrierLess n (ccBb d) unlanded
    else s
  s.report f.rec_

/-! ## The source and the destination of a copy (R255, R323, R465) -/

/-- The address of the copy's first granule in a staging slice that its tenant no longer owns, where bytes `o` up to `o + k` lie
in one (R466). -/
def State.lostSlice (s : State) (t : BitVec 5) (start : Word) (o k : Nat) : Option Word :=
  match s.unowned t (start + BitVec.ofNat 64 o) k with
  | none => none
  | some a => some (BitVec.ofNat 64 (max start.toNat (a.toNat / 2 ^ 21 * 2 ^ 21)))

/-- What part of a copy's source comes to. -/
inductive CopyGot where
  | held (s : State)
  | fails (f : CopyFail)
  | got (s : State) (bs : List Byte)
  deriving Repr

/-- Reads `k` bytes of a copy's source from offset `o` (R255). A slice of another cluster is read at its router port, behind the eight
local ports (R298). -/
def State.copyRead (s : State) (n : CoreNo) (e : CopyEntry) (o k : Nat) : CopyGot :=
  let d := e.cmd
  let a := ccSrc d + BitVec.ofNat 64 o
  if ccSsp d = 0 then
    match s.readRange n e.tenant e.priv a k with
    | .held u => .held u
    | .fault va =>
      let first := match translateRange s n e.tenant e.priv (ccSrc d) (max (ccLen d) (o + k)) .read with | .error (x, _) => x | .ok _ => va
      .fails (e.refused n 0x3D 1 first)
    | .bad va pa => .fails (e.spoiled (s.failingStorage n pa).1 (s.failingStorage n pa).2 va (BitVec.ofNat 64 pa))
    | .got t bs => .got t bs
  else if ccSsp d = 1 then
    match s.scratchTag noCore n a.toNat k with
    | some x => .fails (e.spoiled 0x06 (n.setWidth 16) (x &&& ~~~15) x)
    | none => .got s (s.scratchRead noCore n a.toNat k)
  else match s.lostSlice e.tenant (ccSrc d) o k with
    | some x => .fails (e.refused n 0x3D 7 x)
    | none =>
      let key := if a.toNat / 2 ^ 24 = clusterOf n then 0 else portLast
      if ((List.range k).any fun j => s.stageBusy (a.toNat + j)) ∨ ¬ s.mayStage a.toNat k key then .held s
      else match s.stageTag a.toNat k with
        | some x => .fails (e.spoiled 0x10 (stageUnit a.toNat) x x)
        | none => .got (s.staged a.toNat k key) (Memory.read s.plat.staging a.toNat k)

/-- Lands bytes of a copy in memory (R255, R323): the own L1's dirty bytes beside them go down first, and its line is dropped. -/
def State.landMemory (s : State) (n : CoreNo) (pa : Nat) (nc : Bool) (bs : List Byte) : Option State :=
  let line := pa / 128
  if s.mem.locks.any (fun l => l.line == line) then none
  else if l1Holds pa nc then
    let mask : BitVec 128 := BitVec.ofNat 128 (2 ^ bs.length - 1) <<< (pa % 128)
    let c := s.coreAt n
    let s := match findLine line c.l1 with
      | none => s
      | some l => { s with mem := writeBackL1 s.mem n { l with dirty := l.dirty &&& ~~~mask } }.setCoreAt n { c with l1 := dropLine line c.l1 }
    if targetOf pa = .package then
      let base : Line := (findLine line (s.mem.dieCache.get (dieOf n))).getD { line := line, data := 0, valid := 0 }
      some (s.withMem fun m => m.putDie (dieOf n) (base.store (pa % 128) true bs))
    else some (s.withMem fun m => m.leave ((dieOf n).setWidth 4) pa bs false [n])
  else some (s.withMem fun m => m.leave ((dieOf n).setWidth 4) pa bs false [n])

/-! ## The start of a copy (R256, R259, R364, R468) -/

/-- Whether a copy is one of the task that a core saves, which has quiesced it (R62). -/
def Core.quiesced (c : Core) (e : CopyEntry) : Bool := c.saving && c.armHeld && !e.armed && e.owner ≠ 0 && e.owner = c.creg crSAVEA

/-- Whether an earlier decrypting copy of a copy's slot has not completed: a queued one, or one that a save has taken off its queue
(R62, R364). -/
def State.decAhead (s : State) (e : CopyEntry) : Bool :=
  let sameSlot (x : CopyEntry) : Bool := ccDec x.cmd && x.tenant == e.tenant && x.handle == e.handle && ccKsl x.cmd == ccKsl e.cmd &&
    decide (x.seq < e.seq)
  s.cores.any (fun kc => kc.2.copyQ.any sameSlot) ||
  s.dist.launches.any fun l => l.tenant == e.tenant && l.handle == e.handle &&
    l.waiting.any fun w => w.mem.decs.any fun x => x.1 == ccKsl e.cmd && decide (x.2 < e.seq)

/-- Whether entry `i` of a core's queue may start: a zero-length copy waits for every one before it, a bound copy of an arm is held
back from a save on, a copy of a task that is being saved is quiesced, and a decrypting copy waits for earlier ones of its slot. -/
def State.mayStart (s : State) (c : Core) (i : Nat) (e : CopyEntry) : Bool :=
  let d := e.cmd
  !e.started && (ccLen d ≠ 0 || i = 0) && !(c.armHeld && e.armed && ccBbe d) && !c.quiesced e && (!ccDec d || !s.decAhead e)

/-- The first entry of a core's queue that may start. -/
def State.nextCopy (s : State) (n : CoreNo) : Option (Nat × CopyEntry) :=
  let c := s.coreAt n
  ((List.range c.copyQ.length).zip c.copyQ).find? fun x => s.mayStart c x.1 x.2

/-- Replaces entry `i` of a core's copy queue. -/
def State.setCopy (s : State) (n : CoreNo) (i : Nat) (e : CopyEntry) : State :=
  let c := s.coreAt n
  s.setCoreAt n { c with copyQ := c.copyQ.set i e }

/-- Whether a decrypting copy's destination is allowed (R364): the own scratchpad, or memory inside a window of the tenant. -/
def State.decDest (s : State) (n : CoreNo) (e : CopyEntry) : Bool :=
  let d := e.cmd
  if ccDsp d = 1 then true
  else if ccDsp d ≠ 0 ∨ (ccDst d).getLsbD 56 then false
  else match translateRange s n e.tenant e.priv (ccDst d) (ccLen d) .write with
    | .error (_, x) => x.cond ≠ 5
    | .ok _ => true

/-- Starts a decrypting copy (R364, R468): it is refused, its source is read and fails, or its tag verifies. -/
def State.startDec (s : State) (n : CoreNo) (i : Nat) (e : CopyEntry) : State :=
  let d := e.cmd
  let len := ccLen d
  let s0 := s
  let s := if e.armed ∧ ccBbe d then s.setCoreAt n ((s.coreAt n).barrierAdd (ccBb d) len) else s
  let refuse := s.copyFails n i e (e.refused n 0x39 6 (ccSrc d))
  match s.keyFor e with
  | none => refuse
  | some k =>
    if k.strm ≠ ccStrm d ∨ len % 16 ≠ 0 ∨ len < 16 ∨ 65536 < len ∨ !s.decDest n e ∨ spaceLimit (ccSsp d) < (ccSrc d).toNat + len + 16 then
      refuse
    else match s.copyRead n e 0 (len + 16) with
      | .held u => s0.withMem fun m => { m with holds := u.mem.holds }
      | .fails f => s.copyFails n i e f
      | .got t bs =>
        match Config.gcmDecrypt k.key (k.strm ++ k.counter) bs with
        | none =>
          let t := { t with plat := { t.plat with keys := t.plat.keys.filter (· != k) } }
          t.copyFails n i e (e.refused n 0x39 5 (ccSrc d))
        | some p => t.setCopy n i { e with started := true, plain := some p }

/-- Starts entry `i` of a core's queue. -/
def State.startCopy (s : State) (n : CoreNo) (i : Nat) (e : CopyEntry) : State :=
  let d := e.cmd
  if ccDec d then s.startDec n i e
  else
    let s := if e.armed ∧ ccBbe d then s.setCoreAt n ((s.coreAt n).barrierAdd (ccBb d) (ccLen d)) else s
    if ccLen d = 0 ∧ e.due.isNone then s.copyDone n i e else s.setCopy n i { e with started := true }

/-- COPY_START (R259). -/
def execCopyStart (n : CoreNo) (s : State) : Host.Outcome State Fault Refusal :=
  if coreOk n then
    .next (if s.plat.failStop then s else match s.nextCopy n with
      | some (i, e) => s.startCopy n i e
      | none => s)
  else .fault .illFormed

end Sys2Proof.Machine
end

