-- ==== Sys2Proof/Machine/Piles.lean ====
section
/-! DEFINITION. The homes of memory: channels applied at the piles, atomics at their homes, held reads, lost piles, evictions and
the patrol scrub, and the package's stop (R264-R267, R293-R295, R315-R318, R338, R393, R415, R416, R463, R464). -/

namespace Sys2Proof.Machine

/-! ## Fail-stop (R415, R416) -/

/-- Whether a structure is one whose uncorrectable state stops the package (R415): the distributor, the security controller, a pile's logic
die, a hot junction, or the base die's fabric, of the edge routers and the base-die links. -/
def failStops (c : FailCause) : Bool :=
  c.src = 0x38 || c.src = 0x39 || c.src = 0x3A || (c.src = 0x19 && decide (c.unit.toNat < 8)) || c.src = 0x2A ||
  ((c.src = 0x20 || c.src = 0x21 || c.src = 0x22) && decide (224 ≤ c.unit.toNat) && decide (c.unit.toNat < 230))

/-- The package stops (R416): a record of SEV 5 is written behind those of its cycle that come first, FAIL is set, and the torus links go
down. -/
def State.stopPackage (s : State) (src : BitVec 8) (unit : BitVec 16) : State :=
  if s.plat.failStop then s
  else
    let s := (s.report { src := src, sev := 5, unit := unit, test := some 4 }).endRecords
    let s := { s with plat := { s.plat with failStop := true } }
    (List.range 6).foldl (fun s k => s.setLink_ (linkOf (edgeOf k) k) { dead := true }) s

/-- FAIL_STOP (R415, R416): of a structure whose failure stops the package; one that names any other does nothing. -/
def execFailStop (cause : FailCause) (s : State) : Host.Outcome State Fault Refusal :=
  .next (if failStops cause then s.stopPackage cause.src cause.unit else s)

/-! ## The channels (R315-R317) -/

/-- The channel from a die to a pile. -/
def MemSys.channel (m : MemSys) (d p : BitVec 3) : List ChanMsg := (m.chan.get (d.setWidth 4)).get p

/-- The message at the head of a channel reaches its pile: it is applied, or waits there where a lock keeps it out (R42, R338). -/
def MemSys.applyHead (m : MemSys) (d p : BitVec 3) : MemSys :=
  match m.channel d p with
  | [] => m
  | x :: r =>
    let row := (m.chan.get (d.setWidth 4)).put p r
    let m := { m with chan := m.chan.put (d.setWidth 4) row }
    if m.keepsOut x then { m with lockQ := m.lockQ ++ [(d.setWidth 4, x)] } else m.applyMsg (d.setWidth 4) p x

/-- PILE_WRITE_APPLY (R317); a write to a line that is locked at its home waits there (R338, R42). -/
def execPileWriteApply (die pile : BitVec 3) (s : State) : Host.Outcome State Fault Refusal :=
  .next (match s.mem.channel die pile with
    | (.write _ _ _ _ _) :: _ => if s.plat.failStop then s else s.withMem fun m => m.applyHead die pile
    | _ => s)

/-- PILE_MARKER_APPLY (R317). -/
def execPileMarkerApply (die pile : BitVec 3) (s : State) : Host.Outcome State Fault Refusal :=
  .next (match s.mem.channel die pile with
    | (.marker _) :: _ => if s.plat.failStop then s else s.withMem fun m => m.applyHead die pile
    | _ => s)

/-! ## Atomics at their homes (R264-R267, R338) -/

/-- The gated entries of a list up to the returning atomic of a number. -/
def beforeAtomic (no : Nat) : List Gated → List Gated
  | [] => []
  | .atomic pa op z b c k ret m :: r => if k = no ∧ ret then [] else .atomic pa op z b c k ret m :: beforeAtomic no r
  | g :: r => g :: beforeAtomic no r

/-- The gated entry of a returning atomic that has been performed becomes the value it reserves (R338). -/
def reserveEntry (no : Nat) (bs : List Byte) : Gated → Gated
  | .atomic pa op z b c k ret m => if k = no ∧ ret then .resv pa bs else .atomic pa op z b c k ret m
  | g => g

/-- The cores and numbers of the atomics that a request carries. -/
def AtomicReq.parts (a : AtomicReq) : List (CoreNo × Nat) := (a.core, a.no) :: a.also

/-- Whether one of some other requests comes before a request at its line in the program order of a core (R267). -/
def AtomicReq.behind (a : AtomicReq) (others : List AtomicReq) : Bool :=
  a.parts.any fun x => others.any fun y => decide (y.pa / 128 = a.pa / 128) && y.ofCore x.1 fun k => decide (k < x.2)

/-- Whether a request's home is free of what must come before it: the clocks of its stamp (R318), its dies' earlier writes to its
line (R315), and its cores' earlier atomics to the line (R267). -/
def MemSys.atomicFree (m : MemSys) (a : AtomicReq) : Bool :=
  let line := a.pa / 128
  let p := pileOf a.pa
  (targetOf a.pa ≠ .package || (m.piles.get p).lost ||
    (clockReached (m.piles.get p).ac a.stamp &&
      a.parts.all fun x => !((m.chan.get ((dieOf x.1).setWidth 4)).get p).any (ChanMsg.touches line))) &&
  !m.rowMoves line && !a.behind (m.atomics.erase a)

/-- Whether releases that come before a request in its cores' program order have been made (R261, R325). -/
def State.released (s : State) (a : AtomicReq) : Bool :=
  a.parts.all fun x => !(s.coreAt x.1).committed.any fun e => match e.2 with | .release _ k => decide (k ≤ x.2) | _ => false

/-- A response's value as the register receives it (R264). -/
def atomicReply (op : BitVec 6) (z : BitVec 1) (sext : Bool) (old : Nat) : Vec :=
  let v : Vec := BitVec.ofNat 1024 old
  if sext ∧ atomicBytes op z = 4 then sextTo64 32 v else v

/-- The reply of an atomic reaches its producer, which becomes ready. -/
def Core.atomicReplies (c : Core) (no : Nat) (op : BitVec 6) (z : BitVec 1) (old : Nat) (bad : Bool) : Core :=
  { c with outst := c.outst.map fun o => match o.awaits with
      | .atomic sext due =>
        if o.no = no then { o with awaits := .ready (atomicReply op z sext old) due, bad := bad } else o
      | _ => o }

/-- The open sheet that a returning atomic belongs to takes its reservation (R338). -/
def Core.reserves (c : Core) (no : Nat) (bs : List Byte) (now : Nat) : Core :=
  { c with
    committed := c.committed.map fun e => (e.1, reserveEntry no bs e.2)
    sheets := c.sheets.map fun o => o.map fun (sh : Sheet) =>
      if (atomicNumbers sh.gated).contains no then
        { sh with gated := sh.gated.map (reserveEntry no bs), firstResv := some (sh.firstResv.getD now) }
      else sh }

/-- Performs a request at its home (R267), or answers one that its home has given up (R463): a returning one locks the line until its value
is written, any other writes it under the stamp that it carries, and every core whose atomic it carries hears the response's clock
(R316-R318). -/
def State.performAtomic (s : State) (a : AtomicReq) : State :=
  let n := atomicBytes a.op a.z
  let d : BitVec 4 := (dieOf a.core).setWidth 4
  let bad := s.mem.isBad (a.pa / 16) || s.mem.gaveUp a.core (a.pa / 128)
  let s := s.withMem fun m => m.answered a.core [a.pa / 128]
  let base (pa : Nat) : Byte × Bool := (Memory.get s.mem.mem pa, false)
  let view := if a.ret then gatedView (beforeAtomic a.no (s.coreAt a.core).gatedAll) base else base
  let old := leNat ((List.range n).map fun i => (view (a.pa + i)).1)
  let new := leBytes n (atomicNew a.op a.z old a.b.toNat a.c.toNat)
  let s := s.withMem fun m => { m with atomics := m.atomics.erase a }
  let c := s.coreAt a.core
  if a.ret then
    let c := (c.reserves a.no (if bad then [] else new) s.plat.cycle).atomicReplies a.no a.op a.z old bad
    let c := if targetOf a.pa = .package then c.hear (some (clockMax (s.mem.piles.get (pileOf a.pa)).oc a.stamp)) else c
    let gen := match (s.coreAt a.core).outst.find? fun o => o.no == a.no with | some o => o.gen | none => c.sheetGen
    (s.setCoreAt a.core c).withMem fun m =>
      { m with locks := m.locks ++ [{ core := a.core, line := a.pa / 128, pa := a.pa, gen := gen }] }
  else if bad then
    s.report { src := (storageOf a.pa).1, sev := 2, unit := (storageOf a.pa).2, ten := some a.tenant, addr := BitVec.ofNat 64 a.pa }
  else
    let s := s.withMem fun m => m.stampedWrite d a.stamp a.pa new
    if targetOf a.pa = .package then
      let oc := (s.mem.piles.get (pileOf a.pa)).oc
      a.parts.foldl (fun s x => s.setCoreAt x.1 ((s.coreAt x.1).hear (some oc))) s
    else s

/-- The first other request that a request may be merged with (R266): one that no third request must come before or between, so that
the program order of R267 stands. -/
def MemSys.mergeMate (m : MemSys) (i : Nat) (a : AtomicReq) : Option (Nat × AtomicReq) :=
  ((List.range m.atomics.length).zip m.atomics).find? fun x =>
    let others := (m.atomics.erase a).erase x.2
    decide (x.1 ≠ i) && x.2.merge && x.2.tenant == a.tenant && x.2.pa == a.pa && x.2.op == a.op && x.2.z == a.z &&
      !a.behind others && !x.2.behind others

/-- Merges a request into another one (R266): integers combine, floating adds round once. -/
def State.mergeAtomic (s : State) (i j : Nat) (a b : AtomicReq) : State :=
  let v := BitVec.ofNat 64 (atomicNew a.op a.z b.b.toNat a.b.toNat 0)
  let x := { b with b := v, stamp := clockMax b.stamp a.stamp, also := b.also ++ (a.core, a.no) :: a.also }
  s.withMem fun m => { m with atomics := (m.atomics.set j x).eraseIdx i }

/-- ATOMIC_AT_HOME (R264-R267): request `i` merges with another on its way, or is performed at its home; one that meets another
sheet's reservation waits, or one of the two sheets gives way (R338). -/
def execAtomicAtHome (i : Nat) (merge : Bool) (s : State) : Host.Outcome State Fault Refusal :=
  .next (match s.mem.atomics[i]? with
    | none => s
    | some a =>
      if s.plat.failStop then s
      else if merge then
        if !a.merge then s
        else match s.mem.mergeMate i a with
          | some (j, b) => s.mergeAtomic i j a b
          | none => s
      else if !s.released a || !(s.mem.atomicFree a || s.mem.gaveUp a.core (a.pa / 128)) then
        s.noteHolds a.core (some a.stamp) [(a.pa, atomicBytes a.op a.z, false)]
      else match s.mem.lineHolder a.core (a.pa / 128) with
        | some m => s.meet a.core m
        | none => s.performAtomic a)

/-! ## Held reads (R318, R463) -/

/-- The held reads of the package, by core and place among its outstanding producers. -/
def State.heldReads (s : State) : List (CoreNo × Nat × LoadReq × Option Nat) :=
  s.cores.flatMap fun (kc : Nat × Core) =>
    ((List.range kc.2.outst.length).zip kc.2.outst).filterMap fun (x : Nat × Outst) => match x.2.awaits with
      | .read r due => some (BitVec.ofNat 11 kc.1, x.1, r, due)
      | _ => none

/-- Answers a held read. -/
def State.answerRead (s : State) (n : CoreNo) (i : Nat) (v : Vec) (due : Option Nat) (tag : Option Word) : State :=
  let c := s.coreAt n
  match c.outst[i]? with
  | none => s
  | some o =>
    s.setCoreAt n { c with outst := c.outst.set i { o with awaits := .ready v due, bad := tag.isSome, addr := tag.getD 0 } }

/-- The lines of a read. -/
def LoadReq.lines (r : LoadReq) : List Nat := r.pieces.flatMap fun p => linesOf p.pa p.n

/-- Performs a held read under the clock that it carries (R318); none while it is held. -/
def State.performHeld (s : State) (n : CoreNo) (r : LoadReq) : Option (State × Vec × Option Word) :=
  performRead (r.lines.foldl (fun s l => s.behindCmnt n l) s) n r

/-- PILE_HELD_READ (R318); a read of a sheet that meets another's reservation makes one of the two give way (R338). -/
def execPileHeldRead (i : Nat) (s : State) : Host.Outcome State Fault Refusal :=
  .next (match s.heldReads[i]? with
    | none => s
    | some (n, k, r, due) =>
      if s.plat.failStop then s
      else match s.performHeld n r with
        | some (t, v, tag) => t.answerRead n k v due tag
        | none => match r.lines.findSome? (s.mem.lineHolder n) with
          | some m => s.meet n m
          | none => s.noteHolds n r.clock (r.pieces.map fun p => (p.pa, p.n, p.nc)))

/-- PILE_HOLD_TIMEOUT (R463): an access that its pile has held for 2^24 cycles is given up and recorded; whatever made it - a load, a
stream, a copy, a send or an atomic - is answered as for uncorrectable data. -/
def execPileHoldTimeout (i : Nat) (s : State) : Host.Outcome State Fault Refusal :=
  .next (match s.mem.holds[i]? with
    | none => s
    | some h =>
      if s.plat.failStop ∨ h.expired ∨ s.plat.cycle < h.since + 2 ^ 24 ∨ ¬ s.mem.stuck h.clock (h.pa / 128) then s
      else (s.withMem fun m => { m with holds := m.holds.set i { h with expired := true } }).report
        { src := 0x19, sev := 2, unit := (pileOf h.pa).setWidth 16, ten := some (s.coreAt h.core).tenant,
          addr := BitVec.ofNat 64 h.pa, synd := 1, vpc := (s.coreAt h.core).ctx.pc, task := (s.coreAt h.core).creg crTASK })

/-- PILE_LOST (R464): what is on its way to the pile is dropped; a second loss stops the package (R415). -/
def execPileLost (pile : BitVec 3) (s : State) : Host.Outcome State Fault Refusal :=
  .next (
    if s.plat.failStop ∨ (s.mem.piles.get pile).lost then s
    else
      let second := s.mem.piles.toList.any fun p => p.lost
      let s := s.withMem fun m => { m with
        piles := m.piles.put pile { m.piles.get pile with lost := true }
        chan := m.chan.map fun (row : RF 3 (List ChanMsg)) => row.put pile []
        lockQ := m.lockQ.filter fun x => match x.2 with
          | .write pa _ _ _ _ => !(targetOf pa = .package && pileOf pa == pile)
          | .marker _ => false }
      let s := s.report { src := 0x19, sev := 3, unit := pile.setWidth 16 }
      if second then s.stopPackage 0x19 (pile.setWidth 16) else s)

/-! ## Evictions and the scrub (R294, R393) -/

/-- CACHE_EVICTION (R294): only the line's dirty bytes are written back. -/
def execCacheEviction (level : CacheLevel) (line : Nat) (s : State) : Host.Outcome State Fault Refusal :=
  match level with
  | .l1 n => if coreOk n then .next (if s.plat.failStop then s else dropL1 (cleanL1 s n line) n line) else .fault .illFormed
  | .die d => .next (if s.plat.failStop then s else dropDie s d line)

/-- PATROL_SCRUB (R393, R394): a block with an error that the check corrects is rewritten and recorded, an uncorrectable one is
recorded, and any other stays as it is. -/
def execPatrolScrub (block : Nat) (s : State) : Host.Outcome State Fault Refusal :=
  .next (
    let pa := 64 * block
    let found := (List.range 4).any fun g => s.mem.badGran.contains (4 * block + g)
    let r (sev : BitVec 8) : ErrRec := { src := (storageOf pa).1, sev := sev, unit := (storageOf pa).2, addr := BitVec.ofNat 64 pa }
    if s.plat.failStop ∨ (targetOf pa ≠ .package ∧ targetOf pa ≠ .tier2) then s
    else if found then s.report (r 2)
    else if s.mem.soft.contains block then
      (s.withMem fun m => { m with soft := m.soft.filter fun b => b != block }).report (r 0)
    else s)

end Sys2Proof.Machine
end

