-- ==== Sys2Proof/Machine/ErrorEvents.lean ====
section
/-! DEFINITION. Error records on their way to the logs, self-tests, sparing and fencing (R405, R409-R414). -/

namespace Sys2Proof.Machine

/-! ## Records (R405, R409) -/

/-- ERROR_RECORD_WRITE (R405): a record whose window closed in an earlier cycle and whose self-test has ended is written, the first of
them in its order. -/
def execErrorRecordWrite (s : State) : Host.Outcome State Fault Refusal :=
  .next (if s.plat.failStop then s
    else match takeReady s.plat.cycle s.plat.errors with
      | none => s
      | some (e, r) => { s with plat := { s.plat with errors := r } }.writeRecord e.rec_)

/-! ## Spares (R413) -/

/-- Where the spares of an erring structure are counted: a set of a cache, a bank, a slice or a router. -/
def SelfTest.pool (t : SelfTest) : Nat :=
  match t.src.toNat with
  | 0x05 => t.addr.toNat / 128 % 1024
  | 0x11 => t.addr.toNat / 128 % 65536
  | 0x06 => t.addr.toNat / 2 ^ 17
  | 0x10 => t.addr.toNat / 2 ^ 21
  | 0x18 | 0x1A => Config.bankOf t.src t.unit (t.addr.toNat / 16)
  | _ => 0

/-- How many spares such a pool has. -/
def SelfTest.spares (t : SelfTest) : Nat :=
  match t.src.toNat with
  | 0x05 | 0x11 => 2
  | 0x06 => 8
  | 0x10 => 16
  | 0x21 | 0x18 | 0x1A => 4
  | _ => 0

/-- Whether a spare of a structure's pool is left. -/
def State.spareLeft (s : State) (t : SelfTest) : Bool :=
  decide ((s.plat.faulty.filter fun x => x.src == t.src && x.unit == t.unit && x.pool == t.pool).length < t.spares)

/-- Whether the loss of a structure is the loss of its core (R413): its own units, or its L1 or scratchpad without spares. -/
def SelfTest.ofCore (t : SelfTest) : Bool := srcCoreTest t.src || t.src = 0x05 || t.src = 0x06

/-- Whether the cluster of a core has its spare core left. -/
def State.coreSpareLeft (s : State) (n : CoreNo) : Bool := !s.plat.spared.contains (clusterOf n)

/-- Whether a waiting or undispatched task of a launch has a core alone as its home (R36). -/
def State.homeIs (s : State) (l : Launch) (n : CoreNo) (w : Waiting) : Bool :=
  match w with
  | .preempted _ m _ _ _ | .held _ m _ _ => l.homeOf m = (0, n.toNat)
  | .ready a _ _ | .suspended a _ => match s.devLoad l.tenant a 64 with
    | .error _ => false
    | .ok bs =>
      let v := BitVec.ofNat 1024 (leNat bs)
      let i := l.linear fun j => (v.extractLsb' (128 + 16 * j) 16 : BitVec 16).toNat
      l.localLevels.head? = some 0 && l.dom 0 = 0 && l.bound.contains (0, i / l.groupSize 0, n.toNat)

/-- The undispatched tasks of a launch whose group is bound to a core alone (R35, R36). -/
def Launch.undispatchedAt (l : Launch) (n : CoreNo) : List Nat :=
  if l.taken && l.isOpen && l.localLevels.head? = some 0 && l.dom 0 = 0 then
    (l.bound.filter fun b => b.1 == 0 && b.2.2 == n.toNat).flatMap fun b =>
      ((List.range (l.groupSize 0)).map (· + b.2.1 * l.groupSize 0)).filter fun i => decide (l.next ≤ i) && decide (i < l.tasks)
  else []

/-- The record of a task that is lost with its home (R402, R414). -/
def State.reportHomeless (s : State) (n : CoreNo) (l : Launch) (id : Word × Word) : State :=
  s.report { src := 0x38, sev := 4, unit := n.setWidth 16, ten := some l.tenant, task := id.1, vpc := id.2 }

/-- The tasks of a launch whose home is a core alone are lost (R402, R414): each is discarded with a record of its own, and the launch is
cancelled once. -/
def State.loseHome (s : State) (n : CoreNo) (l : Launch) : State :=
  let ws := l.waiting.filter (s.homeIs l n)
  let ids := ws.map (s.waitingId l) ++ (l.undispatchedAt n).map fun i => (l.handle ++ BitVec.ofNat 32 i, 0)
  if !l.isOpen || ids.isEmpty then s
  else
    let s := ws.foldl (fun s w => s.dropWaiting l w) s
    let s := ws.foldl (fun s w => match w.area with | some a => (s.freeArea l.tenant a).releaseAcc a | none => s) s
    let s := ids.foldl (fun s id => s.reportHomeless n l id) s
    let s := match s.findLaunch l.tenant l.handle with
      | some l => if l.cancelled then s else s.cancelLaunch l
      | none => s
    ws.foldl (fun s _ => s.endTask l.tenant l.handle) s

/-- The tasks whose home is a fenced core alone are lost, with their launches (R402, R414). -/
def State.loseHomes (s : State) (n : CoreNo) : State := s.dist.launches.foldl (fun s l => s.loseHome n l) s

/-- A core number without a spare is fenced (R414): it is granted nothing, its task is pre-empted, and the tasks that can run
nowhere else are lost. -/
def State.fenceCore (s : State) (n : CoreNo) : State :=
  let s := s.takeOut n
  (s.setCoreAt n { s.coreAt n with fenced := true, moving := false }).loseHomes n

/-- Fences a row that no spare can take (R413): the row's units of storage. -/
def State.fenceRow (s : State) (t : SelfTest) : State :=
  if t.src = 0x10 then { s with plat := { s.plat with stageFenced := s.plat.stageFenced ++ t.row } }
  else if t.src = 0x21 then
    let r : RouterNo := t.unit.setWidth 8
    s.setRouterAt r { s.routerAt r with fencedWords := (s.routerAt r).fencedWords ++ t.row }
  else if t.src = 0x18 ∨ t.src = 0x1A then s.withMem fun m => { m with fenced := m.fenced ++ t.row }
  else s

/-- A structure's error is lasting (R413): it is spared, or the unit is fenced; a link loses a lane or wire, or dies. The answer is the TEST
value of its record. -/
def State.spare (s : State) (t : SelfTest) (rep : Bool) : State × BitVec 8 :=
  match t.link with
  | some l => s.spareLane l rep
  | none =>
  let keep (s : State) : State := { s with plat := { s.plat with faulty := s.plat.faulty ++ [t] } }
  let n : CoreNo := t.unit.setWidth 11
  if !srcCoreTest t.src && s.spareLeft t then (keep s, 2)
  else if t.ofCore then
    if s.coreSpareLeft n then
      let s := (keep s).takeOut n
      (s.setCoreAt n { s.coreAt n with moving := true }, 2)
    else ((keep s).fenceCore n, 3)
  else if t.src = 0x11 then (keep s, 3)
  else ((keep s).fenceRow t, 3)

/-! ## Self-tests (R410-R412) -/

/-- A pending record takes the outcome of its test, which ends in cycle `now`. -/
def ErrPend.tested (e : ErrPend) (now : Nat) (t : SelfTest) (out : BitVec 8) (rep : Bool) : ErrPend :=
  if e.testing && (recField e.rec_ 8 8 : BitVec 8) == t.src && (recField e.rec_ 10 16 : BitVec 16) == t.unit &&
      (recField e.rec_ 16 64 : Word) == t.addr then
    let r := recSet e.rec_ 12 out
    { e with closes := max e.closes now, testing := false, rec_ := if rep then recSet r 14 ((recField r 14 16 : BitVec 16) ||| 8) else r }
  else e

/-- A core comes back into service after its tests (R410, R412), unless it waits for a spare or is fenced. -/
def State.backInService (s : State) (n : CoreNo) : State :=
  let c := s.coreAt n
  if c.fenced || c.moving || s.plat.tests.any (fun t => srcCoreTest t.1.src && t.1.unit == n.setWidth 16) then s
  else s.setCoreAt n { c with inService := true }

/-- SELF_TEST_COMPLETE (R410, R411): the `i`-th test under way ends, not before its time; a link's is the retraining of its lane, after
which the lane's bit error rate counts. -/
def execSelfTestComplete (i : Nat) (lasting : Bool) (s : State) : Host.Outcome State Fault Refusal :=
  .next (match s.plat.tests[i]? with
    | none => s
    | some (t, ends) =>
      if s.plat.failStop ∨ s.plat.cycle < ends then s
      else
        let rep := s.repeats t || (t.link.isSome && Config.berHigh s.plat.cycle)
        let s := { s with plat := { s.plat with tests := s.plat.tests.eraseIdx i } }.endTest t (!lasting && !rep)
        let (s, out) := if lasting || rep then s.spare t rep else (s, (1 : BitVec 8))
        let s := { s with plat := { s.plat with errors := s.plat.errors.map fun e => e.tested s.plat.cycle t out rep } }
        if srcCoreTest t.src then s.backInService (t.unit.setWidth 11) else s)

/-! ## Spare cores (R414) -/

/-- CORE_SPARE_MOVE (R414): the move of a number to its cluster's spare ends. It has begun when the last task left the core, since when
deliveries and remote accesses to the number wait (`State.mayMeet`). The private state moves with its uncorrectable items, and the old
core's faults stay behind. Another number of the cluster that waits for the same spare is fenced. -/
def execCoreSpareMove (n : CoreNo) (s : State) : Host.Outcome State Fault Refusal :=
  if coreOk n then
    let c := s.coreAt n
    .next (if s.plat.failStop ∨ ¬ c.moving ∨ c.fenced ∨ c.running.isSome ∨ ¬ s.coreSpareLeft n then s
      else
        let s := flushL1 s n
        let s := { s with plat := { s.plat with
          spared := clusterOf n :: s.plat.spared, faulty := s.plat.faulty.filter fun t => !(t.ofCore && t.unit == n.setWidth 16) } }
        let s := s.withMem fun m => { m with waysOff := m.waysOff.filter fun x => x.1 != .l1 n }
        let s := (s.setCoreAt n { s.coreAt n with moving := false }).backInService n
        ((List.range 8).map fun k => BitVec.ofNat 11 (8 * clusterOf n + k)).foldl
          (fun s m => if (s.coreAt m).moving then s.fenceCore m else s) s)
  else .fault .illFormed

end Sys2Proof.Machine
end

