-- ==== Sys2Proof/Machine/Platform.lean ====
section
/-! DEFINITION. The platform: device registers with a behaviour of their own, invalidations of translations, atlas revocation,
held tasks, staging ownership, power and clocks, TDISP, the security controller and resets (R243, R305, R345, R357-R368, R417,
R447, R448, R469, R474, R484-R486). -/

namespace Sys2Proof.Machine

/-! ## Invalidation of translations (R305, R448) -/

/-- Whether a range of physical bytes meets one of the pages. -/
def meetsPages (pages : List (Nat × Nat)) (pa n : Nat) : Bool := pages.any fun p => decide (p.1 < pa + n) && decide (pa < p.1 + p.2)

/-- Whether a virtual range meets the translations that an invalidation removes, those of the supervisor root or of a tenant. -/
def Inval.meets (v : Inval) (va : Word) (n : Nat) : Bool :=
  (va.getLsbD 56 == (v.owner == 32)) && (v.all || (decide (va.toNat < v.va + v.len) && decide (v.va < va.toNat + n)))

/-- Whether a gated entry was translated in the range of an invalidation whose translations name these pages. -/
def Gated.inPages (v : Inval) (pages : List (Nat × Nat)) : Gated → Bool
  | .spawn a => v.meets a 64
  | .icinv va n _ | .tculk va n => v.meets va n
  | .dev off n _ => meetsPages pages (devBase + off) n
  | .store pa _ bs => meetsPages pages pa bs.length
  | .cmnt ls _ _ => ls.any fun l => meetsPages pages (128 * l) 128
  | .send _ _ _ runs bt _ _ => runs.any (fun r => meetsPages pages r.1 r.2.1) || (match bt with
      | some (_, pa, _) => meetsPages pages pa 8
      | none => false)
  | .atomic pa op z _ _ _ _ _ => meetsPages pages pa (atomicBytes op z)
  | .resv pa bs => meetsPages pages pa bs.length
  | .push w => w.space = 0 && w.runs.any fun r => meetsPages pages r.1 r.2.1
  | _ => false

/-- Whether a translation is one that an invalidation removes. -/
def Inval.covers (v : Inval) (e : TlbEntry) : Bool :=
  e.owner == v.owner && (v.all || (decide (e.va < v.va + v.len) && decide (v.va < e.va + 2 ^ e.bits)))

/-- The pages (base and size) of the translations of an invalidation that TLBs hold, or that accesses of cores have used which may still be
on their way (R304, R305). -/
def State.tlbPages (s : State) (v : Inval) : List (Nat × Nat) :=
  ((s.mem.tlb.flatMap Prod.snd ++ s.cores.flatMap fun kc => kc.2.utlb ++ kc.2.used).filter v.covers).map fun e => (e.pa, 2 ^ e.bits)

/-- Takes the translations of an invalidation out of every TLB. -/
def State.dropTlb (s : State) (v : Inval) : State :=
  let keep (l : List TlbEntry) : List TlbEntry := l.filter fun e => !v.covers e
  { s with cores := s.cores.map fun kc => (kc.1, { kc.2 with utlb := keep kc.2.utlb, used := keep kc.2.used })
           mem := { s.mem with tlb := s.mem.tlb.map fun x => (x.1, keep x.2) } }

/-- The open sheets of a core that hold gated entries or reservations of an invalidated range are discarded: the one it runs at once, one
under a trap at that trap's TRET, its entries in the pages at once (R448). -/
def State.discardStale (s : State) (n : CoreNo) (v : Inval) (pages : List (Nat × Nat)) : State :=
  [(2 : BitVec 2), 1, 0].foldl (fun s d =>
    let c := s.coreAt n
    match c.sheets.get d with
    | none => s
    | some sh =>
      let locks := sh.newLocks.filter fun l => v.meets l.entry 4
      if !sh.gated.any (Gated.inPages v pages) && locks.isEmpty then s
      else if c.depth = d then s.discardSheet n d
      else
        let sh' := { sh with doomed := true, gated := sh.gated.filter (fun g => !g.inPages v pages)
                             newLocks := sh.newLocks.filter fun l => !locks.contains l }
        let gone := atomicNumbers (sh.gated.filter fun g => g.inPages v pages)
        let s := locks.foldl (fun s l => s.unlockAtlas c.tenant l.die (fun e => e.entry == l.entry)) s
        (s.setCoreAt n { c with sheets := c.sheets.put d (some sh') }).withMem fun m =>
          { m.unlock n sh.gen with atomics := m.atomics.filter fun a => !(a.core == n && gone.contains a.no) }) s

/-- Starts an invalidation (R305): its translations go, BUSY reads 1, and the sheets of its tenant that used them are discarded. -/
def State.startInval (s : State) (v : Word) : State :=
  let sup := v.getLsbD 37
  let t : BitVec 5 := bits v 32 5
  let x : Inval := { owner := if sup then 32 else t.setWidth 6, va := (bits (s.reg 0x018) 16 41 : BitVec 41).toNat * 0x10000,
                     len := (bits v 1 31 : BitVec 31).toNat * 0x10000, all := v.getLsbD 62, pages := [] }
  let pages := s.tlbPages x
  let s := s.dropTlb x
  let s := { s with plat := { s.plat with inval := some { x with pages := pages } } }
  (s.coresWith fun _ r => sup || r.tenant == t).foldl (fun s n => s.discardStale n x pages) s

/-- The cores whose tasks' accesses an invalidation concerns. -/
def State.invalCores (s : State) (x : Inval) : List CoreNo := s.coresWith fun _ r => x.owner = 32 || x.owner == r.tenant.setWidth 6

/-- A write of TLBINVC (R305): its fields are kept, and GO starts an invalidation unless one runs. -/
def State.writeTlbinvc (s : State) (v : Word) : State :=
  let busy := s.plat.inval.isSome
  let s := s.setReg 0x020 ((v &&& 0x4000003FFFFFFFFE) ||| (if busy then 0x8000000000000000 else 0))
  if v.getLsbD 0 && !busy then (s.setReg 0x020 ((v &&& 0x4000003FFFFFFFFE) ||| 0x8000000000000000)).startInval v else s

/-- TLBINVC_GO (R305). -/
def execTlbinvcGo (v : Word) (s : State) : Host.Outcome State Fault Refusal :=
  .next (if s.plat.failStop then s else s.writeTlbinvc (v ||| 1))

/-- Whether an access that used a removed translation has still to be performed (R305): a held read, a gated store on its way, a
buffered element, an atomic, a SUSP, a delivery, or a write that a lock holds back; and whether a write is still on its way to a pile. -/
def State.invalPending (s : State) (x : Inval) (pages : List (Nat × Nat)) : Bool :=
  s.heldReads.any (fun x => x.2.2.1.pieces.any fun p => meetsPages pages p.pa p.n) ||
  s.cores.any (fun kc => kc.2.committed.any (fun e => e.2.inPages x pages) ||
    (match kc.2.leaving with | .susp _ pa | .suspEnd _ pa _ => meetsPages pages pa 64 | _ => false) ||
    kc.2.wbuf.any fun w => w.space = 0 && !w.written && w.runs.any fun r => meetsPages pages r.1 r.2.1) ||
  s.mem.atomics.any (fun a => meetsPages pages a.pa (atomicBytes a.op a.z)) ||
  s.mem.lockQ.any (fun x => match x.2 with | .write pa bs _ _ _ => meetsPages pages pa bs.length | .marker _ => false) ||
  s.mem.baseQ.any (fun x => match x with | .write pa bs _ => meetsPages pages pa bs.length | .release => false) ||
  s.fab.deliveries.any (fun d => d.runs.any fun r => meetsPages pages r.1 r.2.1) ||
  (List.range 8).any fun d => (List.range 8).any fun p =>
    (s.mem.channel (BitVec.ofNat 3 d) (BitVec.ofNat 3 p)).any fun c => match c with | .write .. => true | .marker _ => false

/-- TLB_INVALIDATION_COMPLETE (R305): BUSY falls once nothing that used a removed translation is left; translations that walks
have brought in meanwhile go too, and with them what used them. -/
def execTlbInvalidationComplete (s : State) : Host.Outcome State Fault Refusal :=
  .next (match s.plat.inval with
    | none => s
    | some x =>
      let late := s.tlbPages x
      if s.plat.failStop ∨ s.invalPending x (x.pages ++ late) then s
      else
        let s := (s.invalCores x).foldl (fun s n => s.discardStale n x late) (s.dropTlb x)
        { s with plat := { s.plat with inval := none } }.setReg 0x020 (s.reg 0x020 &&& 0x7FFFFFFFFFFFFFFF))

/-! ## Atlas revocation (R345) -/

/-- A write of ATREV (R345): GO raises the notice vector and starts the notice period. -/
def State.writeAtrev (s : State) (t : BitVec 5) (d : BitVec 3) (v : Word) : State :=
  let off := atqOffset d t + 8
  let busy := (s.reg off).getLsbD 63
  let keep := v &&& 0x0000000007FFFFFE
  if v.getLsbD 0 ∧ ¬ busy then
    let s := s.setReg off (keep ||| 0x8000000000000000)
    let s := { s with plat := { s.plat with
      atrevBusy := (off, s.plat.cycle + 1024 * (bits v 1 15 : BitVec 15).toNat) :: s.plat.atrevBusy } }
    s.raiseTenantVec t (bits v 16 11 : BitVec 11).toNat
  else s.setReg off (keep ||| (if busy then 0x8000000000000000 else 0))

/-- ATREV_GO (R345). -/
def execAtrevGo (t : BitVec 5) (die : BitVec 3) (v : Word) (s : State) : Host.Outcome State Fault Refusal :=
  .next (if s.plat.failStop then s else s.writeAtrev t die (v ||| 1))

/-- ATREV_NOTICE_EXPIRY (R345): every lock of the tenant on the die is removed. -/
def execAtrevNoticeExpiry (t : BitVec 5) (die : BitVec 3) (s : State) : Host.Outcome State Fault Refusal :=
  .next (
    let off := atqOffset die t + 8
    match s.plat.atrevBusy.find? fun x => x.1 == off with
    | none => s
    | some x =>
      if s.plat.failStop ∨ s.plat.cycle < x.2 then s
      else
        let s := s.unlockAtlas t die fun _ => true
        { s with plat := { s.plat with atrevBusy := s.plat.atrevBusy.filter fun y => y.1 != off } }.setReg off
          (s.reg off &&& 0x7FFFFFFFFFFFFFFF))

/-! ## Held tasks (R447) -/

/-- The held task of a tenant that a save area names. -/
def State.heldTask (s : State) (t : BitVec 5) (savea : Word) : Option (Launch × Waiting) :=
  s.dist.launches.findSome? fun l => if l.tenant == t then
      (l.waiting.find? fun w => match w with | .held a _ _ _ => a == savea | _ => false).map fun w => (l, w)
    else none

/-- Releases a held task: it becomes Pre-empted (R41, R447). -/
def State.resumeHeld (s : State) (t : BitVec 5) (savea : Word) : State :=
  match s.heldTask t savea with
  | some (l, .held a n loops k) => s.modLaunch l.order fun l =>
      { l with waiting := l.waiting.erase (.held a n loops k) ++ [.preempted a n false loops k] }
  | _ => s

/-- Loses a held task (R402, R447): its TASK and virtual PC are those of its save area. -/
def State.killHeld (s : State) (t : BitVec 5) (savea : Word) : State :=
  match s.heldTask t savea with
  | none => s
  | some (l, w) =>
    let id := s.waitingId l w
    s.loseWaiting l w 0x38 0 id.1 id.2

/-- A write of PFRES (R446). -/
def State.writePfres (s : State) (t : BitVec 5) (v : Word) : State :=
  let a := v &&& 0x01FFFFFFFFFFFC00
  if v.getLsbD 63 then s.killHeld t a else s.resumeHeld t a

/-- PFRES_RESUME (R447). -/
def execPfresResume (t : BitVec 5) (savea : Word) (s : State) : Host.Outcome State Fault Refusal :=
  .next (if s.plat.failStop then s else s.resumeHeld t savea)

/-- PFRES_KILL (R447). -/
def execPfresKill (t : BitVec 5) (savea : Word) (s : State) : Host.Outcome State Fault Refusal :=
  .next (if s.plat.failStop then s else s.killHeld t savea)

/-! ## Crash registers (R417) -/

/-- Clears the crash registers. -/
def State.clearCrash (s : State) (v : Word) : State :=
  if v.getLsbD 0 then { s with plat := { s.plat with crash := [], warm := false } } else s

/-- CRCLR (R417). -/
def execCrclr (v : Word) (s : State) : Host.Outcome State Fault Refusal := .next (if s.plat.failStop then s else s.clearCrash v)

/-! ## Staging ownership (R243) -/

/-- Whether a staging address lies in a slice of a cluster. -/
def inSlice (cluster slice a : Nat) : Bool := a / 2 ^ 24 == cluster && a / 2 ^ 21 % 8 == slice

/-- What is left of an element of a write stream once its bytes in a slice have landed there; none where that was all of it. -/
def StreamWrite.outside (w : StreamWrite) (cluster slice : Nat) : Option StreamWrite :=
  match w.space, w.runs with
  | 2, [(a, _, nc)] =>
    let keep := (List.range w.bytes.length).filter fun i => !inSlice cluster slice (a + i)
    if keep.length = w.bytes.length then some w
    else match keep with
      | [] => none
      | i :: _ => some { w with runs := [(a + i, keep.length, nc)], bytes := (w.bytes.drop i).take keep.length }
  | _, _ => some w

/-- A gated entry without what of it has landed in a slice. -/
def Gated.outside (cluster slice : Nat) : Gated → Option Gated
  | .push w => (w.outside cluster slice).map Gated.push
  | g => some g

/-- The elements of a core's write streams that are on their way to a slice land in it, those pushed by a sheet that has still to commit
among them: what it holds back then finds no place any more. Of an element that runs over the slice's edge, the bytes beyond it go on. -/
def Core.landPushes (c : Core) (cluster slice : Nat) : Core :=
  { c with
    committed := c.committed.filterMap fun e => (e.2.outside cluster slice).map fun g => (e.1, g)
    sheets := c.sheets.map fun o => o.map fun (sh : Sheet) => { sh with gated := sh.gated.filterMap fun g => g.outside cluster slice }
    wbuf := c.wbuf.filterMap fun w =>
      if w.written then some w
      else match w.outside cluster slice with
        | some x => some x
        | none => if w.due = 0 then none else some { w with written := true } }

/-- The granules of a delivery that are on their way to a slice land in it. -/
def Deliv.landGranules (d : Deliv) (cluster slice : Nat) : Deliv :=
  if d.p.tsp = 2 then { d with left := d.left.filter fun g => !inSlice cluster slice (d.p.taddr.toNat + 16 * g) } else d

/-- A slice changes hands: what is in flight lands, every byte becomes zero, and accesses wait for the end of the clearing. -/
def State.clearSlice (s : State) (cluster slice : Nat) : State :=
  let base := cluster * 2 ^ 24 + slice * 2 ^ 21
  { s with
    cores := s.cores.map fun (kc : Nat × Core) => (kc.1, kc.2.landPushes cluster slice)
    fab := { s.fab with deliveries := s.fab.deliveries.map fun d => d.landGranules cluster slice }
    plat := { s.plat with
      staging := s.plat.staging.filter fun x => !(decide (base ≤ x.1) && decide (x.1 < base + 2 ^ 21))
      stageBad := s.plat.stageBad.filter fun w => !(decide (base ≤ 8 * w) && decide (8 * w < base + 2 ^ 21))
      clearing := (cluster, BitVec.ofNat 3 slice) :: s.plat.clearing.filter fun x => x != (cluster, BitVec.ofNat 3 slice) } }

/-- A write of a cluster's STGOWN (R243). -/
def State.writeStgown (s : State) (cluster : Nat) (v : Word) : State :=
  let off := 0x3000000 + 8 * cluster
  let v := v &&& 0x0000FFFFFFFFFFFF
  let old := s.reg off
  ((List.range 8).filter fun k => (bits old (6 * k) 6 : BitVec 6) ≠ bits v (6 * k) 6 &&
      (old.getLsbD (6 * k + 5) || v.getLsbD (6 * k + 5))).foldl (fun s k => s.clearSlice cluster k) (s.setReg off v)

/-- STGOWN_WRITE (R243). -/
def execStgownWrite (cluster : BitVec 8) (v : Word) (s : State) : Host.Outcome State Fault Refusal :=
  .next (if s.plat.failStop ∨ 224 ≤ cluster.toNat then s else s.writeStgown cluster.toNat v)

/-- STAGING_CLEAR_COMPLETE (R243). -/
def execStagingClearComplete (cluster : BitVec 8) (slice : BitVec 3) (s : State) : Host.Outcome State Fault Refusal :=
  .next (if s.plat.failStop then s
    else { s with plat := { s.plat with clearing := s.plat.clearing.filter fun x => x != (cluster.toNat, slice) } })

/-! ## Power and clocks (R16, R349, R367, R368, R416) -/

/-- Whether a pinned task runs. -/
def State.pinnedRuns (s : State) : Bool := s.cores.any fun kc => kc.2.running.isSome && kc.2.pin

/-- A clock step within its range, above the floor of the pinned regime. -/
def State.clampStep (s : State) (k : Nat) : Nat := min 64 (max k (if s.pinnedRuns then 32 else 16))

/-- A write of PCAP (R367): a clock change follows. -/
def State.writePcap (s : State) (v : Word) : State := s.setReg 0x028 ((v &&& 0xFFF) ||| 0x8000000000000000)

/-- PCAP_WRITE (R367). -/
def execPcapWrite (v : Word) (s : State) : Host.Outcome State Fault Refusal := .next (if s.plat.failStop then s else s.writePcap v)

/-- The cap in watts that a CAP field stands for (R367): none for 0. -/
def capWatts (cap : Nat) : Option Nat := if cap = 0 then none else some (min 3600 (max 1000 cap))

/-- The highest step of at most `k` above 16 steps whose power, as measured in a cycle, stays within a cap; 16 where none does. -/
def stepWithin (cycle cap : Nat) : Nat → Nat
  | 0 => 16
  | k + 1 => if Config.powerAt cycle (16 + (k + 1)) ≤ cap then 16 + (k + 1) else stepWithin cycle cap k

/-- The step that CAP allows (R367). -/
def State.capStep (s : State) : Nat :=
  match capWatts (s.reg 0x028 &&& 0xFFF).toNat with
  | none => 64
  | some w => stepWithin s.plat.cycle w 48

/-- The step that the clocks change to (R367, R368, R416): the highest one that the cap and the temperature allow, above the floor of the
pinned regime but for a junction of 110 degrees or more. A change that nothing has asked for is that of a die that has cooled. -/
def State.nextStep (s : State) : Nat :=
  let asked := (s.reg 0x028).getLsbD 63
  if asked && s.plat.hot then 16 else s.clampStep (min s.capStep ((if asked then s.plat.heat else none).getD 64))

/-- CLOCK_CHANGE (R367, R368, R416): at a slot boundary, and to the step of that cycle alone. -/
def execClockChange (step : BitVec 8) (s : State) : Host.Outcome State Fault Refusal :=
  .next (if s.plat.failStop ∨ ¬ s.atSlot ∨ step.toNat ≠ s.nextStep then s
    else
      let asked := (s.reg 0x028).getLsbD 63
      { s with plat := { s.plat with clockStep := step.toNat, heat := if asked then s.plat.heat else none, hot := asked && s.plat.hot } }.setReg
        0x028 (s.reg 0x028 &&& 0x7FFFFFFFFFFFFFFF))

/-- THERMAL_THROTTLE (R368, R416): at 105 degrees lower clocks are asked for, as by a cap; at 110 degrees the lowest step, below the floor
of the pinned regime. How low the device goes at 105 degrees is the event's (log entry 28). -/
def execThermalThrottle (step : Throttle) (s : State) : Host.Outcome State Fault Refusal :=
  .next (if s.plat.failStop then s
    else
      let k := if step.hot then 16 else max 16 (min step.step.toNat s.plat.clockStep)
      { s with plat := { s.plat with heat := some k, hot := step.hot } }.setReg 0x028 (s.reg 0x028 ||| 0x8000000000000000))

/-! ## TDISP and the security controller (R358, R363, R365, R468, R485, R486) -/

/-- TDISP_CONFIG_LOCK (R358): CONFIG_LOCKED, and RUN after it. -/
def execTdispConfigLock (t : BitVec 5) (run : Bool) (s : State) : Host.Outcome State Fault Refusal :=
  .next (
    let now := s.plat.tdisp.get t
    let next : Tdisp := if run then (if now = .locked then .run else now) else (if now = .unlocked then .locked else now)
    if s.plat.failStop then s else { s with plat := { s.plat with tdisp := s.plat.tdisp.put t next } })

/-- TDISP_UNLOCK (R358): the tenant's key slots are erased. -/
def execTdispUnlock (t : BitVec 5) (s : State) : Host.Outcome State Fault Refusal :=
  .next (if s.plat.failStop then s
    else { s with plat := { s.plat with tdisp := s.plat.tdisp.put t .unlocked, keys := s.plat.keys.filter fun k => k.tenant != t } })

/-- The security controller answers a message; what it says is free. -/
def State.answer (s : State) (msg : List Byte) : State := { s with plat := { s.plat with spdmOut := s.plat.spdmOut ++ [msg] } }

/-- An ERROR message of SPDM 1.3 with its error code (R468, R486; PRESUMED, log entry 12). -/
def spdmError (code : Byte) : List Byte := [0x13, 0x7F, code, 0]

/-- What the security controller sends, signed with the identity key (R365, R486). -/
def signedBody (body : List Byte) : List Byte := body ++ Config.rsaSign body

/-- What the security controller answers to a vendor-defined message that it accepts (R365): VENDOR_DEFINED_RESPONSE. -/
def signedAnswer (msg : List Byte) : List Byte := signedBody ([0x13, 0x7E] ++ Config.spdmAnswer msg)

/-- The bytes that the answer to a key message depends on. -/
def keyBytes (m : KeyMessage) : List Byte :=
  leBytes 1 m.tenant.toNat ++ leBytes 4 m.handle.toNat ++ leBytes 1 m.slot.toNat ++ leBytes 32 m.key.toNat ++ leBytes 4 m.strm.toNat ++
    leBytes 8 m.counter.toNat

/-- Whether a key message may install its slot (R468): its launch is active for the tenant, the slot is one of the 16, and none is
installed there; a disabled slot is one that is not installed. -/
def State.keyAccepted (s : State) (m : KeyMessage) : Bool :=
  (s.dist.launches.any fun l => l.tenant == m.tenant && l.handle == m.handle && l.taken && l.isOpen) && decide (m.slot.toNat < 16) &&
    !s.plat.keys.any fun k => k.tenant == m.tenant && k.handle == m.handle && k.slot == m.slot.setWidth 4

/-- KEY_INSTALL (R363, R468): an accepted message installs its slot; any other is answered with an error, and no slot changes. -/
def execKeyInstall (msg : KeyMessage) (s : State) : Host.Outcome State Fault Refusal :=
  .next (if s.plat.failStop ∨ ¬ s.keyAccepted msg then s.answer (signedBody (spdmError (Config.keyError (keyBytes msg))))
    else
      let k : KeySlot := { tenant := msg.tenant, handle := msg.handle, slot := msg.slot.setWidth 4, key := msg.key, strm := msg.strm,
                           counter := msg.counter }
      { s with plat := { s.plat with keys := k :: s.plat.keys } }.answer (signedAnswer (keyBytes msg)))

/-- The body of a response (R365): a certificate carries its two signatures, each measurement block its SLH-DSA signature, and the
answer to a vendor-defined request BOOTST (R484). The request and response codes are SPDM's (PRESUMED, log entry 12). -/
def answerBody (msg : List Byte) (draw : Nat) (bootst : Word) : List Byte :=
  [0x13, msg.getD 1 0 &&& 0x7F] ++ Config.spdmAnswer msg ++
  (if msg.getD 1 0 = 0xE0 then (Config.measurements draw).flatMap fun b => b ++ Config.slhSign b
   else if msg.getD 1 0 = 0x82 then Config.certificate ++ Config.certificateRsa ++ Config.certificateSlh
   else if msg.getD 1 0 = 0xFE then leBytes 8 bootst.toNat
   else [])

/-- SPDM_REQUEST (R365, R486): an answer, signed with the identity key; a request that the device cannot serve gets an ERROR, whose code is
SPDM's; where the signing unit fails, GET_MEASUREMENTS and CHALLENGE get the error code Unspecified, with a record. -/
def execSpdmRequest (msg : List Byte) (s : State) : Host.Outcome State Fault Refusal :=
  .next (
    let signed := msg.getD 1 0 = 0xE0 || msg.getD 1 0 = 0x83
    let body := match Config.spdmRefuses msg with | some code => spdmError code | none => answerBody msg s.free s.plat.bootst
    if signed && !Config.signs s.free then
      { s with free := s.free + 1 }.answer (spdmError 5) |>.report { src := 0x39, sev := 6 }
    else { s with free := s.free + 1 }.answer (signedBody body))

/-- The security version of a firmware image whose two signatures verify (R365). -/
def firmwareOk (image : List Byte) : Option Nat :=
  if Config.rsaOk image && Config.slhOk image then Config.imageVersion image else none

/-- FIRMWARE_UPDATE (R365, R485): an image whose signatures verify and whose version is not below the rollback counter waits for
the next boot; any other is discarded. -/
def execFirmwareUpdate (image : List Byte) (s : State) : Host.Outcome State Fault Refusal :=
  .next (match firmwareOk image with
    | some v =>
      if s.plat.rollback ≤ v then { s with plat := { s.plat with staged := s.plat.staged.put (Config.imageKind image) image } } else s
    | none => s)

/-- FIRMWARE_COMMIT (R485): the rollback counter advances to the version of an image that has booted to step 7. -/
def execFirmwareCommit (msg : List Byte) (s : State) : Host.Outcome State Fault Refusal :=
  .next (match Config.commitMessage msg with
    | none => s
    | some k =>
      if s.plat.bootst ≠ 7 then s
      else match firmwareOk (s.plat.firmware.get k) with
        | some v => { s with plat := { s.plat with rollback := max s.plat.rollback v } }
        | none => s)

/-! ## Resets (R366, R417, R484) -/

/-- Why a firmware image halts the boot (R366, R484): 0 where it does not. -/
def imageReason (image : List Byte) (rollback : Nat) : BitVec 8 :=
  match Config.imageVersion image with
  | none => 5
  | some v =>
    match Config.rsaOk image, Config.slhOk image with
    | false, false => 3
    | false, true => 1
    | true, false => 2
    | true, true => if v < rollback then 4 else 0

/-- The record of a boot (R366, R484): it halts at step 1 on the base die's firmware, at step 2 on the compute dies' or the pile logic's,
and at step 3 where training fails; the PCIe link is up at step 4. -/
def State.bootRecord (s : State) (images : RF 2 (List Byte)) : Word :=
  let bad (k : BitVec 2) : BitVec 8 := imageReason (images.get k) s.plat.rollback
  let halt (r : BitVec 8) (step : Word) : Word := (r.setWidth 64 <<< 8) ||| step
  if bad 0 ≠ 0 then halt (bad 0) 1
  else if bad 1 ≠ 0 then halt (bad 1) 2
  else if bad 2 ≠ 0 then halt (bad 2) 2
  else if !Config.trainingOk s.free then halt 6 3
  else 4

/-- The boot goes on behind a write of a register (R366): board management's of POS, MPER and MDATUM are step 5, the supervisor's of a
tenant block or a router register step 6, and the boot is complete once a tenant is enabled. -/
def State.bootNote (s : State) (off : Nat) : State :=
  let step := (s.plat.bootst &&& 0xF).toNat
  if step < 4 ∨ 7 ≤ step then s
  else if s.plat.everEnabled then { s with plat := { s.plat with bootst := 7 } }
  else if off = 0x000 ∨ off = 0x010 ∨ off = 0x030 then
    let b := if s.plat.board.contains off then s.plat.board else off :: s.plat.board
    { s with plat := { s.plat with board := b, bootst := if b.length = 3 ∧ step = 4 then 5 else s.plat.bootst } }
  else if step = 5 then { s with plat := { s.plat with bootst := 6 } }
  else s

/-- The images that a boot runs (R365, R485): a staged one that would not boot is discarded, and the running image stays. -/
def State.bootImages (s : State) : RF 2 (List Byte) :=
  Vector.zipWith (fun a b => if a = [] ∨ imageReason a s.plat.rollback ≠ 0 then b else a) s.plat.staged s.plat.firmware

/-- A reset of the package and its boot (R366): everything is as after reset but the contents of memory, what is built into the
chip, and what has left the package. -/
def State.resetPackage (s : State) (crash : List (BitVec 512)) : State :=
  let images := s.bootImages
  let p := s.plat
  let plat : Plat := {
    crash := crash, warm := !crash.isEmpty, bootst := s.bootRecord images, firmware := images, rollback := p.rollback
    msixSent := p.msixSent, spdmOut := p.spdmOut, stageFenced := p.stageFenced, faulty := p.faulty, spared := p.spared }
  let mem : MemSys := { mem := s.mem.mem, badGran := s.mem.badGran, fenced := s.mem.fenced }
  let fab : Fabric := { sent := s.fab.sent }
  { State.reset with mem := mem, fab := fab, plat := plat, cur := s.cur, curRouter := s.curRouter, agenda := s.agenda, free := s.free + 1 }

/-- PACKAGE_RESET (R366, R417): from power-on, with the crash registers cleared. -/
def execPackageReset (s : State) : Host.Outcome State Fault Refusal := .next (s.endRecords.resetPackage [])

/-- WARM_RESET (R417): the crash registers are kept, and WARM is set where they hold records. -/
def execWarmReset (s : State) : Host.Outcome State Fault Refusal := .next (s.endRecords.resetPackage s.endRecords.plat.crash)

/-! ## Writes of device registers (R8, R359) -/

/-- A write of a core's TRCTL (R403): recording that begins anew clears WRAP. -/
def Core.writeTrctl (c : Core) (v : Word) : Core :=
  let v := v &&& 0xFF0703
  { c with trCtl := v, trPos := if v.getLsbD 0 && !c.trCtl.getLsbD 0 then c.trPos &&& 0x7FFFFFFFFFFFFFFF else c.trPos }

/-- A write of a word of a park entry (R469): one of an empty entry is ignored. -/
def State.writePark (s : State) (r : RouterNo) (entry : BitVec 4) (o : Nat) (v : Word) : State :=
  let rt := s.routerAt r
  match rt.park.get entry with
  | none => s
  | some e =>
    let img := parkWrite e.bytes o v
    s.setRouterAt r { rt with park := rt.park.put entry (some { ParkEntry.ofImage img 256 with raw := img }) }

/-- A write of a register of tenant `t`'s block with a behaviour of its own (R360, R446). -/
def State.writeTenantReg (s : State) (t : BitVec 5) (o : Nat) (v : Word) : State :=
  let off := tenantBlock t + o
  if o = 0x000 then
    let was := (s.treg t 0).getLsbD 63
    let s := s.setReg off (v &&& devMask off)
    if v.getLsbD 63 then { s with plat := { s.plat with everEnabled := true } }
    else if was then s.cancelAll t else s
  else if o = 0x028 then s.cancelHandle t (v.setWidth 32)
  else if o = 0x070 then s.writePfres t v
  else if 0x200 ≤ o ∧ o < 0x300 ∧ o % 32 = 0x18 then
    (if s.plat.tdisp.get t = .unlocked then s.writeTail t (BitVec.ofNat 3 ((o - 0x200) / 32)) v else s)
  else if devMask off = 0 then s
  else s.setReg off (v &&& devMask off)

/-- A write of a register of router `r`'s block (R287, R469, R474). -/
def State.writeRouterReg (s : State) (r : RouterNo) (o : Nat) (v : Word) : State :=
  let off := routerBlock r + o
  if o < 0x2000 ∧ o % 0x100 = 0x50 then s.freeSlots r (BitVec.ofNat 5 (o / 0x100)) v
  else if o = 0x8010 then
    if v.getLsbD 9 then s.discardParked r (v.setWidth 4)
    else if v.getLsbD 8 then s.releaseParked r (v.setWidth 4) else s
  else if 0x8100 ≤ o ∧ o < 0x8100 + 0x180 * 16 ∧ (o - 0x8100) % 0x180 < 0x170 then
    s.writePark r (BitVec.ofNat 4 ((o - 0x8100) / 0x180)) ((o - 0x8100) % 0x180) v
  else if devMask off = 0 then s
  else s.setReg off (v &&& devMask off)

/-- An aligned 8-byte write of device register space (R359). -/
def State.devWrite (s : State) (off : Nat) (v : Word) : State :=
  if tdispLocked off ∧ s.plat.tdisp.get (tenantOfOffset off) ≠ .unlocked then s
  else if off = 0x000 then (s.setReg 0x000 (v &&& devMask 0x000)).bootNote 0x000
  else if off = 0x010 then ((s.setReg 0x010 (v &&& 1)).takeBound).bootNote 0x010
  else if off = 0x020 then s.writeTlbinvc v
  else if off = 0x028 then s.writePcap v
  else if off = 0x030 then (if s.plat.everEnabled then s else (s.setReg 0x030 (v &&& devMask 0x030)).bootNote 0x030)
  else if off = 0x140 then s.clearCrash v
  else if 0x1000000 ≤ off ∧ off < 0x1200000 then
    (s.writeTenantReg (BitVec.ofNat 5 ((off - 0x1000000) / 0x10000)) (off % 0x10000) v).bootNote off
  else if 0x3000000 ≤ off ∧ off < 0x3000000 + 8 * 224 then s.writeStgown ((off - 0x3000000) / 8) v
  else if 0x100000000 ≤ off ∧ off < 0x100000000 + 0x100000 * 230 then
    (s.writeRouterReg (BitVec.ofNat 8 ((off - 0x100000000) / 0x100000)) (off % 0x100000) v).bootNote off
  else if 0x200000000 ≤ off ∧ off < 0x200000000 + 0x1000 * 256 ∧ off % 0x1000 = 8 then
    let k := (off - 0x200000000) / 0x1000
    s.writeAtrev (BitVec.ofNat 5 k) (BitVec.ofNat 3 (k / 32)) v
  else if 0x300000000 ≤ off ∧ off < 0x300000000 + 0x10000 * 1792 ∧ off % 0x10000 = 0 then
    let n : CoreNo := BitVec.ofNat 11 ((off - 0x300000000) / 0x10000)
    s.setCoreAt n ((s.coreAt n).writeTrctl v)
  else if devMask off = 0 then s
  else s.setReg off (v &&& devMask off)

/-- A write of `size` bytes to device register space: any but one aligned 8-byte access is ignored (R359). -/
def State.devStoreReg (s : State) (off size : Nat) (v : Word) : State :=
  if size = 8 ∧ off % 8 = 0 then s.devWrite off v else s

/-- DEVICE_REGISTER_WRITE (R359), at a physical address. -/
def execDeviceRegisterWrite (addr : BitVec 52) (size : Nat) (v : Word) (s : State) : Host.Outcome State Fault Refusal :=
  .next (if s.plat.failStop ∨ addr.toNat < devBase then s else s.devStoreReg (addr.toNat - devBase) size v)

end Sys2Proof.Machine
end

