-- ==== Sys2Proof/Machine/GatedDrain.lean ====
section
/-! DEFINITION. Gated entries of committed sheets leave their core in program order (R199, R202, R257, R262, R311, R337-R339, R488). -/

namespace Sys2Proof.Machine

/-! ## What an entry waits for -/

/-- Whether what a release covers has been performed (R311): the core's reads and atomics below a number, its stream elements, and
the bound of R319. -/
def State.releaseReady (s : State) (n : CoreNo) (scope : BitVec 3) (no : Nat) : Bool :=
  let c := s.coreAt n
  c.outst.all (fun o => decide (no ≤ o.no) || (match o.awaits with | .ready _ _ => true | _ => false)) &&
  !s.mem.atomics.any (fun a => a.ofCore n fun k => decide (k < no)) && c.wbuf.all (fun w => w.written) &&
  !s.mem.ackOpen n &&
  (decide (scope.toNat < 3) || s.mem.mayRelease ((dieOf n).setWidth 4))

/-- Whether bytes that a core has written lie in its caches over a line, or on their way to the line's home (R294, R315). -/
def State.lineDirty (s : State) (n : CoreNo) (line : Nat) : Bool :=
  (s.coreAt n).l1.any (fun l => l.line == line && l.dirty != 0) ||
  (s.mem.dieCache.get (dieOf n)).any fun l => l.line == line && l.dirty != 0

/-- Writes a reserved value at its home and unlocks its line (R338, R339); none while another core holds the line, an earlier atomic of
the core to the line is on its way (R267), or earlier bytes of the core have still to reach the line (R315). -/
def State.writeReserved (s : State) (n : CoreNo) (pa : Nat) (bs : List Byte) : Option State :=
  let line := pa / 128
  let d := dieOf n
  if s.mem.lockedFor n line || s.mem.atomics.any (fun a => !a.ret && decide (a.pa / 128 = line) && a.ofCore n fun _ => true) ||
      s.lineDirty n line || (targetOf pa = .package && (s.mem.channel d (pileOf pa)).any fun x => x.touches line && x.ofCore n) then none
  else
    let s := if bs.isEmpty then s else s.withMem fun m => m.homeWrite (d.setWidth 4) pa bs
    some (s.withMem fun m => { m with locks := match m.locks.find? (fun (l : LineLock) => l.core == n && l.pa == pa) with
      | some l => m.locks.erase l
      | none => m.locks }.letIn)

/-! ## Sends (R199, R270, R488) -/

/-- A send whose read fails is dropped and recorded (R488); its local counter is not increased. -/
def State.dropSend (s : State) (n : CoreNo) (p : Packet) (which : Word) (va : Word) (pa : Nat) (vpc : Word) : State :=
  s.report { src := (s.failingStorage n pa).1, sev := 1, unit := (s.failingStorage n pa).2, ten := some p.ten, addr := va, synd := which, vpc := vpc,
             task := (s.coreAt n).creg crTASK }

/-- Reads physical runs for a send. -/
def State.sendRead (s : State) (n : CoreNo) (runs : List (Nat × Nat × Bool)) (va : Word) : Got :=
  s.readChunks n none (runs.length + 18) runs va

/-- A send leaves the core (R199, R270): its base-table entry and its payload are read, behind every element that the task has pushed
(R322, R326), and it joins the send queue. None while it waits. -/
def State.drainSend (s : State) (n : CoreNo) (p : Packet) (k : BitVec 5) (va : Word) (payload : List (Nat × Nat × Bool))
    (bt : Option (Word × Nat × Bool)) (vpc : Word) (slot : Nat) : Option State :=
  if 8 ≤ (s.coreAt n).sendQ.length ∨ (s.coreAt n).wbuf.any (fun w => !w.written) then none
  else
    let base : Got := match bt with
      | some (a, pa, nc) => s.sendRead n [(pa, 8, nc)] a
      | none => .got s []
    match base with
    | .held _ | .fault _ => none
    | .bad a pa => some (s.dropSend n p 3 a pa vpc)
    | .got s1 tb =>
      let p := if bt.isSome then p.rebased (BitVec.ofNat 64 (leNat tb)) else p
      match s1.sendRead n payload va with
      | .held _ | .fault _ => none
      | .bad a pa => some (s.dropSend n p 2 a pa vpc)
      | .got s2 bs =>
        let c := s2.coreAt n
        some (s2.setCoreAt n { c with sendQ := c.sendQ ++ [{ p := { p with payload := bs }, count := some k, slot := slot }] })

/-! ## Write streams (R83) -/

/-- Writes the bytes of an element over its physical runs; a run in device register space is a write of a register (R303, R359). -/
def State.storeElement (s : State) (n : CoreNo) : List (Nat × Nat × Bool) → List Byte → Option State
  | [], _ => some s
  | (pa, k, nc) :: r, bs =>
    match (if targetOf pa = .device then some (s.devStoreReg (pa - devBase) k (BitVec.ofNat 64 (leNat (bs.take k))))
      else storeRuns s n [(pa, k, nc)] bs) with
    | none => none
    | some t => State.storeElement t n r (bs.drop k)

/-- Writes a buffered element to its space; none while it must wait. -/
def State.writeElement (s : State) (n : CoreNo) (w : StreamWrite) : Option State :=
  match w.space, w.runs with
  | 0, runs => s.storeElement n runs w.bytes
  | 1, (a, _, _) :: _ => some (s.setCoreAt n ((s.coreAt n).scratchWrite a w.bytes))
  | _, (a, _, _) :: _ =>
    if s.stageBusyRange a w.bytes.length ∨ ¬ s.mayStage a w.bytes.length (stageKey n a) then none
    else some ((s.stageWrite a w.bytes).staged a w.bytes.length (stageKey n a))
  | _, [] => some s

/-- Marks the first unwritten element of a stream as written: in the free regime it leaves the buffer, in the pinned one its
place is free when it is due (R351). -/
def markWritten (q : BitVec 3) : List StreamWrite → List StreamWrite
  | [] => []
  | w :: r => if w.q = q ∧ !w.written then (if w.due = 0 then r else { w with written := true } :: r) else w :: markWritten q r

/-- Whether a core's held reads below a number touch bytes of a range: a later store of the task waits for them (R309). -/
def Core.readsAhead (c : Core) (no pa k : Nat) : Bool := c.outst.any fun o => decide (o.no < no) && match o.awaits with
  | .read q _ => q.pieces.any fun p => decide (p.pa < pa + k) && decide (pa < p.pa + p.n)
  | _ => false

/-- The elements of a core's write streams that stand before the first unwritten one of a stream. -/
def beforeWrite (q : BitVec 3) : List StreamWrite → List StreamWrite
  | [] => []
  | w :: r => if w.q = q ∧ !w.written then [] else w :: beforeWrite q r

/-- The element that a write stream's unit writes next: none while an earlier read of its core, or an earlier element of another stream,
touches its bytes (R83, R309, R322). -/
def Core.nextWrite (c : Core) (q : BitVec 3) : Option StreamWrite :=
  (c.wbuf.find? fun w => w.q == q && !w.written).filter fun w =>
    w.space != 0 || !w.runs.any fun r => c.readsAhead w.no r.1 r.2.1 || (beforeWrite q c.wbuf).any fun x => x.meets r.1 r.2.1

/-- STREAM_WRITE_ELEMENT (R83). -/
def execStreamWriteElement (n : CoreNo) (q : BitVec 3) (s : State) : Host.Outcome State Fault Refusal :=
  coreEvent n (fun s =>
    match (s.coreAt n).nextWrite q with
    | none => s
    | some w => match s.writeElement n w with
      | none => s
      | some t => t.setCoreAt n { t.coreAt n with wbuf := markWritten q (t.coreAt n).wbuf }) s

/-! ## The other entries -/

/-- Sets a byte barrier's action and clears its FAIL flag; at a count of 0 the action fires (R257, R467). -/
def State.setBarrier (s : State) (n : CoreNo) (i : BitVec 3) (action : Option (Word × BitVec 32 × BitVec 5)) : State :=
  let c := s.coreAt n
  let b := c.bb.get i
  let fires := b.pending = 0
  let b' : Barrier := { b with fail := false, code := 0, addr := 0, action := if fires then none else action }
  let s := s.setCoreAt n { c with bb := c.bb.put i b' }
  match action with
  | some (a, h, t) => if fires then { s with dist := { s.dist with wakes := s.dist.wakes ++ [⟨a, h, t⟩] } } else s
  | none => s

/-- A spawned record joins its launch's ready list (R46); a cancelled launch discards it at once. -/
def State.spawnRecord (s : State) (n : CoreNo) (a : Word) : State :=
  match (s.coreAt n).running with
  | none => s
  | some r => match s.findLaunch r.tenant r.handle with
    | none => s
    | some l =>
      if l.cancelled then s
      else
        let k : TaskMem := { rel := some (s.mem.vc.get ((dieOf n).setWidth 4)) }
        s.modLaunch l.order fun l => { l with live := l.live + 1, waiting := l.waiting ++ [.ready a false k] }

/-- Writes a trace mark (R194, R404). -/
def Core.markTrace (c : Core) (k : BitVec 8) (v cyc : Word) : Core :=
  let c := c.traceAdd 1 k v cyc
  if c.trCtl.getLsbD 10 ∧ (bits c.trCtl 16 8 : BitVec 8) = k then c.traceFreeze else c

/-- Whether a native sheet of a core that has not come to its commit point began at an address. -/
def Core.runsNative (c : Core) (entry : Word) : Bool :=
  c.sheets.toList.any fun (x : Option Sheet) => x.any fun sh => sh.bundle.isSome && sh.entry == entry

/-- The bundle cache of a core without the lines of a tenant's native sheets that hold a move group of a range (R262). The lines of a sheet
that is running serve it up to its next commit point. -/
def Core.dropBundles (c : Core) (t : BitVec 5) (va : Word) (len : Nat) : Core :=
  let hit (l : BundleLine) : Bool := l.tenant == t && decide (va.toNat < l.entry.toNat + 4 * l.words) &&
    decide (l.entry.toNat < va.toNat + len)
  let left := c.bcache.filter fun l => !(hit l && !c.runsNative l.entry)
  { c with bcache := left.map fun l => if hit l then { l with stale := true } else l }

/-- Invalidates code at a scope (R262): native lines of the core, of its cluster, its die or the package, and the sheets of its die or of
every die. -/
def State.dropCodeAt (s : State) (n : CoreNo) (va : Word) (len : Nat) (scope : BitVec 2) : State :=
  let t := (s.coreAt n).tenant
  let hit (k : Nat) : Bool := match scope with
    | 0 => k == n.toNat
    | 1 => k / 8 == n.toNat / 8
    | 2 => k / 224 == n.toNat / 224
    | _ => true
  let s := { s with cores := s.cores.map fun (kc : Nat × Core) => (kc.1, if hit kc.1 then kc.2.dropBundles t va len else kc.2) }
  if scope = 2 then s.dropCode t (dieOf n) va len
  else if scope = 3 then (List.range 8).foldl (fun s d => s.dropCode t (BitVec.ofNat 3 d) va len) s
  else s

/-- Whether a copy reads its source after everything that precedes it, as after a core-scope release (R255, R311): the core's stream
elements have been written, and its reads and atomics below the copy's number performed. -/
def State.copyReady (s : State) (n : CoreNo) (no : Nat) : Bool := s.releaseReady n 0 no

/-- Requests that a core sends after a release carry the clock that the release has raised (R316, R325). -/
def State.restamp (s : State) (n : CoreNo) (no : Nat) : State :=
  s.withMem fun m => { m with atomics := m.atomics.map fun a =>
    if a.core = n ∧ no ≤ a.no then { a with stamp := clockMax a.stamp (m.vc.get ((dieOf n).setWidth 4)) } else a }

/-- Queues a committed copy (R254): its barrier counts its bytes. -/
def State.queueCopy (s : State) (n : CoreNo) (e : CopyEntry) : State :=
  let c := s.coreAt n
  let c := if ccBbe e.cmd then c.barrierAdd (ccBb e.cmd) (ccLen e.cmd) else c
  let s := s.setCoreAt n { c with copyQ := c.copyQ ++ [{ e with seq := s.plat.copySeq }] }
  { s with plat := { s.plat with copySeq := s.plat.copySeq + 1 } }

/-- The effect of a gated entry as it leaves core `n`; none while it must wait. -/
def State.drainEntry (s : State) (n : CoreNo) : Gated → Option State
  | .store pa nc bs => storeBytes s n nc pa bs
  | .scratch m off bs =>
    if (s.granHolder n m (granRange off bs.length)).isSome ∨ ¬ s.mayMeet (.scratch m) (portKey n m) then none
    else some ((s.setCoreAt m ((s.coreAt m).scratchWrite off bs)).meetAt (.scratch m) (portKey n m))
  | .granules m first k full =>
    let gs := (List.range k).map (· + first)
    if (s.granHolder n m gs).isSome ∨ ¬ s.mayMeet (.scratch m) (portKey n m) then none
    else
      let c := s.coreAt m
      some ((s.setCoreAt m { c with emptyGran := if full then granFill c.emptyGran gs else granEmpty c.emptyGran gs }).meetAt (.scratch m)
        (portKey n m))
  | .tagw i v =>
    let c := s.coreAt n
    some (s.setCoreAt n { c with tagTable := c.tagTable.put i v, tagBad := c.tagBad.erase i.toNat })
  | .cmnt lines k l => some (lines.foldl (fun s x => cmntLine s n k l x) s)
  | .dev off size v => some (s.devStoreReg off size v)
  | .release scope no => if s.releaseReady n scope no then some ((releaseAt s n scope).restamp n no) else none
  | .counterAdd k v => if s.mayMeet (.counter n k) 0 then some (s.countAt n k v (some (s.mem.vc.get ((dieOf n).setWidth 4)))) else none
  | .counterSet k v => if s.mayMeet (.counter n k) 0 then some (s.setCoreAt n ((s.coreAt n).counterSet k v)) else none
  | .arm k slot a => if s.mayMeet (.counter n k) 0 then some (s.armAt n k slot a) else none
  | .send p k va payload bt vpc slot => s.drainSend n p k va payload bt vpc slot
  | .copy e => if s.copyReady n e.no then some (s.queueCopy n e) else none
  | .barrier i a => some (s.setBarrier n i a)
  | .atomic pa op z b c no ret m => if ret then none else some (s.sendAtomic n (s.coreAt n).tenant pa op z b c no false m)
  | .resv pa bs => s.writeReserved n pa bs
  | .spawn a => some (s.spawnRecord n a)
  | .mark k v => some (s.setCoreAt n ((s.coreAt n).markTrace k v (s.cyc (s.coreAt n))))
  | .push w =>
    let c := s.coreAt n
    if streamDepth ≤ (c.wbuf.filter fun x => x.q == w.q).length then none else some (s.setCoreAt n { c with wbuf := c.wbuf ++ [w] })
  | .streams => if (s.coreAt n).wbuf.any fun w => !w.written then none else some s
  | .streamBind _ => some s
  | .streamFree q => if (s.coreAt n).wbuf.any fun w => w.q == q && !w.written then none else some s
  | .icinv va len scope => some (s.dropCodeAt n va len scope)
  | .tculk va len => some (s.unlockAtlas (s.coreAt n).tenant (dieOf n) fun e => e.meets va len)

/-- Whether a gated entry must wait for what precedes it at its bytes in the program order of its core: a store for held reads, and any
access of memory for elements of write streams (R309, R322). -/
def Core.early (c : Core) : Gated → Bool
  | .store pa _ bs => c.readsAhead c.ops pa bs.length || c.wbuf.any fun w => w.meets pa bs.length
  | .atomic pa op z _ _ _ _ _ => c.wbuf.any fun w => w.meets pa (atomicBytes op z)
  | .resv pa bs => c.wbuf.any fun w => w.meets pa bs.length
  | .cmnt ls _ _ => ls.any fun x => c.wbuf.any fun w => w.meets (128 * x) 128
  | .dev off k _ => c.readsAhead c.ops (devBase + off) k || c.wbuf.any fun w => w.meets (devBase + off) k
  | _ => false

/-- The physical runs that a gated send reads. -/
def Gated.reads : Gated → List (Nat × Nat × Bool)
  | .send _ _ _ runs bt _ _ => (match bt with | some (_, pa, nc) => [(pa, 8, nc)] | none => []) ++ runs
  | _ => []

/-- The oldest gated entry of a core's committed sheets takes effect, unless it must wait. The value of a reservation first has the
core's own bytes beside it written back (R315, R338). -/
def State.drainOne (s : State) (n : CoreNo) : State :=
  let c := s.coreAt n
  match c.committed with
  | [] => s
  | (_, g) :: r =>
    let s := match g with
      | .resv pa _ => if !s.plat.failStop && !c.early g && s.lineDirty n (pa / 128) then cmntLine s n 2 2 (pa / 128) else s
      | _ => s
    let c := s.coreAt n
    if s.plat.failStop ∨ c.early g then s
    else ((s.setCoreAt n { c with committed := r }).drainEntry n g).getD (s.noteHolds n none g.reads)

/-- GATED_ENTRY_DRAIN (R339). -/
def execGatedEntryDrain (n : CoreNo) (s : State) : Host.Outcome State Fault Refusal :=
  if coreOk n then .next (s.drainOne n) else .fault .illFormed

/-- What a pinned task has committed leaves its core in the cycle of the commit, as far as nothing holds it (R355); `fuel` bounds how many
entries. -/
def State.drainPinned (s : State) (n : CoreNo) : Nat → State
  | 0 => s
  | fuel + 1 =>
    let t := s.drainOne n
    if (t.coreAt n).committed.length < (s.coreAt n).committed.length then State.drainPinned t n fuel else t

end Sys2Proof.Machine
end

