-- ==== Sys2Proof/Machine/Clock.lean ====
section
/-! DEFINITION. A core cycle passes (R69, R190-R192, R346, R350-R354): frozen cores stand still, meridian time advances, results that
are due land, and the waits on time end. -/

namespace Sys2Proof.Machine

/-- Lands the results that are due: fixed-latency ones, and padded ones that have arrived (R77, R352). -/
def Core.landDue (c : Core) (now : Nat) : Core :=
  let ripe (o : Outst) : Bool := match o.awaits with | .ready _ (some d) => decide (d ≤ now) | _ => false
  let p := c.pend.filter fun x => decide (x.due ≤ now)
  let o := c.outst.filter ripe
  let c := { c with pend := c.pend.filter (fun x => !decide (x.due ≤ now)), outst := c.outst.filter fun x => !ripe x }
  let c := p.foldl Core.landPend c
  o.foldl (fun c x => match x.awaits with | .ready v _ => c.land x v | _ => c) c

/-- Lands what is due at core `n`. -/
def State.landed (s : State) (n : CoreNo) : State := s.setCoreAt n ((s.coreAt n).landDue (s.nowOf n))

/-- Whether the next bundle of a core misses its bundle cache (R353). -/
def State.missesBundle (s : State) (n : CoreNo) : Bool :=
  s.canIssue n && !(s.coreAt n).timeHeld && match s.nativeSheet n with
  | some (im, _, k) => (s.bundleWords n im k).isNone
  | none => false

/-- Whether a core stands still in the cycle at hand (R352, R353): on a late result or copy, without its sheet or its bundle, on what a
discarded sheet waits for, or where it has found its bundle held by something late and still is. -/
def State.frozenNow (s : State) (n : CoreNo) : Bool :=
  let c := s.coreAt n
  c.running.isSome && c.pin &&
    (s.mustFreeze n || s.fillLate n || (s.awaitsSheet n && !c.preempt) || s.missesBundle n ||
      (!s.waitMet n && !c.waitOn.any (s.comesInTime n)) || (c.stalled && !c.timeHeld && (s.nextHeld n).any (s.freezes n)))

/-- The TINFO of an overrun that a freeze leads to: bit 63, and the time (R481). -/
def lateInfo (t : Word) : Word := 0x8000000000000000 ||| (t &&& 0x7FFFFFFFFFFFFFFF)

/-- What holds a core's next bundle as the cycle at hand ends: a freeze that passes its time has become an overrun, and a pinned
bundle whose boundary cycle ends waits for its results (R354). -/
def Core.endHold (c : Core) (frozen : Bool) : NextHold :=
  match c.hold with
  | .issueAt t => if frozen ∧ t.toNat ≤ (c.creg crSFC).toNat then .overrun 1 (lateInfo t) else c.hold
  | .boundary code info => if frozen then .overrun code info else .settle
  | h => h

/-- The cycle at hand ends at a core (R350, R352): a frozen core's domain does not advance, so that the flags that have landed are still
those of its cycle (R211), and the freeze sets LATE; so does a wait for fixed-latency results at a slot boundary (R354). -/
def State.endCycle (s : State) (n : CoreNo) : State :=
  let s := if (s.coreAt n).pin then (s.drainPinned n (s.coreAt n).committed.length).markFill n else s
  let f := s.frozenNow n
  let c := s.coreAt n
  let settling : Bool := match c.hold with | .boundary _ _ => !c.pend.isEmpty | _ => false
  let late := f || settling
  let s := s.watch n
  let c := { (s.coreAt n).traceFlush with
    hold := c.endHold f, frozen := if f then c.frozen + 1 else c.frozen, landedFlags := if f then c.landedFlags else 0 }
  s.setCoreAt n (if late then c.setLate else c)

/-- Time passes (R16, R346). -/
def State.advance (s : State) : State :=
  { s with plat := { s.plat with cycle := s.plat.cycle + 1, mtimeMicro := s.plat.mtimeMicro + s.cycleMicro } }

/-- The slot boundaries that the cycle at hand is the first after (R346). -/
def State.newSlots (s : State) : Nat := s.mtime / s.slotLen - (s.plat.mtimeMicro - s.cycleMicro) / 1000000 / s.slotLen

/-- The waits on slot boundaries go on (R191, R192): at its boundary a frmwait sets SFC to 0. -/
def State.boundaryHold (s : State) (c : Core) : Core :=
  match c.hold with
  | .frmWait left =>
    let k := s.newSlots
    if left ≤ k then { c.setCreg crSFC 0 with hold := if c.pin then .boundary 2 (lateInfo 0) else .none }
    else { c with hold := .frmWait (left - k) }
  | .timeAt t =>
    if t.toNat ≤ s.slotNow * s.slotLen then { c with hold := if c.pin then .boundary 3 (lateInfo t) else .none } else c
  | _ => c

/-- A time slice runs down on a task of the free regime (R59). -/
def Core.slice (c : Core) : Core :=
  if c.sliceLeft = 0 ∨ c.pin then c
  else { c with sliceLeft := c.sliceLeft - 1, sliceExpired := c.sliceExpired || c.sliceLeft = 1 }

/-- A new cycle begins at a core: SFC counts, waits on time end, what is due lands, written elements leave their places, and pinned
copies complete. -/
def State.beginCycle (s : State) (n : CoreNo) : State :=
  let c := s.coreAt n
  let c := if c.running.isSome then (s.boundaryHold (c.setCreg crSFC (c.creg crSFC + 1))).slice else c
  let now := s.plat.cycle - c.frozen
  let c := c.landDue now
  let c := { c with wbuf := c.wbuf.filter fun w => !(w.written && decide (w.due ≤ now)) }
  let s := ((s.setCoreAt n c).finishCopies n 32).endReset n
  if s.atSlot then s.injectPinned n else s

/-- The cores of the state, by number. -/
def State.coreNos (s : State) : List CoreNo := s.cores.map fun kc => BitVec.ofNat 11 kc.1

/-- What one cycle keeps of its accesses and cancellations ends with it, its records are written (R405, R418), and writes that a line lock
has held back go on where the lock is over (R42, R338). -/
def State.newCycle (s : State) : State :=
  let s := if s.mem.rawMoved.isEmpty then s else s.reportRaw
  let s := if s.mem.softRead.isEmpty then s else s.reportSoft
  let s := s.endRecords
  let mem := if s.mem.baseQ.isEmpty && s.mem.lockQ.isEmpty then s.mem else s.mem.afterLocks
  let mem := if mem.holds.isEmpty then mem else { mem with holds := mem.holds.filter fun h => mem.stuck h.clock (h.pa / 128) }
  let keep := s.plat.cancels.filter fun x => s.dist.pending.any fun p => p.1 == x.1
  let s := { s with mem := mem, plat := { s.plat with met := [] } }
  { s.showPending s.dist.pending.length with plat := { s.plat with cancels := keep } }

/-- Tasks that have come to wait with a fenced core as their only home are lost (R402, R414). -/
def State.homeless (s : State) (ns : List CoreNo) : State := (ns.filter fun n => (s.coreAt n).fenced).foldl State.loseHomes s

/-- A core cycle passes over the package. -/
def State.tick (s : State) : State :=
  if s.plat.failStop then s.advance
  else
    let ns := s.coreNos
    let s := (State.deliverRipe 0 s.deliverySteps s).endSlots.newCycle
    let s := ((ns.foldl (fun s n => (s.landed n).endCycle n) s).advance.unpinned).homeless ns
    ns.foldl (fun s n => s.beginCycle n) s

end Sys2Proof.Machine
end

