-- ==== Sys2Proof/Machine/Agents.lean ====
section
/-! DEFINITION. What each agent of the package does next: a core fetches and decodes its next move word or bundle, a router its next
transit instruction, errors strike, and the host acts (R139, R150, R182, R274, R333-R335, R391-R396, R439-R443, R482). -/

namespace Sys2Proof.Machine

/-- What an act comes to: an instruction to execute in a state, or a state in which the act is done. -/
inductive Todo where
  | run (i : Instr) (s : State)
  | done (s : State)
  deriving Repr

/-! ## A core opens a sheet (R333-R335, R440) -/

/-- The text of a native sheet: its groups as they stand in memory; none where they cannot all be fetched. -/
def State.nativeText (s : State) (n : CoreNo) (o : CodeObj) (e : SheetMapEntry) (va : Word) : Option (List (BitVec 32)) :=
  let ws := (s.fetchWords n (min (o.words - (va.toNat - o.text.toNat) / 4) 24576) va).1
  (skipGroups ws (ws.length + 1) 0 e.ngrp).map fun k => ws.take k

/-- The native sheet that begins at a core's virtual PC, with its text (R150, R334). A sheet with a breakpoint in it runs as text. -/
def State.nativeEntry (s : State) (n : CoreNo) (o : CodeObj) : Option (SheetMapEntry × List (BitVec 32)) :=
  let c := s.coreAt n
  match (s.imageAt n c.ctx.pc).bind fun im => im.sheetAt c.ctx.pc with
  | none => none
  | some e => match s.nativeText n o e c.ctx.pc with
    | none => none
    | some ws => if c.breakIn c.ctx.pc ws.length then none else some (e, ws)

/-- A fault point is reached (R440): its condition is raised, and one that may pass is taken away. A breakpoint on the group comes before
it (R434). -/
def State.raisePoint (s : State) (n : CoreNo) (p : FaultPoint) : State :=
  let c := s.coreAt n
  let t : TrapInfo := { sup := supLevel p.cls p.code, cls := p.cls, code := p.code, tvpc := c.ctx.pc, tslot := 0, tinfo := p.tinfo,
                        tmove := p.tmove, time := s.mtime }
  let s := s.setCoreAt n (c.stopWith (c.breakpoint.getD t))
  if p.keep || c.breakpoint.isSome then s else { s with plat := { s.plat with faultPoints := s.plat.faultPoints.erase p } }

/-- A trap at a core's virtual PC that no slot raises. -/
def Core.trapHere (c : Core) (cls : BitVec 8) (code : BitVec 16) (tinfo : Word) (move : Nat) : Core :=
  c.stopWith { sup := supLevel cls code, cls := cls, code := code, tvpc := c.ctx.pc, tslot := 0, tinfo := tinfo,
               tmove := tmoveOf 15 move }

/-- A trap that a group of the open sheet meets before it is read: the sheet is replayed first, unless it runs by groups (R341). A
breakpoint on the group comes before it (R434). -/
def State.stopHere (s : State) (n : CoreNo) (cls : BitVec 8) (code : BitVec 16) (tvpc tinfo tmove : Word) : State :=
  s.stopGroup n ((s.coreAt n).breakpoint.getD
    { sup := supLevel cls code, cls := cls, code := code, tvpc := tvpc, tslot := 0, tinfo := tinfo, tmove := tmove })

/-- A core comes to a fault point that its open sheet did not end at: the groups before it commit, and the point is raised with the state
before its group (R440). -/
def State.meetPoint (s : State) (n : CoreNo) (p : FaultPoint) : State := (s.putPoint { p with va := (s.coreAt n).ctx.pc }).commitPoint n

/-- The next group of an open sheet whose text ended inside a region is fetched anew and checked as the Cartographer checks it (R341,
R439, R443); one that still cannot be had faults, and one that is malformed is a fault point (R440). -/
def State.extendSheet (s : State) (n : CoreNo) : State :=
  let c := s.coreAt n
  match c.sheet, s.objAt c.tenant c.ctx.pc with
  | some sh, some o =>
    let off := (c.ctx.pc.toNat - o.text.toNat) / 4
    let r := s.regionAt n o off
    match r.runs.find? fun e => r.start + e.1 == off with
    | some (at_, k, _, _) => s.setCoreAt n (c.setSheet (some { sh with text := sh.text ++ (r.text.drop at_).take k }))
    | none => match s.regionPoint n o r with
      | some p => if p.cls = 0x20 then s.meetPoint n p else s.stopHere n p.cls p.code c.ctx.pc p.tinfo p.tmove
      | none => s.meetPoint n (s.pointAt n o off 0x20 1 (tmoveOf 15 0xFF) c.ctx.pc true)
  | _, _ => s

/-- A core at a sheet entry finds its code (R334): a native sheet, a fault point, or a sheet of the atlas; it waits for a translation
where there is none, and control that stands outside every object faults as a transfer would (R137, R429). -/
def State.openNext (s : State) (n : CoreNo) : State :=
  let c := s.coreAt n
  let a := c.ctx.pc
  match s.objAt c.tenant a with
  | none => s.setCoreAt n (match c.breakpoint with | some t => c.stopWith t | none => c.trapHere 0x15 1 a 0xFF)
  | some o =>
    let fresh := s.regionStart c.tenant a
    match s.nativeEntry n o with
    | some (e, ws) => s.setCoreAt n (c.openSheet ws (some e.nent) fresh)
    | none => match s.pointFor n a with
      | some p => s.raisePoint n p
      | none => match s.atlasAt n o a with
        | some e => (s.enterAtlas (dieOf n) e).setCoreAt n (c.openSheet e.text none fresh)
        | none => s.setCoreAt n { c with holding := false }

/-! ## A core's next act -/

/-- Whether a core waits at its boundary for the save of a pre-emption (R60, R86). -/
def Core.waitsSave (c : Core) : Bool := c.preempt && c.depth == 0 && c.mayPart && (c.ctx.loops.isEmpty || c.loopSave || c.saving)

/-- The bytes of the next move word of an open text sheet, its immediate words with it (R139). -/
def Core.nextBytes (c : Core) (sh : Sheet) : List Byte :=
  ((sh.text.drop (c.sheetOff sh + (c.group.map GMove.words).sum)).take 3).flatMap fun w => leBytes 4 w.toNat

/-- A malformed move word is met in text that no Cartographer has checked (R141, R439). -/
def State.malformed (s : State) (n : CoreNo) : State :=
  let c := s.coreAt n
  let k := (c.group.map GMove.words).sum
  s.stopHere n 0x20 1 c.ctx.pc (c.ctx.pc + BitVec.ofNat 64 (4 * k)) (tmoveOf 15 c.group.length)

/-- A core issues: the next bundle of its native sheet, or the next move of its text. -/
def State.issueAct (s : State) (n : CoreNo) (sh : Sheet) : Todo :=
  let c := s.coreAt n
  if sh.bundle.isSome then .run (.bundleIssue n) s
  else if c.group.isEmpty ∧ sh.text.length ≤ c.sheetOff sh then .done (s.extendSheet n)
  else match decodeMove (c.nextBytes sh) with
    | .ok (i, _) => .run i { s with cur := n }
    | .error _ => .done (s.malformed n)

/-- What a core does next. -/
def State.coreAct (s : State) (n : CoreNo) : Todo :=
  if !coreOk n || !s.alive n then .done s
  else
    let s := s.landed n
    let c := s.coreAt n
    if c.leaving ≠ .none then .done (s.leaveStep n)
    else match c.pendTrap with
      | some t => .run (if s.faultHeld n t then .pageFaultHold n else .trapEntry n) s
      | none =>
        if s.syncNow c && c.sheet.isNone then .done (s.setCoreAt n { c with pendTrap := some (syncTrap s c c.syncDue), syncDue := 0 })
        else if !s.canIssue n then .done s
        else match c.sheet with
          | some sh => s.issueAct n sh
          | none =>
            if c.waitsSave ∨ ¬ s.waitMet n then .done s
            else .done ((s.setCoreAt n { c with waitOn := none }).openNext n)

/-! ## A router's next act (R274) -/

/-- Whether a comb of the open run of a router comes in the cycle in which its slot's deadline has already released it: it acts in the
next cycle (R284, R291). -/
def State.combLate (s : State) (r : RouterNo) (run : Run) (i : Instr) : Bool :=
  match i with
  | .comb _ => !s.mayMeet (.slot r (run.p.tag.setWidth 6)) 0
  | _ => false

/-- What a router does next: the next instruction of its open run. -/
def State.routerAct (s : State) (r : RouterNo) : Todo :=
  if !routerOk r || s.plat.failStop then .done s
  else match (s.routerAt r).run with
    | none => .done s
    | some run => match run.fetch with
      | .ok i => if s.combLate r run i then .done s else .run i { s with curRouter := r }
      | .error e => .done ((s.setRun r none).parkAt r run.p run.adir true e)

/-! ## Errors (R391-R396, R462) -/

/-- A number added to a list once. -/
def addOnce (k : Nat) (l : List Nat) : List Nat := if l.contains k then l else k :: l

/-- An uncorrectable error in a cached line (R394, R395): a clean line is dropped, to be fetched again; in a dirty one the 64-bit
word is lost. -/
def hitLine (i : Nat) (ls : List Line) (line : Nat) : List Line :=
  match findLine line ls with
  | none => ls
  | some l => if l.dirty = 0 then dropLine line ls else putLine { l with bad := l.bad ||| wordMask (i / 8) } ls

/-- Whether a cached line is clean. -/
def cleanLine (ls : List Line) (line : Nat) : Bool := match findLine line ls with | some l => l.dirty = 0 | none => false

/-- A core's or a die's cache with its lines changed. -/
def State.onCache (s : State) (lv : CacheLevel) (f : List Line → List Line) : State :=
  match lv with
  | .l1 n => s.setCoreAt n { s.coreAt n with l1 := f (s.coreAt n).l1 }
  | .die d => s.withMem fun m => { m with dieCache := m.dieCache.put d (f (m.dieCache.get d)) }

/-- The lines of a cache. -/
def State.cacheLines (s : State) : CacheLevel → List Line
  | .l1 n => (s.coreAt n).l1
  | .die d => s.mem.dieCache.get d

/-- An uncorrectable error in a cache (R394, R395): a clean line is dropped, and recorded as corrected. -/
def State.upsetCache (s : State) (lv : CacheLevel) (line : Nat) (i : BitVec 7) : State :=
  let t := s.onCache lv fun ls => hitLine i.toNat ls line
  if cleanLine (s.cacheLines lv) line then
    t.report { src := (cacheSrc lv).1, sev := 0, unit := (cacheSrc lv).2, addr := BitVec.ofNat 64 (128 * line) }
  else t

/-- An uncorrectable tag drops its line, dirty or clean (R394). -/
def State.upsetTag (s : State) (lv : CacheLevel) (line : Nat) : State :=
  if (findLine line (s.cacheLines lv)).isNone then s
  else (s.onCache lv (dropLine line)).report
    { src := (cacheSrc lv).1, sev := 0, unit := (cacheSrc lv).2, addr := BitVec.ofNat 64 (128 * line) }

/-- A datapath's check fails in a slot of a core's next bundle (R392 CODE 0x0004, R395): the bundle finds it, if it executes there, among
its other conditions (R434, R435). In text it fails in the next group, however often that is replayed; a native bundle names no group, and
its replay finds the check in the first group that executes in the slot (log entry 73). -/
def State.upsetCheck (s : State) (n : CoreNo) (slot : BitVec 3) : State :=
  let c := s.coreAt n
  match c.sheet with
  | some sh =>
    if s.canIssue n then s.setCoreAt n { c with check := some (slot, if sh.bundle.isSome then none else some c.ctx.pc) } else s
  | none => s

/-- An entry of a core's gated store buffer, or its shadow set, is uncorrectable: the commit point of its sheet finds it (R394). -/
def State.upsetGated (s : State) (n : CoreNo) (buffer : Bool) : State :=
  let c := s.coreAt n
  match c.sheet with
  | none => s
  | some sh => if buffer && sh.gated.isEmpty then s else s.setCoreAt n (c.setSheet (some { sh with spoiled := true }))

/-- Whether a control register has storage of its own that a check covers (R69, R393): MSTAT's is the matrix state's. -/
def crStored : Dst → Bool
  | .cr i => i.toNat ≤ 0x16 || i == 0x41
  | _ => true

/-- The storage of a register is uncorrectable: of a scalar, a vector, a predicate, a mask, a loop or a control register, but for the two
that are constants. -/
def State.upsetReg (s : State) (n : CoreNo) (d : Dst) : State :=
  if (regForm d).isNone ∨ d = .s 0 ∨ d = .p 0 ∨ ¬ crStored d then s
  else
    let c := s.coreAt n
    s.setCoreAt n { c with tags := { reg := d, addr := 0, own := true } :: c.tags.filter fun t => t.reg != d }

/-- A producer's value that has still to land is uncorrectable (R396): it lands tagged. -/
def State.upsetLanding (s : State) (n : CoreNo) (i : Nat) : State :=
  let c := s.coreAt n
  match c.outst[i]? with
  | some o => match o.awaits with
    | .ready _ _ => s.setCoreAt n { c with outst := c.outst.set i { o with bad := true } }
    | _ => s
  | none => s

/-- A bundle that fails its parity is fetched again (R394). -/
def State.upsetBundle (s : State) (n : CoreNo) (i : Nat) : State :=
  let c := s.coreAt n
  if i < c.bcache.length then
    (s.setCoreAt n { c with bcache := c.bcache.eraseIdx i }).report { src := 0x08, sev := 0, unit := n.setWidth 16, addr := BitVec.ofNat 64 i }
  else s

/-- A sheet of an atlas that fails its parity is translated again (R394). -/
def State.upsetAtlas (s : State) (d : BitVec 3) (i : Nat) : State :=
  let l := s.plat.atlas.get d
  if i < l.length then
    { s with plat := { s.plat with atlas := s.plat.atlas.put d (l.eraseIdx i) } }.report
      { src := 0x12, sev := 0, unit := d.setWidth 16, addr := BitVec.ofNat 64 i }
  else s

/-- An entry of a core's copy queue is uncorrectable (R393): its copy fails as for uncorrectable data (R465; DESIGN CHOICE, log entry 76). -/
def State.upsetCopy (s : State) (n : CoreNo) (i : Nat) : State :=
  match (s.coreAt n).copyQ[i]? with
  | some e => s.copyFails n i e (e.spoiled 0x07 (n.setWidth 16) (ccSrc e.cmd) (BitVec.ofNat 64 i))
  | none => s

/-- A combine slot or a park entry is uncorrectable (R393): it is freed, its packets are gone, and a record names it (DESIGN CHOICE, log
entry 76). -/
def State.upsetSlot (s : State) (r : RouterNo) (i : BitVec 6) : State :=
  let rt := s.routerAt r
  if (rt.slots.get i).st = .free then s
  else (s.setRouterAt r { rt with slots := rt.slots.put i {} }).report { src := 0x22, sev := 2, unit := r.setWidth 16, addr := i.setWidth 64 }

/-- A park entry, likewise. -/
def State.upsetPark (s : State) (r : RouterNo) (i : BitVec 4) : State :=
  if ((s.routerAt r).park.get i).isNone then s
  else (s.discardParked r i).report { src := 0x22, sev := 2, unit := r.setWidth 16, addr := i.setWidth 64 }

/-- Whether an error strikes a fenced structure, which is not used (R418). -/
def State.upsetFenced (s : State) (u : Upset) : Bool :=
  let core (n : CoreNo) : Bool := (s.coreAt n).fenced
  match u with
  | .mem b | .soft b => (List.range 4).any fun k => s.mem.fenced.contains (4 * b + k)
  | .staging w => s.plat.stageFenced.contains w
  | .waypoint r w => (s.routerAt r).fencedWords.contains w
  | .scratch n _ | .reg n _ | .matrix n _ | .check n _ | .landing n _ | .gated n | .shadow n | .bundle n _ | .tagEntry n _ | .fullBit n _
  | .copyEntry n _ | .cache (.l1 n) _ _ | .cacheTag (.l1 n) _ => core n
  | .cache (.die _) _ _ | .cacheTag (.die _) _ | .atlas _ _ | .combSlot _ _ | .parkEntry _ _ => false
  | .corrected src unit addr => s.fencedAt { src := src, unit := unit, addr := addr }

/-- An error strikes. -/
def State.upsetBy (s : State) (u : Upset) : State :=
  if s.upsetFenced u then s else
  match u with
  | .mem b =>
    if targetOf (64 * b) ≠ .device ∧ targetOf (64 * b) ≠ .unmapped then
      s.withMem fun m => { m with badGran := spoilGran m.badGran (64 * b) 64, soft := m.soft.filter fun x => x != b }
    else s
  | .soft b =>
    if (targetOf (64 * b) = .package ∨ targetOf (64 * b) = .tier2) ∧ ¬ s.mem.badGran.contains (4 * b) then
      s.withMem fun m => { m with soft := addOnce b m.soft }
    else s
  | .scratch n w => if coreOk n ∧ w < 65536 then s.setCoreAt n { s.coreAt n with scratchBad := addOnce w (s.coreAt n).scratchBad } else s
  | .staging w => { s with plat := { s.plat with stageBad := addOnce w s.plat.stageBad } }
  | .waypoint r w =>
    if routerOk r ∧ w < 16384 then s.setRouterAt r { s.routerAt r with badWords := addOnce w (s.routerAt r).badWords } else s
  | .cache lv line i => s.upsetCache lv line i
  | .cacheTag lv line => s.upsetTag lv line
  | .reg n d => if coreOk n then s.upsetReg n d else s
  | .matrix n i => if coreOk n ∧ i < 37 then s.setCoreAt n { s.coreAt n with mxBad := addOnce i (s.coreAt n).mxBad } else s
  | .check n slot => s.upsetCheck n slot
  | .landing n i => s.upsetLanding n i
  | .gated n => s.upsetGated n true
  | .shadow n => s.upsetGated n false
  | .bundle n i => s.upsetBundle n i
  | .atlas d i => s.upsetAtlas d i
  | .tagEntry n i => if coreOk n then s.setCoreAt n { s.coreAt n with tagBad := addOnce i.toNat (s.coreAt n).tagBad } else s
  | .fullBit n g =>
    if coreOk n ∧ g < 65536 / 2 then
      s.setCoreAt n { s.coreAt n with scratchBad := addOnce (2 * g) (addOnce (2 * g + 1) (s.coreAt n).scratchBad) }
    else s
  | .copyEntry n i => if coreOk n then s.upsetCopy n i else s
  | .combSlot r i => if routerOk r then s.upsetSlot r i else s
  | .parkEntry r i => if routerOk r then s.upsetPark r i else s
  | .corrected src unit addr => s.report { src := src, sev := 0, unit := unit, addr := addr }

/-! ## The host (R321, R357, R151, R152) -/

/-- The host writes a byte range of memory or of the device's registers. -/
def State.hostWrite (s : State) (pa : Nat) (bs : List Byte) : State :=
  if targetOf pa = .device then s.devStoreReg (pa - devBase) bs.length (BitVec.ofNat 64 (leNat bs))
  else s.withMem fun m => m.leave 8 pa bs

/-- The host writes an MSI-X table entry: a message that has pended is sent once its entry is unmasked (R357; log entry 5). -/
def State.hostMsix (s : State) (v : Nat) (e : BitVec 128) : State :=
  if 2048 ≤ v then s
  else
    let p := { s.plat with msixTable := Tbl.put v e s.plat.msixTable }
    if e.getLsbD 96 ∨ ¬ p.msixPending.contains v then { s with plat := p }
    else { s with plat := { p with msixPending := p.msixPending.erase v, msixSent := p.msixSent ++ [v] } }

/-- A host write within BAR2 (R357): the tail registers of the doorbell pages and the MSI-X table; anything else is ignored. A locked
tenant's tails take writes on its own stream alone (R358). -/
def State.writeBar2 (s : State) (stream : Option (BitVec 5)) (off : Nat) (bs : List Byte) : State :=
  let t : BitVec 5 := BitVec.ofNat 5 (off / 4096)
  let o := off % 4096
  let n := bs.length
  if off < 0x20000 then
    if 0x40 ≤ o ∧ o < 0x80 ∧ off % 8 = 0 ∧ n = 8 ∧ (s.plat.tdisp.get t = .unlocked ∨ stream = some t) then
      s.writeTail t (BitVec.ofNat 3 ((o - 0x40) / 8)) (BitVec.ofNat 64 (leNat bs))
    else s
  else if off < 0x28000 ∧ (n = 4 ∨ n = 8) ∧ off % n = 0 then
    let v := (off - 0x20000) / 16
    let old := leBytes 16 (s.msixEntry v).toNat
    s.hostMsix v (BitVec.ofNat 128 (leNat (old.take (off % 16) ++ bs ++ old.drop (off % 16 + n))))
  else s

/-- A host write within BAR0 (R357): of device register space; a tail register takes writes on its tenant's stream. -/
def State.writeBar0 (s : State) (stream : Option (BitVec 5)) (off : Nat) (bs : List Byte) : State :=
  let v : Word := BitVec.ofNat 64 (leNat bs)
  let o := off % 0x10000
  let t := tenantOfOffset off
  if 0x1000000 ≤ off ∧ off < 0x1200000 ∧ 0x200 ≤ o ∧ o < 0x300 ∧ o % 32 = 0x18 ∧ bs.length = 8 ∧ stream = some t then
    s.writeTail t (BitVec.ofNat 3 ((o - 0x200) / 32)) v
  else if off < 2 ^ 34 then s.devStoreReg off bs.length v
  else s

/-- A byte of BAR2 (R357): heads and tails, the MSI-X table and its pending bits; everything else reads 0. -/
def State.bar2Byte (s : State) (off : Nat) : Byte :=
  let t : BitVec 5 := BitVec.ofNat 5 (off / 4096)
  let o := off % 4096
  if off < 0x20000 then
    if o < 0x40 then byteOf (s.treg t (0x210 + 32 * (o / 8))) (o % 8)
    else if o < 0x80 then byteOf (s.treg t (0x218 + 32 * ((o - 0x40) / 8))) (o % 8)
    else 0
  else if off < 0x28000 then byteOf (s.msixEntry ((off - 0x20000) / 16)) (off % 16)
  else if off < 0x28100 then
    BitVec.ofNat 8 ((List.range 8).foldl (fun k i => if s.plat.msixPending.contains (8 * (off - 0x28000) + i) then k + 2 ^ i else k) 0)
  else 0

/-- What a host read of a BAR returns (R357, R359): in fail-stop BAR0 keeps PKGERR and CRASH alone, and any other access is an
Unsupported Request (R416). -/
def State.barRead (s : State) (two : Bool) (off n : Nat) : Option (List Byte) :=
  if s.plat.failStop && (two || !((0x138 ≤ off && off + n ≤ 0x140) || (0x1000 ≤ off && off + n ≤ 0x1400))) then none
  else some (if two then (List.range n).map fun i => s.bar2Byte (off + i) else s.devReadBytes off n)

/-- What a host read of memory returns: the bytes at their targets (R321), or nothing where they are uncorrectable. -/
def State.hostLoad (s : State) (pa n : Nat) : Option (List Byte) :=
  match s.mem.devReadRuns [(pa, n, false)] with
  | .ok bs => some bs
  | .error _ => none

/-- The host has read. -/
def State.returned (s : State) (r : Option (List Byte)) : State := { s with plat := { s.plat with hostReads := s.plat.hostReads ++ [r] } }

/-- The loader unloads an object that no active launch of its tenant names (R153). -/
def State.unload (s : State) (code : Word) : State :=
  if s.dist.launches.any fun l => l.tenant == codeTenant code && l.isOpen && l.code == code then s
  else { s with plat := { s.plat with objects := s.plat.objects.filter fun x => x.code != code
                                      images := s.plat.images.filter fun x => x.code != code } }

/-- The host or the loader acts; a read of a locked line waits (R42). -/
def State.hostAct (s : State) (h : HostAct) : State :=
  match h with
  | .write pa bs => s.hostWrite pa bs
  | .read pa n => if s.mem.lockedRange pa n then { s with agenda := s.agenda ++ [.host h] } else s.returned (s.hostLoad pa n)
  | .bar stream two off bs => if two then s.writeBar2 stream off bs else s.writeBar0 stream off bs
  | .barRead two off n => s.returned (s.barRead two off n)
  | .msix v e => s.hostMsix v e
  | .object o => { s with plat := { s.plat with objects := o :: s.plat.objects.filter fun x => x.code != o.code } }
  | .image im =>
    let rest := s.plat.images.filter fun x => !(x.die == im.die && x.code == im.code && x.pin == im.pin)
    { s with plat := { s.plat with images := im :: rest } }
  | .unload code => s.unload code

/-! ## The next act of the package -/

/-- Whether an image or the training has failed, so that the boot has halted (R366, R484). -/
def State.halted (s : State) : Bool := (bits s.plat.bootst 8 8 : BitVec 8) ≠ 0

/-- Whether an event happens in a package whose boot has halted: its link offers only DOE and SPDM (R366). -/
def bootEvent (i : Instr) : Bool :=
  match i with
  | .spdmRequest _ | .firmwareUpdate _ | .packageReset | .warmReset => true
  | _ => false

/-- Whether an instruction is an event of the machine: neither an operation of the catalogue, nor a move, nor a transit
instruction. -/
def isEvent (i : Instr) : Bool := (opRow i).isNone && (encodeMove i).isNone && (encodeTransit i).isNone

/-- What an act comes to. -/
def State.actBy (s : State) (a : Act) : Todo :=
  match a with
  | .tick => .done s.tick
  | .ev i => if isEvent i && (!s.halted || bootEvent i) then .run i s else .done s
  | .core n => if s.halted then .done s else s.coreAct n
  | .router r => if s.halted then .done s else s.routerAct r
  | .linkIn port p time => if s.halted then .done s else .done (s.torusArrive port p time)
  | .linkOut port => if s.halted then .done s else .done (s.torusLeave port)
  | .upset u => if s.halted || s.plat.failStop then .done s else .done (s.upsetBy u)
  | .host h => if s.halted then .done s
    else if s.plat.failStop then .done (match h with
      | .barRead two off n => s.returned (s.barRead two off n)
      | .read _ _ => s.returned none
      | _ => s)
    else .done (s.hostAct h)

/-- What the package does next: the first act of the agenda, or where it is empty a free one (log entry 2). -/
def State.nextTodo (s : State) : Todo :=
  match s.agenda with
  | a :: r => { s with agenda := r }.actBy a
  | [] => { s with free := s.free + 1 }.actBy (Config.freeAct s.free)

/-! ## Placing an instruction (for State.withFetchWord) -/

/-- The agent that fetches an instruction of a width: router 0 for a transit instruction, else core 0. -/
def placedAct (nbits : Nat) : Act := if nbits = 16 then .router 0 else .core 0

/-- A task that runs on core 0 with an open sheet of three words at its virtual PC. -/
def State.placeText (s : State) (ws : List (BitVec 32)) : State :=
  let c := s.coreAt 0
  let c := { c with running := some { tenant := 0, handle := 1, savea := 0 } }
  s.setCoreAt 0 (c.openSheet ws none false)

/-- An open run at router 0 whose program begins with a word. -/
def State.placeTransit (s : State) (w : BitVec 16) : State :=
  let p : Packet := { prog := RF.put (RF.fill 0) 0 w }
  s.setRun 0 (some { p := p, adir := 10, mask := 0 })

end Sys2Proof.Machine
end

