-- ==== Sys2Proof/Machine/CopyLand.lean ====
section
/-! DEFINITION. The granules of a copy reach their destination (R255, R256, R303, R359, R414, R465, R466). -/

namespace Sys2Proof.Machine

/-! ## The destination -/

/-- The first granule of a copy's destination that lies in the same row as granule `g` (R466), in memory or in staging. -/
def State.firstInRow (s : State) (n : CoreNo) (e : CopyEntry) (g pa : Nat) : Word :=
  let d := e.cmd
  let at_ (h : Nat) : Word := ccDst d + BitVec.ofNat 64 (16 * h)
  let row := if ccDsp d = 0 then Config.rowOf (storageOf pa).1 (storageOf pa).2 (pa / 16) else Config.rowOf 0x10 (stageUnit pa) (pa / 8)
  let first := (List.range g).find? fun h =>
    if ccDsp d = 0 then match translate s n e.tenant e.priv (at_ h) .write with
      | .ok x => row.contains (x.phys (at_ h) / 16)
      | .error _ => false
    else row.contains ((at_ h).toNat / 8)
  at_ (first.getD g)

/-- Lands granule `g` of a copy (R255, R465); none while it must wait. -/
def State.copyLand (s : State) (n : CoreNo) (e : CopyEntry) (g : Nat) (bs : List Byte) : Except CopyFail (Option State) :=
  let d := e.cmd
  let a := ccDst d + BitVec.ofNat 64 (16 * g)
  if ccDsp d = 0 then
    match translate s n e.tenant e.priv a .write with
    | .error _ =>
      let first := match translateRange s n e.tenant e.priv (ccDst d) (ccLen d) .write with | .error (x, _) => x | .ok _ => a
      .error (e.refused n 0x3D 2 first)
    | .ok x =>
      let pa := x.phys a
      if targetOf pa = .device then .ok (some ((s.keepTlb n [x]).devStoreReg (pa - devBase) bs.length (BitVec.ofNat 64 (leNat bs))))
      else if s.mem.fenced.contains (pa / 16) then .error (e.refused n 0x3D 4 (s.firstInRow n e g pa))
      else .ok ((s.keepTlb n [x]).landMemory n pa x.nc bs)
  else if ccDsp d = 1 then
    if (s.granHolder n n [a.toNat / 16]).isSome ∨ ¬ s.mayMeet (.scratch n) portLast then .ok none
    else
      let c := (s.coreAt n).scratchWrite a.toNat bs
      let c := if e.due.isSome then c else { c with emptyGran := granFill c.emptyGran [a.toNat / 16] }
      .ok (some ((s.setCoreAt n c).meetAt (.scratch n) portLast))
  else match s.lostSlice e.tenant (ccDst d) (16 * g) bs.length with
    | some x => .error (e.refused n 0x3D 7 x)
    | none =>
      if s.stageBusy a.toNat ∨ ¬ s.mayStage a.toNat bs.length (stageKey n a.toNat) then .ok none
      else if s.plat.stageFenced.contains (a.toNat / 8) ∨ s.plat.stageFenced.contains (a.toNat / 8 + 1) then
        .error (e.refused n 0x3D 4 (s.firstInRow n e g a.toNat))
      else .ok (some ((s.stageWrite a.toNat bs).staged a.toNat bs.length (stageKey n a.toNat)))

/-! ## The granules of a copy (R255) -/

/-- What granule `g` of a copy's source comes to: a decrypting copy's plaintext, or its bytes. -/
def State.copySource (s : State) (n : CoreNo) (e : CopyEntry) (g : Nat) : CopyGot :=
  match e.plain with
  | some p => .got s ((p.drop (16 * g)).take 16)
  | none => s.copyRead n e (16 * g) (granBytes e.cmd g)

/-- Entry `i` of a core's copy queue has landed granule `g`: the count falls, and a copy whose last granule this was completes. -/
def State.granLanded (s : State) (n : CoreNo) (i g : Nat) (e : CopyEntry) : State :=
  let d := e.cmd
  let e := { e with left := e.left.erase g }
  if e.due.isSome then (s.setCopy n i e).finishCopies n 32
  else
    let s := s.setCopy n i e
    let s := if ccBbe d then s.barrierLess n (ccBb d) (granBytes d g) else s
    if e.left.isEmpty then s.copyDone n i e else s

/-- COPY_GRANULE (R255): granule `g` of entry `i` is read and lands, or the copy fails. -/
def execCopyGranule (n : CoreNo) (i g : Nat) (s : State) : Host.Outcome State Fault Refusal :=
  if coreOk n then
    .next (match (s.coreAt n).copyQ[i]? with
      | none => s
      | some e =>
        if s.plat.failStop ∨ ¬ e.started ∨ ¬ e.left.contains g ∨ (s.coreAt n).quiesced e then s
        else match s.copySource n e g with
          | .held u => u
          | .fails f => s.copyFails n i e f
          | .got t bs => match t.copyLand n e g bs with
            | .error f => t.copyFails n i e f
            | .ok none => s
            | .ok (some u) => u.granLanded n i g e)
  else .fault .illFormed

end Sys2Proof.Machine
end

