-- ==== Sys2Proof/Machine/Operations.lean ====
section
/-! DEFINITION. The meaning of each operation of the catalogue issued by itself: its own effect over the shared issue logic. -/

namespace Sys2Proof.Machine

/-- The meaning of `add`. -/
def execAdd (f : Form) (s : State) : Host.Outcome State Fault Refusal := issueOp (.add f) (semAdd f s) s

/-- The meaning of `sub`. -/
def execSub (f : Form) (s : State) : Host.Outcome State Fault Refusal := issueOp (.sub f) (semSub f s) s

/-- The meaning of `mul`. -/
def execMul (f : Form) (s : State) : Host.Outcome State Fault Refusal := issueOp (.mul f) (semMul f s) s

/-- The meaning of `mulh`. -/
def execMulh (f : Form) (s : State) : Host.Outcome State Fault Refusal := issueOp (.mulh f) (semMulh f s) s

/-- The meaning of `mulhu`. -/
def execMulhu (f : Form) (s : State) : Host.Outcome State Fault Refusal := issueOp (.mulhu f) (semMulhu f s) s

/-- The meaning of `div`. -/
def execDiv (f : Form) (s : State) : Host.Outcome State Fault Refusal := issueOp (.div f) (semDiv f s) s

/-- The meaning of `divu`. -/
def execDivu (f : Form) (s : State) : Host.Outcome State Fault Refusal := issueOp (.divu f) (semDivu f s) s

/-- The meaning of `rem`. -/
def execRem (f : Form) (s : State) : Host.Outcome State Fault Refusal := issueOp (.rem f) (semRem f s) s

/-- The meaning of `remu`. -/
def execRemu (f : Form) (s : State) : Host.Outcome State Fault Refusal := issueOp (.remu f) (semRemu f s) s

/-- The meaning of `imin`. -/
def execImin (f : Form) (s : State) : Host.Outcome State Fault Refusal := issueOp (.imin f) (semImin f s) s

/-- The meaning of `imax`. -/
def execImax (f : Form) (s : State) : Host.Outcome State Fault Refusal := issueOp (.imax f) (semImax f s) s

/-- The meaning of `minu`. -/
def execMinu (f : Form) (s : State) : Host.Outcome State Fault Refusal := issueOp (.minu f) (semMinu f s) s

/-- The meaning of `maxu`. -/
def execMaxu (f : Form) (s : State) : Host.Outcome State Fault Refusal := issueOp (.maxu f) (semMaxu f s) s

/-- The meaning of `iabs`. -/
def execIabs (f : Form) (s : State) : Host.Outcome State Fault Refusal := issueOp (.iabs f) (semIabs f s) s

/-- The meaning of `addw`. -/
def execAddw (f : Form) (s : State) : Host.Outcome State Fault Refusal := issueOp (.addw f) (semAddw f s) s

/-- The meaning of `subw`. -/
def execSubw (f : Form) (s : State) : Host.Outcome State Fault Refusal := issueOp (.subw f) (semSubw f s) s

/-- The meaning of `mulw`. -/
def execMulw (f : Form) (s : State) : Host.Outcome State Fault Refusal := issueOp (.mulw f) (semMulw f s) s

/-- The meaning of `lea`. -/
def execLea (f : Form) (s : State) : Host.Outcome State Fault Refusal := issueOp (.lea f) (semLea f s) s

/-- The meaning of `cmp`. -/
def execCmp (f : Form) (s : State) : Host.Outcome State Fault Refusal := issueOp (.cmp f) (semCmp f s) s

/-- The meaning of `sel`. -/
def execSel (f : Form) (s : State) : Host.Outcome State Fault Refusal := issueOp (.sel f) (semSel f s) s

/-- The meaning of `cmpn`. -/
def execCmpn (f : Form) (s : State) : Host.Outcome State Fault Refusal := issueOp (.cmpn f) (semCmpn f s) s

/-- The meaning of `bitAnd`. -/
def execBitAnd (f : Form) (s : State) : Host.Outcome State Fault Refusal := issueOp (.bitAnd f) (semBitAnd f s) s

/-- The meaning of `bitOr`. -/
def execBitOr (f : Form) (s : State) : Host.Outcome State Fault Refusal := issueOp (.bitOr f) (semBitOr f s) s

/-- The meaning of `bitXor`. -/
def execBitXor (f : Form) (s : State) : Host.Outcome State Fault Refusal := issueOp (.bitXor f) (semBitXor f s) s

/-- The meaning of `shl`. -/
def execShl (f : Form) (s : State) : Host.Outcome State Fault Refusal := issueOp (.shl f) (semShl f s) s

/-- The meaning of `shr`. -/
def execShr (f : Form) (s : State) : Host.Outcome State Fault Refusal := issueOp (.shr f) (semShr f s) s

/-- The meaning of `sar`. -/
def execSar (f : Form) (s : State) : Host.Outcome State Fault Refusal := issueOp (.sar f) (semSar f s) s

/-- The meaning of `rotr`. -/
def execRotr (f : Form) (s : State) : Host.Outcome State Fault Refusal := issueOp (.rotr f) (semRotr f s) s

/-- The meaning of `extu`. -/
def execExtu (f : Form) (s : State) : Host.Outcome State Fault Refusal := issueOp (.extu f) (semExtu f s) s

/-- The meaning of `exts`. -/
def execExts (f : Form) (s : State) : Host.Outcome State Fault Refusal := issueOp (.exts f) (semExts f s) s

/-- The meaning of `insf`. -/
def execInsf (f : Form) (s : State) : Host.Outcome State Fault Refusal := issueOp (.insf f) (semInsf f s) s

/-- The meaning of `cnt`. -/
def execCnt (f : Form) (s : State) : Host.Outcome State Fault Refusal := issueOp (.cnt f) (semCnt f s) s

/-- The meaning of `bswap`. -/
def execBswap (f : Form) (s : State) : Host.Outcome State Fault Refusal := issueOp (.bswap f) (semBswap f s) s

/-- The meaning of `br`. -/
def execBr (f : Form) (s : State) : Host.Outcome State Fault Refusal := issueOp (.br f) (semBr f s) s

/-- The meaning of `jmp`. -/
def execJmp (f : Form) (s : State) : Host.Outcome State Fault Refusal := issueOp (.jmp f) (semJmp f s) s

/-- The meaning of `call`. -/
def execCall (f : Form) (s : State) : Host.Outcome State Fault Refusal := issueOp (.call f) (semCall f s) s

/-- The meaning of `callr`. -/
def execCallr (f : Form) (s : State) : Host.Outcome State Fault Refusal := issueOp (.callr f) (semCallr f s) s

/-- The meaning of `ret`. -/
def execRet (f : Form) (s : State) : Host.Outcome State Fault Refusal := issueOp (.ret f) (semRet f s) s

/-- The meaning of `loop`. -/
def execLoop (f : Form) (s : State) : Host.Outcome State Fault Refusal := issueOp (.loop f) (semLoop f s) s

/-- The meaning of `lexit`. -/
def execLexit (f : Form) (s : State) : Host.Outcome State Fault Refusal := issueOp (.lexit f) (semLexit f s) s

/-- The meaning of `susp`. -/
def execSusp (f : Form) (s : State) : Host.Outcome State Fault Refusal := issueOp (.susp f) (semSusp f s) s

/-- The meaning of `spawn`. -/
def execSpawn (f : Form) (s : State) : Host.Outcome State Fault Refusal := issueOp (.spawn f) (semSpawn f s) s

/-- The meaning of `exit`. -/
def execExit (f : Form) (s : State) : Host.Outcome State Fault Refusal := issueOp (.exit f) (semExit f s) s

/-- The meaning of `crrd`. -/
def execCrrd (f : Form) (s : State) : Host.Outcome State Fault Refusal := issueOp (.crrd f) (semCrrd f s) s

/-- The meaning of `crwr`. -/
def execCrwr (f : Form) (s : State) : Host.Outcome State Fault Refusal := issueOp (.crwr f) (semCrwr f s) s

/-- The meaning of `crset`. -/
def execCrset (f : Form) (s : State) : Host.Outcome State Fault Refusal := issueOp (.crset f) (semCrset f s) s

/-- The meaning of `sysCrclr`. -/
def execSysCrclr (f : Form) (s : State) : Host.Outcome State Fault Refusal := issueOp (.sysCrclr f) (semSysCrclr f s) s

/-- The meaning of `trap`. -/
def execTrap (f : Form) (s : State) : Host.Outcome State Fault Refusal := issueOp (.trap f) (semTrap f s) s

/-- The meaning of `tret`. -/
def execTret (f : Form) (s : State) : Host.Outcome State Fault Refusal := issueOp (.tret f) (semTret f s) s

/-- The meaning of `issueat`. -/
def execIssueat (f : Form) (s : State) : Host.Outcome State Fault Refusal := issueOp (.issueat f) (semIssueat f s) s

/-- The meaning of `frmwait`. -/
def execFrmwait (f : Form) (s : State) : Host.Outcome State Fault Refusal := issueOp (.frmwait f) (semFrmwait f s) s

/-- The meaning of `timeat`. -/
def execTimeat (f : Form) (s : State) : Host.Outcome State Fault Refusal := issueOp (.timeat f) (semTimeat f s) s

/-- The meaning of `accsp`. -/
def execAccsp (f : Form) (s : State) : Host.Outcome State Fault Refusal := issueOp (.accsp f) (semAccsp f s) s

/-- The meaning of `accfl`. -/
def execAccfl (f : Form) (s : State) : Host.Outcome State Fault Refusal := issueOp (.accfl f) (semAccfl f s) s

/-- The meaning of `msps`. -/
def execMsps (f : Form) (s : State) : Host.Outcome State Fault Refusal := issueOp (.msps f) (semMsps f s) s

/-- The meaning of `msfl`. -/
def execMsfl (f : Form) (s : State) : Host.Outcome State Fault Refusal := issueOp (.msfl f) (semMsfl f s) s

/-- The meaning of `mark`. -/
def execMark (f : Form) (s : State) : Host.Outcome State Fault Refusal := issueOp (.mark f) (semMark f s) s

/-- The meaning of `pbld`. -/
def execPbld (f : Form) (s : State) : Host.Outcome State Fault Refusal := issueOp (.pbld f) (semPbld f s) s

/-- The meaning of `psend`. -/
def execPsend (f : Form) (s : State) : Host.Outcome State Fault Refusal := issueOp (.psend f) (semPsend f s) s

/-- The meaning of `dwait`. -/
def execDwait (f : Form) (s : State) : Host.Outcome State Fault Refusal := issueOp (.dwait f) (semDwait f s) s

/-- The meaning of `darm`. -/
def execDarm (f : Form) (s : State) : Host.Outcome State Fault Refusal := issueOp (.darm f) (semDarm f s) s

/-- The meaning of `dread`. -/
def execDread (f : Form) (s : State) : Host.Outcome State Fault Refusal := issueOp (.dread f) (semDread f s) s

/-- The meaning of `dadd`. -/
def execDadd (f : Form) (s : State) : Host.Outcome State Fault Refusal := issueOp (.dadd f) (semDadd f s) s

/-- The meaning of `dset`. -/
def execDset (f : Form) (s : State) : Host.Outcome State Fault Refusal := issueOp (.dset f) (semDset f s) s

/-- The meaning of `vaiAdd`. -/
def execVaiAdd (f : Form) (s : State) : Host.Outcome State Fault Refusal := issueOp (.vaiAdd f) (semVaiAdd f s) s

/-- The meaning of `vaiSub`. -/
def execVaiSub (f : Form) (s : State) : Host.Outcome State Fault Refusal := issueOp (.vaiSub f) (semVaiSub f s) s

/-- The meaning of `vaiMul`. -/
def execVaiMul (f : Form) (s : State) : Host.Outcome State Fault Refusal := issueOp (.vaiMul f) (semVaiMul f s) s

/-- The meaning of `vaiMulh`. -/
def execVaiMulh (f : Form) (s : State) : Host.Outcome State Fault Refusal := issueOp (.vaiMulh f) (semVaiMulh f s) s

/-- The meaning of `vaiMin`. -/
def execVaiMin (f : Form) (s : State) : Host.Outcome State Fault Refusal := issueOp (.vaiMin f) (semVaiMin f s) s

/-- The meaning of `vaiMax`. -/
def execVaiMax (f : Form) (s : State) : Host.Outcome State Fault Refusal := issueOp (.vaiMax f) (semVaiMax f s) s

/-- The meaning of `vaiAbs`. -/
def execVaiAbs (f : Form) (s : State) : Host.Outcome State Fault Refusal := issueOp (.vaiAbs f) (semVaiAbs f s) s

/-- The meaning of `vaiAnd`. -/
def execVaiAnd (f : Form) (s : State) : Host.Outcome State Fault Refusal := issueOp (.vaiAnd f) (semVaiAnd f s) s

/-- The meaning of `vaiOr`. -/
def execVaiOr (f : Form) (s : State) : Host.Outcome State Fault Refusal := issueOp (.vaiOr f) (semVaiOr f s) s

/-- The meaning of `vaiXor`. -/
def execVaiXor (f : Form) (s : State) : Host.Outcome State Fault Refusal := issueOp (.vaiXor f) (semVaiXor f s) s

/-- The meaning of `vaiShl`. -/
def execVaiShl (f : Form) (s : State) : Host.Outcome State Fault Refusal := issueOp (.vaiShl f) (semVaiShl f s) s

/-- The meaning of `vaiShr`. -/
def execVaiShr (f : Form) (s : State) : Host.Outcome State Fault Refusal := issueOp (.vaiShr f) (semVaiShr f s) s

/-- The meaning of `vaiSar`. -/
def execVaiSar (f : Form) (s : State) : Host.Outcome State Fault Refusal := issueOp (.vaiSar f) (semVaiSar f s) s

/-- The meaning of `vaiCmp`. -/
def execVaiCmp (f : Form) (s : State) : Host.Outcome State Fault Refusal := issueOp (.vaiCmp f) (semVaiCmp f s) s

/-- The meaning of `vfpAdd`. -/
def execVfpAdd (f : Form) (s : State) : Host.Outcome State Fault Refusal := issueOp (.vfpAdd f) (semVfpAdd f s) s

/-- The meaning of `vfpSub`. -/
def execVfpSub (f : Form) (s : State) : Host.Outcome State Fault Refusal := issueOp (.vfpSub f) (semVfpSub f s) s

/-- The meaning of `vfpMul`. -/
def execVfpMul (f : Form) (s : State) : Host.Outcome State Fault Refusal := issueOp (.vfpMul f) (semVfpMul f s) s

/-- The meaning of `vfpFma`. -/
def execVfpFma (f : Form) (s : State) : Host.Outcome State Fault Refusal := issueOp (.vfpFma f) (semVfpFma f s) s

/-- The meaning of `vfpFms`. -/
def execVfpFms (f : Form) (s : State) : Host.Outcome State Fault Refusal := issueOp (.vfpFms f) (semVfpFms f s) s

/-- The meaning of `vfpFnma`. -/
def execVfpFnma (f : Form) (s : State) : Host.Outcome State Fault Refusal := issueOp (.vfpFnma f) (semVfpFnma f s) s

/-- The meaning of `vfpMin`. -/
def execVfpMin (f : Form) (s : State) : Host.Outcome State Fault Refusal := issueOp (.vfpMin f) (semVfpMin f s) s

/-- The meaning of `vfpMax`. -/
def execVfpMax (f : Form) (s : State) : Host.Outcome State Fault Refusal := issueOp (.vfpMax f) (semVfpMax f s) s

/-- The meaning of `vfpAbs`. -/
def execVfpAbs (f : Form) (s : State) : Host.Outcome State Fault Refusal := issueOp (.vfpAbs f) (semVfpAbs f s) s

/-- The meaning of `vfpNeg`. -/
def execVfpNeg (f : Form) (s : State) : Host.Outcome State Fault Refusal := issueOp (.vfpNeg f) (semVfpNeg f s) s

/-- The meaning of `vfpCmp`. -/
def execVfpCmp (f : Form) (s : State) : Host.Outcome State Fault Refusal := issueOp (.vfpCmp f) (semVfpCmp f s) s

/-- The meaning of `vfpScal`. -/
def execVfpScal (f : Form) (s : State) : Host.Outcome State Fault Refusal := issueOp (.vfpScal f) (semVfpScal f s) s

/-- The meaning of `vfpRint`. -/
def execVfpRint (f : Form) (s : State) : Host.Outcome State Fault Refusal := issueOp (.vfpRint f) (semVfpRint f s) s

/-- The meaning of `vfpCpsgn`. -/
def execVfpCpsgn (f : Form) (s : State) : Host.Outcome State Fault Refusal := issueOp (.vfpCpsgn f) (semVfpCpsgn f s) s

/-- The meaning of `vperm`. -/
def execVperm (f : Form) (s : State) : Host.Outcome State Fault Refusal := issueOp (.vperm f) (semVperm f s) s

/-- The meaning of `vcmpr`. -/
def execVcmpr (f : Form) (s : State) : Host.Outcome State Fault Refusal := issueOp (.vcmpr f) (semVcmpr f s) s

/-- The meaning of `vexpd`. -/
def execVexpd (f : Form) (s : State) : Host.Outcome State Fault Refusal := issueOp (.vexpd f) (semVexpd f s) s

/-- The meaning of `vmatch`. -/
def execVmatch (f : Form) (s : State) : Host.Outcome State Fault Refusal := issueOp (.vmatch f) (semVmatch f s) s

/-- The meaning of `vredsum`. -/
def execVredsum (f : Form) (s : State) : Host.Outcome State Fault Refusal := issueOp (.vredsum f) (semVredsum f s) s

/-- The meaning of `vredmin`. -/
def execVredmin (f : Form) (s : State) : Host.Outcome State Fault Refusal := issueOp (.vredmin f) (semVredmin f s) s

/-- The meaning of `vredmax`. -/
def execVredmax (f : Form) (s : State) : Host.Outcome State Fault Refusal := issueOp (.vredmax f) (semVredmax f s) s

/-- The meaning of `vscan`. -/
def execVscan (f : Form) (s : State) : Host.Outcome State Fault Refusal := issueOp (.vscan f) (semVscan f s) s

/-- The meaning of `vcvt`. -/
def execVcvt (f : Form) (s : State) : Host.Outcome State Fault Refusal := issueOp (.vcvt f) (semVcvt f s) s

/-- The meaning of `vquant`. -/
def execVquant (f : Form) (s : State) : Host.Outcome State Fault Refusal := issueOp (.vquant f) (semVquant f s) s

/-- The meaning of `vdqnt`. -/
def execVdqnt (f : Form) (s : State) : Host.Outcome State Fault Refusal := issueOp (.vdqnt f) (semVdqnt f s) s

/-- The meaning of `vbcst`. -/
def execVbcst (f : Form) (s : State) : Host.Outcome State Fault Refusal := issueOp (.vbcst f) (semVbcst f s) s

/-- The meaning of `vexp2`. -/
def execVexp2 (f : Form) (s : State) : Host.Outcome State Fault Refusal := issueOp (.vexp2 f) (semVexp2 f s) s

/-- The meaning of `vlog2`. -/
def execVlog2 (f : Form) (s : State) : Host.Outcome State Fault Refusal := issueOp (.vlog2 f) (semVlog2 f s) s

/-- The meaning of `vrcp`. -/
def execVrcp (f : Form) (s : State) : Host.Outcome State Fault Refusal := issueOp (.vrcp f) (semVrcp f s) s

/-- The meaning of `vrsqrt`. -/
def execVrsqrt (f : Form) (s : State) : Host.Outcome State Fault Refusal := issueOp (.vrsqrt f) (semVrsqrt f s) s

/-- The meaning of `vsqrt`. -/
def execVsqrt (f : Form) (s : State) : Host.Outcome State Fault Refusal := issueOp (.vsqrt f) (semVsqrt f s) s

/-- The meaning of `vsinpi`. -/
def execVsinpi (f : Form) (s : State) : Host.Outcome State Fault Refusal := issueOp (.vsinpi f) (semVsinpi f s) s

/-- The meaning of `vcospi`. -/
def execVcospi (f : Form) (s : State) : Host.Outcome State Fault Refusal := issueOp (.vcospi f) (semVcospi f s) s

/-- The meaning of `vtanh`. -/
def execVtanh (f : Form) (s : State) : Host.Outcome State Fault Refusal := issueOp (.vtanh f) (semVtanh f s) s

/-- The meaning of `verf`. -/
def execVerf (f : Form) (s : State) : Host.Outcome State Fault Refusal := issueOp (.verf f) (semVerf f s) s

/-- The meaning of `mcfg`. -/
def execMcfg (f : Form) (s : State) : Host.Outcome State Fault Refusal := issueOp (.mcfg f) (semMcfg f s) s

/-- The meaning of `mcfgr`. -/
def execMcfgr (f : Form) (s : State) : Host.Outcome State Fault Refusal := issueOp (.mcfgr f) (semMcfgr f s) s

/-- The meaning of `mlgd`. -/
def execMlgd (f : Form) (s : State) : Host.Outcome State Fault Refusal := issueOp (.mlgd f) (semMlgd f s) s

/-- The meaning of `mlgs`. -/
def execMlgs (f : Form) (s : State) : Host.Outcome State Fault Refusal := issueOp (.mlgs f) (semMlgs f s) s

/-- The meaning of `mdsc`. -/
def execMdsc (f : Form) (s : State) : Host.Outcome State Fault Refusal := issueOp (.mdsc f) (semMdsc f s) s

/-- The meaning of `mzero`. -/
def execMzero (f : Form) (s : State) : Host.Outcome State Fault Refusal := issueOp (.mzero f) (semMzero f s) s

/-- The meaning of `mbeat`. -/
def execMbeat (f : Form) (s : State) : Host.Outcome State Fault Refusal := issueOp (.mbeat f) (semMbeat f s) s

/-- The meaning of `mbeatq`. -/
def execMbeatq (f : Form) (s : State) : Host.Outcome State Fault Refusal := issueOp (.mbeatq f) (semMbeatq f s) s

/-- The meaning of `mdrn`. -/
def execMdrn (f : Form) (s : State) : Host.Outcome State Fault Refusal := issueOp (.mdrn f) (semMdrn f s) s

/-- The meaning of `mfil`. -/
def execMfil (f : Form) (s : State) : Host.Outcome State Fault Refusal := issueOp (.mfil f) (semMfil f s) s

/-- The meaning of `mstc`. -/
def execMstc (f : Form) (s : State) : Host.Outcome State Fault Refusal := issueOp (.mstc f) (semMstc f s) s

/-- The meaning of `ld`. -/
def execLd (f : Form) (s : State) : Host.Outcome State Fault Refusal := issueOp (.ld f) (semLd f s) s

/-- The meaning of `ldLong`. -/
def execLdLong (f : Form) (s : State) : Host.Outcome State Fault Refusal := issueOp (.ldLong f) (semLdLong f s) s

/-- The meaning of `st`. -/
def execSt (f : Form) (s : State) : Host.Outcome State Fault Refusal := issueOp (.st f) (semSt f s) s

/-- The meaning of `stLong`. -/
def execStLong (f : Form) (s : State) : Host.Outcome State Fault Refusal := issueOp (.stLong f) (semStLong f s) s

/-- The meaning of `ldsp`. -/
def execLdsp (f : Form) (s : State) : Host.Outcome State Fault Refusal := issueOp (.ldsp f) (semLdsp f s) s

/-- The meaning of `stsp`. -/
def execStsp (f : Form) (s : State) : Host.Outcome State Fault Refusal := issueOp (.stsp f) (semStsp f s) s

/-- The meaning of `ldrs`. -/
def execLdrs (f : Form) (s : State) : Host.Outcome State Fault Refusal := issueOp (.ldrs f) (semLdrs f s) s

/-- The meaning of `strs`. -/
def execStrs (f : Form) (s : State) : Host.Outcome State Fault Refusal := issueOp (.strs f) (semStrs f s) s

/-- The meaning of `gath`. -/
def execGath (f : Form) (s : State) : Host.Outcome State Fault Refusal := issueOp (.gath f) (semGath f s) s

/-- The meaning of `scat`. -/
def execScat (f : Form) (s : State) : Host.Outcome State Fault Refusal := issueOp (.scat f) (semScat f s) s

/-- The meaning of `tagl`. -/
def execTagl (f : Form) (s : State) : Host.Outcome State Fault Refusal := issueOp (.tagl f) (semTagl f s) s

/-- The meaning of `tagw`. -/
def execTagw (f : Form) (s : State) : Host.Outcome State Fault Refusal := issueOp (.tagw f) (semTagw f s) s

/-- The meaning of `fes`. -/
def execFes (f : Form) (s : State) : Host.Outcome State Fault Refusal := issueOp (.fes f) (semFes f s) s

/-- The meaning of `fec`. -/
def execFec (f : Form) (s : State) : Host.Outcome State Fault Refusal := issueOp (.fec f) (semFec f s) s

/-- The meaning of `sbind`. -/
def execSbind (f : Form) (s : State) : Host.Outcome State Fault Refusal := issueOp (.sbind f) (semSbind f s) s

/-- The meaning of `sfree`. -/
def execSfree (f : Form) (s : State) : Host.Outcome State Fault Refusal := issueOp (.sfree f) (semSfree f s) s

/-- The meaning of `sstat`. -/
def execSstat (f : Form) (s : State) : Host.Outcome State Fault Refusal := issueOp (.sstat f) (semSstat f s) s

/-- The meaning of `copy`. -/
def execCopy (f : Form) (s : State) : Host.Outcome State Fault Refusal := issueOp (.copy f) (semCopy f s) s

/-- The meaning of `bbset`. -/
def execBbset (f : Form) (s : State) : Host.Outcome State Fault Refusal := issueOp (.bbset f) (semBbset f s) s

/-- The meaning of `bbwait`. -/
def execBbwait (f : Form) (s : State) : Host.Outcome State Fault Refusal := issueOp (.bbwait f) (semBbwait f s) s

/-- The meaning of `cmnt`. -/
def execCmnt (f : Form) (s : State) : Host.Outcome State Fault Refusal := issueOp (.cmnt f) (semCmnt f s) s

/-- The meaning of `fence`. -/
def execFence (f : Form) (s : State) : Host.Outcome State Fault Refusal := issueOp (.fence f) (semFence f s) s

/-- The meaning of `icinv`. -/
def execIcinv (f : Form) (s : State) : Host.Outcome State Fault Refusal := issueOp (.icinv f) (semIcinv f s) s

/-- The meaning of `tclk`. -/
def execTclk (f : Form) (s : State) : Host.Outcome State Fault Refusal := issueOp (.tclk f) (semTclk f s) s

/-- The meaning of `tculk`. -/
def execTculk (f : Form) (s : State) : Host.Outcome State Fault Refusal := issueOp (.tculk f) (semTculk f s) s

/-- The meaning of `aadd`. -/
def execAadd (f : Form) (s : State) : Host.Outcome State Fault Refusal := issueOp (.aadd f) (semAadd f s) s

/-- The meaning of `amin`. -/
def execAmin (f : Form) (s : State) : Host.Outcome State Fault Refusal := issueOp (.amin f) (semAmin f s) s

/-- The meaning of `amax`. -/
def execAmax (f : Form) (s : State) : Host.Outcome State Fault Refusal := issueOp (.amax f) (semAmax f s) s

/-- The meaning of `aand`. -/
def execAand (f : Form) (s : State) : Host.Outcome State Fault Refusal := issueOp (.aand f) (semAand f s) s

/-- The meaning of `aor`. -/
def execAor (f : Form) (s : State) : Host.Outcome State Fault Refusal := issueOp (.aor f) (semAor f s) s

/-- The meaning of `axor`. -/
def execAxor (f : Form) (s : State) : Host.Outcome State Fault Refusal := issueOp (.axor f) (semAxor f s) s

/-- The meaning of `axchg`. -/
def execAxchg (f : Form) (s : State) : Host.Outcome State Fault Refusal := issueOp (.axchg f) (semAxchg f s) s

/-- The meaning of `acas`. -/
def execAcas (f : Form) (s : State) : Host.Outcome State Fault Refusal := issueOp (.acas f) (semAcas f s) s

end Sys2Proof.Machine
end

