-- ==== Sys2Proof/Machine/Dispatch.lean ====
section
/-! DEFINITION. The meaning of every instruction: one arm per constructor. -/

namespace Sys2Proof.Machine

def exec (i : Instr) (s : State) : Host.Outcome State Fault Refusal :=
  match i with
  | .bundleIssue core => Sys2Proof.Machine.execBundleIssue core s
  | .trapEntry core => Sys2Proof.Machine.execTrapEntry core s
  | .resultLanding core ix => Sys2Proof.Machine.execResultLanding core ix s
  | .streamFetch core q => Sys2Proof.Machine.execStreamFetch core q s
  | .streamWriteElement core q => Sys2Proof.Machine.execStreamWriteElement core q s
  | .gatedEntryDrain core => Sys2Proof.Machine.execGatedEntryDrain core s
  | .translationComplete die core groups => Sys2Proof.Machine.execTranslationComplete die core groups s
  | .translationRetry die core => Sys2Proof.Machine.execTranslationRetry die core s
  | .descriptorCacheFill core => Sys2Proof.Machine.execDescriptorCacheFill core s
  | .launchTake t q => Sys2Proof.Machine.execLaunchTake t q s
  | .wake ix => Sys2Proof.Machine.execWake ix s
  | .timeSliceExpiry core => Sys2Proof.Machine.execTimeSliceExpiry core s
  | .preemptionRequest who => Sys2Proof.Machine.execPreemptionRequest who s
  | .preemptionSave core => Sys2Proof.Machine.execPreemptionSave core s
  | .pageFaultHold core => Sys2Proof.Machine.execPageFaultHold core s
  | .cancel t handle => Sys2Proof.Machine.execCancel t handle s
  | .lqtailWrite t q tail => Sys2Proof.Machine.execLqtailWrite t q tail s
  | .tenantDisable t => Sys2Proof.Machine.execTenantDisable t s
  | .armedSend core => Sys2Proof.Machine.execArmedSend core s
  | .armedCopyQueue core => Sys2Proof.Machine.execArmedCopyQueue core s
  | .copyStart core => Sys2Proof.Machine.execCopyStart core s
  | .copyGranule core ix g => Sys2Proof.Machine.execCopyGranule core ix g s
  | .packetInjection core => Sys2Proof.Machine.execPacketInjection core s
  | .transitRun router src => Sys2Proof.Machine.execTransitRun router src s
  | .combineDeadlineRelease router slot => Sys2Proof.Machine.execCombineDeadlineRelease router slot s
  | .delivery ix => Sys2Proof.Machine.execDelivery ix s
  | .linkCrcRetry link => Sys2Proof.Machine.execLinkCrcRetry link s
  | .linkRetrain link spared => Sys2Proof.Machine.execLinkRetrain link spared s
  | .bearingExchange port dist bound t1 t2 t3 t4 => Sys2Proof.Machine.execBearingExchange port dist bound t1 t2 t3 t4 s
  | .atomicAtHome ix merge => Sys2Proof.Machine.execAtomicAtHome ix merge s
  | .pileWriteApply die pile => Sys2Proof.Machine.execPileWriteApply die pile s
  | .pileMarkerApply die pile => Sys2Proof.Machine.execPileMarkerApply die pile s
  | .pileHeldRead ix => Sys2Proof.Machine.execPileHeldRead ix s
  | .pileHoldTimeout ix => Sys2Proof.Machine.execPileHoldTimeout ix s
  | .pileLost pile => Sys2Proof.Machine.execPileLost pile s
  | .cacheEviction level line => Sys2Proof.Machine.execCacheEviction level line s
  | .patrolScrub block => Sys2Proof.Machine.execPatrolScrub block s
  | .hangWatchdogExpiry core => Sys2Proof.Machine.execHangWatchdogExpiry core s
  | .saveGraceExpiry core => Sys2Proof.Machine.execSaveGraceExpiry core s
  | .selfTestComplete ix lasting => Sys2Proof.Machine.execSelfTestComplete ix lasting s
  | .coreSpareMove core => Sys2Proof.Machine.execCoreSpareMove core s
  | .failStop cause => Sys2Proof.Machine.execFailStop cause s
  | .thermalThrottle step => Sys2Proof.Machine.execThermalThrottle step s
  | .tlbinvcGo v => Sys2Proof.Machine.execTlbinvcGo v s
  | .atrevGo t die v => Sys2Proof.Machine.execAtrevGo t die v s
  | .atrevNoticeExpiry t die => Sys2Proof.Machine.execAtrevNoticeExpiry t die s
  | .pkcmdRelease router entry => Sys2Proof.Machine.execPkcmdRelease router entry s
  | .pkcmdDiscard router entry => Sys2Proof.Machine.execPkcmdDiscard router entry s
  | .csfree router t v => Sys2Proof.Machine.execCsfree router t v s
  | .pfresResume t savea => Sys2Proof.Machine.execPfresResume t savea s
  | .pfresKill t savea => Sys2Proof.Machine.execPfresKill t savea s
  | .crclr v => Sys2Proof.Machine.execCrclr v s
  | .stgownWrite cluster v => Sys2Proof.Machine.execStgownWrite cluster v s
  | .stagingClearComplete cluster slice => Sys2Proof.Machine.execStagingClearComplete cluster slice s
  | .pcapWrite v => Sys2Proof.Machine.execPcapWrite v s
  | .clockChange step => Sys2Proof.Machine.execClockChange step s
  | .tdispConfigLock t run => Sys2Proof.Machine.execTdispConfigLock t run s
  | .tdispUnlock t => Sys2Proof.Machine.execTdispUnlock t s
  | .keyInstall msg => Sys2Proof.Machine.execKeyInstall msg s
  | .spdmRequest msg => Sys2Proof.Machine.execSpdmRequest msg s
  | .firmwareUpdate image => Sys2Proof.Machine.execFirmwareUpdate image s
  | .firmwareCommit msg => Sys2Proof.Machine.execFirmwareCommit msg s
  | .deviceRegisterWrite addr size v => Sys2Proof.Machine.execDeviceRegisterWrite addr size v s
  | .moveRegister e n g d src => Sys2Proof.Machine.execMoveRegister e n g d src s
  | .moveImmediate12 e n g d src => Sys2Proof.Machine.execMoveImmediate12 e n g d src s
  | .moveImmediate32 e n g d imm => Sys2Proof.Machine.execMoveImmediate32 e n g d imm s
  | .moveImmediate64 e n g d imm => Sys2Proof.Machine.execMoveImmediate64 e n g d imm s
  | .add f => Sys2Proof.Machine.execAdd f s
  | .sub f => Sys2Proof.Machine.execSub f s
  | .mul f => Sys2Proof.Machine.execMul f s
  | .mulh f => Sys2Proof.Machine.execMulh f s
  | .mulhu f => Sys2Proof.Machine.execMulhu f s
  | .div f => Sys2Proof.Machine.execDiv f s
  | .divu f => Sys2Proof.Machine.execDivu f s
  | .rem f => Sys2Proof.Machine.execRem f s
  | .remu f => Sys2Proof.Machine.execRemu f s
  | .imin f => Sys2Proof.Machine.execImin f s
  | .imax f => Sys2Proof.Machine.execImax f s
  | .minu f => Sys2Proof.Machine.execMinu f s
  | .maxu f => Sys2Proof.Machine.execMaxu f s
  | .iabs f => Sys2Proof.Machine.execIabs f s
  | .addw f => Sys2Proof.Machine.execAddw f s
  | .subw f => Sys2Proof.Machine.execSubw f s
  | .mulw f => Sys2Proof.Machine.execMulw f s
  | .lea f => Sys2Proof.Machine.execLea f s
  | .cmp f => Sys2Proof.Machine.execCmp f s
  | .cmpn f => Sys2Proof.Machine.execCmpn f s
  | .sel f => Sys2Proof.Machine.execSel f s
  | .bitAnd f => Sys2Proof.Machine.execBitAnd f s
  | .bitOr f => Sys2Proof.Machine.execBitOr f s
  | .bitXor f => Sys2Proof.Machine.execBitXor f s
  | .shl f => Sys2Proof.Machine.execShl f s
  | .shr f => Sys2Proof.Machine.execShr f s
  | .sar f => Sys2Proof.Machine.execSar f s
  | .rotr f => Sys2Proof.Machine.execRotr f s
  | .extu f => Sys2Proof.Machine.execExtu f s
  | .exts f => Sys2Proof.Machine.execExts f s
  | .insf f => Sys2Proof.Machine.execInsf f s
  | .cnt f => Sys2Proof.Machine.execCnt f s
  | .bswap f => Sys2Proof.Machine.execBswap f s
  | .br f => Sys2Proof.Machine.execBr f s
  | .jmp f => Sys2Proof.Machine.execJmp f s
  | .call f => Sys2Proof.Machine.execCall f s
  | .callr f => Sys2Proof.Machine.execCallr f s
  | .ret f => Sys2Proof.Machine.execRet f s
  | .loop f => Sys2Proof.Machine.execLoop f s
  | .lexit f => Sys2Proof.Machine.execLexit f s
  | .susp f => Sys2Proof.Machine.execSusp f s
  | .spawn f => Sys2Proof.Machine.execSpawn f s
  | .exit f => Sys2Proof.Machine.execExit f s
  | .crrd f => Sys2Proof.Machine.execCrrd f s
  | .crwr f => Sys2Proof.Machine.execCrwr f s
  | .crset f => Sys2Proof.Machine.execCrset f s
  | .trap f => Sys2Proof.Machine.execTrap f s
  | .tret f => Sys2Proof.Machine.execTret f s
  | .issueat f => Sys2Proof.Machine.execIssueat f s
  | .frmwait f => Sys2Proof.Machine.execFrmwait f s
  | .timeat f => Sys2Proof.Machine.execTimeat f s
  | .accsp f => Sys2Proof.Machine.execAccsp f s
  | .accfl f => Sys2Proof.Machine.execAccfl f s
  | .msps f => Sys2Proof.Machine.execMsps f s
  | .msfl f => Sys2Proof.Machine.execMsfl f s
  | .mark f => Sys2Proof.Machine.execMark f s
  | .pbld f => Sys2Proof.Machine.execPbld f s
  | .psend f => Sys2Proof.Machine.execPsend f s
  | .dwait f => Sys2Proof.Machine.execDwait f s
  | .darm f => Sys2Proof.Machine.execDarm f s
  | .dread f => Sys2Proof.Machine.execDread f s
  | .dadd f => Sys2Proof.Machine.execDadd f s
  | .dset f => Sys2Proof.Machine.execDset f s
  | .vaiAdd f => Sys2Proof.Machine.execVaiAdd f s
  | .vaiSub f => Sys2Proof.Machine.execVaiSub f s
  | .vaiMul f => Sys2Proof.Machine.execVaiMul f s
  | .vaiMulh f => Sys2Proof.Machine.execVaiMulh f s
  | .vaiMin f => Sys2Proof.Machine.execVaiMin f s
  | .vaiMax f => Sys2Proof.Machine.execVaiMax f s
  | .vaiAbs f => Sys2Proof.Machine.execVaiAbs f s
  | .vaiAnd f => Sys2Proof.Machine.execVaiAnd f s
  | .vaiOr f => Sys2Proof.Machine.execVaiOr f s
  | .vaiXor f => Sys2Proof.Machine.execVaiXor f s
  | .vaiShl f => Sys2Proof.Machine.execVaiShl f s
  | .vaiShr f => Sys2Proof.Machine.execVaiShr f s
  | .vaiSar f => Sys2Proof.Machine.execVaiSar f s
  | .vaiCmp f => Sys2Proof.Machine.execVaiCmp f s
  | .vfpAdd f => Sys2Proof.Machine.execVfpAdd f s
  | .vfpSub f => Sys2Proof.Machine.execVfpSub f s
  | .vfpMul f => Sys2Proof.Machine.execVfpMul f s
  | .vfpFma f => Sys2Proof.Machine.execVfpFma f s
  | .vfpFms f => Sys2Proof.Machine.execVfpFms f s
  | .vfpFnma f => Sys2Proof.Machine.execVfpFnma f s
  | .vfpMin f => Sys2Proof.Machine.execVfpMin f s
  | .vfpMax f => Sys2Proof.Machine.execVfpMax f s
  | .vfpAbs f => Sys2Proof.Machine.execVfpAbs f s
  | .vfpNeg f => Sys2Proof.Machine.execVfpNeg f s
  | .vfpCmp f => Sys2Proof.Machine.execVfpCmp f s
  | .vfpScal f => Sys2Proof.Machine.execVfpScal f s
  | .vfpRint f => Sys2Proof.Machine.execVfpRint f s
  | .vfpCpsgn f => Sys2Proof.Machine.execVfpCpsgn f s
  | .vperm f => Sys2Proof.Machine.execVperm f s
  | .vcmpr f => Sys2Proof.Machine.execVcmpr f s
  | .vexpd f => Sys2Proof.Machine.execVexpd f s
  | .vmatch f => Sys2Proof.Machine.execVmatch f s
  | .vredsum f => Sys2Proof.Machine.execVredsum f s
  | .vredmin f => Sys2Proof.Machine.execVredmin f s
  | .vredmax f => Sys2Proof.Machine.execVredmax f s
  | .vscan f => Sys2Proof.Machine.execVscan f s
  | .vcvt f => Sys2Proof.Machine.execVcvt f s
  | .vquant f => Sys2Proof.Machine.execVquant f s
  | .vdqnt f => Sys2Proof.Machine.execVdqnt f s
  | .vbcst f => Sys2Proof.Machine.execVbcst f s
  | .vexp2 f => Sys2Proof.Machine.execVexp2 f s
  | .vlog2 f => Sys2Proof.Machine.execVlog2 f s
  | .vrcp f => Sys2Proof.Machine.execVrcp f s
  | .vrsqrt f => Sys2Proof.Machine.execVrsqrt f s
  | .vsqrt f => Sys2Proof.Machine.execVsqrt f s
  | .vsinpi f => Sys2Proof.Machine.execVsinpi f s
  | .vcospi f => Sys2Proof.Machine.execVcospi f s
  | .vtanh f => Sys2Proof.Machine.execVtanh f s
  | .verf f => Sys2Proof.Machine.execVerf f s
  | .mcfg f => Sys2Proof.Machine.execMcfg f s
  | .mcfgr f => Sys2Proof.Machine.execMcfgr f s
  | .mlgd f => Sys2Proof.Machine.execMlgd f s
  | .mlgs f => Sys2Proof.Machine.execMlgs f s
  | .mdsc f => Sys2Proof.Machine.execMdsc f s
  | .mzero f => Sys2Proof.Machine.execMzero f s
  | .mbeat f => Sys2Proof.Machine.execMbeat f s
  | .mbeatq f => Sys2Proof.Machine.execMbeatq f s
  | .mdrn f => Sys2Proof.Machine.execMdrn f s
  | .mfil f => Sys2Proof.Machine.execMfil f s
  | .mstc f => Sys2Proof.Machine.execMstc f s
  | .ld f => Sys2Proof.Machine.execLd f s
  | .ldLong f => Sys2Proof.Machine.execLdLong f s
  | .st f => Sys2Proof.Machine.execSt f s
  | .stLong f => Sys2Proof.Machine.execStLong f s
  | .ldsp f => Sys2Proof.Machine.execLdsp f s
  | .stsp f => Sys2Proof.Machine.execStsp f s
  | .ldrs f => Sys2Proof.Machine.execLdrs f s
  | .strs f => Sys2Proof.Machine.execStrs f s
  | .gath f => Sys2Proof.Machine.execGath f s
  | .scat f => Sys2Proof.Machine.execScat f s
  | .tagl f => Sys2Proof.Machine.execTagl f s
  | .tagw f => Sys2Proof.Machine.execTagw f s
  | .fes f => Sys2Proof.Machine.execFes f s
  | .fec f => Sys2Proof.Machine.execFec f s
  | .sbind f => Sys2Proof.Machine.execSbind f s
  | .sfree f => Sys2Proof.Machine.execSfree f s
  | .sstat f => Sys2Proof.Machine.execSstat f s
  | .copy f => Sys2Proof.Machine.execCopy f s
  | .bbset f => Sys2Proof.Machine.execBbset f s
  | .bbwait f => Sys2Proof.Machine.execBbwait f s
  | .cmnt f => Sys2Proof.Machine.execCmnt f s
  | .fence f => Sys2Proof.Machine.execFence f s
  | .icinv f => Sys2Proof.Machine.execIcinv f s
  | .tclk f => Sys2Proof.Machine.execTclk f s
  | .tculk f => Sys2Proof.Machine.execTculk f s
  | .aadd f => Sys2Proof.Machine.execAadd f s
  | .amin f => Sys2Proof.Machine.execAmin f s
  | .amax f => Sys2Proof.Machine.execAmax f s
  | .aand f => Sys2Proof.Machine.execAand f s
  | .aor f => Sys2Proof.Machine.execAor f s
  | .axor f => Sys2Proof.Machine.execAxor f s
  | .axchg f => Sys2Proof.Machine.execAxchg f s
  | .acas f => Sys2Proof.Machine.execAcas f s
  | .pushi n => Sys2Proof.Machine.execPushi n s
  | .xtnd n => Sys2Proof.Machine.execXtnd n s
  | .ldw ix => Sys2Proof.Machine.execLdw ix s
  | .stw ix => Sys2Proof.Machine.execStw ix s
  | .addi n => Sys2Proof.Machine.execAddi n s
  | .env src => Sys2Proof.Machine.execEnv src s
  | .pld ix => Sys2Proof.Machine.execPld ix s
  | .pst ix => Sys2Proof.Machine.execPst ix s
  | .pvadd t src => Sys2Proof.Machine.execPvadd t src s
  | .comb t => Sys2Proof.Machine.execComb t s
  | .skz n => Sys2Proof.Machine.execSkz n s
  | .sknz n => Sys2Proof.Machine.execSknz n s
  | .skip n => Sys2Proof.Machine.execSkip n s
  | .clon m => Sys2Proof.Machine.execClon m s
  | .fwd d => Sys2Proof.Machine.execFwd d s
  | .least m => Sys2Proof.Machine.execLeast m s
  | .park c => Sys2Proof.Machine.execPark c s
  | .sysCrclr f => Sys2Proof.Machine.execSysCrclr f s
  | .taskDispatch => Sys2Proof.Machine.execTaskDispatch s
  | .taskResume => Sys2Proof.Machine.execTaskResume s
  | .errorRecordWrite => Sys2Proof.Machine.execErrorRecordWrite s
  | .tlbInvalidationComplete => Sys2Proof.Machine.execTlbInvalidationComplete s
  | .packageReset => Sys2Proof.Machine.execPackageReset s
  | .warmReset => Sys2Proof.Machine.execWarmReset s
  | .dup => Sys2Proof.Machine.execDup s
  | .drop => Sys2Proof.Machine.execDrop s
  | .swap => Sys2Proof.Machine.execSwap s
  | .transitAdd => Sys2Proof.Machine.execTransitAdd s
  | .transitSub => Sys2Proof.Machine.execTransitSub s
  | .transitAnd => Sys2Proof.Machine.execTransitAnd s
  | .transitOr => Sys2Proof.Machine.execTransitOr s
  | .transitXor => Sys2Proof.Machine.execTransitXor s
  | .transitShl => Sys2Proof.Machine.execTransitShl s
  | .transitShr => Sys2Proof.Machine.execTransitShr s
  | .ceq => Sys2Proof.Machine.execCeq s
  | .clt => Sys2Proof.Machine.execClt s
  | .cltu => Sys2Proof.Machine.execCltu s
  | .wpld => Sys2Proof.Machine.execWpld s
  | .wpst => Sys2Proof.Machine.execWpst s
  | .wpadd => Sys2Proof.Machine.execWpadd s
  | .wpclm => Sys2Proof.Machine.execWpclm s
  | .dlvr => Sys2Proof.Machine.execDlvr s
  | .kill => Sys2Proof.Machine.execKill s

end Sys2Proof.Machine
end

