-- ==== Sys2Proof/Machine/Step.lean ====
section
/-! DEFINITION. One step of the package: what acts next, and the instruction that it executes. -/

namespace Sys2Proof.Machine

/-- One step. -/
def step (s : State) : Host.Outcome State Fault Refusal :=
  match s.nextTodo with
  | .run i t => exec i t
  | .done t => .next t

/-- The state with the instruction whose table bits are `w` placed where the next step fetches. -/
def State.withFetchWord (s : State) (nbits w : Nat) : State :=
  let s := { s with agenda := [placedAct nbits] }
  if nbits = 16 then s.placeTransit (BitVec.ofNat 16 w)
  else s.placeText [BitVec.ofNat 32 w, BitVec.ofNat 32 (w / 2 ^ 32), BitVec.ofNat 32 (w / 2 ^ 64)]

end Sys2Proof.Machine
end

