-- ==== Sys2Proof/Safety.lean ====
section
/-! DEFINITION. What counts as a sound state and a safe run of the package, and the terms that the statements are written in: every sparse
store keeps its canonical form, and no step is refused or faults but for an ill-formed event. -/

namespace Sys2Proof

open Machine

/-- Whether the bytes of package memory, the second tier, CXL and host memory are listed in canonical form (R21). -/
def MemoryCanonical (s : State) : Prop := Memory.wf s.mem.mem = true

/-- Whether a step goes on to a next state. -/
def GoesOn (s : State) : Prop := ∃ t, step s = .next t

/-- Whether an act names only instructions that the machine's encodings admit. -/
def ActOk : Act → Bool
  | .ev i => WellFormed i
  | _ => true

/-- Whether the act that comes next is well formed. -/
def NextActOk (s : State) : Bool :=
  match s.agenda with
  | a :: _ => ActOk a
  | [] => ActOk (Config.freeAct s.free)

end Sys2Proof

namespace Sys2Proof.Claims

open Machine

/-! ## An operation issued by itself -/

/-- Operation `i` in the form `f` issues on the current core and reads the operands `x`: the form is one that the encodings admit, its
guard is true (R74), nothing it reads or writes holds it (R76), every operand can be read (R137, R425), no pinned overrun stands
(R354) and no datapath check of the core has failed (R395). -/
structure Issues (i : Instr) (use : Use) (s : State) (row : OpRow) (f : Form) (x : Args) : Prop where
  op : opRow i = some (row, f)
  shape : formOk row f = true
  guard : s.core.guardOf f = true
  args : fetchArgs row use f s.core = x
  ready : x.block = false
  given : x.conds = []
  onTime : s.core.overrunFound = []
  sound : s.core.check = none

/-- The state in which the bundle of an operation with operands `x` has begun to issue: what held it is over, and the result ports of a
Wyilo operation are void until it writes them (R130). -/
def begun (s : State) (x : Args) : State := s.onCore fun c => c.beginIssue.voidPorts x

/-- The state after an operation with one fixed-latency result: value `v` and flags `fl` to the destination `x.y`. Native code has the
result on its way for `lat` cycles (R77), Wyilo has it in its port and FSTAT at once (R130). -/
def answered (s : State) (x : Args) (lat : Nat) (v : Vec) (fl : FFlags) : State :=
  s.onCore fun c => (c.beginIssue.voidPorts x).putResult x s.now lat x.y v fl

/-- Wherever it issues, an operation answers the next state in which `val` of its operands is its result, `lat` cycles on, with no
flag. -/
def Gives (op : Form → Instr) (use : Form → Use) (lat : Nat) (val : Args → Word) : Prop :=
  ∀ f s row x, Issues (op f) (use f) s row f x → exec (op f) s = .next (answered s x lat (wide (val x)) 0)

/-- The same for an operation whose 64-bit result is given bit by bit. -/
def GivesBits (op : Form → Instr) (use : Form → Use) (lat : Nat) (bit : Args → Nat → Bool) : Prop :=
  ∀ f s row x, Issues (op f) (use f) s row f x →
    ∃ v : Word, exec (op f) s = .next (answered s x lat (wide v) 0) ∧ ∀ i, i < 64 → v.getLsbD i = bit x i

/-- An operation reads both of its operands a and b. -/
def readsAB : Form → Use := fun _ => {}
/-- An operation reads a alone. -/
def readsA : Form → Use := fun _ => { b := noB }
/-- An operation reads a, b and c. -/
def readsABC : Form → Use := fun _ => { c := true }

/-- The trap of a condition `k` that is the only one an operation of `row` in form `f` meets (R421, R435). -/
def onlyTrap (s : State) (row : OpRow) (f : Form) (k : Cond) : TrapInfo :=
  { sup := supLevel k.cls k.code, cls := k.cls, code := k.code, tvpc := s.core.ctx.pc,
    tslot := ((formSlot row f).setWidth 64 <<< 8) ||| ((1 : Word) <<< (formSlot row f).toNat),
    tinfo := k.tinfo, tmove := tmoveOf k.opnd 0, va := k.va }

/-- Operation `i` stops with that trap pending and with no other effect (R79). -/
def StopsWith (i : Instr) (s : State) (row : OpRow) (f : Form) (k : Cond) : Prop :=
  exec i s = .next (s.onCore fun c => c.stopWith (onlyTrap s row f k))

/-! ## Fields -/

/-- The width of a field at `off` that is cut at bit 63 (R179). -/
def cutWidth (off w : Nat) : Nat := min w (64 - off)
/-- The offset and width operands of the field operations (R179). -/
def fieldOff (x : Args) : Nat := x.b64.toNat % 256
def fieldLen (x : Args) : Nat := cutWidth (fieldOff x) (if x.nat then x.b64.toNat / 256 % 256 else x.c64.toNat % 256)
/-- What the field operations read: c in Wyilo alone, and the base for ins. -/
def readsField : Form → Use := fun f => { c := isWy f }
def readsInsert : Form → Use := fun f => { c := isWy f, base := fun _ _ => true }

end Sys2Proof.Claims
end

