-- ==== Sys2Proof/Certificates/Slice0/Obligations.lean ====
section
/-! DEFINITION. The statements for the provers: what the operations, moves, events and steps of the machine do. -/

section

open Sys2Proof Sys2Proof.Machine Sys2Proof.Claims

/-! ## Integer and bit operations (R174-R180) -/

/-- add, sub, the multiplies, min and max, abs and the 32-bit operations give the low 64 bits of the values of R174, and raise no flag;
the multiplies take 3 cycles, the others 1 (R77). -/
def Sys2Proof.Claims.IntegerArithmetic : Prop :=
  Gives .add readsAB 1 (fun x => x.a64 + x.b64) ∧
  Gives .sub readsAB 1 (fun x => x.a64 - x.b64) ∧
  Gives .mul readsAB 3 (fun x => x.a64 * x.b64) ∧
  Gives .mulh readsAB 3 (fun x => (x.a64.signExtend 128 * x.b64.signExtend 128).extractLsb' 64 64) ∧
  Gives .mulhu readsAB 3 (fun x => (x.a64.setWidth 128 * x.b64.setWidth 128).extractLsb' 64 64) ∧
  Gives .imin readsAB 1 (fun x => if x.b64.slt x.a64 then x.b64 else x.a64) ∧
  Gives .imax readsAB 1 (fun x => if x.a64.slt x.b64 then x.b64 else x.a64) ∧
  Gives .minu readsAB 1 (fun x => if x.b64.ult x.a64 then x.b64 else x.a64) ∧
  Gives .maxu readsAB 1 (fun x => if x.a64.ult x.b64 then x.b64 else x.a64) ∧
  Gives .iabs readsA 1 (fun x => if x.a64.msb then -x.a64 else x.a64) ∧
  Gives .addw readsAB 1 (fun x => (x.a64.setWidth 32 + x.b64.setWidth 32).signExtend 64) ∧
  Gives .subw readsAB 1 (fun x => (x.a64.setWidth 32 - x.b64.setWidth 32).signExtend 64) ∧
  Gives .mulw readsAB 3 (fun x => (x.a64.setWidth 32 * x.b64.setWidth 32).signExtend 64)

/-- div, divu, rem and remu by a divisor other than 0: the quotient truncated toward zero, and the remainder with the sign of the
dividend (R174). -/
def Sys2Proof.Claims.DivisionAndRemainder : Prop :=
  ∀ s row x, x.b64 ≠ 0 →
    (∀ f, Issues (.div f) {} s row f x → exec (.div f) s = .next (answered s x 1 (wide (x.a64.sdiv x.b64)) 0)) ∧
    (∀ f, Issues (.divu f) {} s row f x → exec (.divu f) s = .next (answered s x 1 (wide (x.a64.udiv x.b64)) 0)) ∧
    (∀ f, Issues (.rem f) {} s row f x → exec (.rem f) s = .next (answered s x 1 (wide (x.a64.srem x.b64)) 0)) ∧
    (∀ f, Issues (.remu f) {} s row f x → exec (.remu f) s = .next (answered s x 1 (wide (x.a64.umod x.b64)) 0))

/-- The borderline results of division and magnitude are fixed, and none of them faults or sets a flag (R175). -/
def Obligations.DivisionCornersAreFixed : Prop :=
  ∀ s row f x,
    (x.b64 = 0 →
      (Issues (.div f) {} s row f x → exec (.div f) s = .next (answered s x 1 (wide 0xFFFFFFFFFFFFFFFF) 0)) ∧
      (Issues (.divu f) {} s row f x → exec (.divu f) s = .next (answered s x 1 (wide 0xFFFFFFFFFFFFFFFF) 0)) ∧
      (Issues (.rem f) {} s row f x → exec (.rem f) s = .next (answered s x 1 (wide x.a64) 0)) ∧
      (Issues (.remu f) {} s row f x → exec (.remu f) s = .next (answered s x 1 (wide x.a64) 0))) ∧
    (x.a64 = 0x8000000000000000 → x.b64 = 0xFFFFFFFFFFFFFFFF →
      (Issues (.div f) {} s row f x → exec (.div f) s = .next (answered s x 1 (wide 0x8000000000000000) 0)) ∧
      (Issues (.divu f) {} s row f x → exec (.divu f) s = .next (answered s x 1 (wide 0) 0)) ∧
      (Issues (.rem f) {} s row f x → exec (.rem f) s = .next (answered s x 1 (wide 0) 0)) ∧
      (Issues (.remu f) {} s row f x → exec (.remu f) s = .next (answered s x 1 (wide x.a64) 0))) ∧
    (x.a64 = 0x8000000000000000 → Issues (.iabs f) { b := noB } s row f x →
      exec (.iabs f) s = .next (answered s x 1 (wide 0x8000000000000000) 0))

/-- cmp writes 1 where the condition of its code 0-5 holds and 0 otherwise; native cmpn writes the negation; a reserved code 6 or 7,
which only Wyilo can give, stops cmp with the reserved-value fault (R176). -/
def Sys2Proof.Claims.CompareWritesItsCondition : Prop :=
  let holds (code : Nat) (a b : Word) : Bool :=
    if code = 0 then a == b else if code = 1 then a != b else if code = 2 then a.slt b else if code = 3 then !a.slt b
    else if code = 4 then a.ult b else !a.ult b
  let code (x : Args) : Nat := x.m.toNat / 2 ^ 16 % 8
  ∀ f s row x,
    (code x < 6 → Issues (.cmp f) {} s row f x →
      exec (.cmp f) s = .next (answered s x 1 (if holds (code x) x.a64 x.b64 then 1 else 0) 0)) ∧
    (6 ≤ code x → Issues (.cmp f) {} s row f x → StopsWith (.cmp f) s row f ⟨5, 0x11, 4, 3, x.m.setWidth 64, 0⟩) ∧
    (Issues (.cmpn f) {} s row f x → exec (.cmpn f) s = .next (answered s x 1 (if holds (code x) x.a64 x.b64 then 0 else 1) 0))

/-- lea adds b shifted left by bits 1:0 of c to a, and sel chooses a where bit 0 of c is 1 and b otherwise (R177). -/
def Sys2Proof.Claims.AddressAndSelect : Prop :=
  Gives .lea readsABC 1 (fun x => x.a64 + x.b64 * BitVec.ofNat 64 (2 ^ (x.c64.toNat % 4))) ∧
  Gives .sel readsABC 1 (fun x => if x.c64.getLsbD 0 then x.a64 else x.b64)

/-- The integer operations of R174 and R177: arithmetic, division by a divisor other than 0, lea and sel. -/
def Obligations.IntegerOperations : Prop :=
  IntegerArithmetic ∧ DivisionAndRemainder ∧ AddressAndSelect

/-- The logical operations and shifts: the count b is read as an unsigned 64-bit number, so that a count of 64 or more, a negative
native immediate among them, gives 0 in shl and shr and the sign fill in sar; rotr takes b[5:0] (R178). -/
def Obligations.LogicAndShifts : Prop :=
  GivesBits .bitAnd readsAB 1 (fun x i => x.a64.getLsbD i && x.b64.getLsbD i) ∧
  GivesBits .bitOr readsAB 1 (fun x i => x.a64.getLsbD i || x.b64.getLsbD i) ∧
  GivesBits .bitXor readsAB 1 (fun x i => x.a64.getLsbD i != x.b64.getLsbD i) ∧
  GivesBits .shl readsAB 1 (fun x i => decide (x.b64.toNat < 64) && decide (x.b64.toNat ≤ i) && x.a64.getLsbD (i - x.b64.toNat)) ∧
  GivesBits .shr readsAB 1 (fun x i => decide (x.b64.toNat < 64) && x.a64.getLsbD (i + x.b64.toNat)) ∧
  GivesBits .sar readsAB 1 (fun x i => if i + x.b64.toNat < 64 then x.a64.getLsbD (i + x.b64.toNat) else x.a64.getLsbD 63) ∧
  GivesBits .rotr readsAB 1 (fun x i => x.a64.getLsbD ((i + x.b64.toNat % 64) % 64))

/-- extu and exts take the field at the offset b[7:0], cut at bit 63, zero- or sign-extended; ins puts the low bits of a into it and
leaves the base's other bits. The width is b[15:8] in native code and c[7:0] in Wyilo (R179). -/
def Sys2Proof.Claims.BitFields : Prop :=
  GivesBits .extu readsField 1 (fun x i => decide (i < fieldLen x) && x.a64.getLsbD (fieldOff x + i)) ∧
  GivesBits .exts readsField 1 (fun x i =>
    decide (fieldLen x ≠ 0) && x.a64.getLsbD (fieldOff x + min i (fieldLen x - 1))) ∧
  GivesBits .insf readsInsert 1 (fun x i =>
    if fieldOff x ≤ i ∧ i < fieldOff x + fieldLen x then x.a64.getLsbD (i - fieldOff x) else x.base.getLsbD i)

/-- cnt counts the set bits, the leading zeros or the trailing zeros of a, each 64 at most, by the function b[7:0]; a function above 2
stops it with the reserved-value fault. bswap moves byte i to byte 7 - i (R180). -/
def Sys2Proof.Claims.CountsAndByteSwap : Prop :=
  (∀ f s row x, Issues (.cnt f) {} s row f x → x.b64.toNat % 256 = 0 →
    exec (.cnt f) s = .next (answered s x 1 (BitVec.ofNat 1024 ((List.range 64).filter fun i => x.a64.getLsbD i).length) 0)) ∧
  (∀ f s row x, Issues (.cnt f) {} s row f x → x.b64.toNat % 256 = 1 → ∃ n,
    exec (.cnt f) s = .next (answered s x 1 (BitVec.ofNat 1024 n) 0) ∧ n ≤ 64 ∧
      (∀ i, 64 - n ≤ i → x.a64.getLsbD i = false) ∧ (n < 64 → x.a64.getLsbD (63 - n) = true)) ∧
  (∀ f s row x, Issues (.cnt f) {} s row f x → x.b64.toNat % 256 = 2 → ∃ n,
    exec (.cnt f) s = .next (answered s x 1 (BitVec.ofNat 1024 n) 0) ∧ n ≤ 64 ∧
      (∀ i, i < n → x.a64.getLsbD i = false) ∧ (n < 64 → x.a64.getLsbD n = true)) ∧
  (∀ f s row x, Issues (.cnt f) {} s row f x → 2 < x.b64.toNat % 256 →
    StopsWith (.cnt f) s row f ⟨5, 0x11, 4, 1, x.b64, 0⟩) ∧
  GivesBits .bswap readsA 1 (fun x i => x.a64.getLsbD (8 * (7 - i / 8) + i % 8))

/-- The field operations, the bit counts, bswap and the scalar compares (R176, R179, R180). -/
def Obligations.FieldsCountsAndCompares : Prop :=
  BitFields ∧ CountsAndByteSwap ∧ CompareWritesItsCondition

/-! ## Operands, guards, holds and results (R67, R73-R77, R130, R160, R172, R396) -/

/-- The operand fields of a native SR word of a scalar operation name s[A] and, with X = 0, s[B], or with X = 1 the sign-extended 7-bit
immediate; its result goes to s[D]. In a vector word an index 32-63 names a scalar, zero-extended. A Wyilo operation reads its
instance's latches and writes its .y, and a void latch that it reads is a condition (R137, R160, R171, R172). -/
def Obligations.OperandFieldsAreRead : Prop :=
  ∀ (c : Core) (u : Unit13) (code : BitVec 5) (op : BitVec 6),
    (∀ slot gn g d a b x,
      let r := fetchArgs ⟨u, code, op, 0, 1, .sr .sreg true .any⟩ {} (.nat slot gn g (.sr d a b x)) c
      r.a64 = c.ctx.rdS (a.setWidth 6) ∧ r.b64 = (if x = 1 then b.signExtend 64 else c.ctx.rdS (b.setWidth 6)) ∧
      r.y = .s d ∧ r.nat = true) ∧
    (∀ k slot gn g d a b t,
      let r := fetchArgs ⟨u, code, op, 0, 1, .v k true⟩ {} (.nat slot gn g (.vr d a b t)) c
      let source (f : BitVec 7) : Vec :=
        if f.getLsbD 5 then (c.ctx.rdS ((f.setWidth 5).setWidth 6)).setWidth 1024 else c.ctx.rdV (f.setWidth 5)
      r.a = source a ∧ r.b = source b ∧ r.y = .v d ∧ r.z = .v (d + 1)) ∧
    (∀ sh inst va vb, (c.port (portIx u inst)).a = some va → (c.port (portIx u inst)).b = some vb →
      let r := fetchArgs ⟨u, code, op, 0, 1, sh⟩ {} (.wy inst) c
      r.a = va ∧ r.b = vb ∧ r.y = .y (portIx u inst) ∧ r.m = (c.port (portIx u inst)).m ∧ (c.tags = [] → r.conds = [])) ∧
    (∀ sh inst, (c.port (portIx u inst)).b = none →
      ⟨5, 0x11, 2, 1, 0, 0⟩ ∈ (fetchArgs ⟨u, code, op, 0, 1, sh⟩ {} (.wy inst) c).conds)

/-- A native result is readable from the cycle `lat` after its issue on, and a bundle issued earlier reads the previous value (R77);
s0 keeps reading 0 (R67). A Wyilo result stands in its unit's .y, and its flags in FSTAT, at once (R130). -/
def Obligations.ResultsArriveAfterTheirLatency : Prop :=
  ∀ (c : Core) (x : Args) (now lat : Nat) (v : Vec) (fl : FFlags),
    (x.nat = true → c.pend = [] → c.outst = [] → ∀ d : BitVec 6,
      let c1 := c.putResult x now lat (.s d) v fl
      (∀ t j, t < now + lat → (c1.landDue t).ctx.rdS j = c.ctx.rdS j) ∧
      (∀ t, now + lat ≤ t → d ≠ 0 → (c1.landDue t).ctx.rdS d = v.setWidth 64 ∧ (c1.landDue t).ctx.fullS d = true) ∧
      (∀ t j, j ≠ d ∨ d = 0 → (c1.landDue t).ctx.rdS j = c.ctx.rdS j) ∧
      (∀ t, now + lat ≤ t → (c1.landDue t).creg crFSTAT = c.creg crFSTAT ||| fl.setWidth 64)) ∧
    (x.nat = true → c.pend = [] → c.outst = [] → ∀ d : BitVec 5,
      let c1 := c.putResult x now lat (.v d) v fl
      (∀ t j, t < now + lat → (c1.landDue t).ctx.rdV j = c.ctx.rdV j) ∧
      (∀ t, now + lat ≤ t → (c1.landDue t).ctx.rdV d = v ∧ (c1.landDue t).ctx.fullV d = true) ∧
      (∀ t j, j ≠ d → (c1.landDue t).ctx.rdV j = c.ctx.rdV j)) ∧
    (x.nat = false → ∀ i : BitVec 6,
      ((c.putResult x now lat (.y i) v fl).port i).y = .val v ∧
      (c.putResult x now lat (.y i) v fl).creg crFSTAT = c.creg crFSTAT ||| fl.setWidth 64)

/-- s0 reads 0, ignores writes and is always full, and p0 reads true and ignores writes; every other register reads as it was last
written, and a write leaves the others alone (R67, R68). -/
def Obligations.HardWiredRegisters : Prop :=
  (∀ (c : Ctx) (v : Word) (b : Bool), c.rdS 0 = 0 ∧ c.fullS 0 = true ∧ (c.wrS 0 v) = c ∧ c.rdP 0 = true ∧ (c.wrP 0 b) = c) ∧
  (∀ (c : Ctx) (i : BitVec 6) (v : Word), i ≠ 0 → (c.wrS i v).rdS i = v ∧ (c.wrS i v).fullS i = true ∧
    ∀ j, j ≠ i → (c.wrS i v).rdS j = c.rdS j ∧ (c.wrS i v).fullS j = c.fullS j) ∧
  (∀ (c : Ctx) (i : BitVec 4) (b : Bool), i ≠ 0 → (c.wrP i b).rdP i = b ∧ ∀ j, j ≠ i → (c.wrP i b).rdP j = c.rdP j)

/-- An operation whose guard is false has no effect at all, whatever its operands (R74). -/
def Sys2Proof.Claims.FalseGuardHasNoEffect : Prop :=
  ∀ i s row f, opRow i = some (row, f) → formOk row f = true → s.core.guardOf f = false → exec i s = .next s

/-- The operations of a scalar SR word that read both of its operands. -/
def Sys2Proof.Claims.scalarOps : List (Form → Instr) :=
  [.add, .sub, .mul, .mulh, .mulhu, .div, .divu, .rem, .remu, .imin, .imax, .minu, .maxu, .addw, .subw, .mulw,
   .bitAnd, .bitXor, .shl, .shr, .sar, .rotr]

/-- A scalar operation whose operand a names an empty register issues nothing: with the wait bit set the core stays held on its
registers, and with it clear the operation stops with the empty-read fault, CLASS 0x11 CODE 0x0001, and takes no effect (R76, R79). -/
def Sys2Proof.Claims.EmptyRegisterHoldsOrFaults : Prop :=
  ∀ op ∈ scalarOps, ∀ s slot gn g d a b row,
    let f : Form := .nat slot gn g (.sr d a b 1)
    opRow (op f) = some (row, f) → formOk row f = true → s.core.guardOf f = true → s.core.ctx.fullS (a.setWidth 6) = false →
    s.core.check = none →
    (a.getLsbD 6 = true → exec (op f) s = .next (s.holdCore s.cur { regs := true })) ∧
    (a.getLsbD 6 = false → s.core.outstanding (.s d) = false → s.core.overrunFound = [] →
      StopsWith (op f) s row f ⟨5, 0x11, 1, 4, 0, 0⟩)

/-- `or d, a, s0` and `vor d, a, s0` in format VR copy the tag of their source with its value and raise no data error, where any other
operation that reads a tagged register stops with CLASS 0x30 CODE 0x0002, here `and` (R396). -/
def Sys2Proof.Claims.CarryingMovesKeepTags : Prop :=
  ∀ (s : State) (slot : BitVec 3) (gn : BitVec 1) (g : BitVec 4) (addr : Word), s.core.check = none →
    (∀ d a w, let f : Form := .nat slot gn g (.sr d a w 0)
      formOk ⟨.BIT, 5, 0x19, 0, 1, .sr .sreg true .any⟩ f = true → (w.setWidth 6 : BitVec 6) = 0 → s.core.guardOf f = true →
      s.core.ctx.fullS (a.setWidth 6) = true → s.core.outstanding (.s d) = false → s.core.overrunFound = [] →
      s.core.ownBad (.s 0) = false → s.core.ownBad (.s (a.setWidth 6)) = false → s.core.tagOf (.s (a.setWidth 6)) = some addr →
      exec (.bitOr f) s = .next (s.onCore fun c => { c.beginIssue with pend := c.pend ++
        [{ gen := c.sheetGen, due := s.now + 1, dst := .s d, val := wide (c.ctx.rdS (a.setWidth 6)), flags := 0,
           tag := some addr }] })) ∧
    (∀ d a, let f : Form := .nat slot gn g (.sr d a 0 0)
      formOk ⟨.BIT, 4, 0x18, 0, 1, .sr .sreg true .any⟩ f = true → s.core.guardOf f = true →
      s.core.ctx.fullS (a.setWidth 6) = true → s.core.outstanding (.s d) = false → s.core.overrunFound = [] →
      tagConds s.core (.s 0) 1 = [] → s.core.ownBad (.s (a.setWidth 6)) = false → s.core.tagOf (.s (a.setWidth 6)) = some addr →
      StopsWith (.bitAnd f) s ⟨.BIT, 4, 0x18, 0, 1, .sr .sreg true .any⟩ f ⟨6, 0x30, 2, 4, tagPlain addr, addr⟩) ∧
    (∀ d (a : BitVec 7) t, let f : Form := .nat slot gn g (.vr d a 32 t)
      formOk ⟨.VAI, 12, 0x9, 0, 1, .v .intg true⟩ f = true → s.core.guardOf f = true → a.getLsbD 5 = false →
      s.core.ctx.fullV (a.setWidth 5) = true → s.core.outstanding (.v d) = false → s.core.overrunFound = [] →
      s.core.ownBad (.s 0) = false → s.core.ownBad (.v (a.setWidth 5)) = false → s.core.tagOf (.v (a.setWidth 5)) = some addr →
      exec (.vaiOr f) s = .next (s.onCore fun c => { c.beginIssue with pend := c.pend ++
        [{ gen := c.sheetGen, due := s.now + 2, dst := .v d, val := c.ctx.rdV (a.setWidth 5), flags := 0,
           tag := some addr }] }))

/-- What decides whether an operation issues: its guard (R74), the full bits of what it reads (R76, R79), and tags (R396). -/
def Obligations.GuardsHoldsAndTags : Prop :=
  FalseGuardHasNoEffect ∧ EmptyRegisterHoldsOrFaults ∧ CarryingMovesKeepTags

/-! ## Transfers, loops and departures (R42-R47, R84-R86, R181-R185) -/

/-- What a BRC operation of a register or Wyilo target reads: its target a, in native code b, and in Wyilo the link index b of a call. -/
def Sys2Proof.Claims.readsTarget (linked : Bool) : Form → Use
  | .wy _ => { b := fun _ _ => linked }
  | .nat .. => {}

/-- The target of such an operation: a in Wyilo, a + b in native code (R182). -/
def Sys2Proof.Claims.targetOfJump (f : Form) (x : Args) : Word := match f with | .wy _ => x.a64 | .nat .. => x.a64 + x.b64

/-- jmp and ret in either form, and Wyilo br, continue at their target where a transfer may go there; callr in either form and Wyilo
call first write the virtual PC of the group after their own to the link register (R182). A target that no region starts at stops them
with CLASS 0x15 CODE 0x0001 (R137, R429). -/
def Sys2Proof.Claims.TransfersByAddress : Prop :=
  ∀ s row f x,
    (Issues (.jmp f) (readsTarget false f) s row f x → s.targetOk s.core.tenant (targetOfJump f x) = true →
      exec (.jmp f) s = .next ((begun s x).transfer s.cur (targetOfJump f x))) ∧
    (Issues (.ret f) (readsTarget false f) s row f x → s.targetOk s.core.tenant (targetOfJump f x) = true →
      exec (.ret f) s = .next ((begun s x).transfer s.cur (targetOfJump f x))) ∧
    (isWy f = true → Issues (.br f) (readsTarget false f) s row f x → s.targetOk s.core.tenant x.a64 = true →
      exec (.br f) s = .next ((begun s x).transfer s.cur x.a64)) ∧
    (Issues (.callr f) (readsTarget true f) s row f x → s.targetOk s.core.tenant (targetOfJump f x) = true →
      exec (.callr f) s = .next (((begun s x).setLink x.nat (if isWy f then bits x.b64 0 6 else bits x.c64 0 6)
        (begun s x).nextGroup).transfer s.cur (targetOfJump f x))) ∧
    (isWy f = true → Issues (.call f) (readsTarget true f) s row f x → s.targetOk s.core.tenant x.a64 = true →
      exec (.call f) s = .next (((begun s x).setLink false (bits x.b64 0 6) (begun s x).nextGroup).transfer s.cur x.a64)) ∧
    (Issues (.jmp f) (readsTarget false f) s row f x → s.targetOk s.core.tenant (targetOfJump f x) = false →
      StopsWith (.jmp f) s row f ⟨7, 0x15, 1, 4, targetOfJump f x, 0⟩)

/-- A transfer leaves the core at its target with every port of its depth void and every mode latch 0 (R136), within the open text
sheet where the target lies in it, and otherwise with the sheet committed, its gated entries on their way out in order (R335, R339). -/
def Sys2Proof.Claims.TransferIsAPortBoundary : Prop :=
  ∀ (s : State) (n : CoreNo) (a : Word),
    let c := s.coreAt n
    let t := (s.transfer n a).coreAt n
    t.ctx.pc = a ∧ t.depth = c.depth ∧ (∀ i, t.port i = {}) ∧
    (∀ sh, c.sheet = some sh → sh.bundle = none → sh.entry.toNat ≤ a.toNat → a.toNat < sh.entry.toNat + 4 * sh.text.length →
      t.sheet = some sh ∧ t.committed = c.committed) ∧
    (∀ sh, c.sheet = some sh → ¬ (sh.bundle = none ∧ sh.entry.toNat ≤ a.toNat ∧ a.toNat < sh.entry.toNat + 4 * sh.text.length) →
      t.sheet = none ∧
      t.committed = c.committed ++ sh.gated.map fun g => (c.depth, g.atCommit (s.plat.cycle - c.frozen) s.slotNow)) ∧
    (s.transfer n a).mem = s.mem

/-- Native br and call continue OFF bundles away from their own, at the bundle of the sheet in hand or at the sheet that begins there;
call first writes the virtual PC of the group after its own to its link register (R181, R182). -/
def Sys2Proof.Claims.NativeTransfersCountBundles : Prop :=
  ∀ s row slot gn g im e (k : Nat),
    s.nativeSheet s.cur = some (im, e, k) →
    (∀ (off : BitVec 21) x, let f : Form := .nat slot gn g (.sb off)
      Issues (.br f) { b := noB } s row f x →
      exec (.br f) s = .next ((s.onCore Core.beginIssue).toBundle s.cur ((k : Int) + off.toInt).toNat)) ∧
    (∀ d (off : BitVec 15) x, let f : Form := .nat slot gn g (.sd d off)
      Issues (.call f) { b := noB } s row f x →
      exec (.call f) s = .next (((s.onCore Core.beginIssue).setLink true d (s.onCore Core.beginIssue).nextGroup).toBundle s.cur
        ((k : Int) + off.toInt).toNat))

/-- The transfers of control continue at their targets, by address and, natively, by bundle, and are port boundaries (R136, R181, R182,
R335, R339). -/
def Obligations.TransfersContinueAtTheirTarget : Prop :=
  TransfersByAddress ∧ NativeTransfersCountBundles ∧ TransferIsAPortBoundary

/-- The fields of a loop's operand b (R183). -/
def Sys2Proof.Claims.loopEngine (x : Args) : BitVec 2 := bits x.b64 0 2
def Sys2Proof.Claims.loopPB (x : Args) : Nat := (bits x.b64 2 4 : BitVec 4).toNat
def Sys2Proof.Claims.loopStages (x : Args) : Nat := (bits x.b64 6 3 : BitVec 3).toNat + 1

/-- loop with an idle engine, a first stage predicate of at least 1, a last one of at most 15 and a count below 2^32 starts its engine
at the kernel that follows its group: the engine is active with one pass begun, its first stage predicate true and the others false
(R85, R183). An active engine, PB = 0, PB + NST - 1 above 15 or a greater count stops it (R183, R429). Stated for Wyilo text with no
pre-emption asked for and an engine whose storage is sound. -/
def Sys2Proof.Claims.LoopStartsItsEngine : Prop :=
  ∀ s row inst x, let f : Form := .wy inst
    Issues (.loop f) {} s row f x → s.nativeSheet s.cur = none → s.core.preempt = false →
    let e := loopEngine x
    s.core.ownBad (.lc e) = false →
    let tinfo : Word := (x.a64 &&& 0xFFFFFFFF00000000) ||| (x.b64 &&& 0x1FF)
    (lcAct (s.core.ctx.lc.get e) = false → loopPB x ≠ 0 → loopPB x + loopStages x - 1 ≤ 15 → x.a64.toNat < 2 ^ 32 → x.a64 ≠ 0 →
      ∃ t, exec (.loop f) s = .next t ∧ t.core.ctx.pc = s.core.ctx.pc ∧ t.core.ctx.loops = e :: s.core.ctx.loops ∧
        lcAct (t.core.ctx.lc.get e) = true ∧ lcStop (t.core.ctx.lc.get e) = false ∧
        (lcCount (t.core.ctx.lc.get e)).toNat = x.a64.toNat - 1 ∧
        t.core.ctx.rdP (BitVec.ofNat 4 (loopPB x)) = true ∧
        ∀ j, 1 ≤ j → j < loopStages x → t.core.ctx.rdP (BitVec.ofNat 4 (loopPB x + j)) = false) ∧
    (lcAct (s.core.ctx.lc.get e) = true → loopPB x ≠ 0 → loopPB x + loopStages x - 1 ≤ 15 → x.a64.toNat < 2 ^ 32 →
      StopsWith (.loop f) s row f ⟨7, 0x15, 2, 1, e.setWidth 64, 0⟩) ∧
    (lcAct (s.core.ctx.lc.get e) = false → (loopPB x = 0 ∨ 15 < loopPB x + loopStages x - 1) → x.a64.toNat < 2 ^ 32 →
      StopsWith (.loop f) s row f ⟨7, 0x15, 3, 1, tinfo, 0⟩) ∧
    (lcAct (s.core.ctx.lc.get e) = false → loopPB x ≠ 0 → loopPB x + loopStages x - 1 ≤ 15 → 2 ^ 32 ≤ x.a64.toNat →
      StopsWith (.loop f) s row f ⟨7, 0x15, 3, 4, tinfo, 0⟩)

/-- lexit leaves the innermost active loop at once: COUNT, STOP and ACT of its engine become 0, its stage predicates false, and control
continues at the group after its kernel, here with no loop around it; with no active loop it stops with CLASS 0x15 CODE 0x0004
(R184, R429). -/
def Sys2Proof.Claims.LoopExitLeavesAtOnce : Prop :=
  ∀ s row f x, Issues (.lexit f) { a := false, b := noB } s row f x →
    (∀ e, s.core.ctx.loops = [e] → s.core.ownBad (.lc e) = false →
      let z := s.core.ctx.lc.get e
      ∃ t, exec (.lexit f) s = .next t ∧ t.core.ctx.loops = [] ∧
        t.core.ctx.pc = (begun s x).afterKernel s.cur e ∧
        lcCount (t.core.ctx.lc.get e) = 0 ∧ lcStop (t.core.ctx.lc.get e) = false ∧ lcAct (t.core.ctx.lc.get e) = false ∧
        ∀ j, j < lcNST z → lcPB z + j < 16 → lcPB z ≠ 0 → t.core.ctx.rdP (BitVec.ofNat 4 (lcPB z + j)) = false) ∧
    (s.core.ctx.loops = [] → StopsWith (.lexit f) s row f ⟨7, 0x15, 4, 15, 0, 0⟩)

/-- loop starts its engine and lexit leaves the innermost loop (R85, R183, R184). -/
def Obligations.LoopsStartAndExit : Prop :=
  LoopStartsItsEngine ∧ LoopExitLeavesAtOnce

/-- exit commits the group and begins the task's departure; with nothing of the task still on its way the core is free at once (R47).
susp on an aligned, mapped record outside every loop begins its departure likewise (R42, R185), and inside a loop it stops with CLASS
0x15 CODE 0x0005. spawn of a valid record of its launch gates a package-scope release and the spawn (R46, R311). -/
def Sys2Proof.Claims.DeparturesBegin : Prop :=
  (∀ s row f x, Issues (.exit f) { a := false, b := noB } s row f x →
    exec (.exit f) s = .next ((begun s x).leaveBy s.cur .exit)) ∧
  (∀ s row f x pa m nc rest es, let a := recordAddr f x
    Issues (.susp f) (useRecord f) s row f x → (∀ i, lcAct (s.core.ctx.lc.get i) = false) →
    (∀ i, s.core.ownBad (.lc i) = false) → a.toNat % 64 = 0 →
    s.core.taggedLive = none → translateRange s s.cur s.core.tenant true a 64 .rw = .ok ((pa, m, nc) :: rest, es) →
    exec (.susp f) s = .next (((begun s x).keepTlb s.cur es).leaveBy s.cur (.susp a pa))) ∧
  (∀ s row f x i q, let a := recordAddr f x
    Issues (.susp f) (useRecord f) s row f x → lcAct (s.core.ctx.lc.get i) = true → (∀ j, s.core.ownBad (.lc j) = false) →
    a.toNat % 64 = 0 → s.core.taggedLive = none →
    translateRange s s.cur s.core.tenant true a 64 .rw = .ok q →
    StopsWith (.susp f) s row f ⟨7, 0x15, 5, 15, 0, 0⟩) ∧
  (∀ s row f x t v, let a := recordAddr f x
    Issues (.spawn f) (useRecord f) s row f x → a.toNat % 64 = 0 → s.readRecord s.cur a = .ok (some (t, v, none)) →
    s.spawnOk s.cur v = true →
    exec (.spawn f) s = .next ((begun s x).onCore fun c => (c.gate (.release 3 c.ops)).gate (.spawn a))) ∧
  (∀ s row f x, let a := recordAddr f x
    Issues (.spawn f) (useRecord f) s row f x → a.toNat % 64 ≠ 0 → StopsWith (.spawn f) s row f ⟨7, 0x15, 6, 4, a, 0⟩)

/-- A departing task whose results, gated stores, write streams, atomics and copies are done leaves its core without a task, and an
exit then ends it (R42, R47): nothing of its context stays, and the accumulator is released where it owned it (R55). -/
def Sys2Proof.Claims.ExitFreesTheCore : Prop :=
  ∀ (s : State) (n : CoreNo) r, (s.coreAt n).running = some r → s.mayLeave n = true →
    s.cores.any (fun kc => kc.2.copyQ.any fun e => e.task == r.task && !e.armed) = false →
    (s.coreAt n).tags = [] → (s.coreAt n).depth = 0 → (s.coreAt n).l1 = [] →
    let t := s.exitFinish n
    (t.coreAt n).running = none ∧ (t.coreAt n).leaving = .none ∧ (t.coreAt n).ctx = {} ∧ (t.coreAt n).lastTenant = some r.tenant ∧
    ((s.coreAt n).aown = (s.coreAt n).creg crSAVEA → (t.coreAt n).aown = 0)

/-- exit, susp and spawn, and the end of a task (R42, R46, R47, R185). -/
def Obligations.TasksLeaveAndSpawn : Prop :=
  DeparturesBegin ∧ ExitFreesTheCore

/-! ## Control registers, traps, issue times and spills (R69-R71, R87-R92, R186-R194) -/

/-- What crrd, trap and frmwait read: their number is a in Wyilo and the field of the word, operand b, in native code. -/
def Sys2Proof.Claims.readsNumber (f : Form) : Use := { a := isWy f, b := fun _ _ => !isWy f }
/-- That number (R186, R188, R191). -/
def Sys2Proof.Claims.numberOf (f : Form) (x : Args) : BitVec 8 := if isWy f then x.a64.setWidth 8 else x.b64.setWidth 8
/-- The control registers that the table of R69 defines. -/
def Sys2Proof.Claims.crDefined (i : BitVec 8) : Prop := i.toNat ≤ 0x16 ∨ (0x40 ≤ i.toNat ∧ i.toNat ≤ 0x44)

/-- crrd reads the control register of its number, and the value is there a cycle on (R186). An index that R69 does not define stops it
with CLASS 0x12 CODE 0x0002, and MSTAT while the accumulator is absent with CLASS 0x01 (R66, R231, R426). -/
def Sys2Proof.Claims.ControlRegistersRead : Prop :=
  ∀ s row f x, Issues (.crrd f) (readsNumber f) s row f x → s.core.ownBad (.cr (numberOf f x)) = false →
    (crDefined (numberOf f x) → (numberOf f x = 0x42 → s.core.accAbsent = false ∧ s.core.mxBad = []) →
      exec (.crrd f) s = .next (answered s x 1 (wide (s.crRead (numberOf f x))) 0)) ∧
    (¬ crDefined (numberOf f x) →
      StopsWith (.crrd f) s row f ⟨4, 0x12, 2, if isWy f then 4 else 15, (numberOf f x).setWidth 64, 0⟩) ∧
    (numberOf f x = 0x42 → s.core.accAbsent = true → s.core.mxBad = [] → StopsWith (.crrd f) s row f ⟨2, 1, 0, 15, s.core.aown, 0⟩)

/-- The control registers that a write stores whole (R69). -/
def Sys2Proof.Claims.wholeCrs : List (BitVec 8) := [0x05, 0x08, 0x0D, 0x0E, 0x0F, 0x10, 0x11, 0x14, 0x15, 0x41]
/-- The control registers that nothing but the device writes (R69). -/
def Sys2Proof.Claims.deviceCrs : List (BitVec 8) := [0x00, 0x01, 0x07, 0x09, 0x0A, 0x0B, 0x0C, 0x13, 0x40, 0x43, 0x44]
/-- Whether the context may write a control register: the handler registers above DEPTH 0, the supervisor's at PRIV 1 (R69, R70). -/
def Sys2Proof.Claims.mayWriteCr (c : Core) (i : BitVec 8) : Prop :=
  (i ∈ ([0x08, 0x14, 0x15] : List (BitVec 8)) → c.depth ≠ 0) ∧
  (i ∈ ([0x06, 0x0E, 0x0F, 0x10, 0x11, 0x12, 0x41] : List (BitVec 8)) → c.priv = true)

/-- crwr, crset and crclr change a control register after the other effects of their bundle, and crset and crclr return its old value, which
their storage still holds: a whole register is replaced, ORed with the mask or cleared of it, FMODE keeps its bits 63:3, a 1 written to
FSTAT clears a flag, with the flags that land in the same cycle raised after it, a write to a read-only register is ignored, and one that
the context may not do stops with CLASS 0x12 CODE 0x0001 (R7, R8, R69, R70, R186). -/
def Sys2Proof.Claims.ControlRegistersWrite : Prop :=
  ∀ s row f x, let i : BitVec 8 := x.b64.setWidth 8
    let old := s.crRead i
    (Issues (.crwr f) {} s row f x → i ∈ wholeCrs → mayWriteCr s.core i →
      exec (.crwr f) s = .next ((begun s x).onCore (Core.crStore · i x.a64))) ∧
    (Issues (.crset f) {} s row f x → i ∈ wholeCrs → mayWriteCr s.core i → s.core.ownBad (.cr i) = false →
      exec (.crset f) s = .next ((answered s x 1 (wide old) 0).onCore (Core.crStore · i (old ||| x.a64)))) ∧
    (Issues (.sysCrclr f) {} s row f x → i ∈ wholeCrs → mayWriteCr s.core i → s.core.ownBad (.cr i) = false →
      exec (.sysCrclr f) s = .next ((answered s x 1 (wide old) 0).onCore (Core.crStore · i (old &&& ~~~x.a64)))) ∧
    (Issues (.crwr f) {} s row f x → i = 0x02 →
      exec (.crwr f) s = .next ((begun s x).onCore (Core.crStore · i ((x.a64 &&& 7) ||| (old &&& ~~~7))))) ∧
    (Issues (.crwr f) {} s row f x → i = 0x03 →
      exec (.crwr f) s = .next ((begun s x).onCore fun c => (c.crStore i (old &&& ~~~(x.a64 &&& 0x1F))).orFstat c.landedFlags)) ∧
    (Issues (.crwr f) {} s row f x → i ∈ deviceCrs → exec (.crwr f) s = .next (begun s x)) ∧
    (Issues (.crwr f) {} s row f x → crDefined i → i ≠ 0x42 → ¬ mayWriteCr s.core i →
      StopsWith (.crwr f) s row f ⟨4, 0x12, 1, 1, i.setWidth 64, 0⟩)

/-- A control register that is written whole reads as it was written, and every other control register reads as before (R69). -/
def Sys2Proof.Claims.ControlRegisterFileKeepsOthers : Prop :=
  ∀ (s : State) (i : BitVec 8) (v : Word), i ∈ wholeCrs →
    (s.onCore (Core.crStore · i v)).crRead i = v ∧ ∀ j, j ≠ i → (s.onCore (Core.crStore · i v)).crRead j = s.crRead j

/-- Reads and writes of the control registers (R69, R70, R186). -/
def Obligations.ControlRegistersReadAndWrite : Prop :=
  ControlRegistersRead ∧ ControlRegistersWrite ∧ ControlRegisterFileKeepsOthers

/-- trap raises software trap n, CLASS 0x00 CODE n, taken after its group: it is pending with the virtual PC that control has come to, n
in TINFO and no slot named; numbers 128-255 go to the supervisor's level (R87, R188). -/
def Obligations.SoftwareTrapFollowsItsGroup : Prop :=
  ∀ s row f x, Issues (.trap f) (readsNumber f) s row f x → s.core.running.isSome = true → s.core.leaving = .none →
    let trap : TrapInfo := {
      sup := decide (128 ≤ (numberOf f x).toNat), cls := 0, code := (numberOf f x).setWidth 16, tvpc := s.core.ctx.pc, tslot := 0,
      tinfo := (numberOf f x).setWidth 64, tmove := 0x400 }
    exec (.trap f) s = .next ((begun s x).onCore fun c => { c with pendTrap := some trap })

/-- Taking a trap at depth 0 or 1, with every producer landed and its frame written: the trap registers hold the trap, the frame of the
old depth is stored with them, DEPTH rises by one, FMODE and FSTAT are 0, and control goes to SVEC for the supervisor's level and to
TVEC otherwise (R88-R90). While a result is outstanding the entry waits. -/
def Obligations.TrapEntrySavesState : Prop :=
  ∀ (s : State) (n : CoreNo) (t : TrapInfo), coreOk n = true → s.alive n = true → (s.coreAt n).pendTrap = some t →
    ((s.coreAt n).outst ≠ [] ∨ (s.coreAt n).pend ≠ [] → exec (.trapEntry n) s = .next s) ∧
    (t.cls ≠ 0x30 → t.cls ≠ 0x42 → s.faultHeld n t = false → (s.coreAt n).outst = [] → (s.coreAt n).pend = [] →
      (s.coreAt n).depth.toNat < 2 →
      let c := s.coreAt n
      let sup := t.sup || c.creg crTVEC == 0
      let cause : Word := (if sup then 0x8000000000000000 else 0) + t.cls.setWidth 64 * 0x10000 + t.code.setWidth 64
      let c1 := ((((c.setCreg crTCAUSE cause).setCreg crTVPC t.tvpc).setCreg crTSLOT t.tslot).setCreg crTINFO t.tinfo).setCreg crTMOVE
        t.tmove
      let c1 := { c1 with tags := c1.tags.filter fun x => !trapRegs.contains x.reg }
      ∀ s2, (s.setCoreAt n c1).ctxStore n (c.creg crTFBASE + 256 * c.depth.setWidth 64) c1.frame = .ok (some s2) →
        ∃ u, exec (.trapEntry n) s = .next u ∧ u.mem = s2.mem ∧
          let e := u.coreAt n
          e.pendTrap = none ∧ e.ctx.pc = (if sup then c.creg crSVEC else c.creg crTVEC) ∧ e.depth = c.depth + 1 ∧
          e.priv = (sup || c.priv) ∧ e.creg crTCAUSE = cause ∧ e.creg crTVPC = t.tvpc ∧ e.creg crTSLOT = t.tslot ∧
          e.creg crTINFO = t.tinfo ∧ e.creg crTMOVE = t.tmove ∧ e.creg crFMODE = 0 ∧ e.creg crFSTAT = 0 ∧
          (∀ i, e.ctx.rdS i = c.ctx.rdS i) ∧ (∀ i, e.ctx.rdV i = c.ctx.rdV i) ∧ (∀ i, e.ctx.rdP i = c.ctx.rdP i))

/-- tret above depth 0, its target the trapped address or a region start and its frame readable, restores from the frame DEPTH, PRIV,
FMODE, FSTAT, s1-s15 and the predicates, and control goes to TVPC (R91); at depth 0 it stops with CLASS 0x12 CODE 0x0004 (R426). Stated
for a handler with no open sheet, no result on its way to s1-s15 and sound TVPC and TFBASE, and a return to depth 0; FMODE and FSTAT take
the bits that R69 gives them. -/
def Obligations.TrapReturnRestoresItsFrame : Prop :=
  ∀ s row f x, Issues (.tret f) { a := false, b := noB } s row f x →
    s.core.ownBad (.cr (crTVPC.setWidth 8)) = false → s.core.ownBad (.cr (crTFBASE.setWidth 8)) = false →
    (s.core.depth = 0 → StopsWith (.tret f) s row f ⟨4, 0x12, 4, 15, 0, 0⟩) ∧
    (s.core.depth = 1 → (∀ o ∈ s.core.outst, ∀ i, o.dst = .s i → 16 ≤ i.toNat) → s.core.creg crTVPC = s.core.entryPc.get 0 →
      s.core.sheets = RF.fill none → s.trapReturn s.cur ≠ none →
      ∀ s1 s2 lo hi, (begun s x).ctxLoad s.cur (s.core.creg crTFBASE) 128 = .ok (some (s1, lo)) →
        s1.ctxLoad s.cur (s.core.creg crTFBASE + 128) 128 = .ok (some (s2, hi)) →
        ∃ t, exec (.tret f) s = .next t ∧ t.core.ctx.pc = s.core.creg crTVPC ∧ t.core.depth = 0 ∧
          t.core.priv = lo.getLsbD (8 * 0x28 + 2) ∧
          t.core.creg crFMODE = (lo.extractLsb' (8 * 0x30) 64 : Word) &&& 7 ∧
          t.core.creg crFSTAT = (lo.extractLsb' (8 * 0x38) 64 : Word) &&& 0x1F ∧
          (∀ i : BitVec 6, 1 ≤ i.toNat → i.toNat ≤ 8 →
            t.core.ctx.rdS i = lo.extractLsb' (8 * (0x38 + 8 * i.toNat)) 64) ∧
          (∀ i : BitVec 6, 9 ≤ i.toNat → i.toNat ≤ 15 →
            t.core.ctx.rdS i = hi.extractLsb' (8 * (0x38 + 8 * i.toNat - 128)) 64) ∧
          (∀ i : BitVec 6, 16 ≤ i.toNat → t.core.ctx.rdS i = s.core.ctx.rdS i) ∧
          (∀ i : BitVec 4, i ≠ 0 → t.core.ctx.rdP i = hi.getLsbD (8 * (0xB8 - 128) + i.toNat)))

/-- issueat, frmwait and timeat hold the next bundle: until SFC reaches a stamp, for n+1 slot boundaries, or until a meridian time. A
stamp that has passed sets LATE and waits for nothing, or for the next boundary in timeat; in the pinned regime it becomes the overrun of
the next bundle (R190-R192). A request for pre-emption that stands by then waits for that bundle too: that is the model's reading, log entry
74. mark adds a trace marker to the gated entries (R194, R337). -/
def Obligations.IssueTimesHoldTheNextBundle : Prop :=
  ∀ s row f x,
    (Issues (.issueat f) { b := noB } s row f x → exec (.issueat f) s = .next ((begun s x).onCore fun c =>
      let now := (s.core.creg crSFC).toNat
      if now < x.a64.toNat then { c with hold := .issueAt x.a64, waitsIssue := s.core.preempt }
      else if s.core.pin then { c with hold := .overrun 1 (x.a64 &&& 0x7FFFFFFFFFFFFFFF), waitsIssue := s.core.preempt }
      else { c with hold := .none }.setLate)) ∧
    (Issues (.frmwait f) (readsNumber f) s row f x → exec (.frmwait f) s = .next ((begun s x).onCore fun c =>
      { c with hold := .frmWait ((numberOf f x).toNat + 1), waitsIssue := s.core.preempt })) ∧
    (Issues (.timeat f) { b := noB } s row f x → exec (.timeat f) s = .next ((begun s x).onCore fun c =>
      if s.mtime ≤ x.a64.toNat then { c with hold := .timeAt x.a64, waitsIssue := s.core.preempt }
      else if s.core.pin then { c with hold := .overrun 3 (x.a64 &&& 0x7FFFFFFFFFFFFFFF), waitsIssue := s.core.preempt }
      else { c with hold := .timeAt (BitVec.ofNat 64 (s.mtime + 1)), waitsIssue := s.core.preempt }.setLate)) ∧
    (Issues (.mark f) {} s row f x →
      exec (.mark f) s = .next ((begun s x).onCore (Core.gate · (.mark (x.b64.setWidth 8) x.a64))))

/-- accsp and msps at PRIV 1, with an aligned address that translates for writing and nothing uncorrectable in what they store, gate the
stores of the accumulator's 4,096 bytes, element j of row r at 128r + 4j, and of the 64-byte matrix image: the Legend, MSTAT, MCFG, DSCA and
DSCB in this order. At PRIV 0 they stop with CLASS 0x12 CODE 0x0003 (R193, R232, R426). -/
def Sys2Proof.Claims.SpillsStoreTheMatrixState : Prop :=
  ∀ s row f x,
    (∀ runs es, Issues (.accsp f) { b := noB } s row f x → s.core.priv = true → x.a64.toNat % 64 = 0 → x.a64.toNat + 4096 ≤ 2 ^ 57 →
      s.core.mxBad = [] → spillConds s.core = [] → translateRange s s.cur s.core.tenant true x.a64 4096 .write = .ok (runs, es) →
      ∃ bs : List Byte, bs.length = 4096 ∧
        (∀ r j k, r < 32 → j < 32 → k < 4 →
          bs[128 * r + 4 * j + k]? = some ((s.core.acc.get (BitVec.ofNat 5 r)).extractLsb' (32 * j + 8 * k) 8)) ∧
        exec (.accsp f) s = .next (((begun s x).keepTlb s.cur es).onCore (Core.gateRuns · runs bs))) ∧
    (∀ runs es, Issues (.msps f) { b := noB } s row f x → s.core.priv = true → x.a64.toNat % 64 = 0 → x.a64.toNat + 64 ≤ 2 ^ 57 →
      s.core.mxBad = [] → translateRange s s.cur s.core.tenant true x.a64 64 .write = .ok (runs, es) →
      ∃ bs : List Byte, bs.length = 64 ∧
        (∀ k, k < 32 → bs[k]? = some (s.core.legend.extractLsb' (8 * k) 8)) ∧
        (∀ k, k < 8 → bs[32 + k]? = some (s.core.mstat.extractLsb' (8 * k) 8) ∧ bs[40 + k]? = some (s.core.mcfg.extractLsb' (8 * k) 8) ∧
          bs[48 + k]? = some (s.core.dsca.extractLsb' (8 * k) 8) ∧ bs[56 + k]? = some (s.core.dscb.extractLsb' (8 * k) 8)) ∧
        exec (.msps f) s = .next (((begun s x).keepTlb s.cur es).onCore (Core.gateRuns · runs bs))) ∧
    (s.core.priv = false → s.core.mxBad = [] → spillConds s.core = [] → x.a64.toNat % 64 = 0 → x.a64.toNat + 4096 ≤ 2 ^ 57 →
      (Issues (.accsp f) { b := noB } s row f x → StopsWith (.accsp f) s row f ⟨4, 0x12, 3, 15, 0, 0⟩) ∧
      (Issues (.msps f) { b := noB } s row f x → StopsWith (.msps f) s row f ⟨4, 0x12, 3, 15, 0, 0⟩))

/-- accfl and msfl at PRIV 1 with address 0 reset the accumulator to +0.0 and the matrix state to 0; from an aligned address whose
blocks can be read they load them, RES0 bits as 0; msfl empties the descriptor cache (R193, R232). -/
def Sys2Proof.Claims.FillsLoadTheMatrixState : Prop :=
  ∀ s row f x, s.core.priv = true →
    (Issues (.accfl f) { b := noB } s row f x → x.a64 = 0 →
      exec (.accfl f) s = .next ((begun s x).onCore fun c => Core.mxRepair { c with acc := RF.fill 0 } accItems)) ∧
    (Issues (.msfl f) { b := noB } s row f x → x.a64 = 0 →
      exec (.msfl f) s = .next ((begun s x).onCore fun c =>
        Core.mxRepair { c with legend := 0, mstat := 0, mcfg := 0, dsca := 0, dscb := 0, descCache := [] } imageItems)) ∧
    (∀ vs, Issues (.accfl f) { b := noB } s row f x → x.a64 ≠ 0 → x.a64.toNat % 64 = 0 → x.a64.toNat + 4096 ≤ 2 ^ 57 →
      readBlocks s x.a64 128 (List.range 32) = { data := vs } → ∃ t, exec (.accfl f) s = .next t ∧
        (∀ r, r < 32 → t.core.acc.get (BitVec.ofNat 5 r) = vs.getD r 0) ∧ t.core.ctx = (begun s x).core.ctx ∧ t.mem = s.mem) ∧
    (∀ v, Issues (.msfl f) { b := noB } s row f x → x.a64 ≠ 0 → x.a64.toNat % 64 = 0 → x.a64.toNat + 64 ≤ 2 ^ 57 →
      readBlocks s x.a64 64 [0] = { data := [v] } → ∃ t, exec (.msfl f) s = .next t ∧ t.core.legend = v.setWidth 256 ∧
        (∀ i, t.core.mstat.getLsbD i = ((decide (48 ≤ i ∧ i < 64) || decide (i ∈ [0, 2, 3, 4, 7])) && v.getLsbD (256 + i))) ∧
        (∀ i, i < 64 → t.core.mcfg.getLsbD i = ((decide (i < 2) || decide (8 ≤ i)) && v.getLsbD (320 + i))) ∧
        t.core.dsca = v.extractLsb' 384 64 ∧ t.core.dscb = v.extractLsb' 448 64 ∧ t.core.descCache = [] ∧
        t.core.ctx = (begun s x).core.ctx ∧ t.mem = s.mem)

/-- The supervisor's spills and fills of the accumulator and of the matrix state (R193, R232). -/
def Obligations.MatrixStateSpillsAndFills : Prop :=
  SpillsStoreTheMatrixState ∧ FillsLoadTheMatrixState

/-! ## Vector lanes (R204-R229) -/

/-- The bits of a lane, the number of lanes, and whether lanes are signed, under the mode of an operation (R129, R204). -/
def Sys2Proof.Claims.laneBits (x : Args) : Nat := etBits (mET x.m)
def Sys2Proof.Claims.laneCount (x : Args) : Nat := widthBits (mW x.m) / laneBits x
def Sys2Proof.Claims.intLane (x : Args) (i : Nat) (v : Vec) : Int := laneI (etSigned (mET x.m)) (laneBits x) i v
def Sys2Proof.Claims.fltLane (x : Args) (i : Nat) (v : Vec) : FV := (fmtOf (mET x.m)).decode (laneN (laneBits x) i v)

/-- The lanes of a result `v`: an active one satisfies `ok`, another keeps the merge value or is 0 under the zeroing mask, and nothing
stands above the last (R206, R207). -/
def Sys2Proof.Claims.Lanes (c : Core) (x : Args) (v : Vec) (ok : Nat → Nat → Prop) : Prop :=
  (∀ i, i < laneCount x → (laneActive c x.m i = true → ok i (laneN (laneBits x) i v)) ∧
    (laneActive c x.m i = false → laneN (laneBits x) i v = if mMRG x.m then laneN (laneBits x) i x.base else 0)) ∧
  ∀ j, laneBits x * laneCount x ≤ j → v.getLsbD j = false

/-- No control register that an operation rounds by, FMODE, SEED or QCFG, is in storage that is uncorrectable (R392, R395). -/
def Sys2Proof.Claims.ModesSound (c : Core) : Prop :=
  ∀ i ∈ [crFMODE, crSEED, crQCFG], c.ownBad (.cr (i.setWidth 8)) = false

/-- The mode of an operation of a kind names an element type that it takes, a width, and, where it rounds, a rounding
mode and sound registers to round by (R209, R395, R425). -/
def Sys2Proof.Claims.ModeOk (c : Core) (k : VKind) (rounds : Bool) (x : Args) : Prop :=
  etOk k (BitVec.ofNat 4 (mET x.m)) = true ∧ mW x.m ≠ 3 ∧
  (rounds = true → mRM x.m ≠ 5 ∧ mRM x.m ≠ 6 ∧ (mRM x.m = 7 → c.fmodeRm.toNat < 5) ∧ ModesSound c)

/-- Wherever it issues in an admitted mode, an operation answers the next state in which a vector with the lanes `ok` is its result. -/
def Sys2Proof.Claims.GivesLanes (op : Form → Instr) (k : VKind) (use : Use) (lat : Nat) (ok : Args → Nat → Nat → Prop) : Prop :=
  ∀ f s row x, Issues (op f) { use with base := useMerge } s row f x → ModeOk s.core k false x →
    ∃ v, exec (op f) s = .next (answered s x lat v 0) ∧ Lanes s.core x v (ok x)

/-- A lane of an integer operation whose exact value is `z`: cut to its low bits, or clamped to its type's range with SAT (R213). -/
def Sys2Proof.Claims.CutOrClamped (x : Args) (z : Int) (r : Nat) : Prop :=
  let e := laneBits x
  let lane : Int := if etSigned (mET x.m) then toSigned e r else r
  if mSAT x.m then lane = (if etSigned (mET x.m) then max (-(2 ^ (e - 1))) (min z (2 ^ (e - 1) - 1)) else max 0 (min z (2 ^ e - 1)))
  else (r : Int) = z % 2 ^ e

/-- The integer lanes of VAI: sums, differences, products and magnitudes cut or clamped, the high half of a product, minima, maxima and
bitwise operations; 2 cycles, no flag (R204-R207, R213). -/
def Obligations.IntegerLanes : Prop :=
  GivesLanes .vaiAdd .intg {} 2 (fun x i r => CutOrClamped x (intLane x i x.a + intLane x i x.b) r) ∧
  GivesLanes .vaiSub .intg {} 2 (fun x i r => CutOrClamped x (intLane x i x.a - intLane x i x.b) r) ∧
  GivesLanes .vaiMul .intg {} 2 (fun x i r => CutOrClamped x (intLane x i x.a * intLane x i x.b) r) ∧
  GivesLanes .vaiMulh .intg {} 2 (fun x i r => (r : Int) = (intLane x i x.a * intLane x i x.b / 2 ^ laneBits x) % 2 ^ laneBits x) ∧
  GivesLanes .vaiMin .intg {} 2 (fun x i r => r = if intLane x i x.b < intLane x i x.a then laneN (laneBits x) i x.b else laneN (laneBits x) i x.a) ∧
  GivesLanes .vaiMax .intg {} 2 (fun x i r => r = if intLane x i x.a < intLane x i x.b then laneN (laneBits x) i x.b else laneN (laneBits x) i x.a) ∧
  GivesLanes .vaiAbs .intg { b := noB } 2 (fun x i r => CutOrClamped x |intLane x i x.a| r) ∧
  GivesLanes .vaiAnd .intg {} 2 (fun x i r => r = laneN (laneBits x) i x.a &&& laneN (laneBits x) i x.b) ∧
  GivesLanes .vaiOr .intg {} 2 (fun x i r => r = laneN (laneBits x) i x.a ||| laneN (laneBits x) i x.b) ∧
  GivesLanes .vaiXor .intg {} 2 (fun x i r => r = laneN (laneBits x) i x.a ^^^ laneN (laneBits x) i x.b)

/-- The lane shifts take the unsigned value of each lane of b as the count: a count of e or more gives 0 in shl and shr and the sign
fill from bit e-1 in sar; their native opcodes are 0x0B, 0x0C and 0x0D (R214). -/
def Obligations.LaneShifts : Prop :=
  let count (x : Args) (i : Nat) : Nat := laneN (laneBits x) i x.b
  let bit (x : Args) (i j : Nat) : Bool := (laneN (laneBits x) i x.a).testBit j
  GivesLanes .vaiShl .intg {} 2 (fun x i r => ∀ j, j < laneBits x → r.testBit j = (decide (count x i ≤ j) && bit x i (j - count x i))) ∧
  GivesLanes .vaiShr .intg {} 2 (fun x i r => ∀ j, j < laneBits x →
    r.testBit j = (decide (j + count x i < laneBits x) && bit x i (j + count x i))) ∧
  GivesLanes .vaiSar .intg {} 2 (fun x i r => ∀ j, j < laneBits x →
    r.testBit j = bit x i (if j + count x i < laneBits x then j + count x i else laneBits x - 1)) ∧
  ∀ f, (opRow (.vaiShl f)).map (fun r => r.1.op) = some 0x0B ∧ (opRow (.vaiShr f)).map (fun r => r.1.op) = some 0x0C ∧
    (opRow (.vaiSar f)).map (fun r => r.1.op) = some 0x0D

/-- The lane compares write a mask: bit i is 1 where lane i is active and its condition eq, ne, lt or le holds, and every other bit of
the 128 is 0. A NaN makes only ne true, and -0 equals +0 (R215, R219). -/
def Sys2Proof.Claims.LaneCompares : Prop :=
  let gives (op : Form → Instr) (k : VKind) (holds : Args → Nat → Nat → Bool) : Prop :=
    ∀ f s row x, Issues (op f) {} s row f x → ModeOk s.core k false x →
      ∃ v : Vec, exec (op f) s = .next (answered s x 2 v 0) ∧
        ∀ i, v.getLsbD i = (decide (i < laneCount x) && laneActive s.core x.m i && holds x (x.m.toNat / 2 ^ 16 % 4) i)
  gives .vaiCmp .intg (fun x cc i =>
    let a := intLane x i x.a
    let b := intLane x i x.b
    if cc = 0 then a == b else if cc = 1 then a != b else if cc = 2 then decide (a < b) else decide (a ≤ b)) ∧
  gives .vfpCmp .flt (fun x cc i =>
    let a := fltLane x i x.a
    let b := fltLane x i x.b
    if a.isNan || b.isNan then cc == 1
    else if cc = 0 then !a.lt b && !b.lt a else if cc = 1 then a.lt b || b.lt a else if cc = 2 then a.lt b else !b.lt a)

/-- The rounding of a floating lane: its pattern and flags are those of `z` rounded once at element index `i`, and an invalid operation
adds NV (R96, R98). -/
def Sys2Proof.Claims.roundedLane (r : Rnd) (x : Args) (z : FV × Bool) (i : Nat) : Nat × FFlags :=
  let y := r.fmt (fmtOf (mET x.m)) z.1 i
  (y.1, if z.2 then y.2 ||| flNV else y.2)

/-- The state after an operation whose `n` lanes raise the flags `fl i` where they are active, with SEED advanced once in mode 4 (R102,
R103). -/
def Sys2Proof.Claims.answeredFlags (s : State) (x : Args) (lat : Nat) (v : Vec) (fl : Nat → FFlags) (rm : BitVec 3) : State :=
  (answered s x lat v (((List.range (laneCount x)).filter (laneActive s.core x.m)).foldl (fun a i => a ||| fl i) 0)).onCore
    (Core.seedStep · rm)

/-- Wherever a rounding operation issues in an admitted mode, its lanes are the exact values `z` rounded once, in 4 cycles. -/
def Sys2Proof.Claims.GivesRounded (op : Form → Instr) (use : Use) (z : Rnd → Args → Nat → FV × Bool) : Prop :=
  ∀ f s row x, Issues (op f) { use with base := useMerge } s row f x → ModeOk s.core .fltR true x →
    let r := rndOf s.core (effRm s.core x.m)
    ∃ v, exec (op f) s = .next (answeredFlags s x 4 v (fun i => (roundedLane r x (z r x i) i).2) r.rm) ∧
      Lanes s.core x v fun i y => y = (roundedLane r x (z r x i) i).1

/-- The sums, differences, products and fused forms of VFP: each active lane is the exact result of its operation, rounded once by RM
and QCFG; fma, fms and fnma round a*b+c, a*b-c and -(a*b)+c once; scal multiplies by two to the signed lane of b (R103, R207, R216,
R218). -/
def Obligations.FloatingLanesRoundOnce : Prop :=
  GivesRounded .vfpAdd {} (fun r x i => FV.add r.dn (fltLane x i x.a) (fltLane x i x.b)) ∧
  GivesRounded .vfpSub {} (fun r x i => FV.add r.dn (fltLane x i x.a) (fltLane x i x.b).negate) ∧
  GivesRounded .vfpMul {} (fun _ x i => FV.mul (fltLane x i x.a) (fltLane x i x.b)) ∧
  GivesRounded .vfpFma { c := true } (fun r x i =>
    let p := FV.mul (fltLane x i x.a) (fltLane x i x.b)
    let q := FV.add r.dn p.1 (fltLane x i x.c)
    (q.1, p.2 || q.2)) ∧
  GivesRounded .vfpFms { c := true } (fun r x i =>
    let p := FV.mul (fltLane x i x.a) (fltLane x i x.b)
    let q := FV.add r.dn p.1 (fltLane x i x.c).negate
    (q.1, p.2 || q.2)) ∧
  GivesRounded .vfpFnma { c := true } (fun r x i =>
    let p := FV.mul (fltLane x i x.a) (fltLane x i x.b)
    let q := FV.add r.dn p.1.negate (fltLane x i x.c)
    (q.1, p.2 || q.2)) ∧
  GivesRounded .vfpScal {} (fun _ x i => (scaleFV (fltLane x i x.a) (toSigned (laneBits x) (laneN (laneBits x) i x.b)), false))

/-- The floating lanes that raise no flag: min and max with -0 below +0 and the canonical NaN for a NaN operand; abs, neg and cpsgn
change the sign bit alone and canonicalise a NaN a (R217). rint gives an integral value of the format, with NX alone where it changed
its operand (R218). -/
def Sys2Proof.Claims.FloatingSelections : Prop :=
  let lane (x : Args) (i : Nat) (v : Vec) : Nat := laneN (laneBits x) i v
  let fm (x : Args) : FFmt := fmtOf (mET x.m)
  let gives (op : Form → Instr) (use : Use) (ok : Args → Nat → Nat → Prop) : Prop := GivesLanes op .flt use 4 ok
  let nan (x : Args) (i : Nat) : Bool := (fltLane x i x.a).isNan || (fltLane x i x.b).isNan
  gives .vfpMin {} (fun x i r => if nan x i then r = (fm x).nan else
    (r = lane x i x.a ∨ r = lane x i x.b) ∧
    ((fltLane x i x.a).lt (fltLane x i x.b) = true → r = lane x i x.a) ∧ ((fltLane x i x.b).lt (fltLane x i x.a) = true → r = lane x i x.b) ∧
    ((fltLane x i x.a).isZero = true → (fltLane x i x.b).isZero = true →
      ((fm x).decode r).sign = ((fltLane x i x.a).sign || (fltLane x i x.b).sign))) ∧
  gives .vfpMax {} (fun x i r => if nan x i then r = (fm x).nan else
    (r = lane x i x.a ∨ r = lane x i x.b) ∧
    ((fltLane x i x.a).lt (fltLane x i x.b) = true → r = lane x i x.b) ∧ ((fltLane x i x.b).lt (fltLane x i x.a) = true → r = lane x i x.a) ∧
    ((fltLane x i x.a).isZero = true → (fltLane x i x.b).isZero = true →
      ((fm x).decode r).sign = ((fltLane x i x.a).sign && (fltLane x i x.b).sign))) ∧
  gives .vfpAbs { b := noB } (fun x i r => if (fltLane x i x.a).isNan then r = (fm x).nan else
    ∀ j, j < laneBits x → r.testBit j = (decide (j ≠ laneBits x - 1) && (lane x i x.a).testBit j)) ∧
  gives .vfpNeg { b := noB } (fun x i r => if (fltLane x i x.a).isNan then r = (fm x).nan else
    ∀ j, j < laneBits x → r.testBit j = ((lane x i x.a).testBit j != decide (j = laneBits x - 1))) ∧
  gives .vfpCpsgn {} (fun x i r => if (fltLane x i x.a).isNan then r = (fm x).nan else
    ∀ j, j < laneBits x → r.testBit j = if j = laneBits x - 1 then (lane x i x.b).testBit j else (lane x i x.a).testBit j) ∧
  (∀ f s row x, Issues (.vfpRint f) { b := noB, base := useMerge } s row f x → ModeOk s.core .fltR true x →
    let r := rndOf s.core (effRm s.core x.m)
    ∃ v, exec (.vfpRint f) s = .next (answeredFlags s x 4 v (fun i => (rintPattern r (fm x) (lane x i x.a) i).2) r.rm) ∧
      Lanes s.core x v fun i y => y = (rintPattern r (fm x) (lane x i x.a) i).1 ∧ (rintPattern r (fm x) (lane x i x.a) i).2 &&& flNX =
        (rintPattern r (fm x) (lane x i x.a) i).2)

/-- The operations that move lanes: perm takes lane b[i] of a or 0 past the last, bcst one lane of a, match the lowest lane of b that
equals lane i of a or all ones, cmpr packs the active lanes of a low and expd spreads them (R220-R222); 3 cycles. -/
def Sys2Proof.Claims.LanesAreMoved : Prop :=
  let lane (x : Args) (i : Nat) (v : Vec) : Nat := laneN (laneBits x) i v
  let before (c : Core) (x : Args) (i : Nat) : Nat := ((List.range i).filter (laneActive c x.m)).length
  GivesLanes .vperm .perm {} 3 (fun x i r => r = if lane x i x.b < laneCount x then lane x (lane x i x.b) x.a else 0) ∧
  GivesLanes .vbcst .perm {} 3 (fun x _ r => r = if x.b.toNat % 65536 < laneCount x then lane x (x.b.toNat % 65536) x.a else 0) ∧
  GivesLanes .vmatch .perm {} 3 (fun x i r =>
    (r < laneCount x → lane x r x.b = lane x i x.a) ∧ (laneCount x ≤ r → r = 2 ^ laneBits x - 1) ∧
    ∀ j, j < laneCount x → j < r → lane x j x.b ≠ lane x i x.a) ∧
  (∀ f s row x, Issues (.vcmpr f) { b := noB, base := useMerge } s row f x → ModeOk s.core .perm false x →
    ∃ v, exec (.vcmpr f) s = .next (answered s x 3 v 0) ∧
      (∀ i, i < laneCount x → laneActive s.core x.m i = true → lane x (before s.core x i) v = lane x i x.a) ∧
      (∀ i, before s.core x (laneCount x) ≤ i → i < laneCount x → lane x i v = if mMRG x.m then lane x i x.base else 0) ∧
      ∀ j, laneBits x * laneCount x ≤ j → v.getLsbD j = false) ∧
  (∀ f s row x, Issues (.vexpd f) { b := noB, base := useMerge } s row f x → ModeOk s.core .perm false x →
    ∃ v, exec (.vexpd f) s = .next (answered s x 3 v 0) ∧ Lanes s.core x v fun i r => r = lane x (before s.core x i) x.a)

/-- Lane compares into masks, the floating lanes that raise no flag, with rint, and the operations that move lanes (R215, R217-R222). -/
def Obligations.LanesAreComparedSelectedAndMoved : Prop :=
  LaneCompares ∧ FloatingSelections ∧ LanesAreMoved

/-- The reductions of integer lanes: the sum of the active lanes cut to 64 bits, their minimum and their maximum, an inactive lane
standing as 0, as the largest or as the smallest value of the type; 6 cycles (R223). Of floating lanes: the fixed pairwise tree of R105,
an inactive lane standing as -0.0, +infinity or -infinity. -/
def Sys2Proof.Claims.ReductionsOfLanes : Prop :=
  let lanes (c : Core) (x : Args) (ident : Int) : List Int :=
    (List.range (laneCount x)).map fun i => if laneActive c x.m i then intLane x i x.a else ident
  let isInt (x : Args) : Prop := 5 ≤ mET x.m
  let e (x : Args) : Nat := laneBits x
  let top (x : Args) : Int := if etSigned (mET x.m) then 2 ^ (e x - 1) - 1 else 2 ^ e x - 1
  let bottom (x : Args) : Int := if etSigned (mET x.m) then -(2 ^ (e x - 1)) else 0
  ∀ f s row x,
    (Issues (.vredsum f) { b := noB } s row f x → ModeOk s.core .red false x → isInt x →
      exec (.vredsum f) s = .next (answered s x 6 (wide (BitVec.ofInt 64 (lanes s.core x 0).sum)) 0)) ∧
    (Issues (.vredmin f) { b := noB } s row f x → ModeOk s.core .red false x → isInt x →
      ∃ m, exec (.vredmin f) s = .next (answered s x 6 (wide (BitVec.ofInt 64 m)) 0) ∧ m ∈ lanes s.core x (top x) ∧
        ∀ y ∈ lanes s.core x (top x), m ≤ y) ∧
    (Issues (.vredmax f) { b := noB } s row f x → ModeOk s.core .red false x → isInt x →
      ∃ m, exec (.vredmax f) s = .next (answered s x 6 (wide (BitVec.ofInt 64 m)) 0) ∧ m ∈ lanes s.core x (bottom x) ∧
        ∀ y ∈ lanes s.core x (bottom x), y ≤ m) ∧
    (Issues (.vredsum f) { b := noB } s row f x → ModeOk s.core .red true x → mET x.m < 3 →
      let r := rndOf s.core (effRm s.core x.m)
      let fm := fmtOf (mET x.m)
      let leaf (i : Nat) : Nat := if laneActive s.core x.m i then laneN (laneBits x) i x.a else fm.signW
      ∃ y fl, treeFold (fun i (a b : Nat × FFlags) => ((addRounded r fm a.1 b.1 i).1, a.2 ||| b.2 ||| (addRounded r fm a.1 b.1 i).2))
          (Nat.log2 (laneCount x)) ((List.range (laneCount x)).map fun i => (leaf i, 0)) = [(y, fl)] ∧
        exec (.vredsum f) s = .next ((answered s x 6 (BitVec.ofNat 1024 y) fl).onCore (Core.seedStep · r.rm)))

/-- scan of integer lanes: lane i of the result is the sum of the active lanes up to i, cut to the lane, and inactive lanes keep the
merge value or are 0 (R224). cvt between integer types: each element of the source type is cut to the result type, or clamped to its
range with SAT (R225). -/
def Sys2Proof.Claims.ScansAndConversions : Prop :=
  (∀ f s row x, Issues (.vscan f) { b := noB, base := useMerge } s row f x → ModeOk s.core .red false x → 5 ≤ mET x.m →
    ∃ v, exec (.vscan f) s = .next (answered s x 6 v 0) ∧ Lanes s.core x v fun i r =>
      r = (((List.range (i + 1)).filter (laneActive s.core x.m)).map fun j => laneN (laneBits x) j x.a).sum % 2 ^ laneBits x) ∧
  (∀ f s row x, Issues (.vcvt f) { b := noB, base := useMerge } s row f x → ModeOk s.core .cvt true x → 5 ≤ mET x.m → 5 ≤ mDT x.m →
    etOk .cvt (BitVec.ofNat 4 (mDT x.m)) = true →
    let es := etBits (mET x.m)
    let ed := etBits (mDT x.m)
    let n := widthBits (mW x.m) / max es ed
    ∃ v, exec (.vcvt f) s = .next ((answered s x 3 v 0).onCore (Core.seedStep · (effRm s.core x.m))) ∧
      (∀ i, i < n → laneActive s.core x.m i = true →
        let z := laneI (etSigned (mET x.m)) es i x.a
        if x.m.getLsbD 21 then laneI (etSigned (mDT x.m)) ed i v =
          (if etSigned (mDT x.m) then max (-(2 ^ (ed - 1))) (min z (2 ^ (ed - 1) - 1)) else max 0 (min z (2 ^ ed - 1)))
        else (laneN ed i v : Int) = z % 2 ^ ed) ∧
      (∀ i, i < n → laneActive s.core x.m i = false → laneN ed i v = if mMRG x.m then laneN ed i x.base else 0) ∧
      ∀ j, ed * n ≤ j → v.getLsbD j = false)

/-- Reductions, scans and integer conversions of lanes (R105, R223-R225). -/
def Obligations.ReductionsScansAndConversions : Prop :=
  ReductionsOfLanes ∧ ScansAndConversions

/-- quant and dqnt of a group of admitted size, with the accumulator present: quant writes the codes and the descriptor that R110 gives
for the group's values and the Legend, and dqnt writes each code less the zero point times the Legend entry, rounded once, its upper half
to the second result (R109-R112, R226-R228); 3 cycles. -/
def Obligations.QuantisingGroups : Prop :=
  ∀ f s row x, ModeOk s.core .quant true { x with m := x.m &&& 0xFFFFFFCF } → s.core.mxBad = [] → (s.core.creg crQCFG).toNat / 2 ^ 8 % 4 ≠ 3 →
    quantGroup s.core * laneBits x ≤ 2048 → mME x.m = false → s.core.accAbsent = false → (x.nat = true → s.core.outstanding x.z = false) →
    let r := rndOf s.core (effRm s.core x.m)
    let fm := fmtOf (mET x.m)
    let qb := quantBits x.m
    (Issues (.vquant f) { b := fun c m => 1024 < quantGroup c * etBits (mET m) } s row f x →
      let xs := (List.range (quantGroup s.core)).map fun i =>
        fm.decode ((x.b.toNat * 2 ^ 1024 + x.a.toNat) / 2 ^ (laneBits x * i) % 2 ^ laneBits x)
      let q := quantise s.core.legend ((s.core.creg crQCFG).toNat / 2 ^ 12 % 16) qb r xs
      ∃ codes : Vec, (∀ i, i < quantGroup s.core → laneN qb i codes = q.1.getD i 0 % 2 ^ qb) ∧
        exec (.vquant f) s = .next (s.onCore fun c =>
          let c := { c.beginIssue with mstat := if q.2.2.2.2 then bumpZgc c.mstat else c.mstat }
          (((c.voidPorts x).putResult x s.now 3 x.y codes q.2.2.2.1).putResult x s.now 3 x.z
            (BitVec.ofNat 1024 (if qb = 8 then q.2.1 * 256 + q.2.2.1 else q.2.1 * 16 + q.2.2.1)) 0).seedStep r.rm)) ∧
    (Issues (.vdqnt f) {} s row f x →
      let d := x.b.toNat % 2 ^ (2 * qb)
      let z (i : Nat) : FV × Bool := FV.mul (legendAt s.core.legend (d / 2 ^ qb % 16)) (FV.ofInt ((laneN qb i x.a : Int) - (d % 2 ^ qb : Nat)) 0)
      let fl := (List.range (quantGroup s.core)).foldl (fun a i => a ||| (r.fmt fm (z i).1 i).2 ||| nvIf (z i).2) 0
      ∃ lo hi : Vec,
        (∀ i, i < quantGroup s.core →
          (hi.toNat * 2 ^ 1024 + lo.toNat) / 2 ^ (laneBits x * i) % 2 ^ laneBits x = (r.fmt fm (z i).1 i).1 % 2 ^ laneBits x) ∧
        exec (.vdqnt f) s = .next (s.onCore fun c =>
          (((c.beginIssue.voidPorts x).putResult x s.now 3 x.y lo fl).putResult x s.now 3 x.z hi 0).seedStep r.rm))

/-- The special functions answer, 14 cycles after commit, the function of every lane of a, with the flags of all lanes; a type they do
not take, a width other than 1,024 or a mask stops them with the reserved-value fault (R121-R125, R211, R229). Bypassed inputs give the
values of R124: here NaN, the infinities and 0 of vrcp, and negative operands of the roots and of vlog2. -/
def Obligations.SpecialFunctions : Prop :=
  let gives (op : Form → Instr) (fn : FFmt → Nat → Nat × FFlags) : Prop :=
    ∀ f s row x, Issues (op f) { b := noB } s row f x → mET x.m < 3 → mW x.m = 0 → mME x.m = false →
      ∃ v : Vec, (∀ i, i < laneCount x → laneN (laneBits x) i v = (fn (fmtOf (mET x.m)) (laneN (laneBits x) i x.a)).1 % 2 ^ laneBits x) ∧
        exec (op f) s = .next (s.onCore fun c => c.beginIssue.produce x x.y (.ready v (some (s.now + 14)))
          ((List.range (laneCount x)).foldl (fun a i => a ||| (fn (fmtOf (mET x.m)) (laneN (laneBits x) i x.a)).2) 0) none)
  (gives .vexp2 sfnExp2 ∧ gives .vlog2 sfnLog2 ∧ gives .vrcp sfnRcp ∧ gives .vrsqrt sfnRsqrt ∧ gives .vsqrt sfnSqrt ∧
    gives .vsinpi sfnSinpi ∧ gives .vcospi sfnCospi ∧ gives .vtanh sfnTanh ∧ gives .verf sfnErf) ∧
  (∀ fm ∈ [fmtF32, fmtBf16, fmtF16], ∀ x : Nat,
    ((fm.decode x).isNan = true → sfnRcp fm x = (fm.nan, 0) ∧ sfnSqrt fm x = (fm.nan, 0) ∧ sfnLog2 fm x = (fm.nan, 0)) ∧
    (x < 2 ^ (fm.ew + fm.fw) → (fm.decode x).isInf = true → sfnRcp fm x = (0, 0) ∧ sfnSqrt fm x = (fm.inf false, 0) ∧ sfnRsqrt fm x = (0, 0)) ∧
    ((fm.decode x).isZero = true → (sfnRcp fm x).2 = flDZ ∧ (sfnLog2 fm x).2 = flDZ) ∧
    ((fm.decode x).sign = true → (fm.decode x).isZero = false → (fm.decode x).isNan = false →
      sfnLog2 fm x = (fm.nan, flNV) ∧ sfnSqrt fm x = (fm.nan, flNV) ∧ sfnRsqrt fm x = (fm.nan, flNV)))

/-! ## The matrix array (R66, R107, R113-R117, R231-R241) -/

/-- The state after an operation that starts a producer of `v`, which lands `lat` core cycles after commit (R68, R211, R231). -/
def Sys2Proof.Claims.produced (s : State) (x : Args) (lat : Nat) (v : Vec) (fl : FFlags) : State :=
  s.onCore fun c => c.beginIssue.produce x x.y (.ready v (some (s.now + lat))) fl none
/-- The same for a read of the matrix state, which is marked as one (R397). -/
def Sys2Proof.Claims.producedMatrix (s : State) (x : Args) (lat : Nat) (v : Vec) : State :=
  (produced s x lat v 0).onCore Core.markMatrixRead

/-- With the accumulator present, the matrix operations write and, where it is not uncorrectable (R395), read their state: MCFG with bits
7:2 as 0, the Legend, the descriptor planes with TID and GPL in MCFG and the tensor's cached entries dropped, the accumulator's rows, and
MSTAT's count and flags; the reads are producers of 4 cycles. A plane address that is no multiple of 16 stops mdsc with CLASS 0x16 CODE
0x0005 (R231, R234, R235, R240, R430). -/
def Sys2Proof.Claims.MatrixStateWhilePresent : Prop :=
  ∀ s row f x, s.core.accAbsent = false →
    (Issues (.mcfg f) { b := noB } s row f x →
      exec (.mcfg f) s = .next ((begun s x).onCore fun c => Core.mxRepair { c with mcfg := x.a64 &&& ~~~0xFC } [34])) ∧
    (Issues (.mcfgr f) { a := false, b := noB } s row f x → 34 ∉ s.core.mxBad →
      exec (.mcfgr f) s = .next (producedMatrix s x 4 (wide s.core.mcfg))) ∧
    (Issues (.mlgd f) { b := noB } s row f x →
      exec (.mlgd f) s = .next ((begun s x).onCore fun c => Core.mxRepair { c with legend := x.a.setWidth 256 } [32])) ∧
    (Issues (.mlgs f) { a := false, b := noB } s row f x → 32 ∉ s.core.mxBad →
      exec (.mlgs f) s = .next (producedMatrix s x 4 (s.core.legend.setWidth 1024))) ∧
    (Issues (.mdsc f) {} s row f x → 34 ∉ s.core.mxBad → x.a64.toNat % 16 ≠ 0 → StopsWith (.mdsc f) s row f ⟨7, 0x16, 5, 4, x.a64, 0⟩) ∧
    (Issues (.mdsc f) {} s row f x → 34 ∉ s.core.mxBad → x.a64.toNat % 16 = 0 → ∃ t, exec (.mdsc f) s = .next t ∧ t.core.acc = s.core.acc ∧
      (let tid : BitVec 8 := x.a.extractLsb' 64 8
       let gpl : BitVec 12 := x.a.extractLsb' 72 12
       let m := t.core.mcfg
       t.core.descCache = s.core.descCache.filter (fun e => e.tid != tid) ∧
       (x.b64.getLsbD 0 = false → t.core.dsca = x.a64 ∧ t.core.dscb = s.core.dscb ∧ m.extractLsb' 8 8 = tid ∧ m.extractLsb' 24 12 = gpl ∧
         m.extractLsb' 0 8 = s.core.mcfg.extractLsb' 0 8 ∧ m.extractLsb' 16 8 = s.core.mcfg.extractLsb' 16 8 ∧
         m.extractLsb' 36 28 = s.core.mcfg.extractLsb' 36 28) ∧
       (x.b64.getLsbD 0 = true → t.core.dscb = x.a64 ∧ t.core.dsca = s.core.dsca ∧ m.extractLsb' 16 8 = tid ∧ m.extractLsb' 36 12 = gpl ∧
         m.extractLsb' 0 16 = s.core.mcfg.extractLsb' 0 16 ∧ m.extractLsb' 24 12 = s.core.mcfg.extractLsb' 24 12 ∧
         m.extractLsb' 48 16 = s.core.mcfg.extractLsb' 48 16))) ∧
    (Issues (.mzero f) { a := false, b := noB } s row f x →
      exec (.mzero f) s = .next ((begun s x).onCore fun c => Core.mxRepair { c with acc := RF.fill 0 } accItems)) ∧
    (Issues (.mstc f) { a := false, b := noB } s row f x →
      exec (.mstc f) s = .next ((begun s x).onCore fun c => { c with mstat := c.mstat &&& 0x0000FFFFFFFFFF00 })) ∧
    (Issues (.mdrn f) { b := noB } s row f x → (x.a.setWidth 5 : BitVec 5).toNat ∉ s.core.mxBad →
      exec (.mdrn f) s = .next (producedMatrix s x 4 (s.core.acc.get (x.a.setWidth 5)))) ∧
    (Issues (.mfil f) {} s row f x →
      exec (.mfil f) s = .next ((begun s x).onCore fun c =>
        Core.mxRepair { c with acc := c.acc.put (x.b.setWidth 5) x.a } [(x.b.setWidth 5 : BitVec 5).toNat]))

/-- A matrix operation while the accumulator is absent, AOWN other than SAVEA, stops with the supervisor's CLASS 0x01 and has no effect
(R66, R88, R231); here mzero, mfil, mdrn and mbeat, with nothing of the matrix state uncorrectable. -/
def Sys2Proof.Claims.AbsentAccumulatorTraps : Prop :=
  ∀ s row f x, s.core.aown ≠ s.core.creg crSAVEA → s.core.mxBad = [] →
    (Issues (.mzero f) { a := false, b := noB } s row f x → StopsWith (.mzero f) s row f ⟨2, 1, 0, 15, s.core.aown, 0⟩) ∧
    (Issues (.mfil f) {} s row f x → StopsWith (.mfil f) s row f ⟨2, 1, 0, 15, s.core.aown, 0⟩) ∧
    (Issues (.mdrn f) { b := noB } s row f x → StopsWith (.mdrn f) s row f ⟨2, 1, 0, 15, s.core.aown, 0⟩) ∧
    (Issues (.mbeat f) {} s row f x → [1, 2, 3, 4, 9, 10, 11, 12].contains (mET x.m) = true → s.core.fmodeRm.toNat < 5 →
      StopsWith (.mbeat f) s row f ⟨2, 1, 0, 15, s.core.aown, 0⟩)

/-- The matrix state operations with the accumulator present, and its trap where it is absent (R66, R231, R234, R235, R240). -/
def Obligations.MatrixStateOperations : Prop :=
  MatrixStateWhilePresent ∧ AbsentAccumulatorTraps

/-- The accumulator after a beat with the exact contributions `sum`: element (i, j) of the FP32 tile takes its contribution with one
rounding, and keeps its pattern where the contribution is exactly 0 (R107). -/
def Sys2Proof.Claims.Accumulates (s t : State) (sum : Nat → Nat → FVn) : Prop :=
  let r := rndOf s.core s.core.fmodeRm
  let old (i j : Nat) : Nat := laneN 32 j (s.core.acc.get (BitVec.ofNat 5 i))
  let new (i j : Nat) : Nat := laneN 32 j (t.core.acc.get (BitVec.ofNat 5 i))
  ∀ i j, i < 32 → j < 32 →
    ((sum i j).1.isZero = true → new i j = old i j) ∧
    ((sum i j).1.isZero = false →
      new i j = (r.fmt fmtF32 (FV.add r.dn (fmtF32.decode (old i j)) (sum i j).1).1 (32 * i + j)).1 % 2 ^ 32)

/-- mbeat with an admitted element type and rounding mode updates every accumulator element by the classical sum of products where mode
bit 16 is set and by the recombined sum otherwise, and changes nothing of the context but SEED in mode 4 (R107, R114-R117, R238). -/
def Obligations.BeatsAccumulate : Prop :=
  ∀ s row f x, Issues (.mbeat f) {} s row f x → s.core.accAbsent = false → s.core.mxBad = [] → s.core.fmodeRm.toNat < 5 →
    ModesSound s.core →
    [1, 2, 3, 4, 9, 10, 11, 12].contains (mET x.m) = true →
    let k := 16 / etBits (mET x.m)
    ∃ t, exec (.mbeat f) s = .next t ∧
      Accumulates s t (fun i j => if x.m.getLsbD 16 then
        (List.range k).foldl (fun acc n => fvAdd acc (fvMul (beatElem (mET x.m) x.a i n, false) (beatElem (mET x.m) x.b j n, false)))
          (.fin false 0 0, false)
        else recombinedSum (mET x.m) x.a x.b k i j) ∧
      t.mem = s.mem ∧ t.core.legend = s.core.legend ∧ t.core.mcfg = s.core.mcfg ∧
      t.core.ctx.s = s.core.ctx.s ∧ t.core.ctx.v = s.core.ctx.v ∧ t.core.ctx.pc = s.core.ctx.pc ∧
      (s.core.fmodeRm = 4 → t.core.creg crSEED = s.core.creg crSEED + 1) ∧
      (s.core.fmodeRm ≠ 4 → t.core.creg crSEED = s.core.creg crSEED)

/-- For the integer types the seven recombined products give the same exact sum as the classical order (R114-R117): a property of the
orders that the rules give, for inner blocks of `h` of the element type. -/
def Obligations.RecombinedIntegerSumsAreClassical : Prop :=
  ∀ et h (a b : Vec) i j, et = 9 ∨ et = 10 ∨ et = 11 ∨ et = 12 → 1 ≤ h → i < 32 → j < 32 →
    ((recombinedSum et a b h i j).1.eqv (classicalSum et a b (2 * h) i j).1 = true ∧
      (recombinedSum et a b h i j).2 = false ∧ (classicalSum et a b (2 * h) i j).2 = false)

/-- mbeatq whose two groups' descriptors are cached updates the accumulator by the grouped sums of R113, steps MCFG.KPOS by the beat's
inner length and sets MSTAT bit 7; a group size code of 3 stops it with CLASS 0x16 CODE 0x0001, and a KPOS that is no multiple of the
inner length with CODE 0x0003 (R113, R236, R239, R430). -/
def Obligations.GroupedBeatsUseDescriptors : Prop :=
  ∀ s row f x, Issues (.mbeatq f) {} s row f x → s.core.accAbsent = false → s.core.mxBad = [] → s.core.fmodeRm.toNat < 5 →
    ModesSound s.core → mET x.m = 10 ∨ mET x.m = 12 →
    let k := 16 / etBits (mET x.m)
    let m := s.core.mcfg
    let g := beatGroup m
    (m.toNat % 4 ≠ 3 → mcfgKpos m % k = 0 → g ≤ mcfgGpl m false → g ≤ mcfgGpl m true →
      ∀ da db, s.core.descOf false g = some da → s.core.descOf true g = some db →
      ∃ t, exec (.mbeatq f) s = .next t ∧
        Accumulates s t (groupedSum (mET x.m) x.a x.b s.core.legend (fun i => da.desc.getD i 0) (fun j => db.desc.getD j 0) k) ∧
        mcfgKpos t.core.mcfg = (mcfgKpos m + k) % 2 ^ 16 ∧ t.core.mcfg.extractLsb' 0 48 = m.extractLsb' 0 48 ∧
        t.core.mstat.getLsbD 7 = true ∧ t.mem = s.mem) ∧
    (m.toNat % 4 = 3 → mcfgKpos m % k = 0 → g ≤ mcfgGpl m false → g ≤ mcfgGpl m true →
      StopsWith (.mbeatq f) s row f ⟨7, 0x16, 1, 15, m, 0⟩) ∧
    (m.toNat % 4 ≠ 3 → mcfgKpos m % k ≠ 0 → g ≤ mcfgGpl m false → g ≤ mcfgGpl m true →
      StopsWith (.mbeatq f) s row f ⟨7, 0x16, 3, 15, m, 0⟩)

/-! ## Memory accesses (R242-R250, R337, R427) -/

/-- A store reads a, b and its value c. -/
def Sys2Proof.Claims.readsStore : Use := { c := true }

/-- What the current core reads at a physical byte: its own gated entries over what its cache or memory holds (R244, R337). -/
def Sys2Proof.Claims.coreByte (s : State) (nc : Bool) (p : Nat) : Byte := (gatedView s.core.gatedAll (cachedByte s s.cur nc) p).1

/-- No deeper depth of the core has a gated entry of its own. -/
def Sys2Proof.Claims.Topmost (c : Core) : Prop :=
  c.depth.toNat < 3 ∧ (∀ e ∈ c.committed, e.1.toNat ≤ c.depth.toNat) ∧ ∀ d : BitVec 2, c.depth.toNat < d.toNat → c.sheets.get d = none

/-- An access of `n` bytes at `va` is aligned and inside the space (R242, R245). -/
def Sys2Proof.Claims.accessOk (x : Args) (va : Word) (n : Nat) : Prop :=
  va.toNat % (if x.m.getLsbD 16 then 16 else n) = 0 ∧ va.toNat + n ≤ 2 ^ 57

/-- ld and its long form read the bytes of their size at a + b through the core's view, as a long-latency producer: a scalar is
zero-extended, or sign-extended in the signed types (R68, R166, R244). A load of a device register by supervisor code reads the register
as the core's own gated writes leave it (R303, R337). -/
def Sys2Proof.Claims.LoadsReadTheirAddress : Prop :=
  ∀ s row f x n sx pa k nc rest es, accessSize x.m = some (n, sx) → accessOk x (x.a64 + x.b64) n →
    translateRange s s.cur s.core.tenant s.core.priv (x.a64 + x.b64) n .read = .ok ((pa, k, nc) :: rest, es) →
    let t := (s.onCore Core.beginIssue).keepTlb s.cur es
    let read := t.startRead x (piecesOf ((pa, k, nc) :: rest) 0 (x.a64 + x.b64)) 0 (if sx then some (8 * n) else none)
      (padOf ((pa, k, nc) :: rest))
    (targetOf pa ≠ .device →
      (Issues (.ld f) {} s row f x → exec (.ld f) s = .next read) ∧
      (Issues (.ldLong f) {} s row f x → exec (.ldLong f) s = .next read)) ∧
    (targetOf pa = .device → sx = false →
      let v := BitVec.ofNat 1024 (leNat (t.devSeen t.core.gatedAll (pa - devBase) n))
      (Issues (.ld f) {} s row f x → exec (.ld f) s = .next (t.onCore fun c => c.produce x x.y (.ready v none) 0 none)) ∧
      (Issues (.ldLong f) {} s row f x → exec (.ldLong f) s = .next (t.onCore fun c => c.produce x x.y (.ready v none) 0 none)))

/-- A read that finds its pieces ready gives at each byte of a piece what the core's view has there, the lowest address in the lowest
bits, and a sign-extended scalar repeats its top bit (R244). -/
def Sys2Proof.Claims.ReadsTakeTheCoresView : Prop :=
  ∀ (s s' : State) (n : CoreNo) (pa k : Nat) (nc : Bool) (va : Word) (clock : Option Clock) (v : Vec),
    0 < k → k ≤ 128 → targetOf pa ≠ .device →
    performRead s n { pieces := [{ pa := pa, n := k, bit := 0, nc := nc, va := va }], base := 0, sext := none, clock := clock } =
      some (s', v, none) →
    ∀ i, v.getLsbD i = (decide (i < 8 * k) &&
      ((gatedView (s'.coreAt n).gatedAll (cachedByte s' n nc) (pa + i / 8)).1).getLsbD (i % 8))

/-- Loads read the bytes at their address as the core sees them (R244). -/
def Obligations.LoadsReadTheCoresView : Prop :=
  LoadsReadTheirAddress ∧ ReadsTakeTheCoresView

/-- st and its long form gate the bytes of c at a + b, the low byte lowest: the core then reads them there, and every other byte of its
view, memory itself and the registers stay as they were (R244, R337). Stated for an access within one page of memory by the core's
innermost depth. -/
def Obligations.StoresWriteOnlyTheirBytes : Prop :=
  ∀ s row f x n sx pa nc es, accessSize x.m = some (n, sx) → accessOk x (x.a64 + x.b64) n → Topmost s.core →
    translateRange s s.cur s.core.tenant s.core.priv (x.a64 + x.b64) n .write = .ok ([(pa, n, nc)], es) → targetOf pa ≠ .device →
    let wrote (t : State) : Prop :=
      (∀ nc' p, coreByte t nc' p = if pa ≤ p ∧ p < pa + n then x.c.extractLsb' (8 * (p - pa)) 8 else coreByte s nc' p) ∧
      t.mem.mem = s.mem.mem ∧ t.core.ctx.s = s.core.ctx.s ∧ t.core.ctx.v = s.core.ctx.v ∧ t.core.ctx.p = s.core.ctx.p ∧
      t.core.ctx.k = s.core.ctx.k ∧ t.core.ctx.pc = s.core.ctx.pc ∧ t.core.acc = s.core.acc ∧ t.core.scratch = s.core.scratch ∧
      (∀ i, i ≠ crPSTAT → t.core.creg i = s.core.creg i) ∧ t.plat = s.plat ∧ t.fab = s.fab ∧ t.dist = s.dist ∧
      ∀ m, m ≠ s.cur → t.coreAt m = s.coreAt m
    (Issues (.st f) readsStore s row f x → ∃ t, exec (.st f) s = .next t ∧ wrote t) ∧
    (Issues (.stLong f) readsStore s row f x → ∃ t, exec (.stLong f) s = .next t ∧ wrote t)

/-- A load or store of a reserved size, of a misaligned address, of one outside the space, or of a page that does not translate, stops
with the reserved-value fault, CLASS 0x13 CODE 0x0001 or 0x0002, or the page fault of its kind and level, and stores nothing (R79,
R245, R425, R427, R444). -/
def Obligations.AccessFaultsStoreNothing : Prop :=
  ∀ s row f x, let va := x.a64 + x.b64
    (accessSize x.m = none →
      (Issues (.ld f) {} s row f x → StopsWith (.ld f) s row f ⟨5, 0x11, 4, 3, x.m.setWidth 64, 0⟩) ∧
      (Issues (.st f) readsStore s row f x → StopsWith (.st f) s row f ⟨5, 0x11, 4, 3, x.m.setWidth 64, 0⟩)) ∧
    (∀ n sx, accessSize x.m = some (n, sx) →
      (va.toNat % (if x.m.getLsbD 16 then 16 else n) ≠ 0 → va.toNat + n ≤ 2 ^ 57 →
        (Issues (.ld f) {} s row f x → StopsWith (.ld f) s row f ⟨7, 0x13, 1, 4, va, 0⟩) ∧
        (Issues (.st f) readsStore s row f x → StopsWith (.st f) s row f ⟨7, 0x13, 1, 4, va, 0⟩)) ∧
      (va.toNat % (if x.m.getLsbD 16 then 16 else n) = 0 → 2 ^ 57 ≤ va.toNat →
        (Issues (.ld f) {} s row f x → StopsWith (.ld f) s row f ⟨7, 0x13, 2, 4, va, 0⟩) ∧
        (Issues (.st f) readsStore s row f x → StopsWith (.st f) s row f ⟨7, 0x13, 2, 4, va, 0⟩)) ∧
      (accessOk x va n →
        (∀ a e, Issues (.ld f) {} s row f x → translateRange s s.cur s.core.tenant s.core.priv va n .read = .error (a, e) →
          StopsWith (.ld f) s row f ⟨8, 0x21, e.lvl.setWidth 16 * 16 + e.cond.setWidth 16, 4, a, 0⟩) ∧
        (∀ a e, Issues (.st f) readsStore s row f x → translateRange s s.cur s.core.tenant s.core.priv va n .write = .error (a, e) →
          StopsWith (.st f) s row f ⟨8, 0x21, 0x100 + e.lvl.setWidth 16 * 16 + e.cond.setWidth 16, 4, a, 0⟩)))

/-- gath reads, and scat gates in ascending order, one element per active lane at a plus the signed lane of b; an inactive lane of a
gather takes the merge value or 0 and makes no access (R246). Stated for lanes that are aligned, inside the space and translate. -/
def Obligations.GathersAndScatters : Prop :=
  ∀ s row f x e, gatherBits x.m = some e →
    let ls := ((List.range (widthBits (mW x.m) / e)).filter (laneActive s.core x.m)).map fun i => (i, x.a64 + BitVec.ofInt 64 (laneI true e i x.b))
    (∀ l ∈ ls, l.2.toNat % (e / 8) = 0 ∧ l.2.toNat + e / 8 ≤ 2 ^ 57) →
    (∀ rs es, Issues (.gath f) { base := useMerge } s row f x → laneRuns s .read ls = .ok (rs, es) →
      ∃ base, (∀ i, i < widthBits (mW x.m) / e → laneActive s.core x.m i = false →
          laneN e i base = if mMRG x.m then laneN e i x.base else 0) ∧
        exec (.gath f) s = .next (((s.onCore Core.beginIssue).keepTlb s.cur es).startRead x
          (rs.map fun l => { pa := l.2.2.1, n := e / 8, bit := e * l.1, nc := l.2.2.2, va := l.2.1, lane := true }) base none
          (padOf (rs.map fun l => (l.2.2.1, e / 8, l.2.2.2))))) ∧
    (∀ rs es, Issues (.scat f) readsStore s row f x → laneRuns s .write ls = .ok (rs, es) →
      exec (.scat f) s = .next (((s.onCore Core.beginIssue).keepTlb s.cur es).onCore fun c =>
        rs.foldl (fun c l => c.gateStore [(l.2.2.1, e / 8, l.2.2.2)] (leBytes (e / 8) (laneN e l.1 x.c))) (c.voidPorts x)))

/-- The scratchpad access of mode `x.m`: its size, and a core with an offset that an aligned address inside the space names: the own
scratchpad, or lane a[22:20] of the cluster, whose task or last task is of the same tenant (R242, R247, R248). -/
def Sys2Proof.Claims.Scratch (s : State) (remote : Bool) (x : Args) (n : Nat) (who : CoreNo) (off : Nat) : Prop :=
  scratchSize x.m = some n ∧ x.a64.toNat % (if n = 8 then 8 else 16) = 0 ∧ off = x.a64.toNat % 2 ^ 20 ∧ off + n ≤ 2 ^ 20 ∧
  (remote = false → x.a64.toNat < 2 ^ 20 ∧ who = s.cur) ∧
  (remote = true → x.a64.toNat < 2 ^ 23 ∧ who = BitVec.ofNat 11 (s.cur.toNat / 8 * 8 + x.a64.toNat / 2 ^ 20 % 8) ∧
    (s.coreAt who).curTenant = some s.core.tenant)

/-- ldsp and ldrs read a scratchpad under their qualifier: .n whatever the full bits, .w once every granule is full, .c likewise and the
granules are then empty; on an empty granule the bundle is held (R247, R248). ldsp lands 4 cycles on. A remote load comes to the port
in its turn, behind the core's own earlier accesses to that scratchpad (R248, R297). stsp and strs gate the bytes and
the full bits of the granules. -/
def Sys2Proof.Claims.ScratchpadAccesses : Prop :=
  ∀ s row f x n who off,
    let v := BitVec.ofNat 1024 (leNat (s.scratchRead s.cur who off n))
    let gs := granRange off n
    let allFull := gs.all (s.granFull s.cur who)
    let key (remote : Bool) : Nat := if remote then portKey s.cur who else 0
    let due (remote : Bool) : Option Nat := if remote then (if s.core.pin then some (s.now + 16) else none) else some (s.now + 4)
    let loads (op : Form → Instr) (remote : Bool) : Prop :=
      Issues (op f) { b := noB } s row f x → Scratch s remote x n who off → s.scratchTag s.cur who off n = none →
        s.granHolder s.cur who gs = none → s.mayMeet (.scratch who) (key remote) = true →
        (remote = true → s.core.committed.any (fun e => e.2.atScratch who) = false) →
        (scratchQ x.m = 2 ∨ (scratchQ x.m = 0 ∧ allFull = true) →
          exec (op f) s = .next (((s.onCore Core.beginIssue).meetAt (.scratch who) (key remote)).onCore fun c =>
            c.produce x x.y (.ready v (due remote)) 0 none)) ∧
        (scratchQ x.m = 1 → allFull = true →
          exec (op f) s = .next ((((s.onCore Core.beginIssue).takeGranules who gs).meetAt (.scratch who) (key remote)).onCore fun c =>
            c.produce x x.y (.ready v (due remote)) 0 none)) ∧
        (scratchQ x.m = 0 ∨ scratchQ x.m = 1 → allFull = false → exec (op f) s = .next (s.holdCore s.cur
          { waits := true, why := some (.granules who gs), whys := [some (.granules who gs)] }))
    let stores (op : Form → Instr) (remote : Bool) : Prop :=
      Issues (op f) {} s row f x → Scratch s remote x n who off →
        exec (op f) s = .next ((begun s x).onCore fun c =>
          (c.gate (.scratch who off (leBytes n x.b.toNat))).gate (.granules who (off / 16) gs.length true))
    loads .ldsp false ∧ loads .ldrs true ∧ stores .stsp false ∧ stores .strs true

/-- tagl answers after 2 cycles, from a table that is not uncorrectable, the scratchpad offset of the lowest valid entry whose tag matches
a + b, or all ones; tagw gates an
entry, its bits 62:57 as 0; fes and fec gate the full bits of the granules that a range covers, and a range of length 0 does nothing
(R249, R250). -/
def Sys2Proof.Claims.TagTableAndFullBits : Prop :=
  ∀ s row f x,
    (Issues (.tagl f) {} s row f x → (x.a64 + x.b64).toNat < 2 ^ 57 → s.core.tagSpoiled = false →
      let va := x.a64 + x.b64
      let hit (i : Nat) : Prop := (s.core.tagEntry (BitVec.ofNat 8 i)).getLsbD 63 = true ∧
        (s.core.tagEntry (BitVec.ofNat 8 i)).extractLsb' 12 45 = va.extractLsb' 12 45
      (∀ i, i < 256 → hit i → (∀ j, j < i → ¬ hit j) → exec (.tagl f) s = .next (answered s x 2
        (wide (((s.core.tagEntry (BitVec.ofNat 8 i)).extractLsb' 0 12).setWidth 64 <<< 20 ||| (BitVec.ofNat 64 i <<< 12) |||
          (va.extractLsb' 0 12).setWidth 64)) 0)) ∧
      ((∀ i, i < 256 → ¬ hit i) → exec (.tagl f) s = .next (answered s x 2 (wide 0xFFFFFFFFFFFFFFFF) 0))) ∧
    (Issues (.tagw f) {} s row f x → x.a64.toNat < 256 →
      exec (.tagw f) s = .next ((begun s x).onCore (Core.gate · (.tagw (x.a64.setWidth 8) (x.b64 &&& 0x81FFFFFFFFFFFFFF))))) ∧
    (Issues (.tagw f) {} s row f x → 256 ≤ x.a64.toNat → StopsWith (.tagw f) s row f ⟨7, 0x13, 6, 4, x.a64, 0⟩) ∧
    (Issues (.fes f) {} s row f x → x.b64 ≠ 0 → x.a64.toNat + x.b64.toNat ≤ 2 ^ 20 →
      exec (.fes f) s = .next ((begun s x).onCore (Core.gate ·
        (.granules s.cur (x.a64.toNat / 16) ((x.a64.toNat + x.b64.toNat - 1) / 16 - x.a64.toNat / 16 + 1) true)))) ∧
    (Issues (.fec f) {} s row f x → x.b64 ≠ 0 → x.a64.toNat + x.b64.toNat ≤ 2 ^ 20 →
      exec (.fec f) s = .next ((begun s x).onCore (Core.gate ·
        (.granules s.cur (x.a64.toNat / 16) ((x.a64.toNat + x.b64.toNat - 1) / 16 - x.a64.toNat / 16 + 1) false)))) ∧
    (Issues (.fes f) {} s row f x → x.b64 = 0 → exec (.fes f) s = .next (begun s x)) ∧
    (Issues (.fec f) {} s row f x → x.b64 = 0 → exec (.fec f) s = .next (begun s x))

/-- Scratchpad loads and stores, the tag table and the full bits (R247-R250). -/
def Obligations.ScratchpadAndTagTable : Prop :=
  ScratchpadAccesses ∧ TagTableAndFullBits

/-! ## Streams, copies, barriers, fences and code locks (R80-R83, R252-R263, R311) -/

/-- sbind binds a stream that is not bound to a descriptor that can be: the stream register holds it with BOUND set, nothing is fetched
and its first fetch waits for the commit; sfree of a bound stream unbinds it; sstat answers, 2 cycles on, the status word, 0 for an
unbound stream. A bound stream stops sbind with CLASS 0x14 CODE 0x0006, and the first failed check of the descriptor with CODE 0x0007
(R80, R252, R428). -/
def Sys2Proof.Claims.StreamRegisterOperations : Prop :=
  ∀ s row f x,
    (Issues (.sbind f) {} s row f x → let q : BitVec 3 := x.b64.setWidth 3
      let d : BitVec 256 := x.a.setWidth 256
      let bound : Bool := sdBound (s.core.ctx.q.get q).desc
      (bound = false → bindReason s d = none →
        exec (.sbind f) s = .next ((begun s x).onCore fun c =>
          { c with ctx := { c.ctx with
              q := c.ctx.q.put q { desc := sdSetBound d true, fetched := [], base := List.replicate 8 s.now } } }.gate (.streamBind q))) ∧
      (bound = true → bindReason s d = none → StopsWith (.sbind f) s row f ⟨7, 0x14, 6, 1, q.setWidth 64, 0⟩) ∧
      (bound = false → sdSpace d = 3 → StopsWith (.sbind f) s row f ⟨7, 0x14, 7, 4, q.setWidth 64 ||| 0x100, 0⟩) ∧
      (bound = false → sdSpace d ≠ 3 → sdTotal d < 2 ^ 32 → sdTotal d ≤ sdPos d →
        StopsWith (.sbind f) s row f ⟨7, 0x14, 7, 4, q.setWidth 64 ||| 0x300, 0⟩)) ∧
    (Issues (.sfree f) { b := noB } s row f x → let q : BitVec 3 := x.a64.setWidth 3
      let st := s.core.ctx.q.get q
      (sdBound st.desc = true → exec (.sfree f) s = .next ((begun s x).onCore fun c =>
        { c with ctx := { c.ctx with q := c.ctx.q.put q { desc := sdSetBound st.desc false } } }.gate (.streamFree q))) ∧
      (sdBound st.desc = false → exec (.sfree f) s = .next (begun s x))) ∧
    (Issues (.sstat f) { b := noB } s row f x → let q : BitVec 3 := x.a64.setWidth 3
      s.core.streamHeld q ≤ 8 →
      let d := (s.core.ctx.q.get q).desc
      ∃ v : Word, exec (.sstat f) s = .next (answered s x 2 (wide v) 0) ∧ v.getLsbD 63 = sdBound d ∧
        v.getLsbD 62 = (sdBound d && sdWrite d) ∧
        (sdBound d = true → (v.extractLsb' 0 32 : BitVec 32).toNat = sdPos d ∧ (v.extractLsb' 32 30 : BitVec 30).toNat = s.core.streamHeld q) ∧
        (sdBound d = false → v = 0))

/-- The element addresses of a stream: base plus each index times its signed stride (R81). -/
def Sys2Proof.Claims.StreamElementAddresses : Prop :=
  ∀ (d : BitVec 256) (i0 i1 i2 : Nat), i0 < sdCnt d 0 → i1 < sdCnt d 1 → i2 < sdCnt d 2 →
    sdAddr d (i0 + sdCnt d 0 * (i1 + sdCnt d 1 * i2)) =
      sdBase d + BitVec.ofNat 64 i0 * (sdStr d 0).signExtend 64 + BitVec.ofNat 64 i1 * (sdStr d 1).signExtend 64 +
        BitVec.ofNat 64 i2 * (sdStr d 2).signExtend 64

/-- Streams are bound, freed and read out, and where their elements lie (R80, R81, R252). -/
def Obligations.StreamsBindAndFree : Prop :=
  StreamRegisterOperations ∧ StreamElementAddresses

/-- copy of a command that passes every check gates the copy, for a scratchpad destination behind the emptying of its granules; the one
check that fails stops it with CLASS 0x17 and its code; with 16 copies outstanding its bundle is held (R247, R253, R254, R337, R431). -/
def Sys2Proof.Claims.CopiesAreQueued : Prop :=
  ∀ s row f x, Issues (.copy f) { b := noB } s row f x →
    let d : BitVec 256 := x.a.setWidth 256
    let e : CopyEntry := { cmd := d, tenant := s.core.tenant, handle := (s.core.creg crTASK).extractLsb' 32 32, owner := s.core.creg crSAVEA,
                           task := s.core.taskNo, armed := false, priv := s.core.priv, left := List.range ((ccLen d + 15) / 16),
                           due := if s.core.pin then some s.now else none, no := s.core.ops }
    (copyChecks s s.core.tenant d = [] → s.core.copiesOut < 16 → ccDsp d ≠ 1 →
      exec (.copy f) s = .next ((begun s x).onCore (Core.gate · (.copy e)))) ∧
    (copyChecks s s.core.tenant d = [] → s.core.copiesOut < 16 → ccDsp d = 1 →
      exec (.copy f) s = .next ((begun s x).onCore fun c =>
        (c.gate (.granules s.cur ((ccDst d).toNat / 16) (granRange (ccDst d).toNat (ccLen d)).length false)).gate (.copy e))) ∧
    (copyChecks s s.core.tenant d = [] → 16 ≤ s.core.copiesOut → exec (.copy f) s = .next (s.holdCore s.cur
      { queue := true, whys := [some .place] })) ∧
    (∀ code info, s.core.copiesOut < 16 → copyChecks s s.core.tenant d = [(code, info)] →
      StopsWith (.copy f) s row f ⟨7, 0x17, code, 4, info, 0⟩)

/-- bbset gates a barrier's wake action, an aligned record or none for 0; bbwait holds while its barrier's count is not 0 or a gated copy
of the core's own is bound to it, else passes without FAIL, and with FAIL stops with CLASS 0x40 and the stored code and address (R254,
R257, R337, R466). -/
def Sys2Proof.Claims.ByteBarriers : Prop :=
  ∀ s row f x,
    (Issues (.bbset f) {} s row f x → x.a64.toNat % 64 = 0 →
      exec (.bbset f) s = .next ((begun s x).onCore (Core.gate · (.barrier (x.b64.setWidth 3)
        (if x.a64 = 0 then none else some (x.a64, (s.core.creg crTASK).extractLsb' 32 32, s.core.tenant)))))) ∧
    (Issues (.bbset f) {} s row f x → x.a64.toNat % 64 ≠ 0 → StopsWith (.bbset f) s row f ⟨7, 0x17, 6, 4, x.a64, 0⟩) ∧
    (Issues (.bbwait f) { b := noB } s row f x → let b := s.core.bb.get (x.a64.setWidth 3)
      let busy : Prop := b.pending ≠ 0 ∨ ∃ e, Gated.copy e ∈ s.core.gatedAll ∧ ccBbe e.cmd = true ∧ ccBb e.cmd = x.a64.setWidth 3 ∧ ccLen e.cmd ≠ 0
      (busy → exec (.bbwait f) s = .next (s.holdCore s.cur
        { waits := true, why := some (.barrier (x.a64.setWidth 3)), whys := [some (.barrier (x.a64.setWidth 3))] })) ∧
      (¬ busy → b.fail = false → exec (.bbwait f) s = .next (begun s x)) ∧
      (b.pending = 0 → b.fail = true → s.core.gatedAll = [] → StopsWith (.bbwait f) s row f ⟨7, 0x40, b.code, 4, b.addr, 0⟩))

/-- Copies are queued, and byte barriers are set and waited for (R253, R254, R257). -/
def Obligations.CopiesAndByteBarriers : Prop :=
  CopiesAreQueued ∧ ByteBarriers

/-- cmnt gates the maintenance of every line of its range, icinv and tculk the invalidation of code and the release of locks over theirs;
a range of length 0 does nothing; fence gates a release of its scope and, acquiring with no load, atomic or stream element outstanding,
gates its wait for its own sheet's and at package or system scope adopts the clocks the core has heard; the reserved values of K and scope
stop it (R83, R260-R263, R311, R318). Stated outside the pinned regime. -/
def Sys2Proof.Claims.MaintenanceAndFences : Prop :=
  ∀ s row f x, s.core.pin = false →
    (∀ rs es, Issues (.cmnt f) {} s row f x → x.b64 ≠ 0 → x.m.extractLsb' 16 2 ≠ 3 → x.m.extractLsb' 18 2 ≠ 3 →
      rangeConds s .read x.a64 x.b64.toNat = ([], rs, es) →
      exec (.cmnt f) s = .next (((begun s x).keepTlb s.cur es).onCore (Core.gate ·
        (.cmnt (rs.flatMap fun r => linesOf r.1 r.2.1).dedup (x.m.extractLsb' 16 2) (x.m.extractLsb' 18 2))))) ∧
    (∀ rs es, Issues (.icinv f) {} s row f x → x.b64 ≠ 0 → rangeConds s .read x.a64 x.b64.toNat = ([], rs, es) →
      exec (.icinv f) s = .next (((begun s x).keepTlb s.cur es).onCore (Core.gate ·
        (.icinv x.a64 x.b64.toNat (x.m.extractLsb' 18 2))))) ∧
    (∀ rs es, Issues (.tculk f) {} s row f x → x.b64 ≠ 0 → rangeConds s .read x.a64 x.b64.toNat = ([], rs, es) →
      exec (.tculk f) s = .next (((begun s x).keepTlb s.cur es).onCore (Core.gate · (.tculk x.a64 x.b64.toNat)))) ∧
    (x.b64 = 0 →
      (Issues (.cmnt f) {} s row f x → x.m.extractLsb' 16 2 ≠ 3 → x.m.extractLsb' 18 2 ≠ 3 → exec (.cmnt f) s = .next (begun s x)) ∧
      (Issues (.icinv f) {} s row f x → exec (.icinv f) s = .next (begun s x)) ∧
      (Issues (.tculk f) {} s row f x → exec (.tculk f) s = .next (begun s x))) ∧
    (Issues (.fence f) { a := false, b := noB } s row f x → let k : BitVec 2 := x.m.extractLsb' 16 2
      let sc : BitVec 3 := x.m.extractLsb' 18 3
      (k = 1 → sc.toNat ≤ 4 → exec (.fence f) s = .next ((begun s x).onCore (Core.gate · (.release sc s.core.ops)))) ∧
      (k = 0 → 3 ≤ sc.toNat → sc.toNat ≤ 4 → s.awaiting s.cur = false →
        exec (.fence f) s = .next (acquireAt ((begun s x).onCore (Core.gate · .streams)) s.cur none)) ∧
      (k = 0 → sc.toNat < 3 → s.awaiting s.cur = false → exec (.fence f) s = .next ((begun s x).onCore (Core.gate · .streams))) ∧
      ((k = 0 ∨ k = 2) → sc.toNat ≤ 4 → s.awaiting s.cur = true → exec (.fence f) s = .next (s.holdCore s.cur { regs := true })) ∧
      (k = 3 ∨ 4 < sc.toNat → StopsWith (.fence f) s row f ⟨5, 0x11, 4, 3, x.m.setWidth 64, 0⟩))

/-- tclk answers 0 where the range's sheets are translated and locked, and for a length of 0, and 1 where they are refused, which locks
nothing; an open sheet then holds a reservation (R263, R338). -/
def Sys2Proof.Claims.TclkLocksOrRefuses : Prop :=
  ∀ s row f x, Issues (.tclk f) {} s row f x →
    (x.b64 = 0 → exec (.tclk f) s = .next (answered s x 1 (wide 0) 0)) ∧
    (∀ rs es, x.b64 ≠ 0 → rangeConds s .fetch x.a64 x.b64.toNat = ([], rs, es) →
      let t := (s.onCore Core.beginIssue).keepTlb s.cur es
      (t.lockCode s.cur x.a64 x.b64.toNat = none →
        exec (.tclk f) s = .next (t.onCore fun c => (c.voidPorts x).putResult x s.now 1 x.y (wide 1) 0)) ∧
      (∀ u locks, t.lockCode s.cur x.a64 x.b64.toNat = some (u, locks) → u.core.sheet = none →
        exec (.tclk f) s = .next (u.onCore fun c => (c.voidPorts x).putResult x u.now 1 x.y (wide 0) 0)))

/-- Maintenance, fences and code locks (R260-R263, R338). -/
def Obligations.MaintenanceFencesAndLocks : Prop :=
  MaintenanceAndFences ∧ TclkLocksOrRefuses

/-! ## Atomics and delivery counters (R195-R202, R264-R267, R432) -/

/-- The atomic operations with their native opcodes. -/
def Sys2Proof.Claims.atomicOps : List ((Form → Instr) × BitVec 6) :=
  [(.aadd, 0x30), (.amin, 0x33), (.amax, 0x36), (.aand, 0x39), (.aor, 0x3A), (.axor, 0x3B), (.axchg, 0x3C), (.acas, 0x3D)]

/-- An atomic at an aligned address of package or second-tier memory that translates for reading and writing: without a returned value it
is gated and counts among the core's operations; with one its destination is empty until the reply, and its request is on its way to the
home, reserving its line while its sheet is open (R264, R337, R338). A misaligned address stops it with CLASS 0x13 CODE 0x0001, and an
element type that it does not take with the reserved-value fault (R425, R427). -/
def Sys2Proof.Claims.AtomicsAreSentOrGated : Prop :=
  ∀ p ∈ atomicOps, ∀ s row f x, Issues (p.1 f) { c := p.2 == 0x3D } s row f x → s.core.depth ≠ 3 →
    (atomicForm p.2 x.m = none → StopsWith (p.1 f) s row f ⟨5, 0x11, 4, 3, x.m.setWidth 64, 0⟩) ∧
    (∀ op z, atomicForm p.2 x.m = some (op, z) →
      (x.a64.toNat % atomicBytes op z ≠ 0 → x.a64.toNat + atomicBytes op z ≤ 2 ^ 57 → StopsWith (p.1 f) s row f ⟨7, 0x13, 1, 4, x.a64, 0⟩) ∧
      (∀ e, x.a64.toNat % atomicBytes op z = 0 → x.a64.toNat + atomicBytes op z ≤ 2 ^ 57 →
        translate s s.cur s.core.tenant s.core.priv x.a64 .rw = .ok e → targetOf (e.phys x.a64) = .package ∨ targetOf (e.phys x.a64) = .tier2 →
        (x.m.getLsbD 17 = true → exec (p.1 f) s = .next (((s.onCore Core.beginIssue).keepTlb s.cur [e]).onCore fun c =>
          { c.voidPorts x with ops := c.ops + 1 }.gate (.atomic (e.phys x.a64) op z x.b64 x.c64 c.ops false
            (atomicMerges op (x.m.getLsbD 16 && (!c.pin || !(op == 0x31 || op == 0x32))))))) ∧
        (x.m.getLsbD 17 = false → ∃ t r, exec (p.1 f) s = .next t ∧ t.mem.atomics = s.mem.atomics ++ [r] ∧
          r.core = s.cur ∧ r.tenant = s.core.tenant ∧ r.pa = e.phys x.a64 ∧ r.op = op ∧ r.z = z ∧ r.b = x.b64 ∧ r.c = x.c64 ∧
          r.no = s.core.ops ∧ r.ret = true ∧ t.core.ops = s.core.ops + 1 ∧
          Gated.atomic (e.phys x.a64) op z x.b64 x.c64 s.core.ops true false ∈ t.core.gatedAll ∧
          (∀ d, x.y = .s d → d ≠ 0 → t.core.ctx.fullS d = false) ∧ ∃ o ∈ t.core.outst, o.no = s.core.ops ∧ o.dst = x.y)))

/-- What an atomic writes at its home: the wrapped sum, the signed or unsigned minimum or maximum, a bitwise operation, b, or b where the
old value equals c, each of its width (R265). -/
def Sys2Proof.Claims.AtomicValues : Prop :=
  ∀ (z : BitVec 1) (old b c : Nat), let n := atomicBytes 0x30 z
    let w := 8 * n
    old < 2 ^ w →
    let sg (v : Nat) : Int := if v % 2 ^ w < 2 ^ (w - 1) then (v % 2 ^ w : Nat) else (v % 2 ^ w : Nat) - 2 ^ w
    n = (if z = 1 then 8 else 4) ∧
    atomicNew 0x30 z old b c = (old + b) % 2 ^ w ∧
    sg (atomicNew 0x33 z old b c) = min (sg old) (sg b) ∧ sg (atomicNew 0x36 z old b c) = max (sg old) (sg b) ∧
    atomicNew 0x34 z old b c = min old (b % 2 ^ w) ∧ atomicNew 0x37 z old b c = max old (b % 2 ^ w) ∧
    (∀ i, i < w → (atomicNew 0x39 z old b c).testBit i = (old.testBit i && b.testBit i) ∧
      (atomicNew 0x3A z old b c).testBit i = (old.testBit i || b.testBit i) ∧
      (atomicNew 0x3B z old b c).testBit i = (old.testBit i != b.testBit i)) ∧
    atomicNew 0x3C z old b c = b % 2 ^ w ∧
    atomicNew 0x3D z old b c = (if old = c % 2 ^ w then b % 2 ^ w else old)

/-- Atomics are sent or gated, and what they write at their homes (R264, R265). -/
def Obligations.AtomicsAndTheirValues : Prop :=
  AtomicsAreSentOrGated ∧ AtomicValues

/-- What dwait, dadd and dset read, and the counter and value they name: b[4:0] and a in Wyilo, D and B in native code (R200, R202). -/
def Sys2Proof.Claims.readsCounter (f : Form) : Use := { a := isWy f }
def Sys2Proof.Claims.counterOf (f : Form) (x : Args) : BitVec 5 := if isWy f then x.b64.setWidth 5 else x.c64.setWidth 5
def Sys2Proof.Claims.amountOf (f : Form) (x : Args) : BitVec 32 := if isWy f then x.a64.setWidth 32 else x.b64.setWidth 32

/-- dwait holds its bundle until its delivery counter has reached the value, then acquires with the counter's clock; dread returns the
counter, with the core's own gated additions and settings over it, as a long-latency producer and acquires; dadd and dset first gate a
release at system scope, then the addition or the setting; darm gates a release at package scope and the arm slot (R195, R200-R202, R324,
R337). Stated outside the pinned regime. -/
def Sys2Proof.Claims.DeliveryCounterOperations : Prop :=
  ∀ s row f x, s.core.pin = false →
    let n := counterOf f x
    (Issues (.dwait f) (readsCounter f) s row f x →
      ((s.core.dc.get n).toNat < (amountOf f x).toNat → exec (.dwait f) s = .next (s.holdCore s.cur
        { waits := true, why := some (.counter n (amountOf f x)), whys := [some (.counter n (amountOf f x))] })) ∧
      ((amountOf f x).toNat ≤ (s.core.dc.get n).toNat →
        exec (.dwait f) s = .next (acquireAt (begun s x) s.cur (s.core.dcClk.get n)))) ∧
    (Issues (.dread f) (readsNumber f) s row f x → let d : BitVec 5 := (numberOf f x).setWidth 5
      exec (.dread f) s = .next ((acquireAt (s.onCore Core.beginIssue) s.cur (s.core.dcClk.get d)).onCore fun c =>
        c.produce x x.y (.ready ((s.core.counterSeen d).setWidth 1024) none) 0 none) ∧
      (s.core.gatedAll = [] → s.core.counterSeen d = s.core.dc.get d)) ∧
    (Issues (.dadd f) (readsCounter f) s row f x → exec (.dadd f) s = .next ((begun s x).onCore fun c =>
      (c.gate (.release 4 c.ops)).gate (.counterAdd n (amountOf f x)))) ∧
    (Issues (.dset f) (readsCounter f) s row f x → exec (.dset f) s = .next ((begun s x).onCore fun c =>
      (c.gate (.release 4 c.ops)).gate (.counterSet n (amountOf f x)))) ∧
    (Issues (.darm f) { c := true } s row f x → darmConds s x.a64 x.b64 = [] →
      let arm : Arm := if x.b64.getLsbD 36 then {} else
        { armed := true, kind := x.b64.extractLsb' 34 2, thr := x.b64.setWidth 32, arg := x.a64,
          ownHandle := (s.core.creg crTASK).extractLsb' 32 32, ownTenant := s.core.tenant }
      exec (.darm f) s = .next ((begun s x).onCore fun c =>
        (c.gate (.release 3 c.ops)).gate (.arm (x.c64.setWidth 5) (x.b64.extractLsb' 32 2) arm)))

/-- An addition to a delivery counter wraps at 32 bits, then tests its arms: every armed slot whose threshold it has reached is emptied
and its action is due, and the others stay; setting a counter tests nothing (R195, R196, R202). -/
def Sys2Proof.Claims.CountersFireTheirArms : Prop :=
  ∀ (c : Core) (n : BitVec 5) (v : BitVec 32),
    let t := c.counterAdd n v
    let new := c.dc.get n + v
    let hit (i : BitVec 2) : Prop := ((c.arms.get n).get i).armed = true ∧ ((c.arms.get n).get i).thr.toNat ≤ new.toNat
    t.dc.get n = new ∧ (∀ m, m ≠ n → t.dc.get m = c.dc.get m ∧ t.arms.get m = c.arms.get m) ∧
    (∀ i, hit i → (t.arms.get n).get i = {} ∧
      { kind := ((c.arms.get n).get i).kind, arg := ((c.arms.get n).get i).arg, handle := ((c.arms.get n).get i).ownHandle,
        tenant := ((c.arms.get n).get i).ownTenant, clk := c.dcClk.get n : Fired } ∈ t.fired) ∧
    (∀ i, ¬ hit i → (t.arms.get n).get i = (c.arms.get n).get i) ∧
    (∃ more, t.fired = c.fired ++ more ∧ more.length ≤ 4) ∧
    (c.counterSet n v).dc.get n = v ∧ (c.counterSet n v).arms = c.arms ∧ (c.counterSet n v).fired = c.fired

/-- The delivery-counter operations, and the arms that an addition fires (R195, R196, R200-R202). -/
def Obligations.DeliveryCountersAndArms : Prop :=
  DeliveryCounterOperations ∧ CountersFireTheirArms

/-- pbld reads a 128-byte template as a long-latency producer, with DEST replaced by b[31:0] where b[63] is 1; an address that is no
multiple of 128 stops it with CLASS 0x18 CODE 0x0003. psend of a header without fault gates its packet, stamped with ORIG, TEN and PIN,
without payload where PLEN is 0; with 8 packets queued its bundle is held; an invalid header field stops it with CODE 0x0005 (R197-R199,
R269, R270, R432). -/
def Obligations.PacketsAreBuiltAndSent : Prop :=
  ∀ s row f x,
    (∀ pa n nc rest es, Issues (.pbld f) {} s row f x → x.a64.toNat % 128 = 0 →
      translateRange s s.cur s.core.tenant s.core.priv x.a64 128 .read = .ok ((pa, n, nc) :: rest, es) →
      let t := (s.onCore Core.beginIssue).keepTlb s.cur es
      exec (.pbld f) s = .next (t.startRead x (piecesOf ((pa, n, nc) :: rest) 0 x.a64) 0 none (padOf ((pa, n, nc) :: rest))
        (if x.b64.getLsbD 63 then some (x.b64.extractLsb' 0 32) else none))) ∧
    (∀ (t t' : State) (m : CoreNo) (r : LoadReq) (w : BitVec 32) (v : Vec), r.low = some w → r.sext = none →
      performRead t m r = some (t', v, none) → ∃ v0, performRead t m { r with low := none } = some (t', v0, none) ∧
        ∀ i, v.getLsbD i = if i < 32 then w.getLsbD i else v0.getLsbD i) ∧
    (∀ q, Issues (.pbld f) {} s row f x → x.a64.toNat % 128 ≠ 0 →
      translateRange s s.cur s.core.tenant s.core.priv x.a64 128 .read = .ok q → StopsWith (.pbld f) s row f ⟨7, 0x18, 3, 4, x.a64, 0⟩) ∧
    (Issues (.psend f) { b := noB, c := true } s row f x → (packetOf x.a).plenField = 0 → (packetOf x.a).tbx.getLsbD 7 = false →
      (hdrFault (packetOf x.a) = none → s.core.sendQ.length < 8 →
        exec (.psend f) s = .next ((begun s x).onCore (Core.gate · (.send
          { (packetOf x.a).stamped (s.origin s.cur) s.core.tenant s.core.pin with payload := [] } (x.c64.setWidth 5) x.b64 [] none
          s.core.ctx.pc 0)))) ∧
      (hdrFault (packetOf x.a) = none → 8 ≤ s.core.sendQ.length → exec (.psend f) s = .next (s.holdCore s.cur
        { queue := true, whys := [none] })) ∧
      (∀ o, hdrFault (packetOf x.a) = some o → s.core.sendQ.length < 8 →
        StopsWith (.psend f) s row f ⟨7, 0x18, 5, 4, BitVec.ofNat 64 o, 0⟩))

/-! ## Move words (R130, R133, R139) -/

/-- The moves of the four forms, with the destination `d`, their words, and the value that each reads: a register's, or an immediate,
sign-extended to 64 bits in forms 1 and 2 (R139). -/
def Sys2Proof.Claims.MoveReads (s : State) (e n : BitVec 1) (g : BitVec 4) (d : BitVec 12) (i : Instr) (words : Nat) (v : Word) : Prop :=
  (∃ r : BitVec 6, i = .moveRegister e n g d (r.setWidth 12) ∧ words = 1 ∧ v = s.core.ctx.rdS r ∧ s.core.ctx.fullS r = true ∧
    s.core.tagOf (.s r) = none ∧ s.core.ownBad (.s r) = false) ∨
  (∃ m : BitVec 12, i = .moveImmediate12 e n g d m ∧ words = 1 ∧ v = m.signExtend 64) ∨
  (∃ m : BitVec 32, i = .moveImmediate32 e n g d m ∧ words = 2 ∧ v = m.signExtend 64) ∨
  (∃ m : BitVec 64, i = .moveImmediate64 e n g d m ∧ words = 3 ∧ v = m)

/-- A move without the end mark joins its group and has no other effect. The last move of a group of its own, guarded true and to a
scalar register, writes what it reads there and nothing to any other register, and control goes on after its words; where its guard is
false only control goes on. Stated outside loops, with no fixed-latency result on its way, no breakpoint at the group, no reservation in
the open sheet, and no failed check of what is read, of the datapaths or of the sheet's own buffers (R130, R131, R133, R139). -/
def Obligations.MovesWriteTheirDestination : Prop :=
  ∀ (s : State) (e n : BitVec 1) (g : BitVec 4) (d : BitVec 6) i words v,
    s.core.ownBad (.p g) = false → s.core.check = none →
    (∀ sh, s.core.sheet = some sh → sh.gated.any Gated.isReserved = false ∧ sh.spoiled = false) →
    MoveReads s e n g (d.setWidth 12) i words v → WellFormed i = true →
    (e = 0 → ∃ m : GMove, exec i s = .next (s.setCore { s.core with group := s.core.group ++ [m] }) ∧ m.words = words ∧
      m.dst = d.setWidth 12 ∧ m.n = n ∧ m.g = g) ∧
    (e = 1 → s.core.group = [] → s.holdsNext s.core = false → s.core.breakpoint = none → s.core.pend = [] →
      s.core.overrunFound = [] → s.core.outstanding (.s d) = false → s.core.ctx.loops = [] → (s.core.ctx.rdP g != (n == 1)) = true →
      ∃ t, exec i s = .next t ∧ t.core.ctx.rdS d = (if d = 0 then 0 else v) ∧ (∀ j, j ≠ d → t.core.ctx.rdS j = s.core.ctx.rdS j) ∧
        (∀ j, t.core.ctx.rdV j = s.core.ctx.rdV j) ∧ (∀ j, t.core.ctx.rdP j = s.core.ctx.rdP j) ∧
        t.core.ctx.pc = s.core.ctx.pc + BitVec.ofNat 64 (4 * words) ∧ t.core.group = [] ∧ t.mem = s.mem) ∧
    (e = 1 → s.core.group = [] → s.holdsNext s.core = false → s.core.breakpoint = none → s.core.pend = [] →
      s.core.overrunFound = [] → s.core.ctx.loops = [] → (s.core.ctx.rdP g != (n == 1)) = false →
      ∃ t, exec i s = .next t ∧ (∀ j, t.core.ctx.rdS j = s.core.ctx.rdS j) ∧
        t.core.ctx.pc = s.core.ctx.pc + BitVec.ofNat 64 (4 * words) ∧ t.mem = s.mem)

/-! ## Transit programs (R274-R287) -/

/-- The current router has an open run. -/
def Sys2Proof.Claims.OpenRun (s : State) (run : Run) : Prop := s.plat.failStop = false ∧ (s.routerAt s.curRouter).run = some run

/-- Transit instruction `i` leaves the packet `p` in its open run, which goes on `1 + n` instructions further. -/
def Sys2Proof.Claims.RunsTo (i : Instr) (s : State) (run : Run) (p : Packet) (n : Nat) : Prop :=
  exec i s = .next (s.setRun s.curRouter (some { run with p := { p with pc := run.p.pc + 1 + n } }))

/-- Transit instruction `i` parks its packet for a reason, with its state as it stood before (R286, R470). -/
def Sys2Proof.Claims.ParksWith (i : Instr) (s : State) (run : Run) (code : BitVec 10) : Prop :=
  exec i s = .next ((s.setRun s.curRouter none).parkAt s.curRouter run.p run.adir true code)

/-- The operations on the two top values b and a of the stack (R277). -/
def Sys2Proof.Claims.transitBinary : List (Instr × (BitVec 32 → BitVec 32 → BitVec 32)) :=
  [(.transitAdd, fun a b => a + b), (.transitSub, fun a b => a - b), (.transitAnd, fun a b => a &&& b), (.transitOr, fun a b => a ||| b),
   (.transitXor, fun a b => a ^^^ b), (.transitShl, fun a b => if 32 ≤ b.toNat then 0 else a <<< b.toNat),
   (.transitShr, fun a b => if 32 ≤ b.toNat then 0 else a >>> b.toNat), (.ceq, fun a b => if a = b then 1 else 0),
   (.clt, fun a b => if a.toInt < b.toInt then 1 else 0), (.cltu, fun a b => if a.toNat < b.toNat then 1 else 0)]

/-- The stack moves and the arithmetic of transit programs change the stack of at most four values as R277 says, and nothing else of the
packet; with too few values the packet parks with reason 0x005, and with no place for one with 0x004 (R274, R277, R470). -/
def Obligations.TransitStackAndArithmetic : Prop :=
  ∀ s run, OpenRun s run → run.p.stack.length ≤ 4 →
    let p := run.p
    let keep (st : List (BitVec 32)) : Packet := { p with stack := st }
    (∀ n : BitVec 10, (p.stack.length < 4 → RunsTo (.pushi n) s run (keep (n.signExtend 32 :: p.stack)) 0) ∧
      (p.stack.length = 4 → ParksWith (.pushi n) s run 4)) ∧
    (∀ (n : BitVec 10) x r, p.stack = x :: r → RunsTo (.xtnd n) s run (keep ((x * 1024 + n.setWidth 32) :: r)) 0 ∧
      RunsTo (.addi n) s run (keep ((x + n.signExtend 32) :: r)) 0) ∧
    (∀ i : BitVec 2, p.stack.length < 4 → RunsTo (.ldw i) s run (keep (p.w.get i :: p.stack)) 0) ∧
    (∀ (i : BitVec 2) x r, p.stack = x :: r → RunsTo (.stw i) s run { p with stack := r, w := p.w.put i x } 0) ∧
    (∀ x r, p.stack = x :: r → r.length < 3 → RunsTo .dup s run (keep (x :: x :: r)) 0) ∧
    (∀ x r, p.stack = x :: r → RunsTo .drop s run (keep r) 0) ∧
    (∀ a b r, p.stack = b :: a :: r → RunsTo .swap s run (keep (a :: b :: r)) 0) ∧
    (∀ q ∈ transitBinary, ∀ a b r, p.stack = b :: a :: r → RunsTo q.1 s run (keep (q.2 a b :: r)) 0) ∧
    (p.stack = [] → (∀ n, ParksWith (.xtnd n) s run 5) ∧ (∀ i, ParksWith (.stw i) s run 5) ∧ ParksWith .drop s run 5) ∧
    (∀ q ∈ transitBinary, p.stack.length < 2 → ParksWith q.1 s run 5)

/-- skz pops a value and goes on 1 + n instructions further where it is 0 and 1 further otherwise, sknz the other way round, and skip
goes on 1 + n further and pops nothing; their OPs are 0x1C, 0x1D and 0x1E, and n is OPD[3:0]; a run whose pc is above 15 ends at its next
step, its packet parked with reason 0x001 (R281). -/
def Obligations.TransitSkips : Prop :=
  (∀ s run (n : BitVec 4), OpenRun s run →
    (∀ x r, run.p.stack = x :: r →
      RunsTo (.skz n) s run { run.p with stack := r } (if x = 0 then n.toNat else 0) ∧
      RunsTo (.sknz n) s run { run.p with stack := r } (if x ≠ 0 then n.toNat else 0)) ∧
    RunsTo (.skip n) s run run.p n.toNat) ∧
  (∀ s r rest run, s.agenda = .router r :: rest → s.halted = false → s.plat.failStop = false → routerOk r = true →
    (s.routerAt r).run = some run → 15 < run.p.pc →
    step s = .next ((({ s with agenda := rest } : State).setRun r none).parkAt r run.p run.adir true 1)) ∧
  ∀ n : BitVec 4, decodeTransit ((0x1C : BitVec 6) ++ (0 : BitVec 6) ++ n) = .ok (.skz n) ∧
    decodeTransit ((0x1D : BitVec 6) ++ (0 : BitVec 6) ++ n) = .ok (.sknz n) ∧
    decodeTransit ((0x1E : BitVec 6) ++ (0 : BitVec 6) ++ n) = .ok (.skip n)

/-- A word of a packet's payload. -/
def Sys2Proof.Claims.payloadWord (p : Packet) (i : Nat) : BitVec 32 := BitVec.ofNat 32 (leNat ((p.payload.drop (4 * i)).take 4))

/-- env pushes what its selector names; the waypoint instructions read and write the words of the tenant's window, which keep their
place in the store, and pld, pst and pvadd the words of the payload (R278-R280, R287). A missing permission parks the packet with
reason 0x010 plus its bit, a word outside the window with 0x008, one outside the payload with 0x009 (R470). -/
def Obligations.TransitMemoryAndPayload : Prop :=
  ∀ s run, OpenRun s run → run.p.stack.length ≤ 4 →
    let p := run.p
    let r := s.curRouter
    let base := (s.windowAt r p.ten).1
    let size := (s.windowAt r p.ten).2
    let usable (f : BitVec 32) : Prop := f.toNat < 64 * size ∧ 64 * base + f.toNat ∉ (s.routerAt r).badWords ++ (s.routerAt r).fencedWords
    let word (f : BitVec 32) : BitVec 32 := s.wpWord r (64 * base + f.toNat)
    let stored (i : Instr) (f v : BitVec 32) (st : List (BitVec 32)) : Prop :=
      ∃ t, exec i s = .next t ∧ t.wpWord r (64 * base + f.toNat) = v ∧
        (∀ j, j ≠ 64 * base + f.toNat → t.wpWord r j = s.wpWord r j) ∧ t.mem = s.mem ∧
        (t.routerAt r).run = some { run with p := { p with stack := st, pc := p.pc + 1 } }
    (p.stack.length < 4 →
      (∀ q ∈ ([(0, p.hops.setWidth 32), (1, p.budget.setWidth 32), (3, p.orig), (4, run.adir.setWidth 32), (5, p.cgen.setWidth 32),
          (6, p.tag.setWidth 32), (7, p.plenField.setWidth 32), (8, p.dest)] : List (BitVec 10 × BitVec 32)),
        RunsTo (.env q.1) s run { p with stack := q.2 :: p.stack } 0) ∧
      (∀ i : BitVec 6, 4 * i.toNat + 4 ≤ p.payload.length →
        RunsTo (.pld i) s run { p with stack := payloadWord p i.toNat :: p.stack } 0)) ∧
    (∀ f st, p.stack = f :: st → run.mask.getLsbD 0 = true → usable f → RunsTo .wpld s run { p with stack := word f :: st } 0) ∧
    (∀ f st, p.stack = f :: st → run.mask.getLsbD 0 = true → 64 * size ≤ f.toNat → ParksWith .wpld s run 8) ∧
    (Memory.wf (s.routerAt r).waypoint = true → ∀ v f st, p.stack = v :: f :: st → usable f →
      (run.mask.getLsbD 1 = true → stored .wpst f v st) ∧
      (run.mask.getLsbD 2 = true → stored .wpadd f (word f + v) (word f :: st)) ∧
      (run.mask.getLsbD 2 = true →
        stored .wpclm f (if word f = 0 then v else word f) ((if word f = 0 then 1 else 0) :: st))) ∧
    (run.mask.getLsbD 0 = false → ParksWith .wpld s run 0x10) ∧ (run.mask.getLsbD 1 = false → ParksWith .wpst s run 0x11) ∧
    (run.mask.getLsbD 2 = false → ParksWith .wpadd s run 0x12 ∧ ParksWith .wpclm s run 0x12) ∧
    (∀ (i : BitVec 6) v st, p.stack = v :: st →
      (4 * i.toNat + 4 ≤ p.payload.length → ∃ q : Packet, RunsTo (.pst i) s run q 0 ∧ q.stack = st ∧ q.hdr = p.hdr ∧ q.w = p.w ∧
        q.payload.length = p.payload.length ∧ payloadWord q i.toNat = v ∧
        ∀ j, j ≠ i.toNat → payloadWord q j = payloadWord p j) ∧
      (p.payload.length < 4 * i.toNat + 4 → ParksWith (.pst i) s run 9)) ∧
    (∀ (at_ : BitVec 6) n f st, p.stack = n :: f :: st → run.mask.getLsbD 0 = true → 1 ≤ n.toNat → n.toNat ≤ 64 →
      4 * (at_.toNat + n.toNat) ≤ p.payload.length → f.toNat + n.toNat ≤ 64 * size →
      (∀ k, k < n.toNat → 64 * base + f.toNat + k ∉ (s.routerAt r).badWords ++ (s.routerAt r).fencedWords) →
      ∃ q : Packet, RunsTo (.pvadd 0 at_) s run q 0 ∧ q.stack = st ∧ q.payload.length = p.payload.length ∧
        (∀ k, k < n.toNat → payloadWord q (at_.toNat + k) = payloadWord p (at_.toNat + k) + s.wpWord r (64 * base + f.toNat + k)) ∧
        ∀ j, j < at_.toNat ∨ at_.toNat + n.toNat ≤ j → payloadWord q j = payloadWord p j)

/-- A packet as it waits on a link after a move of one hop over it (R272): its budget one less, its hops one more, its stack empty and
its program at instruction 0, with the direction as its arrival code. -/
def Sys2Proof.Claims.Moved (p : Packet) (d : BitVec 4) (x : FPacket) : Prop :=
  x.adir = d ∧ x.p.budget = p.budget - 1 ∧ x.p.hops.toNat = min (p.hops.toNat + 1) 255 ∧ x.p.stack = [] ∧ x.p.pc = 0 ∧
  x.p.prog = p.prog ∧ x.p.w = p.w ∧ x.p.payload = p.payload ∧ x.p.dest = p.dest ∧ x.p.tag = p.tag ∧ x.before = p

/-- fwd in a direction 6-9 at an on-package router whose link is alive puts the packet on that link and ends the run, and parks it with
reason 0x006 where its budget is 0; least does what fwd does in the least occupied of its directions, the lowest of equals; clon sends
a copy of the next generation in each of its directions and goes on (R271, R272, R282, R283, R472). -/
def Sys2Proof.Claims.PacketsMoveOn : Prop :=
  ∀ s run, OpenRun s run → s.curRouter.toNat < 224 → let r := s.curRouter
    let alive (d : BitVec 4) : Prop := 6 ≤ d.toNat ∧ d.toNat ≤ 9 ∧ s.dead (linkOf r d.toNat) = false
    let queue (t : State) (d : BitVec 4) : List FPacket := t.linkQueue (linkOf r d.toNat)
    (∀ d, alive d → run.p.budget ≠ 0 → ∃ t x, exec (.fwd d) s = .next t ∧ (t.routerAt r).run = none ∧ queue t d = queue s d ++ [x] ∧
      Moved run.p d x ∧ (∀ e, alive e → e ≠ d → queue t e = queue s e) ∧ t.mem = s.mem ∧ t.cores = s.cores) ∧
    (∀ d, alive d → run.p.budget = 0 → ParksWith (.fwd d) s run 6) ∧
    (∀ m : BitVec 10, m ≠ 0 → (∀ d, m.getLsbD d = true → alive (BitVec.ofNat 4 d) ∧ d < 10) → run.p.pin = false →
      ∃ d : BitVec 4, m.getLsbD d.toNat = true ∧ exec (.least m) s = exec (.fwd d) s ∧
        ∀ e : BitVec 4, m.getLsbD e.toNat = true → s.occupancy (linkOf r d.toNat) ≤ s.occupancy (linkOf r e.toNat) ∧
          (e.toNat < d.toNat → s.occupancy (linkOf r d.toNat) < s.occupancy (linkOf r e.toNat))) ∧
    (∀ m : BitVec 10, m ≠ 0 → (∀ d, m.getLsbD d = true → alive (BitVec.ofNat 4 d) ∧ d < 10) → run.mask.getLsbD 4 = true →
      run.p.budget ≠ 0 → run.p.cgen ≠ 15 → run.cloned = false →
      ∃ t, exec (.clon m) s = .next t ∧
        (t.routerAt r).run = some { run with cloned := true, p := { run.p with pc := run.p.pc + 1 } } ∧
        (∀ d : BitVec 4, m.getLsbD d.toNat = true → ∃ x, queue t d = queue s d ++ [x] ∧ x.adir = d ∧ x.p.cgen = run.p.cgen + 1 ∧
          x.p.budget = run.p.budget - 1 ∧ x.p.payload = run.p.payload ∧ x.p.stack = []) ∧
        ∀ d, alive d → m.getLsbD d.toNat = false → queue t d = queue s d)

/-- dlvr of a packet that passes the checks of R473 starts its delivery and ends the run; park, with its permission and a free place,
parks the packet with the program's reason, in the free entry of the lowest number, which is the model's reading (log entry 62); kill ends
the run and discards the packet; comb at a free slot that the tenant owns opens it for the children of its mask, and as the only child of
its mask goes on at once with the count 1 in w3 (R283-R286). -/
def Sys2Proof.Claims.RunsEnd : Prop :=
  ∀ s run, OpenRun s run → let r := s.curRouter
    (∀ runs es, s.checkDelivery run = .ok (runs, es) → run.p.plen ≠ 0 → ∃ t x, exec .dlvr s = .next t ∧ (t.routerAt r).run = none ∧
      t.fab.deliveries = s.fab.deliveries ++ [x] ∧ x.p.payload = run.p.payload ∧ x.p.hdr = run.p.hdr ∧ x.router = r ∧ x.runs = runs ∧
      x.left = List.range (run.p.plen / 16) ∧ t.mem.mem = s.mem.mem) ∧
    (∀ c i, run.mask.getLsbD 10 = true → ((s.routerAt r).park.get i) = none →
      (∀ j : BitVec 4, j.toNat < i.toNat → ((s.routerAt r).park.get j) ≠ none) →
      ∃ t e, exec (.park c) s = .next t ∧ (t.routerAt r).run = none ∧ (t.routerAt r).park.get i = some e ∧ e.p = run.p ∧
        e.reason = c.setWidth 16 ∧ e.adir = run.adir ∧ ∀ j, j ≠ i → (t.routerAt r).park.get j = (s.routerAt r).park.get j) ∧
    (∀ c, run.mask.getLsbD 10 = false → ParksWith (.park c) s run 0x1A) ∧
    exec .kill s = .next (s.setRun r none) ∧
    (∀ (flt : BitVec 1) c m d st, run.p.stack = c :: m :: d :: st → run.mask.getLsbD 3 = true → let i : BitVec 6 := run.p.tag.setWidth 6
      (s.rreg r run.p.ten 0x48).getLsbD i.toNat = true → c.toNat ≤ 15 → m.toNat ≤ 0xFFFF → m.getLsbD c.toNat = true →
      (s.routerAt r).slots.get i = {} →
      ∃ t, exec (.comb flt) s = .next t ∧ (t.routerAt r).run = none ∧ t.mem = s.mem ∧
        (m.toNat ≠ 2 ^ c.toNat → let x := (t.routerAt r).slots.get i
          x.st = .opened ∧ x.key = ⟨run.p.ten, run.p.tag, run.p.plenField, flt, m.setWidth 16⟩ ∧ x.d = d ∧ x.t0 = s.plat.cycle ∧
          x.have_.toNat = 2 ^ c.toNat ∧ (t.routerAt r).combRel = (s.routerAt r).combRel) ∧
        (m.toNat = 2 ^ c.toNat → (t.routerAt r).slots.get i = {} ∧ ∃ y, (t.routerAt r).combRel = (s.routerAt r).combRel ++ [y] ∧
          y.p.payload = run.p.payload ∧ y.p.stack = st ∧ (y.p.w.get 3).toNat = 65536 + m.toNat ∧ y.p.pc = run.p.pc + 1))

/-- How a transit program moves, copies, combines, delivers, parks and discards its packet (R271, R272, R282-R286). That a parked packet
takes the free entry of the lowest number is the model's choice (log entry 62), not the spec's. -/
def Obligations.PacketsMoveOnOrEnd : Prop :=
  PacketsMoveOn ∧ RunsEnd

/-! ## Events at a core (R68, R82, R83, R236, R334, R339, R441) -/

/-- A result whose value is known and whose cycle has come lands: its producer is no longer outstanding, and its register has the value
and is full; one whose cycle has not come stays (R68, R352). -/
def Sys2Proof.Claims.ResultsLand : Prop :=
  ∀ (s : State) (n : CoreNo) (i : Nat) o v due, coreOk n = true → s.alive n = true → (s.coreAt n).outst[i]? = some o →
    o.awaits = .ready v due →
    ((∀ d, due = some d → d ≤ s.nowOf n) → ∃ t, exec (.resultLanding n i) s = .next t ∧
      (t.coreAt n).outst = (s.coreAt n).outst.eraseIdx i ∧ t.mem = s.mem ∧
      (t.coreAt n).creg crFSTAT = (s.coreAt n).creg crFSTAT ||| o.flags.setWidth 64 ∧
      (∀ d : BitVec 6, o.dst = .s d → d ≠ 0 → (t.coreAt n).ctx.rdS d = v.setWidth 64 ∧ (t.coreAt n).ctx.fullS d = true) ∧
      (∀ d : BitVec 5, o.dst = .v d → (t.coreAt n).ctx.rdV d = v ∧ (t.coreAt n).ctx.fullV d = true) ∧
      ∀ j : BitVec 6, o.dst ≠ .s j → (t.coreAt n).ctx.rdS j = (s.coreAt n).ctx.rdS j) ∧
    (∀ d, due = some d → s.nowOf n < d → exec (.resultLanding n i) s = .next s)

/-- A bound read stream with a place free fetches its next element, here from the scratchpad: the element joins those that it holds and
the place is taken; with no place free nothing is fetched. A write stream's oldest element is written to its space and, in the free
regime, leaves its place (R82, R83). -/
def Sys2Proof.Claims.StreamsMoveElements : Prop :=
  ∀ (s : State) (n : CoreNo) (q : BitVec 3), coreOk n = true → s.alive n = true →
    let st := (s.coreAt n).ctx.q.get q
    let a := sdAddr st.desc (sdPos st.desc + st.fetched.length)
    (sdBound st.desc = true → sdWrite st.desc = false → sdSpace st.desc = 1 → st.base ≠ [] →
      sdPos st.desc + st.fetched.length < sdTotal st.desc → s.elementBad n st.desc a = false →
      ∃ t e, exec (.streamFetch n q) s = .next t ∧ ((t.coreAt n).ctx.q.get q).fetched = st.fetched ++ [e] ∧
        e.val = BitVec.ofNat 1024 (leNat (s.scratchRead n n a.toNat (sdBytes st.desc))) ∧
        ((t.coreAt n).ctx.q.get q).base = st.base.drop 1 ∧ ((t.coreAt n).ctx.q.get q).desc = st.desc ∧ t.mem = s.mem) ∧
    (st.base = [] → exec (.streamFetch n q) s = .next s) ∧
    (∀ w rest off k nc, (s.coreAt n).wbuf = w :: rest → w.q = q → w.written = false → w.space = 1 → w.runs = [(off, k, nc)] → w.due = 0 →
      Memory.wf (s.coreAt n).scratch = true →
      ∃ t, exec (.streamWriteElement n q) s = .next t ∧ (t.coreAt n).wbuf = rest ∧
        (∀ i, Memory.get (t.coreAt n).scratch i = if off ≤ i ∧ i < off + w.bytes.length then w.bytes.getD (i - off) 0
          else Memory.get (s.coreAt n).scratch i) ∧ t.mem = s.mem)

/-- The oldest gated entry of a core's committed sheets leaves it and takes effect, here a scratchpad store, a tag-table entry, a stream
element and a copy, which its barrier counts from then on (R254); an entry that must wait stays: a store to granules that another agent
holds, an element whose stream's transfer unit holds 8, and a copy behind the core's own writes (R83, R255, R339). -/
def Sys2Proof.Claims.GatedEntriesLeaveInOrder : Prop :=
  ∀ (s : State) (n : CoreNo) d g r, coreOk n = true → s.plat.failStop = false → (s.coreAt n).committed = (d, g) :: r →
    (∀ m off bs, g = .scratch m off bs → (s.setCoreAt n { s.coreAt n with committed := r }).granHolder n m (granRange off bs.length) = none →
      s.mayMeet (.scratch m) (portKey n m) = true → Memory.wf (s.coreAt m).scratch = true →
      ∃ t, exec (.gatedEntryDrain n) s = .next t ∧ (t.coreAt n).committed = r ∧
        (∀ i, Memory.get (t.coreAt m).scratch i = if off ≤ i ∧ i < off + bs.length then bs.getD (i - off) 0
          else Memory.get (s.coreAt m).scratch i) ∧ t.mem = s.mem) ∧
    (∀ m off bs h, g = .scratch m off bs → (s.setCoreAt n { s.coreAt n with committed := r }).granHolder n m (granRange off bs.length) = some h →
      exec (.gatedEntryDrain n) s = .next s) ∧
    (∀ i v, g = .tagw i v → exec (.gatedEntryDrain n) s =
      .next (s.setCoreAt n { s.coreAt n with
        committed := r, tagTable := (s.coreAt n).tagTable.put i v, tagBad := (s.coreAt n).tagBad.erase i.toNat })) ∧
    (∀ w, g = .push w → exec (.gatedEntryDrain n) s =
      .next (if ((s.coreAt n).wbuf.filter fun x => x.q == w.q).length < 8
        then s.setCoreAt n { s.coreAt n with committed := r, wbuf := (s.coreAt n).wbuf ++ [w] } else s)) ∧
    (∀ e, g = .copy e →
      (s.copyReady n e.no = true → ∃ t, exec (.gatedEntryDrain n) s = .next t ∧ (t.coreAt n).committed = r ∧
        (t.coreAt n).copyQ = (s.coreAt n).copyQ ++ [{ e with seq := s.plat.copySeq }] ∧ t.plat.copySeq = s.plat.copySeq + 1 ∧
        ∀ k, ((t.coreAt n).bb.get k).pending = ((s.coreAt n).bb.get k).pending +
          if ccBbe e.cmd ∧ k = ccBb e.cmd then BitVec.ofNat 63 (ccLen e.cmd) else 0) ∧
      (s.copyReady n e.no = false → exec (.gatedEntryDrain n) s = .next s))

/-- A translation that completes puts the sheet at the core's virtual PC, with the text that was fetched, before the other sheets of its
die's atlas, of which it replaces none that is locked or that a core is running (R442), and nothing else may complete for it; a retry
counts one failed pipeline, and the fourth in a row leaves a lasting fault point of CLASS 0x20 CODE 0x0003 (R334, R441). A descriptor
fill brings the missing plane's entry into the cache (R236). -/
def Sys2Proof.Claims.TranslationsAndDescriptorsArrive : Prop :=
  ∀ (s : State) (n : CoreNo), coreOk n = true → s.alive n = true →
    let c := s.coreAt n
    let groups := s.sheetGroups n c.ctx.pc
    let old := s.plat.atlas.get (dieOf n)
    (∀ k, k ≠ groups → exec (.translationComplete (dieOf n) n k) s = .next s) ∧
    (∀ o ws, s.awaitsSheet n = true → s.objAt c.tenant c.ctx.pc = some o → ws ≠ [] →
      s.sheetFrom n o (o.words + 1) ((c.ctx.pc.toNat - o.text.toNat) / 4) (min groups 256) (0, 0, 0) = (ws, none) →
      ∃ t e rest, exec (.translationComplete (dieOf n) n groups) s = .next t ∧ t.plat.atlas.get (dieOf n) = e :: rest ∧
        e = { tenant := c.tenant, code := o.code, entry := c.ctx.pc, pin := c.pin, text := ws, lock := none } ∧
        (∀ x ∈ rest, x ∈ old) ∧
        (∀ x ∈ old, x.lock.isSome ∨ s.sheetRuns (dieOf n) x = true →
          x ∈ rest ∨ x.tenant = e.tenant ∧ x.code = e.code ∧ x.entry = e.entry ∧ x.pin = e.pin) ∧
        (Config.atlasBytes ws ≤ atlasSize → ((e :: rest).map fun x => Config.atlasBytes x.text).sum ≤ atlasSize ∨
          ∀ x ∈ rest, x.lock.isSome ∨ s.sheetRuns (dieOf n) x = true) ∧
        t.atlasAt n o c.ctx.pc = some e ∧ t.cores = s.cores ∧ t.mem = s.mem) ∧
    (s.awaitsSheet n = true → Tbl.get 0 s.plat.pipesFailed n.toNat < 3 → ∃ t, exec (.translationRetry (dieOf n) n) s = .next t ∧
      Tbl.get 0 t.plat.pipesFailed n.toNat = Tbl.get 0 s.plat.pipesFailed n.toNat + 1 ∧ t.plat.faultPoints = s.plat.faultPoints ∧
      t.cores = s.cores ∧ t.mem = s.mem) ∧
    (s.awaitsSheet n = true → Tbl.get 0 s.plat.pipesFailed n.toNat = 3 → ∃ t, exec (.translationRetry (dieOf n) n) s = .next t ∧
      Tbl.get 0 t.plat.pipesFailed n.toNat = 0 ∧ ∃ p ∈ t.plat.faultPoints, p.die = dieOf n ∧ p.tenant = c.tenant ∧ p.cls = 0x20 ∧
        p.code = 3 ∧ p.keep = true) ∧
    (∀ f t0 ds u, c.pin = false → s.waitingBeat n = some (f, t0) → (c.descOf true (beatGroup c.mcfg)).isSome = true →
      c.descOf false (beatGroup c.mcfg) = none →
      readDescs s n false (beatGroup c.mcfg) (beatWidth f t0) (List.range 32) =
        .entry ds u →
      (u.coreAt n).mcfg = c.mcfg → (u.coreAt n).descCache = c.descCache → c.descCache.length < 64 →
      ∃ t e, exec (.descriptorCacheFill n) s = .next t ∧ (t.coreAt n).descOf false (beatGroup c.mcfg) = some e ∧ e.desc = ds ∧
        ((t.coreAt n).descOf true (beatGroup c.mcfg)).isSome = true ∧ t.mem = u.mem)

/-- What happens at a core beside the issue of its bundles: results land, streams move elements, gated entries drain, translations and
descriptors arrive. -/
def Obligations.CoreEventsTakeEffect : Prop :=
  ResultsLand ∧ StreamsMoveElements ∧ GatedEntriesLeaveInOrder ∧ TranslationsAndDescriptorsArrive

/-! ## Contexts saved and resumed (R58-R65, R398-R400, R447) -/

/-- The image of a context that saves it, from its 64-byte header on, with the accumulator's header bit `acch` (R63, R64). -/
def Sys2Proof.Claims.savedImage (c : Core) (n : CoreNo) (loop acch : Bool) : List Byte :=
  c.saveHeader n 1 loop acch ++ c.saveLow ++ List.replicate 64 0 ++ c.saveHigh

/-- A context resumes from its saved image as it was saved: every scalar, vector, predicate, mask and loop register, every control
register below 0x17 and the virtual PC have the values they had, the RES0 bits of a control, loop or stream register reading 0
(R8, R63-R65). -/
def Sys2Proof.Claims.ContextsResumeAsSaved : Prop :=
  ∀ (c : Core) (n : CoreNo) (loop acch : Bool) (loops : List (BitVec 2)),
    let x := ctxOfImage (savedImage c n loop acch) loops
    (savedImage c n loop acch).length = 0x1800 ∧
    (∀ i, x.rdS i = c.ctx.rdS i) ∧ (∀ i, x.rdV i = c.ctx.rdV i) ∧ (∀ i, x.rdP i = c.ctx.rdP i) ∧ (∀ i, x.k.get i = c.ctx.k.get i) ∧
    (∀ i, x.lc.get i = lcHeld (c.ctx.lc.get i)) ∧ x.sfull = c.ctx.sfull ∧ x.vfull = c.ctx.vfull ∧
    (∀ i : BitVec 5, i.toNat < 23 → x.creg i = c.creg i &&& crHeld i) ∧ (∀ i, (x.q.get i).desc = sdHeld (c.ctx.q.get i).desc) ∧
    (∀ i, x.coords.get i = c.ctx.coords.get i) ∧ x.pc = c.ctx.pc &&& 0x01FFFFFFFFFFFFFC ∧ x.code = c.ctx.code ∧
    x.lastSusp = c.ctx.lastSusp ∧ x.loops = loops

/-- A request for pre-emption sets its core's request bit, a tenant's those of every core that runs it, and an expired time slice where a
candidate waits likewise, and marks the task as cut by its slice; without a candidate nothing happens (R59). -/
def Sys2Proof.Claims.PreemptionIsAskedFor : Prop :=
  ∀ (s : State) (n : CoreNo) r, s.plat.failStop = false → (s.coreAt n).running = some r →
    (∀ w, w = .core n ∨ w = .launch r.tenant r.handle ∨ w = .tenant r.tenant → ∃ t, exec (.preemptionRequest w) s = .next t ∧
      (t.coreAt n).preempt = true ∧ (t.coreAt n).ctx = (s.coreAt n).ctx ∧ (t.coreAt n).running = some r ∧ t.mem = s.mem) ∧
    (∀ l, coreOk n = true → s.findLaunch r.tenant r.handle = some l → (s.coreAt n).sliceExpired = true → (s.coreAt n).preempt = false →
      (s.coreAt n).pin = false →
      (s.candidateFor n (s.queueClass l.tenant l.queue).toNat = true → ∃ t, exec (.timeSliceExpiry n) s = .next t ∧
        (t.coreAt n).preempt = true ∧ (t.coreAt n).sliceCut = true ∧ (t.coreAt n).ctx = (s.coreAt n).ctx ∧ t.mem = s.mem) ∧
      (s.candidateFor n (s.queueClass l.tenant l.queue).toNat = false → exec (.timeSliceExpiry n) s = .next s))

/-- A pre-emption asked for at a boundary outside loops, or a page fault that is held, whose save is done, leaves its core without a task
and context, and its task waits in its launch, Pre-empted or Held, with its save area (R60-R62, R447). -/
def Sys2Proof.Claims.SavedTasksLeaveTheirCore : Prop :=
  ∀ (s : State) (n : CoreNo) u r l, coreOk n = true → s.alive n = true → (u.coreAt n).running = some r →
    let c := s.coreAt n
    let gone (t : State) (w : Waiting) : Prop := (t.coreAt n).running = none ∧ (t.coreAt n).ctx = {} ∧
      (t.coreAt n).lastTenant = some r.tenant ∧ (t.coreAt n).preempt = false ∧
      ∃ l' ∈ t.dist.launches, l'.order = l.order ∧ w ∈ l'.waiting
    (∀ decs, c.preempt = true → s.atBoundary n = true → s.blocked n = false → c.ctx.loops = [] →
      u.findLaunch r.tenant r.handle = some l →
      (let p := s.setCoreAt n c.partHold; p.setCoreAt n (p.coreAt n).unstop).saveContext n false = .done u decs →
      (u.coreAt n).ctx.loops = [] →
      ∃ t, exec (.preemptionSave n) s = .next t ∧ t.mem = u.mem ∧
        gone t (.preempted ((u.coreAt n).creg crSAVEA) n c.sliceCut [] { u.taskMem n with decs := decs })) ∧
    (∀ tr decs, c.pendTrap = some tr → s.faultHeld n tr = true →
      (let p := s.discardSheet n 0
       p.setCoreAt n { (p.coreAt n).unstop with loopSave := false, group := [], pendTrap := some tr }).saveContext n false = .done u decs →
      let q := u.queueFault c.tenant (heldEntry (u.coreAt n) tr)
      q.findLaunch r.tenant r.handle = some l →
      ∃ t, exec (.pageFaultHold n) s = .next t ∧
        gone t (.held ((u.coreAt n).creg crSAVEA) n (u.coreAt n).ctx.loops { q.taskMem n with decs := decs })) ∧
    (c.preempt = false → exec (.preemptionSave n) s = .next s)

/-- The hang watchdog of a task at depth 0 in the free regime, once it has counted its period, asks for its pre-emption, takes the core
out of service and starts the grace; below depth 0 the task is lost. 65,536 cycles after its start the grace ends with the task lost and
its core reset, once the copies queued there have completed. Neither does anything earlier (R251, R398-R400, R453). -/
def Sys2Proof.Claims.WatchdogsExpire : Prop :=
  ∀ (s : State) (n : CoreNo), coreOk n = true → s.alive n = true →
    ((s.coreAt n).hung < s.hangPeriod → exec (.hangWatchdogExpiry n) s = .next s) ∧
    (s.hangPeriod ≤ (s.coreAt n).hung → (s.coreAt n).depth = 0 → (s.coreAt n).pin = false →
      (s.coreAt n).fenced = false →
      (∀ p ∈ s.plat.errors, (recField p.rec_ 8 8 : BitVec 8) = 0x30 → (recField p.rec_ 10 16 : BitVec 16) ≠ n.setWidth 16) →
      ∃ t, exec (.hangWatchdogExpiry n) s = .next t ∧ (t.coreAt n).preempt = true ∧ (t.coreAt n).hung = 0 ∧
        (t.coreAt n).inService = false ∧ (t.coreAt n).graceStart = some ((s.coreAt n).graceStart.getD s.plat.cycle) ∧
        (t.coreAt n).sheets.get 0 = none) ∧
    (s.hangPeriod ≤ (s.coreAt n).hung → (s.coreAt n).depth ≠ 0 →
      ∃ t, exec (.hangWatchdogExpiry n) s = .next t ∧ (t.coreAt n).running = none ∧ (t.coreAt n).ctx = {}) ∧
    ∀ t0, (s.coreAt n).graceStart = some t0 →
      (s.plat.cycle < t0 + 65536 → exec (.saveGraceExpiry n) s = .next s) ∧
      (t0 + 65536 ≤ s.plat.cycle → ∃ t, exec (.saveGraceExpiry n) s = .next t ∧ (t.coreAt n).running = none ∧ (t.coreAt n).ctx = {} ∧
        (t.coreAt n).aown = 0 ∧ if (t.coreAt n).copyQ = [] then (t.coreAt n).lastTenant = none ∧ (t.coreAt n).scratch = []
          else (t.coreAt n).resetting = true)

/-- Contexts are saved, resumed, held and lost. -/
def Obligations.ContextsAreSavedAndResumed : Prop :=
  ContextsResumeAsSaved ∧ PreemptionIsAskedFor ∧ SavedTasksLeaveTheirCore ∧ WatchdogsExpire

/-! ## The master distributor (R33-R57, R361, R362, R459) -/

/-- A launch becomes visible, is taken and is cancelled (R51, R57, R361, R362, R459): a tail that advances by no more than the ring shows
the records up to it in order, as far as their reads are performed (R318), any other tail changes nothing but the logs; the head of a served
queue that offers no task is taken once nothing precedes it, or is refused and completes; a CANCEL that names no launch is kept for the tail
writes of its cycle (R362); a cancelled launch keeps no waiting task and its running tasks have a cancel pending, and disabling a tenant
cancels its open launches. -/
def Sys2Proof.Claims.LaunchesAreShownTakenAndCancelled : Prop :=
  ∀ (s : State) (t : BitVec 5) (q : BitVec 3), s.plat.failStop = false →
    let head := s.treg t (0x210 + 32 * q.toNat)
    let old := s.treg t (0x218 + 32 * q.toNat)
    let ahead (x : Nat) : Nat := (x + 2 ^ 32 - head.toNat) % 2 ^ 32
    (∀ tail : Word, let new := tail.toNat % 2 ^ 32
      let due := s.dist.pending ++ (List.range (ahead new - ahead old.toNat)).map fun i => (t, q, (old.toNat + i) % 2 ^ 32)
      ((∀ x ∈ s.plat.cancels, ∀ p ∈ due, x.1 ≠ p.1) → ahead old.toNat ≤ ahead new → ahead new ≤ s.queueSize t q →
        ∃ u ls, exec (.lqtailWrite t q tail) s = .next u ∧ u.treg t (0x218 + 32 * q.toNat) = BitVec.ofNat 64 new ∧
        u.dist.launches = s.dist.launches ++ ls ∧ u.dist.pending = due.drop ls.length ∧ u.cores = s.cores ∧ u.mem.mem = s.mem.mem ∧
        (∀ i (l : Launch), ls[i]? = some l → ∃ p, due[i]? = some p ∧ l.tenant = p.1 ∧ l.queue = p.2.1 ∧ l.index = BitVec.ofNat 32 p.2.2 ∧
          l.taken = false ∧ l.order = s.dist.order + i ∧ l.waiting = []) ∧
        ∀ p, u.dist.pending.head? = some p → let pa := u.recordAt p.1 p.2.1 p.2.2
          u.mem.lockedRange pa 128 = true ∨ targetOf pa = .package ∧ u.mem.readable 8 (pa / 128) = false) ∧
      (ahead new < ahead old.toNat ∨ s.queueSize t q < ahead new → ∃ u, exec (.lqtailWrite t q tail) s = .next u ∧ u.dist = s.dist)) ∧
    (∀ l, s.dist.pending = [] → s.queueOn t q = true → s.offering t q = none →
      s.dist.launches.find? (fun l => l.tenant == t && l.queue == q && !l.taken && l.index == head.setWidth 32) = some l →
      l.completed = false →
      (l.deps ≠ 0 → exec (.launchTake t q) s = .next s) ∧
      (l.deps = 0 → s.launchSynd l = none → ∃ u, exec (.launchTake t q) s = .next u ∧
        u.treg t (0x210 + 32 * q.toNat) = (head + 1) &&& 0xFFFFFFFF ∧ u.cores = s.cores ∧ u.mem = s.mem ∧
        u.dist.launches = s.dist.launches.map fun x => if x.order = l.order then
          { x with taken := true, pinned := x.flagPin, live := x.live + BitVec.ofNat 64 x.tasks } else x) ∧
      (∀ e, l.deps = 0 → s.launchSynd l = some e → ∃ u, exec (.launchTake t q) s = .next u ∧
        ∀ x ∈ u.dist.launches, x.order = l.order → x.taken = true ∧ x.refused = true ∧ x.completed = true)) ∧
    (s.dist.pending = [] → s.queueOn t q = false → exec (.launchTake t q) s = .next s) ∧
    (∀ h : BitVec 32, (s.findLaunch t h = none →
        exec (.cancel t h) s = .next { s with plat := { s.plat with cancels := (t, h) :: s.plat.cancels } }) ∧
      (∀ l, s.findLaunch t h = some l → l.cancelled = true → exec (.cancel t h) s = .next s) ∧
      (∀ l, s.findLaunch t h = some l → l.cancelled = false → ∃ u, exec (.cancel t h) s = .next u ∧
        (∀ x ∈ u.dist.launches, x.order = l.order → x.cancelled = true ∧ x.waiting = []) ∧
        ∀ n r, (s.coreAt n).running = some r →
          (u.coreAt n).running = some (if r.tenant = t ∧ r.handle = h then { r with cancelPending := true } else r))) ∧
    (s.plat.tdisp.get t = .unlocked → (s.treg t 0).getLsbD 63 = true → (s.dist.launches.map Launch.order).Nodup →
      ∃ u, exec (.tenantDisable t) s = .next u ∧ u.treg t 0 = s.treg t 0 &&& 0x7FFFFFFFFFFFFFFF ∧
        ∀ x ∈ u.dist.launches, x.tenant = t → x.isOpen = true → x.cancelled = true) ∧
    (s.plat.tdisp.get t ≠ .unlocked ∨ (s.treg t 0).getLsbD 63 = false → exec (.tenantDisable t) s = .next s)

/-- A wake on its way is applied (R43): with its launch gone it only ends; to a record of package memory that is neither suspended nor
woken it sets W; to a suspended record of its tenant it clears S and makes the task ready; at a record that is locked it waits. -/
def Sys2Proof.Claims.WakesReachTheirRecords : Prop :=
  ∀ (s : State) i w, s.plat.failStop = false → s.dist.wakes[i]? = some w →
    (s.findLaunch w.tenant w.handle = none →
      exec (.wake i) s = .next { s with dist := { s.dist with wakes := s.dist.wakes.eraseIdx i } }) ∧
    (∀ l e, s.findLaunch w.tenant w.handle = some l → l.cancelled = false → translate s noCore w.tenant true w.addr .rw = .ok e →
      let pa := e.phys w.addr
      let v : Word := BitVec.ofNat 64 (leNat (Memory.read s.mem.mem pa 8))
      targetOf pa = .package →
      (s.mem.locks.any (fun k => k.line == pa / 128) = true → exec (.wake i) s = .next s) ∧
      (s.mem.locks.any (fun k => k.line == pa / 128) = false → s.mem.readable 8 (pa / 128) = true → s.mem.isBad (pa / 16) = false →
        Memory.wf s.mem.mem = true →
        (v.getLsbD 63 = false → v.getLsbD 62 = false → ∃ t, exec (.wake i) s = .next t ∧
          t.dist = { s.dist with wakes := s.dist.wakes.eraseIdx i } ∧ t.cores = s.cores ∧
          BitVec.ofNat 64 (leNat (Memory.read t.mem.mem pa 8)) = v ||| 0x4000000000000000) ∧
        (v.getLsbD 63 = false → v.getLsbD 62 = true →
          exec (.wake i) s = .next { s with dist := { s.dist with wakes := s.dist.wakes.eraseIdx i } }) ∧
        (∀ l' a k, v.getLsbD 63 = true → s.suspendedOn pa = some (l', a, k) → l'.tenant = w.tenant → ∃ t, exec (.wake i) s = .next t ∧
          t.dist.wakes = s.dist.wakes.eraseIdx i ∧ t.cores = s.cores ∧
          BitVec.ofNat 64 (leNat (Memory.read t.mem.mem pa 8)) = v &&& 0x7FFFFFFFFFFFFFFF ∧
          ∀ x ∈ t.dist.launches, x.order = l'.order → .ready a true k ∈ x.waiting)))

/-- The next grant of one undispatched task begins it on its core (R40, R50): the core runs the launch's handle with the lowest free save
area, at the launch's entry, its coordinates in s48-s55, its arguments in s56-s63 and its handle and index in TASK. A grant of a
pre-empted task whose save area, read once its lines have left the die cache (R65), is good resumes its saved context, its barriers'
saved counts joining those of the core (R65, R386; log entry 39). Without a grant only the reservations are made anew. -/
def Sys2Proof.Claims.GrantsBeginAndResumeTasks : Prop :=
  ∀ (s : State), s.plat.failStop = false →
    (s.reserve.nextGrant = none → exec .taskDispatch s = .next s.reserve ∧ exec .taskResume s = .next s.reserve) ∧
    (∀ k t q c, s.reserve.nextGrant = some (k, t, q, c) →
      (∀ l i m b ix rest, c.pick = .tasks l [(i, m)] b → m < 1792 → s.reserve.mustWait t m = false →
        s.reserve.freeAreas l.tenant = ix :: rest →
        ∃ u, exec .taskDispatch s = .next u ∧
          let d := u.coreAt (BitVec.ofNat 11 m)
          let area := s.treg l.tenant 0x008 + BitVec.ofNat 64 (10240 * ix)
          d.running = some { tenant := l.tenant, handle := l.handle, savea := area, task := s.dist.tasks + 1, gang := l.gangOf i } ∧
          d.ctx.pc = l.entry ∧ d.ctx.creg crTASK = l.handle ++ BitVec.ofNat 32 i ∧ d.ctx.creg crTENANT = l.tenant.setWidth 64 ∧
          d.ctx.creg crSAVEA = area ∧ (l.tenant, ix) ∈ u.dist.areas ∧
          (∀ j, j < 8 → d.ctx.rdS (BitVec.ofNat 6 (48 + j)) = BitVec.ofNat 64 (s.coordOf l i j % 2 ^ 16) ∧
            d.ctx.rdS (BitVec.ofNat 6 (56 + j)) = (l.arg j).setWidth 64)) ∧
      (∀ l w a m img, c.pick = .resume l w a m → m < 1792 → s.reserve.mustWait t m = false →
        let n : CoreNo := BitVec.ofNat 11 m
        let v0 := acquireAt s.reserve n (clockJoin (some (s.reserve.mem.vc.get 8)) w.mem.rel)
        let u0 := (v0.areaLines t a).foldl (fun u x => dropDie u (dieOf n) x) v0
        let flags := leNat ((img.drop 2).take 2)
        u0.areaReadable n t a 0x1800 = true → (∀ x ∈ u0.areaLines l.tenant a, u0.mem.gaveUp n x = false) →
        u0.readArea l.tenant a = .ok img → headerSynd img = none → flags / 16 % 2 = 0 →
        ((ctxOfImage img w.loops).creg crPSTAT).getLsbD 1 = false →
        ∃ u r, exec .taskResume s = .next u ∧ (u.coreAt n).running = some r ∧ r.tenant = l.tenant ∧ r.handle = l.handle ∧ r.savea = a ∧
          r.cancelPending = decide (flags / 8 % 2 = 1) ∧ (u.coreAt n).ctx = (ctxOfImage img w.loops).restartStreams (s.nowOf n) ∧
          let old := s.coreAt n
          (u.coreAt n).bb = mergeBarriers (if old.mustClear l.tenant then old.clearPrivate else old).bb (barriersOfImage img)))

/-- The master distributor shows, takes, grants, wakes and cancels. -/
def Obligations.DistributorServesLaunches : Prop :=
  LaunchesAreShownTakenAndCancelled ∧ WakesReachTheirRecords ∧ GrantsBeginAndResumeTasks

/-! ## Copies and the actions of arms (R196, R253-R259, R270) -/

/-- A fired send whose descriptor can be read, without base-table entries and a payload that is read, joins the core's send queue with
ORIG, TEN and PIN stamped, once that has a place, one with an invalid header marked as such; a fired copy command that passes its checks
joins the copy queue, and one that fails them does not and fails its barrier. Both read as after the release that fired the arm (R196,
R259, R270, R289, R470). -/
def Sys2Proof.Claims.FiredActionsAreQueued : Prop :=
  ∀ (s : State) (n : CoreNo) f s1 bs, coreOk n = true → s.plat.failStop = false →
    ((s.coreAt n).fired.find? (fun f => f.kind == 1) = some f → (s.coreAt n).sendQ.length < 8 →
      s.readRange n f.tenant false f.arg 128 f.clk = .got s1 bs → let p := packetOf (BitVec.ofNat 1024 (leNat bs))
      p.tbx.getLsbD 7 = false → p.pbx.getLsbD 7 = false → p.readLen = 0 →
      ∃ u, exec (.armedSend n) s = .next u ∧ (u.coreAt n).sendQ = (s1.coreAt n).sendQ ++
        [{ p := { p.stamped (s.origin n) f.tenant (s.ownerPinned f) with payload := [] }, count := none, slot := f.slot.getD s.slotNow,
           bad := (hdrFault p).isSome }] ∧ (u.coreAt n).fired = takeFired 1 (s1.coreAt n).fired ∧ u.mem = s1.mem) ∧
    ((s.coreAt n).fired.find? (fun f => f.kind == 1) = some f → 8 ≤ (s.coreAt n).sendQ.length → exec (.armedSend n) s = .next s) ∧
    ((s.coreAt n).fired.find? (fun f => f.kind == 2) = some f → s.readRange n f.tenant false f.arg 32 f.clk = .got s1 bs →
      let d := BitVec.ofNat 256 (leNat bs)
      (copyChecks (s1.tookFired n 2) f.tenant d = [] →
        ∃ u, exec (.armedCopyQueue n) s = .next u ∧ (u.coreAt n).copyQ = (s1.coreAt n).copyQ ++
          [{ cmd := d, tenant := f.tenant, handle := f.handle, owner := 0, armed := true, seq := s1.plat.copySeq,
             left := copyGranules d, cmdAddr := f.arg }] ∧ (u.coreAt n).fired = takeFired 2 (s1.coreAt n).fired) ∧
      (copyChecks (s1.tookFired n 2) f.tenant d ≠ [] →
        ∃ u, exec (.armedCopyQueue n) s = .next u ∧ (u.coreAt n).copyQ = (s1.coreAt n).copyQ ∧
          (ccBbe d = true → ((u.coreAt n).bb.get (ccBb d)).fail = true)))

/-- The first copy of a core's queue that may start is marked started, an armed one's length joining its barrier; a granule of a started
copy, here from scratchpad to scratchpad in the free regime, moves its bytes and fills its granule, and the last one takes the copy off
the queue (R255-R259). -/
def Sys2Proof.Claims.CopiesRun : Prop :=
  ∀ (s : State) (n : CoreNo) i e, coreOk n = true → s.plat.failStop = false →
    (s.nextCopy n = some (i, e) → ccDec e.cmd = false → ccLen e.cmd ≠ 0 → ∃ t, exec (.copyStart n) s = .next t ∧
      (t.coreAt n).copyQ = (s.coreAt n).copyQ.set i { e with started := true } ∧ t.mem = s.mem ∧
      ((t.coreAt n).bb.get (ccBb e.cmd)).pending = ((s.coreAt n).bb.get (ccBb e.cmd)).pending +
        (if e.armed = true ∧ ccBbe e.cmd = true then BitVec.ofNat 63 (ccLen e.cmd) else 0)) ∧
    (s.nextCopy n = none → exec (.copyStart n) s = .next s) ∧
    (∀ g, (s.coreAt n).copyQ[i]? = some e → e.started = true → g ∈ e.left → e.plain = none → e.due = none → (s.coreAt n).quiesced e = false → ccSsp e.cmd = 1 →
      ccDsp e.cmd = 1 → ccDec e.cmd = false → Memory.wf (s.coreAt n).scratch = true →
      let src := (ccSrc e.cmd + BitVec.ofNat 64 (16 * g)).toNat
      let dst := (ccDst e.cmd + BitVec.ofNat 64 (16 * g)).toNat
      let k := min 16 (ccLen e.cmd - 16 * g)
      s.scratchTag noCore n src k = none → s.granHolder n n [dst / 16] = none → s.mayMeet (.scratch n) portLast = true →
      (e.left.erase g ≠ [] → ∃ t, exec (.copyGranule n i g) s = .next t ∧
        (t.coreAt n).copyQ = (s.coreAt n).copyQ.set i { e with left := e.left.erase g } ∧
        (∀ a, Memory.get (t.coreAt n).scratch a = if dst ≤ a ∧ a < dst + k then (s.scratchRead noCore n src k).getD (a - dst) 0
          else Memory.get (s.coreAt n).scratch a) ∧
        dst / 16 ∉ (t.coreAt n).emptyGran ∧ t.mem = s.mem ∧
        ((t.coreAt n).bb.get (ccBb e.cmd)).pending = ((s.coreAt n).bb.get (ccBb e.cmd)).pending -
          (if ccBbe e.cmd = true then BitVec.ofNat 63 k else 0)) ∧
      (e.left.erase g = [] → ∃ t, exec (.copyGranule n i g) s = .next t ∧ (t.coreAt n).copyQ = (s.coreAt n).copyQ.eraseIdx i))

/-- What fired arms queue and what the copy engines do. -/
def Obligations.CopiesAndArmedActionsRun : Prop :=
  FiredActionsAreQueued ∧ CopiesRun

/-! ## The fabric's events (R270, R274, R284-R286, R347, R469, R474-R476) -/

/-- The run that a packet begins at a router: its mask is the router's, and its time the sixteen instructions later that a run is charged
(R274, R355). -/
def Sys2Proof.Claims.runOf (s : State) (r : RouterNo) (x : FPacket) : Run :=
  { p := x.p, adir := x.adir, mask := (s.rreg r x.p.ten (8 + 8 * x.p.psel.toNat)).setWidth 16, time := x.time + 1024 }

/-- A core's next packet enters the router of its cluster, a pinned one at its slot's time, and its local counter goes up by 1; without one
that may enter nothing happens (R199, R270, R355). -/
def Sys2Proof.Claims.PacketsAreInjected : Prop :=
  ∀ (s : State) (n : CoreNo), coreOk n = true → s.plat.failStop = false →
    let r : RouterNo := BitVec.ofNat 8 (clusterOf n)
    (s.nextInjection (s.coreAt n) = none → exec (.packetInjection n) s = .next s) ∧
    (∀ e, s.nextInjection (s.coreAt n) = some e → e.bad = false → ∃ t, exec (.packetInjection n) s = .next t ∧
      (t.routerAt r) = { s.routerAt r with inj := (s.routerAt r).inj ++
        [{ p := e.p, adir := 10, time := if e.p.pin then s.slotNow * s.slotLen else s.mtime }] } ∧
      (∀ r', r' ≠ r → t.routerAt r' = s.routerAt r') ∧ t.mem = s.mem ∧ (t.coreAt n).sendQ = takeEntry e (s.coreAt n).sendQ ∧
      ∀ k, (t.coreAt n).dc.get k = (s.coreAt n).dc.get k + (if e.count = some k then 1 else 0))

/-- A router without an open run begins one with the next packet of an arrival, of its injections or of its releases, in the order of
each queue, a pinned packet first; a router whose run is open, or that has begun a later run in the cycle's order, begins none, nor does
a packet leave a link that must retrain (R274, R276, R355, R475). -/
def Sys2Proof.Claims.RunsBegin : Prop :=
  ∀ (s : State) (r : RouterNo), routerOk r = true → s.plat.failStop = false →
    let rt := s.routerAt r
    (∀ src, rt.run.isSome = true ∨ s.mayMeet (.runs r) (runKey r src) = false → exec (.transitRun r src) s = .next s) ∧
    (rt.run = none →
      (∀ x, s.mayMeet (.runs r) (runKey r .injection) = true → nextOf rt.inj = some x → ∃ t, exec (.transitRun r .injection) s = .next t ∧
        t.routerAt r = { rt with inj := takeOf x rt.inj, run := some (runOf s r x) } ∧
        (∀ r', r' ≠ r → t.routerAt r' = s.routerAt r') ∧ t.cores = s.cores ∧ t.mem = s.mem) ∧
      (∀ a x q, s.mayMeet (.runs r) (runKey r (.park a)) = true → rt.parkRel = x :: q → ∃ t, exec (.transitRun r (.park a)) s = .next t ∧
        t.routerAt r = { rt with parkRel := q, run := some (runOf s r x) }) ∧
      (∀ x q, s.mayMeet (.runs r) (runKey r .combine) = true → rt.combRel = x :: q → ∃ t, exec (.transitRun r .combine) s = .next t ∧
        t.routerAt r = { rt with combRel := q, run := some (runOf s r x) }) ∧
      (∀ d l x, isEdge r = false → s.mayMeet (.runs r) (runKey r (.arrival d)) = true → arrivalLink r (.arrival d) = some l →
        s.dead l = false → nextOf (s.linkQueue l) = some x →
        (8 ≤ (s.linkAt l).retries → exec (.transitRun r (.arrival d)) s = .next s) ∧ ((s.linkAt l).retries < 8 → ∃ t, exec (.transitRun r (.arrival d)) s = .next t ∧ (t.routerAt r).run = some (runOf s r x) ∧
          t.linkQueue l = takeOf x (s.linkQueue l) ∧ t.cores = s.cores ∧ t.mem = s.mem)))

/-- A delivery, here to a scratchpad and outside the pinned regime: one of its granules' bytes land in the core's scratchpad and fill their
granule, a granule another core's open sheet has taken, or the order of the cycle, makes it wait, and after the last granule the delivery
ends and raises the counter it names by 1, once the die may raise its clock and in the order of the cycle (R203, R285, R308, R319, R324,
R338). -/
def Sys2Proof.Claims.DeliveriesLand : Prop :=
  ∀ (s : State) i x, s.plat.failStop = false → s.fab.deliveries[i]? = some x → x.p.pin = false →
    (x.left ≠ [] → ∃ g ∈ x.left, s.nextGranule x = some g) ∧
    (∀ g, s.nextGranule x = some g → x.p.tsp = 1 → Memory.wf (s.coreAt x.p.tcore).scratch = true →
      let a := x.p.taddr.toNat + 16 * g
      let bs := (x.p.payload.drop (16 * g)).take 16
      let may := s.mayMeet (.scratch x.p.tcore) portLast
      (s.granHolder noCore x.p.tcore [a / 16] ≠ none ∨ may = false → exec (.delivery i) s = .next s) ∧
      (s.granHolder noCore x.p.tcore [a / 16] = none → may = true → ∃ t, exec (.delivery i) s = .next t ∧
        t.fab.deliveries = s.fab.deliveries.set i { x with left := x.left.erase g } ∧ t.mem = s.mem ∧
        (∀ b, Memory.get (t.coreAt x.p.tcore).scratch b =
          if a ≤ b ∧ b < a + bs.length then bs.getD (b - a) 0 else Memory.get (s.coreAt x.p.tcore).scratch b) ∧
        a / 16 ∉ (t.coreAt x.p.tcore).emptyGran ∧ ∀ m, m ≠ x.p.tcore → t.coreAt m = s.coreAt m)) ∧
    (x.left = [] → x.p.ce = false → ∃ t, exec (.delivery i) s = .next t ∧ t.fab.deliveries = s.fab.deliveries.eraseIdx i ∧
      t.mem = s.mem ∧ t.cores = s.cores) ∧
    (x.left = [] → x.p.ce = true → let d := deliveryDie x.router
      let turn := s.mayMeet (.counter x.p.tcore x.p.dcIx) (1 + x.adir.toNat)
      let queued : Prop := d = 8 ∧ s.mem.baseQ ≠ []
      (queued ∨ s.mem.mayRelease d = false ∨ turn = false → exec (.delivery i) s = .next s) ∧
      (¬ queued → s.mem.mayRelease d = true → turn = true → ∃ t, exec (.delivery i) s = .next t ∧ t.fab.deliveries = s.fab.deliveries.eraseIdx i ∧
        ((t.mem.vc.get d).get d = (s.mem.vc.get d).get d + 1) ∧
        ∀ k, (t.coreAt x.p.tcore).dc.get k = (s.coreAt x.p.tcore).dc.get k + (if k = x.p.dcIx then 1 else 0)))

/-- Combine slots and park entries (R284, R286, R469, R474): a slot whose deadline has come releases the sum of the children present and
closes with the absent ones missing; CSFREE frees the slots it names that are the tenant's, and no other; a parked packet is released to
run at instruction 0 with arrival code 12, or discarded. -/
def Sys2Proof.Claims.SlotsAndParksAreFreed : Prop :=
  ∀ (s : State) (r : RouterNo), routerOk r = true → s.plat.failStop = false →
    let rt := s.routerAt r
    (∀ i f, (rt.slots.get i).due s.plat.cycle = true → (rt.slots.get i).released = some f →
      let x := rt.slots.get i
      let y : CombSlot := { x with st := .closed, entries := [], missing := x.key.m &&& ~~~x.have_ }
      ∃ t, exec (.combineDeadlineRelease r i) s = .next t ∧ t.cores = s.cores ∧ t.mem = s.mem ∧
        t.routerAt r = { rt with combRel := rt.combRel ++ [f], slots := rt.slots.put i y }) ∧
    (∀ i, (rt.slots.get i).due s.plat.cycle = false → exec (.combineDeadlineRelease r i) s = .next s) ∧
    (∀ t v, ∃ u, exec (.csfree r t v) s = .next u ∧ u.mem = s.mem ∧ ∀ i : BitVec 6, (u.routerAt r).slots.get i =
      if v.getLsbD i.toNat = true ∧ (s.rreg r t 0x48).getLsbD i.toNat = true then {} else rt.slots.get i) ∧
    (∀ a, rt.park.get a = none → exec (.pkcmdRelease r a) s = .next s) ∧
    (∀ a e, rt.park.get a = some e → (∃ t x, exec (.pkcmdRelease r a) s = .next t ∧ (t.routerAt r).park = rt.park.put a none ∧
      (t.routerAt r).parkRel = rt.parkRel ++ [x] ∧ x.adir = 12 ∧ x.p.pc = 0 ∧ x.p.stack = [] ∧ x.p.hdr = e.p.hdr ∧ x.p.prog = e.p.prog ∧
      x.p.payload.length = min 256 e.p.plenField.toNat ∧ t.cores = s.cores ∧ t.mem = s.mem)) ∧
    (∀ a, ∃ t, exec (.pkcmdDiscard r a) s = .next t ∧ t.routerAt r = { rt with park := rt.park.put a none } ∧
      t.cores = s.cores ∧ t.mem = s.mem)

/-- A flit that fails its check is sent again and counted; after eight retries the link retrains; one whose lane's bit error rate stays
too high, or that fails again after it has retrained, spares a lane or wire where one is left and the retraining can, and dies with its
queue otherwise (R411, R413, R475, R476). A link that is dead, idle or has retries left changes nothing. -/
def Sys2Proof.Claims.LinksRetryRetrainAndDie : Prop :=
  ∀ (s : State) (l : LinkNo), linkOk l = true → s.plat.failStop = false →
    let k := s.linkAt l
    (k.dead = true → exec (.linkCrcRetry l) s = .next s ∧ ∀ b, exec (.linkRetrain l b) s = .next s) ∧
    (s.linkQueue l = [] → exec (.linkCrcRetry l) s = .next s) ∧
    (k.dead = false → k.retries < 8 → s.linkQueue l ≠ [] → ∃ t, exec (.linkCrcRetry l) s = .next t ∧
      t.linkAt l = { k with retries := k.retries + 1 } ∧ t.cores = s.cores ∧ t.mem = s.mem ∧ t.fab.routers = s.fab.routers) ∧
    (∀ b, k.retries < 8 → exec (.linkRetrain l b) s = .next s) ∧
    (k.dead = false → 8 ≤ k.retries → ∀ b,
      let high := Config.berHigh s.plat.cycle
      (k.retrains = 0 → high = false → exec (.linkRetrain l b) s = .next (s.setLink_ l { k with retries := 0, retrains := 1 })) ∧
      (high = true ∨ k.retrains ≠ 0 ∧ b = true → k.spared < linkSpares l → ∃ t, exec (.linkRetrain l b) s = .next t ∧
        t.linkAt l = { k with retries := 0, retrains := 0, spared := k.spared + 1 } ∧ t.fab.routers = s.fab.routers) ∧
      (high = true ∨ k.retrains ≠ 0 → high = false ∧ b = false ∨ linkSpares l ≤ k.spared →
        ∃ t, exec (.linkRetrain l b) s = .next t ∧ t.dead l = true ∧ t.linkQueue l = []))

/-- A bearing exchange over a live connected port, in the first cycle of its tick: the port's bearing is the neighbour's distance and the
bound it gives; the datum package keeps BOUND 0 and slew 0, any other takes the bound its parent gives, unknown as 0xFFFFFFFF (R347,
R483). At any other time nothing happens. -/
def Sys2Proof.Claims.BearingsAreExchanged : Prop :=
  ∀ (s : State) (port : BitVec 3) (dist : BitVec 16) (bound : BitVec 32) (t1 t2 t3 t4 : Word), s.plat.failStop = false →
    let ticks := 64 * s.tickPeriod
    let first := s.mtime / ticks ≠ (s.plat.mtimeMicro - s.cycleMicro) / 1000000 / ticks
    let b := if bound = 0xFFFFFFFF then 0xFFFFFFFF else (bearingOffset t1 t2 t3 t4).natAbs + bound.toNat + 16
    let bs := (port, dist.toNat, b) :: s.plat.bearings.filter fun x => x.1 != port
    (port.toNat < 6 → s.connected port.toNat = true → s.dead (torusLink port.toNat) = false → first →
      ∃ t, exec (.bearingExchange port dist bound t1 t2 t3 t4) s = .next t ∧ t.plat.bearings = bs ∧ t.mem = s.mem ∧
        ((s.reg 0x010).getLsbD 0 = true → t.reg 0x008 = 0 ∧ t.plat.slew = 0) ∧
        ((s.reg 0x010).getLsbD 0 = false → ∀ p m, parentOf bs = some (p, m) → t.reg 0x008 = BitVec.ofNat 64 (min m 0xFFFFFFFF) ∧
          (p = port → -100 ≤ t.plat.slew ∧ t.plat.slew ≤ 100) ∧ (p ≠ port → t.plat.slew = s.plat.slew))) ∧
    (6 ≤ port.toNat ∨ s.connected port.toNat = false ∨ s.dead (torusLink port.toNat) = true ∨ ¬ first →
      exec (.bearingExchange port dist bound t1 t2 t3 t4) s = .next s)

/-- What happens in the fabric beside the transit instructions. -/
def Obligations.FabricEventsTakeEffect : Prop :=
  PacketsAreInjected ∧ RunsBegin ∧ DeliveriesLand ∧ SlotsAndParksAreFreed ∧ LinksRetryRetrainAndDie ∧ BearingsAreExchanged

/-! ## The homes of memory (R264-R267, R294, R315-R318, R338, R393, R415, R416, R463, R464) -/

/-- An atomic request whose home is free of what comes before it, and that no release still to be made comes before: one that returns
nothing stores its new value at the home and nothing else; one that returns the old value locks the line, and its producer has the old
value; a request that must still wait does nothing but be noted where a pile holds it (R463), and merging takes one of the two requests off
(R261, R264-R267, R315, R318, R325, R338). Data at the home is correct, and no pile's copy is newer. -/
def Sys2Proof.Claims.AtomicsHappenAtTheirHomes : Prop :=
  ∀ (s : State) i a, s.plat.failStop = false → s.mem.atomics[i]? = some a →
    let given := s.mem.gaveUp a.core (a.pa / 128)
    (s.released a = false ∨ s.mem.atomicFree a = false ∧ given = false → exec (.atomicAtHome i false) s =
      .next (s.noteHolds a.core (some a.stamp) [(a.pa, atomicBytes a.op a.z, false)])) ∧
    (s.mem.atomicFree a = true → s.released a = true → given = false → s.mem.lineHolder a.core (a.pa / 128) = none → s.mem.isBad (a.pa / 16) = false →
      let n := atomicBytes a.op a.z
      (a.ret = false → Memory.wf s.mem.mem = true → (targetOf a.pa = .tier2 ∨ targetOf a.pa = .package) →
        (s.mem.piles.get (pileOf a.pa)).lost = false →
        let new := leBytes n (atomicNew a.op a.z (leNat (Memory.read s.mem.mem a.pa n)) a.b.toNat a.c.toNat)
        ∃ t, exec (.atomicAtHome i false) s = .next t ∧ t.mem.atomics = s.mem.atomics.erase a ∧ t.mem.locks = s.mem.locks ∧
          ∀ p, Memory.get t.mem.mem p = if a.pa ≤ p ∧ p < a.pa + n then new.getD (p - a.pa) 0 else Memory.get s.mem.mem p) ∧
      (a.ret = true →
        let view := gatedView (beforeAtomic a.no (s.coreAt a.core).gatedAll) fun p => (Memory.get s.mem.mem p, false)
        let old := leNat ((List.range n).map fun j => (view (a.pa + j)).1)
        ∃ t l, exec (.atomicAtHome i false) s = .next t ∧ t.mem.mem = s.mem.mem ∧ t.mem.atomics = s.mem.atomics.erase a ∧
          t.mem.locks = s.mem.locks ++ [l] ∧ l.core = a.core ∧ l.line = a.pa / 128 ∧ l.pa = a.pa ∧
          ∀ (k : Nat) (o : Outst) sext due, (s.coreAt a.core).outst[k]? = some o → o.no = a.no → o.awaits = .atomic sext due →
            (t.coreAt a.core).outst[k]? = some { o with awaits := .ready (atomicReply a.op a.z sext old) due, bad := false })) ∧
    (∀ j b, a.merge = true → s.mem.mergeMate i a = some (j, b) → ∃ t x, exec (.atomicAtHome i true) s = .next t ∧
      t.mem.atomics = (s.mem.atomics.set j x).eraseIdx i ∧ x.pa = b.pa ∧ x.op = b.op ∧
      x.b = BitVec.ofNat 64 (atomicNew a.op a.z b.b.toNat a.b.toNat 0) ∧ t.mem.mem = s.mem.mem ∧ t.cores = s.cores)

/-- The message at the head of a die's channel is applied at its pile (R315-R317): a write stores its bytes and nothing else, merges its
stamp into the pile's observed clock, and waits at its home, with nothing written, while a lock keeps it out (R42, R338); a marker sets the
die's entry of the applied clock; each leaves the channel. With another message at the head, or none, nothing happens. -/
def Sys2Proof.Claims.PilesApplyTheirChannels : Prop :=
  ∀ (s : State) (d p : BitVec 3), s.plat.failStop = false → (s.mem.piles.get p).lost = false →
    (∀ pa bs bad stamp who rest, s.mem.channel d p = .write pa bs bad stamp who :: rest →
      let x : ChanMsg := .write pa bs bad stamp who
      exec (.pileMarkerApply d p) s = .next s ∧
      (s.mem.keepsOut x = false → Memory.wf s.mem.mem = true → ∃ t, exec (.pileWriteApply d p) s = .next t ∧ t.mem.channel d p = rest ∧
        (t.mem.piles.get p).oc = clockMax (s.mem.piles.get p).oc stamp ∧ (t.mem.piles.get p).ac = (s.mem.piles.get p).ac ∧
        t.cores = s.cores ∧
        ∀ a, Memory.get t.mem.mem a = if pa ≤ a ∧ a < pa + bs.length then bs.getD (a - pa) 0 else Memory.get s.mem.mem a) ∧
      (s.mem.keepsOut x = true → ∃ t, exec (.pileWriteApply d p) s = .next t ∧ t.mem.channel d p = rest ∧
        t.mem.lockQ = s.mem.lockQ ++ [(d.setWidth 4, x)] ∧ t.mem.mem = s.mem.mem ∧ t.mem.piles = s.mem.piles ∧ t.cores = s.cores)) ∧
    (∀ v rest, s.mem.channel d p = .marker v :: rest → exec (.pileWriteApply d p) s = .next s ∧
      ∃ t, exec (.pileMarkerApply d p) s = .next t ∧ t.mem.channel d p = rest ∧
        (t.mem.piles.get p).ac = (s.mem.piles.get p).ac.put (d.setWidth 4) v ∧ t.mem.mem = s.mem.mem ∧ t.cores = s.cores) ∧
    (s.mem.channel d p = [] → exec (.pileWriteApply d p) s = .next s ∧ exec (.pileMarkerApply d p) s = .next s)

/-- A held read is answered once it can be performed, and where it cannot and meets no reservation, only the hold of its pile is noted;
what a pile has held for 2^24 cycles is given up and recorded, nothing earlier, and a read that is given up lands tagged (R318, R463). -/
def Sys2Proof.Claims.HeldReadsAreAnswered : Prop :=
  ∀ (s : State) i, s.plat.failStop = false →
    (∀ n k r due, s.heldReads[i]? = some (n, k, r, due) →
      let set (u : State) (v : Vec) (tag : Option Word) (t : State) (o : Outst) : Prop := t.mem = u.mem ∧
        (t.coreAt n).outst = (u.coreAt n).outst.set k { o with awaits := .ready v due, bad := tag.isSome, addr := tag.getD 0 }
      (∀ u v tag o, s.performHeld n r = some (u, v, tag) → (u.coreAt n).outst[k]? = some o →
        ∃ t, exec (.pileHeldRead i) s = .next t ∧ set u v tag t o) ∧
      (s.performHeld n r = none → (∀ l ∈ r.lines, s.mem.lineHolder n l = none) →
        exec (.pileHeldRead i) s = .next (s.noteHolds n r.clock (r.pieces.map fun p => (p.pa, p.n, p.nc)))) ∧
      (∀ h p o, r.held = some h → let u := r.lines.foldl (fun u l => u.behindCmnt n l) s
        (u.coreAt n).readAhead h.1 r.pieces = false → preparePieces u n r.clock h.1 true r.pieces = none →
        r.pieces.find? (fun p => (linesOf p.pa p.n).any (u.mem.gaveUp n)) = some p → (u.coreAt n).outst[k]? = some o →
        ∃ t, exec (.pileHeldRead i) s = .next t ∧ t.mem.mem = u.mem.mem ∧ (t.coreAt n).outst = (u.coreAt n).outst.set k
          { o with awaits := .ready r.base due, bad := true, addr := p.tagAddr p.pa })) ∧
    (∀ h, s.mem.holds[i]? = some h →
      (h.expired = true ∨ s.plat.cycle < h.since + 2 ^ 24 ∨ s.mem.stuck h.clock (h.pa / 128) = false →
        exec (.pileHoldTimeout i) s = .next s) ∧
      (h.expired = false → h.since + 2 ^ 24 ≤ s.plat.cycle → s.mem.stuck h.clock (h.pa / 128) = true →
        ∃ t, exec (.pileHoldTimeout i) s = .next t ∧ t.mem = { s.mem with holds := s.mem.holds.set i { h with expired := true } } ∧
          t.cores = s.cores ∧ t.plat.errors ≠ []))

/-- A lost pile takes nothing more: every channel to it is empty and the others stand, and the bytes of memory stay; the loss of a second
pile, and the failure of a structure that R415 names, stop the package, whose torus links are then dead (R415, R416, R464). -/
def Sys2Proof.Claims.LossesStopPilesAndPackages : Prop :=
  ∀ (s : State), s.plat.failStop = false →
    (∀ p : BitVec 3, (s.mem.piles.get p).lost = true → exec (.pileLost p) s = .next s) ∧
    (∀ p : BitVec 3, (s.mem.piles.get p).lost = false → ∃ t, exec (.pileLost p) s = .next t ∧ (t.mem.piles.get p).lost = true ∧
      t.plat.failStop = (s.mem.piles.toList.any fun q => q.lost) ∧ (∀ d : BitVec 4, (t.mem.chan.get d).get p = []) ∧
      (∀ d pa bs bad k who, (d, ChanMsg.write pa bs bad k who) ∈ t.mem.lockQ → targetOf pa = .package → pileOf pa ≠ p) ∧
      (t.plat.failStop = false → t.mem.mem = s.mem.mem ∧ t.cores = s.cores ∧
        ∀ d q, q ≠ p → (t.mem.chan.get d).get q = (s.mem.chan.get d).get q ∧ t.mem.piles.get q = s.mem.piles.get q)) ∧
    (∀ c : FailCause, failStops c = false → exec (.failStop c) s = .next s) ∧
    (∀ c : FailCause, failStops c = true → ∃ t, exec (.failStop c) s = .next t ∧ t.plat.failStop = true ∧
      (∀ k, k < 6 → t.dead (torusLink k) = true) ∧ exec (.failStop c) t = .next t)

/-- An evicted line is in its cache no more, the other lines are, and a line that was not dirty or not there leaves memory as it was; the
patrol scrub changes no byte, records an uncorrectable block, and rewrites and records one whose error the check corrects (R294,
R393). -/
def Sys2Proof.Claims.EvictionsAndScrubs : Prop :=
  ∀ (s : State) (line : Nat), s.plat.failStop = false →
    (∀ n : CoreNo, coreOk n = true → ∃ t, exec (.cacheEviction (.l1 n) line) s = .next t ∧ findLine line (t.coreAt n).l1 = none ∧
      (∀ x, x ≠ line → findLine x (t.coreAt n).l1 = findLine x (s.coreAt n).l1) ∧
      ((∀ l, findLine line (s.coreAt n).l1 = some l → l.dirty = 0) → t.mem = s.mem)) ∧
    (∀ d : BitVec 3, ∃ t, exec (.cacheEviction (.die d) line) s = .next t ∧ findLine line (t.mem.dieCache.get d) = none ∧
      (∀ x, x ≠ line → findLine x (t.mem.dieCache.get d) = findLine x (s.mem.dieCache.get d)) ∧ t.cores = s.cores ∧
      ((∀ l, findLine line (s.mem.dieCache.get d) = some l → l.dirty = 0) → t.mem.mem = s.mem.mem ∧ t.mem.chan = s.mem.chan)) ∧
    (∀ b : Nat, targetOf (64 * b) = .package ∨ targetOf (64 * b) = .tier2 →
      let bad := (List.range 4).any fun g => s.mem.badGran.contains (4 * b + g)
      (bad = false → b ∉ s.mem.soft → exec (.patrolScrub b) s = .next s) ∧
      (bad = true ∨ b ∈ s.mem.soft → ∃ t, exec (.patrolScrub b) s = .next t ∧ t.mem.mem = s.mem.mem ∧ t.mem.badGran = s.mem.badGran ∧
        t.plat.errors ≠ []) ∧
      (bad = false → b ∈ s.mem.soft → ∃ t, exec (.patrolScrub b) s = .next t ∧ b ∉ t.mem.soft))

/-- What happens at the homes of memory. -/
def Obligations.HomesOfMemoryAct : Prop :=
  AtomicsHappenAtTheirHomes ∧ PilesApplyTheirChannels ∧ HeldReadsAreAnswered ∧ LossesStopPilesAndPackages ∧ EvictionsAndScrubs

/-! ## The platform (R243, R305, R345-R349, R357-R368, R417, R446-R448, R469, R474) -/

/-- An invalidation of translations (R305): GO removes every translation that it covers, and no other, from every
TLB (R304), keeps its fields with BUSY, and is
without effect while one runs; it ends, with BUSY 0 and none left that it covers, once no access that used one is left. Neither writes
memory where no write waits for a line that a discarded sheet has reserved. -/
def Sys2Proof.Claims.TranslationsAreInvalidated : Prop :=
  ∀ (s : State) (v : Word), s.plat.failStop = false →
    let owner : BitVec 6 := if v.getLsbD 37 then 32 else (v.extractLsb' 32 5 : BitVec 5).setWidth 6
    let va := ((s.reg 0x018).extractLsb' 16 41 : BitVec 41).toNat * 0x10000
    let len := (v.extractLsb' 1 31 : BitVec 31).toNat * 0x10000
    let hit (e : TlbEntry) : Bool := e.owner == owner && (v.getLsbD 62 || (decide (e.va < va + len) && decide (va < e.va + 2 ^ e.bits)))
    (s.plat.inval = none → ∃ t x, exec (.tlbinvcGo v) s = .next t ∧
      (∀ k, Tbl.get [] t.mem.tlb k = (Tbl.get [] s.mem.tlb k).filter fun e => !hit e) ∧
      (∀ n, (t.coreAt n).utlb = (s.coreAt n).utlb.filter fun e => !hit e) ∧
      t.reg 0x020 = (v &&& 0x4000003FFFFFFFFE) ||| 0x8000000000000000 ∧ t.plat.inval = some x ∧
      (s.mem.lockQ = [] → t.mem.mem = s.mem.mem)) ∧
    (s.plat.inval.isSome = true →
      exec (.tlbinvcGo v) s = .next (s.setReg 0x020 ((v &&& 0x4000003FFFFFFFFE) ||| 0x8000000000000000))) ∧
    (s.plat.inval = none → exec .tlbInvalidationComplete s = .next s) ∧
    (∀ x, s.plat.inval = some x →
      (s.invalPending x (x.pages ++ s.tlbPages x) = true → exec .tlbInvalidationComplete s = .next s) ∧
      (s.invalPending x (x.pages ++ s.tlbPages x) = false → ∃ t, exec .tlbInvalidationComplete s = .next t ∧ t.plat.inval = none ∧
        (t.reg 0x020).getLsbD 63 = false ∧ (∀ k, ∀ e ∈ Tbl.get [] t.mem.tlb k, x.covers e = false) ∧
        (∀ n, ∀ e ∈ (t.coreAt n).utlb, x.covers e = false) ∧ (s.mem.lockQ = [] → t.mem.mem = s.mem.mem)))

/-- Atlas revocation (R345): GO starts the notice period of 1024 cycles a unit with BUSY 1, once; at its end, and not before, BUSY falls
and no sheet of the tenant on the die is locked. -/
def Sys2Proof.Claims.AtlasesAreRevoked : Prop :=
  ∀ (s : State) (t : BitVec 5) (d : BitVec 3) (v : Word), s.plat.failStop = false →
    let off := atqOffset d t + 8
    ((s.reg off).getLsbD 63 = false → ∃ u, exec (.atrevGo t d v) s = .next u ∧
      u.reg off = (v &&& 0x07FFFFFE) ||| 0x8000000000000000 ∧ u.cores = s.cores ∧ u.mem = s.mem ∧
      u.plat.atrevBusy = (off, s.plat.cycle + 1024 * (v.extractLsb' 1 15 : BitVec 15).toNat) :: s.plat.atrevBusy) ∧
    ((s.reg off).getLsbD 63 = true →
      exec (.atrevGo t d v) s = .next (s.setReg off ((v &&& 0x07FFFFFE) ||| 0x8000000000000000))) ∧
    (∀ x, s.plat.atrevBusy.find? (fun x => x.1 == off) = some x →
      (s.plat.cycle < x.2 → exec (.atrevNoticeExpiry t d) s = .next s) ∧
      (x.2 ≤ s.plat.cycle → ∃ u, exec (.atrevNoticeExpiry t d) s = .next u ∧ (u.reg off).getLsbD 63 = false ∧
        (∀ e ∈ u.plat.atlas.get d, e.tenant = t → e.lock = none) ∧ u.cores = s.cores ∧ u.mem = s.mem))

/-- A task held for a page fault is released as a pre-empted task, or lost with its launch, whose waiting tasks go (R402, R447); a save
area that no held task has changes nothing. -/
def Sys2Proof.Claims.HeldTasksAreReleasedOrLost : Prop :=
  ∀ (s : State) (t : BitVec 5) (a : Word), s.plat.failStop = false →
    (s.heldTask t a = none → exec (.pfresResume t a) s = .next s ∧ exec (.pfresKill t a) s = .next s) ∧
    (∀ l n loops k, s.heldTask t a = some (l, .held a n loops k) →
      (∃ u, exec (.pfresResume t a) s = .next u ∧ u.cores = s.cores ∧ u.mem = s.mem ∧
        u.dist.launches = s.dist.launches.map fun x => if x.order = l.order then
          { x with waiting := x.waiting.erase (.held a n loops k) ++ [.preempted a n false loops k] } else x) ∧
      (s.findLaunch t l.handle = some l → l.cancelled = false → (s.dist.launches.map Launch.order).Nodup →
        ∃ u, exec (.pfresKill t a) s = .next u ∧ ∀ x ∈ u.dist.launches, x.order = l.order → x.cancelled = true ∧ x.waiting = []))

/-- A write of STGOWN (R243): the register takes it, and each slice that changes hands reads as zero and is being cleared, while the other
slices keep their bytes; the end of the clearing is an event. There are 224 clusters. -/
def Sys2Proof.Claims.StagingChangesHands : Prop :=
  ∀ (s : State) (cl : BitVec 8) (v : Word), s.plat.failStop = false → Memory.wf s.plat.staging = true →
    let old := s.reg (0x3000000 + 8 * cl.toNat)
    let new := v &&& 0x0000FFFFFFFFFFFF
    let moved (k : Nat) : Prop := (old.extractLsb' (6 * k) 6 : BitVec 6) ≠ new.extractLsb' (6 * k) 6 ∧
      (old.getLsbD (6 * k + 5) = true ∨ new.getLsbD (6 * k + 5) = true)
    (224 ≤ cl.toNat → exec (.stgownWrite cl v) s = .next s) ∧
    (cl.toNat < 224 → ∃ t, exec (.stgownWrite cl v) s = .next t ∧ t.reg (0x3000000 + 8 * cl.toNat) = new ∧ t.mem = s.mem ∧
      ∀ k, k < 8 → (moved k → (cl.toNat, BitVec.ofNat 3 k) ∈ t.plat.clearing ∧
          ∀ a, inSlice cl.toNat k a = true → Memory.get t.plat.staging a = 0) ∧
        (¬ moved k → ∀ a, inSlice cl.toNat k a = true → Memory.get t.plat.staging a = Memory.get s.plat.staging a)) ∧
    (∀ k : BitVec 3, ∃ t, exec (.stagingClearComplete cl k) s = .next t ∧ (cl.toNat, k) ∉ t.plat.clearing ∧
      t.plat.staging = s.plat.staging ∧ t.cores = s.cores ∧ t.mem = s.mem)

/-- Power and clocks (R349, R367, R368, R416): PCAP takes its cap and reads BUSY until the clock changes, at a slot boundary alone and to
one step alone, from 16 to 64. Without heat and a pinned task that is the highest step within the cap, from 1,000 to 3,600 W, and the full
one where no cap is set; a pinned task keeps it at 32 steps but for a junction of 110 degrees, at which the step is the lowest. A throttle
asks for a step no higher than the present one. Crash registers are cleared by bit 0 of their clear register (R417). A step's power is a
free value (log entry 28). -/
def Sys2Proof.Claims.ClocksPowerAndCrashes : Prop :=
  ∀ (s : State) (v : Word) (k : BitVec 8) (hot : Bool), s.plat.failStop = false →
    let asked := (s.reg 0x028).getLsbD 63
    let cap := (s.reg 0x028 &&& 0xFFF).toNat
    let power := Config.powerAt s.plat.cycle
    let watts := min 3600 (max 1000 cap)
    exec (.pcapWrite v) s = .next (s.setReg 0x028 ((v &&& 0xFFF) ||| 0x8000000000000000)) ∧
    (s.atSlot = false → ∀ x, exec (.clockChange x) s = .next s) ∧
    (s.atSlot = true → ∃ x t, exec (.clockChange x) s = .next t ∧ (∀ y, y ≠ x → exec (.clockChange y) s = .next s) ∧
      t.plat.clockStep = x.toNat ∧ 16 ≤ t.plat.clockStep ∧ t.plat.clockStep ≤ 64 ∧
      (t.reg 0x028).getLsbD 63 = false ∧ t.cores = s.cores ∧ t.mem = s.mem ∧
      (asked = true → s.plat.hot = true → t.plat.clockStep = 16) ∧
      (asked = false ∨ s.plat.hot = false → s.pinnedRuns = true → 32 ≤ t.plat.clockStep) ∧
      (asked = false ∨ (s.plat.heat = none ∧ s.plat.hot = false) → s.pinnedRuns = false →
        (cap = 0 → t.plat.clockStep = 64) ∧
        (cap ≠ 0 → (t.plat.clockStep = 16 ∨ power t.plat.clockStep ≤ watts) ∧
          ∀ x, t.plat.clockStep < x → x ≤ 64 → watts < power x))) ∧
    (∃ t x, exec (.thermalThrottle ⟨k, hot⟩) s = .next t ∧ t.plat.heat = some x ∧ t.plat.hot = hot ∧ 16 ≤ x ∧ (hot = true → x = 16) ∧
      x ≤ max 16 s.plat.clockStep ∧ x ≤ max 16 k.toNat ∧ (t.reg 0x028).getLsbD 63 = true ∧ t.cores = s.cores ∧ t.mem = s.mem) ∧
    (v.getLsbD 0 = true → exec (.crclr v) s = .next { s with plat := { s.plat with crash := [], warm := false } }) ∧
    (v.getLsbD 0 = false → exec (.crclr v) s = .next s)

/-- A write of device register space (R359): one aligned write of 8 bytes acts and any other is ignored; a register that TDISP has locked,
TOPO once a tenant has been enabled, and a reserved offset keep what they hold; a plain register takes the bits it has; registers with
an effect have it, a locked tenant's tails none but over its own stream (R358). While the package still boots, the writes that its last
steps wait for move BOOTST on as well (R366): here the first of a router register, at step 5, which makes BOOTST read 6. That it reads so,
and which of the steps 4-6 it reads between those writes, is the model's own choice and no rule's (DESIGN CHOICE, log entry 9). -/
def Sys2Proof.Claims.DeviceRegistersAreWritten : Prop :=
  ∀ (s : State) (off : Nat) (v : Word), s.plat.failStop = false → off < 0x1000000000000 →
    let a : BitVec 52 := BitVec.ofNat 52 (devBase + off)
    let step := (s.plat.bootst &&& 0xF).toNat
    let booted : Prop := step < 4 ∨ 7 ≤ step
    (∀ n, n ≠ 8 ∨ off % 8 ≠ 0 → exec (.deviceRegisterWrite a n v) s = .next s) ∧
    (∀ b : BitVec 52, b.toNat < devBase → ∀ n, exec (.deviceRegisterWrite b n v) s = .next s) ∧
    (off % 8 = 0 → tdispLocked off = true → s.plat.tdisp.get (tenantOfOffset off) ≠ .unlocked →
      exec (.deviceRegisterWrite a 8 v) s = .next s) ∧
    (off = 0x030 → s.plat.everEnabled = true → exec (.deviceRegisterWrite a 8 v) s = .next s) ∧
    (off = 0x000 → booted → exec (.deviceRegisterWrite a 8 v) s = .next (s.setReg off (v &&& devMask off))) ∧
    (off = 0x030 → booted → s.plat.everEnabled = false → exec (.deviceRegisterWrite a 8 v) s = .next (s.setReg off (v &&& devMask off))) ∧
    (off ∈ [0x018, 0x038, 0x040, 0x048, 0x050, 0x058, 0x100, 0x108, 0x110, 0x120, 0x128, 0x130] →
      exec (.deviceRegisterWrite a 8 v) s = .next (s.setReg off (v &&& devMask off))) ∧
    (off = 0x008 ∨ off = 0x118 → exec (.deviceRegisterWrite a 8 v) s = .next s) ∧
    (off = 0x020 → v.getLsbD 0 = true → exec (.deviceRegisterWrite a 8 v) s = exec (.tlbinvcGo v) s) ∧
    (off = 0x028 → exec (.deviceRegisterWrite a 8 v) s = exec (.pcapWrite v) s) ∧
    (off = 0x140 → exec (.deviceRegisterWrite a 8 v) s = exec (.crclr v) s) ∧
    (∀ c : BitVec 8, c.toNat < 224 → off = 0x3000000 + 8 * c.toNat → exec (.deviceRegisterWrite a 8 v) s = exec (.stgownWrite c v) s) ∧
    (∀ (t : BitVec 5) (q : BitVec 3), booted → off = tenantBlock t + 0x218 + 32 * q.toNat → exec (.deviceRegisterWrite a 8 v) s =
      if s.plat.tdisp.get t = .unlocked then exec (.lqtailWrite t q v) s else .next s) ∧
    (∀ t : BitVec 5, booted → off = tenantBlock t + 0x028 → exec (.deviceRegisterWrite a 8 v) s = exec (.cancel t (v.setWidth 32)) s) ∧
    (∀ (r : RouterNo) (t : BitVec 5), routerOk r = true → off = routerBlock r + 0x100 * t.toNat + 0x50 →
      (booted → exec (.deviceRegisterWrite a 8 v) s = exec (.csfree r t v) s) ∧
      (step = 5 → s.plat.everEnabled = false → ∃ u, exec (.deviceRegisterWrite a 8 v) s = .next u ∧ u.plat.bootst = 6))

/-- What the platform's registers and events do. -/
def Obligations.PlatformEventsTakeEffect : Prop :=
  TranslationsAreInvalidated ∧ AtlasesAreRevoked ∧ HeldTasksAreReleasedOrLost ∧ StagingChangesHands ∧ ClocksPowerAndCrashes ∧
  DeviceRegistersAreWritten

/-! ## Security, errors and resets (R358, R363-R366, R405, R409-R417, R468, R484-R486) -/

/-- TDISP and the security controller (R358, R363, R365, R468, R485, R486): an interface goes from unlocked to locked to running and back
to unlocked, which erases its tenant's keys; a key message installs the slot that it names where its launch is active, the slot is below 16
and none is installed there, answered, and elsewhere changes no slot and is answered with an SPDM ERROR code, as is a request that the
device cannot serve; an image is staged if both of its signatures verify and
its version is no lower than the rollback counter; a commit raises the rollback counter, which never falls. What the cryptography answers is
the model's free value (log entry 12). -/
def Sys2Proof.Claims.SecurityControllerActs : Prop :=
  ∀ (s : State) (msg : List Byte), s.plat.failStop = false →
    (∀ (t : BitVec 5) (run : Bool), ∃ u, exec (.tdispConfigLock t run) s = .next u ∧ u.cores = s.cores ∧ u.mem = s.mem ∧
      (∀ t', t' ≠ t → u.plat.tdisp.get t' = s.plat.tdisp.get t') ∧ u.plat.tdisp.get t =
        (match run, s.plat.tdisp.get t with | false, .unlocked => .locked | true, .locked => .run | _, x => x)) ∧
    (∀ t : BitVec 5, ∃ u, exec (.tdispUnlock t) s = .next u ∧ u.cores = s.cores ∧ u.mem = s.mem ∧ u.plat.tdisp.get t = .unlocked ∧
      (∀ t', t' ≠ t → u.plat.tdisp.get t' = s.plat.tdisp.get t') ∧ u.plat.keys = s.plat.keys.filter fun k => k.tenant != t) ∧
    (∀ k : KeyMessage,
      let active := ∃ l ∈ s.dist.launches, l.tenant = k.tenant ∧ l.handle = k.handle ∧ l.taken = true ∧ l.isOpen = true
      let installed := ∃ x ∈ s.plat.keys, x.tenant = k.tenant ∧ x.handle = k.handle ∧ x.slot = k.slot.setWidth 4
      let new : KeySlot := { tenant := k.tenant, handle := k.handle, slot := k.slot.setWidth 4, key := k.key, strm := k.strm,
                             counter := k.counter }
      (active → k.slot.toNat ≤ 15 → ¬ installed → exec (.keyInstall k) s =
        .next { s with plat := { s.plat with keys := new :: s.plat.keys, spdmOut := s.plat.spdmOut ++ [signedAnswer (keyBytes k)] } }) ∧
      (¬ active ∨ 15 < k.slot.toNat ∨ installed → ∃ code, exec (.keyInstall k) s =
        .next { s with plat := { s.plat with spdmOut := s.plat.spdmOut ++ [signedBody (spdmError code)] } })) ∧
    (∃ u m, exec (.spdmRequest msg) s = .next u ∧ u.plat.spdmOut = s.plat.spdmOut ++ [m] ∧ u.plat.keys = s.plat.keys ∧
      u.plat.tdisp = s.plat.tdisp ∧
      ∀ code, Config.spdmRefuses msg = some code → Config.signs s.free = true → m = signedBody (spdmError code)) ∧
    (∃ u, exec (.firmwareUpdate msg) s = .next u ∧
      (Config.rsaOk msg = false ∨ Config.slhOk msg = false ∨ Config.imageVersion msg = none → u = s) ∧
      ∀ v, Config.rsaOk msg = true → Config.slhOk msg = true → Config.imageVersion msg = some v → u = if v < s.plat.rollback then s
        else { s with plat := { s.plat with staged := s.plat.staged.put (Config.imageKind msg) msg } }) ∧
    (∃ u, exec (.firmwareCommit msg) s = .next u ∧ s.plat.rollback ≤ u.plat.rollback ∧
      (s.plat.bootst ≠ 7 ∨ Config.commitMessage msg = none → u = s) ∧
      (∀ k v, s.plat.bootst = 7 → Config.commitMessage msg = some k → firmwareOk (s.plat.firmware.get k) = some v →
        u = { s with plat := { s.plat with rollback := max s.plat.rollback v } }))

/-- A reset of the package (R366, R417, R484, R485): every core and launch, every register and the fabric are as after reset, while memory
and its uncorrectable granules stay, as the model keeps them (log entry 8), once the records that are still due have been written; a staged
image becomes the firmware unless it would not boot, and BOOTST says whether an image
halts the boot, the base die's at step 1 and any other at step 2, or the training at step 3, with its reason; a warm one keeps the crash
registers, with WARM set where they hold records, and one from power-on clears them. That the whole boot takes place inside the step of the
reset, and that BOOTST reads 4 after the training, is the model's own choice and no rule's (DESIGN CHOICE, log entry 9). -/
def Sys2Proof.Claims.ResetsStartAnew : Prop :=
  ∀ s : State, ∃ t u, exec .packageReset s = .next t ∧ exec .warmReset s = .next u ∧ t.cores = State.reset.cores ∧
    u.cores = State.reset.cores ∧ t.dist = State.reset.dist ∧ u.dist = State.reset.dist ∧ t.plat.regs = [] ∧ u.plat.regs = [] ∧
    let e := s.endRecords
    t.fab.routers = [] ∧ u.fab.routers = [] ∧ t.mem.mem = e.mem.mem ∧ u.mem.mem = e.mem.mem ∧ t.mem.badGran = e.mem.badGran ∧
    (s.plat.errors = [] → e = s) ∧ t.mem.tlb = [] ∧ u.mem.tlb = [] ∧ t.plat.crash = [] ∧ t.plat.warm = false ∧
    u.plat.crash = e.plat.crash ∧ u.plat.warm = !e.plat.crash.isEmpty ∧ t.plat.keys = [] ∧ u.plat.keys = [] ∧ t.plat.rollback = s.plat.rollback ∧
    t.plat.failStop = false ∧ t.plat.mtimeMicro = 0 ∧
    (∀ k, t.plat.firmware.get k = if s.plat.staged.get k = [] ∨ imageReason (s.plat.staged.get k) s.plat.rollback ≠ 0
      then s.plat.firmware.get k else s.plat.staged.get k) ∧
    let bad (k : BitVec 2) := imageReason (t.plat.firmware.get k) s.plat.rollback
    let halts (step : Nat) (why : BitVec 8) : Prop := t.plat.bootst = BitVec.ofNat 64 (step + 256 * why.toNat)
    (bad 0 ≠ 0 → halts 1 (bad 0)) ∧ (bad 0 = 0 → bad 1 ≠ 0 → halts 2 (bad 1)) ∧ (bad 0 = 0 → bad 1 = 0 → bad 2 ≠ 0 → halts 2 (bad 2)) ∧
    (bad 0 = 0 → bad 1 = 0 → bad 2 = 0 → if Config.trainingOk s.free then t.plat.bootst = 4 else halts 3 6)

/-- Error records, self-tests and spares (R405, R406, R409-R414): a record whose merge window has closed and whose test has ended is
written, with the next sequence number, and counts as lost while the package log is off; a test ends no earlier than
its cycles, leaves the list and gives its records their outcome, a lasting error using up a spare where one is left, a link's a spare lane
(R413), and memory is not written where no write waits for a line; a spare core takes
over a number that waits for it once no task runs there, and the old core's faults stay behind. -/
def Sys2Proof.Claims.ErrorsAreHandled : Prop :=
  ∀ s : State, s.plat.failStop = false →
    (takeReady s.plat.cycle s.plat.errors = none → exec .errorRecordWrite s = .next s) ∧
    (∀ e r, takeReady s.plat.cycle s.plat.errors = some (e, r) → (recField e.rec_ 13 8).getLsbD 7 = true →
      ∃ t, exec .errorRecordWrite s = .next t ∧ t.plat.errors = r ∧ t.plat.seq = s.plat.seq + 1 ∧
        ((s.reg 0x108).getLsbD 63 = false → t.mem = s.mem ∧ t.plat.ovf = true ∧
          t.reg 0x120 = (if s.reg 0x120 = 0xFFFFFFFF then 0xFFFFFFFF else s.reg 0x120 + 1))) ∧
    (∀ (i : Nat) (b : Bool), s.plat.tests[i]? = none → exec (.selfTestComplete i b) s = .next s) ∧
    (∀ (i : Nat) (b : Bool) t ends, s.plat.tests[i]? = some (t, ends) → s.plat.cycle < ends →
      exec (.selfTestComplete i b) s = .next s) ∧
    (∀ (i : Nat) t ends, s.plat.tests[i]? = some (t, ends) → ends ≤ s.plat.cycle → srcCoreTest t.src = false →
      let high := t.link.isSome && Config.berHigh s.plat.cycle
      let ended (u : State) (out : BitVec 8) (rep : Bool) : Prop := u.plat.tests = s.plat.tests.eraseIdx i ∧ u.cores = s.cores ∧
        (s.mem.lockQ = [] → s.mem.baseQ = [] → u.mem.mem = s.mem.mem) ∧
        u.plat.errors = s.plat.errors.map fun e => e.tested s.plat.cycle t out rep
      (s.repeats t = false → high = false → ∃ u, exec (.selfTestComplete i false) s = .next u ∧ ended u 1 false) ∧
      (t.link = none → s.spareLeft t = true → ∃ u, exec (.selfTestComplete i true) s = .next u ∧ ended u 2 (s.repeats t) ∧
        u.plat.faulty = s.plat.faulty ++ [t]) ∧
      (∀ l, t.link = some l → (s.linkAt l).dead = false → (s.linkAt l).spared < linkSpares l → t.way = none →
        ∃ u, exec (.selfTestComplete i true) s = .next u ∧ ended u 2 (s.repeats t || high) ∧
          u.linkAt l = { s.linkAt l with retries := 0, retrains := 0, spared := (s.linkAt l).spared + 1 })) ∧
    (∀ n : CoreNo, coreOk n = true →
      (((s.coreAt n).moving = false ∨ (s.coreAt n).fenced = true ∨ (s.coreAt n).running.isSome = true ∨ clusterOf n ∈ s.plat.spared) →
        exec (.coreSpareMove n) s = .next s) ∧
      ((s.coreAt n).moving = true → (s.coreAt n).fenced = false → (s.coreAt n).running = none → clusterOf n ∉ s.plat.spared →
        (∀ m, m ≠ n → clusterOf m = clusterOf n → (s.coreAt m).moving = false) → ∃ t, exec (.coreSpareMove n) s = .next t ∧
          (t.coreAt n).moving = false ∧ t.plat.spared = clusterOf n :: s.plat.spared ∧
          ((∀ x ∈ s.plat.tests, srcCoreTest x.1.src = true → x.1.unit ≠ n.setWidth 16) → (t.coreAt n).inService = true) ∧
          (∀ f ∈ t.plat.faulty, ¬ (f.ofCore = true ∧ f.unit = n.setWidth 16)) ∧ (t.coreAt n).ctx = (s.coreAt n).ctx ∧
          (t.coreAt n).scratch = (s.coreAt n).scratch ∧ (t.coreAt n).scratchBad = (s.coreAt n).scratchBad))

/-- Security, errors and resets. -/
def Obligations.SecurityErrorsAndResets : Prop :=
  SecurityControllerActs ∧ ResetsStartAnew ∧ ErrorsAreHandled

/-! ## Reset, steps and bundles (R72-R79, R139, R150, R181, R274, R334, R366, R416) -/

/-- The machine right after reset, in the values that the spec gives: no core runs a task, every core's control registers are 0 (R67,
R69), its trace control is 0x101 (R403), its delivery counters are 0, every arm is empty and no tenant has been the last (R195); MPER is
16000 and the skew bound unknown (R346), the watchdog field is 24 (R398), every tenant has weight 1 and nothing else in TCTL (R360), its
TDISP interface is unlocked (R358), and waypoint stores and windows are empty (R279, R287). What the spec gives no reset value for is
the model's own choice: memory lists nothing (log entry 3); meridian time is 0, queues, channels, logs and translations are empty, no
launch is known and every pile is in service (log entry 6). -/
def Obligations.ResetStateHoldsTheSpecsValues : Prop :=
  let s := State.reset
  MemoryCanonical s ∧ s.mem.mem = [] ∧ s.plat.failStop = false ∧ s.mtime = 0 ∧
  (∀ n : CoreNo, let c := s.coreAt n
    c.running = none ∧ c.depth = 0 ∧ c.pendTrap = none ∧ c.sheet = none ∧ c.lastTenant = none ∧
    (∀ i, c.dc.get i = 0 ∧ ∀ j, (c.arms.get i).get j = {}) ∧ (∀ i, c.creg i = 0) ∧ c.trCtl = 0x101 ∧ c.copyQ = [] ∧ c.sendQ = []) ∧
  s.reg 0x000 = 16000 ∧ s.reg 0x008 = 0xFFFFFFFF ∧ s.reg 0x010 = 0 ∧ s.reg 0x130 = 24 ∧
  (∀ t : BitVec 5, s.treg t 0 = 0x1000 ∧ s.treg t 0x08 = 0 ∧ s.plat.tdisp.get t = .unlocked) ∧
  (∀ r : RouterNo, s.routerAt r = {} ∧ ∀ t : BitVec 5, s.rreg r t 0 = 0) ∧
  s.dist.launches = [] ∧ s.plat.errors = [] ∧ s.plat.crash = [] ∧ s.mem.tlb = [] ∧
  ∀ d p, (s.mem.chan.get d).get p = [] ∧ (s.mem.piles.get p).lost = false

/-- A step runs what comes next (R139, R150, R274, R334): an event on the agenda is executed as it stands; a core with an open text sheet
executes the instruction that its next move word decodes to, with itself as the current core, after its due results have landed; one with
a native sheet issues the sheet's next bundle; one with a pending trap takes it; a router with an open run executes the instruction that
the program's next word decodes to. With nothing on the agenda a free act comes next (the model's own order of agents, log entry 2). -/
def Obligations.StepRunsTheDecodedInstruction : Prop :=
  ∀ (s : State) (rest : List Act), let s0 : State := { s with agenda := rest }
    (∀ i, s.agenda = .ev i :: rest → isEvent i = true → s.halted = false → step s = exec i s0) ∧
    (∀ n sh i more, s.agenda = .core n :: rest → s.halted = false → coreOk n = true → s0.alive n = true → let u := s0.landed n
      (u.coreAt n).leaving = .none → (u.coreAt n).pendTrap = none → u.canIssue n = true → (u.coreAt n).sheet = some sh → sh.bundle = none →
      (u.coreAt n).sheetOff sh < sh.text.length → decodeMove ((u.coreAt n).nextBytes sh) = .ok (i, more) →
      step s = exec i { u with cur := n }) ∧
    (∀ n sh, s.agenda = .core n :: rest → s.halted = false → coreOk n = true → s0.alive n = true → let u := s0.landed n
      (u.coreAt n).leaving = .none → (u.coreAt n).pendTrap = none → u.canIssue n = true → (u.coreAt n).sheet = some sh →
      sh.bundle.isSome = true → step s = exec (.bundleIssue n) u) ∧
    (∀ n t, s.agenda = .core n :: rest → s.halted = false → coreOk n = true → s0.alive n = true → let u := s0.landed n
      (u.coreAt n).leaving = .none → (u.coreAt n).pendTrap = some t →
      step s = exec (if u.faultHeld n t then .pageFaultHold n else .trapEntry n) u) ∧
    (∀ r run i, s.agenda = .router r :: rest → s.halted = false → routerOk r = true → s.plat.failStop = false →
      (s.routerAt r).run = some run → s0.combLate r run i = false → run.p.pc < 16 → decodeTransit (run.p.prog.get (BitVec.ofNat 4 run.p.pc)) = .ok i →
      step s = exec i { s0 with curRouter := r }) ∧
    (s.agenda = [] → step s = step { s with agenda := [Config.freeAct s.free], free := s.free + 1 })

/-- Words written out from the spec's encodings decode to the instructions that they stand for (R72-R75, R139-R142, R160-R168, R275). -/
def Obligations.SpecWordsDecode : Prop :=
  let native (k : BitVec 3) (w x : Nat) := decode (.slot k) (bytesOfWord 4 w ++ bytesOfWord 4 x)
  let rest (x : Nat) := bytesOfWord 4 x
  native 1 0x4CD08142 0 = .ok (some (.cmp (.nat 1 0 2 (.sk 3 1 4 5 0))), rest 0) ∧
  native 0 0x3C711FE0 0 = .ok (some (.addw (.nat 0 0 0 (.sr 7 8 0x7F 1))), rest 0) ∧
  native 0 0xCC914F80 0xC10 = .ok (some (.extu (.nat 0 0 0 (.se 9 10 0xC10))), rest 0xC10) ∧
  native 0 0xABEFFFA0 0 = .ok (some (.call (.nat 0 0 0 (.sd 62 0x7FFD))), rest 0) ∧
  native 0 0xE0400000 0 = .ok (some (.tret (.nat 0 0 0 (.sg 0 0))), rest 0) ∧
  native 5 0x18000000 0 = .ok (some (.mzero (.nat 5 0 0 (.xs 0 0))), rest 0) ∧
  decode .transit [0x05, 0x04] = .ok (some (.pushi 5), []) ∧
  decode .transit [0x02, 0x80] = .ok (some (.fwd 2), []) ∧
  decode .transit [0x00, 0x90] = .ok (some .kill, [])

/-- Decode and encode agree: whatever bytes follow, the bytes of a well-formed instruction decode to it and leave the rest; every
well-formed instruction that is no event has an encoding, as a move, a slot word, a transit instruction or the trigger of a port
(R139-R142, R156, R158-R168, R275). -/
def Obligations.EncodingsRoundTrip : Prop :=
  ∀ i, WellFormed i = true →
    (∀ enc bs tail, encode i = some (enc, bs) →
      decode enc (bs ++ tail) = .ok (some i, match enc with | .slot _ => bs.drop 4 ++ tail | _ => tail)) ∧
    (∀ d, encodeTrigger i = some d → decodeTrigger d = some i) ∧
    (isEvent i = false → (encode i).isSome = true ∨ (encodeTrigger i).isSome = true)

/-- BUNDLE_ISSUE (R73-R79, R150, R334): a core that cannot issue does nothing. A bundle of a native sheet in the bundle cache, whose
operations nothing holds and nothing stops, and whose sheet no upset has spoiled, commits the effects of all of them, each computed from the
operands as they stood before the bundle, and control falls on to the next bundle, which can issue from the next cycle on. A one-move group
of a text sheet is issued as its move word is. -/
def Obligations.BundlesRunTheirOperations : Prop :=
  ∀ (s : State) (n : CoreNo), coreOk n = true → s.cur = n →
    (s.canIssue n = false → exec (.bundleIssue n) s = .next s) ∧
    (∀ im e k ws, s.canIssue n = true → s.nativeSheet n = some (im, e, k) → s.holdsNext s.core = false → s.core.overrunFound = [] →
      s.core.check = none → (∀ sh, s.core.sheet = some sh → sh.spoiled = false) →
      s.core.breakAhead = false → s.bundleWords n im k = some ws → (∀ l, s.mem.lineHolder n l = none) →
      (∀ x ∈ readSlots s.core ws, match x.2 with
        | .bad _ => False
        | .idle => True
        | .op i => s.core.ownBad (.p (bits (ws.getD x.1.toNat 0) 0 4)) = false ∧ ∃ m, semOf i s = some m ∧ m.block = false ∧ m.fills = false ∧ m.conds = [] ∧
            (m.mx = true → s.core.accAbsent = false) ∧ m.early = id ∧ m.late = id ∧ m.xfer = none ∧ m.soft = none ∧ m.ctl = false) →
      let effs := (readSlots s.core ws).filterMap fun x => match x.2 with
        | .op i => (semOf i s).map Sem.eff
        | _ => none
      let begins (c : Core) : Core := ({ c with ctx := { c.ctx with brkSkip := false }, check := none }).beginIssue
      let t := (effs.foldl (fun t f => f t) (s.onCore begins)).nativeFall n im e k
      exec (.bundleIssue n) s = .next (t.setCoreAt n ((t.coreAt n).holdNext (s.now + 1)))) ∧
    (∀ sh g gn d src, s.canIssue n = true → s.nativeSheet n = none → s.core.sheet = some sh → s.core.group = [] →
      groupAt sh.text (s.core.sheetOff sh) = .group [⟨gn, g, 0, d, src, 0⟩] 1 → WellFormed (.moveRegister 1 gn g d src) = true →
      exec (.bundleIssue n) s = exec (.moveRegister 1 gn g d src) s)

/-- Whatever the state, a step whose next act names only what the encodings admit goes on to a next state, and every such step keeps
package memory in its canonical form: the reset state has it (ResetStateHoldsTheSpecsValues). -/
def Obligations.StepsGoOnAndKeepMemoryCanonical : Prop :=
  ∀ s, NextActOk s = true → GoesOn s ∧ ∀ t, MemoryCanonical s → step s = .next t → MemoryCanonical t

/-- In fail-stop the package executes nothing (R416): unless a reset comes next, the package stays stopped, and no launch, no router, no
task and no context changes. -/
def Obligations.FailStopIsFinal : Prop :=
  ∀ s t, s.plat.failStop = true → step s = .next t →
    (∀ rest, s.agenda ≠ .ev .packageReset :: rest ∧ s.agenda ≠ .ev .warmReset :: rest) → s.agenda ≠ [] →
    t.plat.failStop = true ∧ t.dist.launches = s.dist.launches ∧ t.fab.routers = s.fab.routers ∧
    ∀ n, (t.coreAt n).ctx = (s.coreAt n).ctx ∧ (t.coreAt n).running = (s.coreAt n).running

/-- What an operation of one fixed-latency result leaves unchanged on its way from `s` to `t`: everything but its core; and of that
core everything but what held the bundle, that its sheet has begun, FSTAT and LATE, and in native code the one result on its way to the
destination (R77), in Wyilo the result ports of its unit, with the destination's tag (R130, R396). -/
def Sys2Proof.Claims.OnlyItsResult (s t : State) (x : Args) : Prop :=
  let c := s.core
  let d := t.core
  { t with cores := s.cores } = s ∧ (∀ m, m ≠ s.cur → t.coreAt m = s.coreAt m) ∧
  { d with ctx := c.ctx, banks := c.banks, pend := c.pend, tags := c.tags, hold := c.hold, stalled := c.stalled, holding := c.holding,
           hung := c.hung, armHeld := c.armHeld, descAt := c.descAt, waitsIssue := c.waitsIssue, sheets := c.sheets } = c ∧
  d.sheets = c.beginSheet.sheets ∧
  { d.ctx with cr := c.ctx.cr } = c.ctx ∧ (∀ i, i ≠ crFSTAT → i ≠ crPSTAT → d.creg i = c.creg i) ∧
  d.creg crPSTAT &&& ~~~(1 : Word) = c.creg crPSTAT &&& ~~~(1 : Word) ∧
  (x.nat = true → d.creg crFSTAT = c.creg crFSTAT ∧ d.banks = c.banks ∧ d.tags = c.tags ∧
    ∃ p, d.pend = c.pend ++ [p] ∧ p.dst = x.y) ∧
  (x.nat = false → d.pend = c.pend ∧ d.tags = c.tags.filter (fun g => g.reg != x.y) ∧ (∀ b, b ≠ c.depth → d.banks.get b = c.banks.get b) ∧
    (∀ i, i ≠ x.port → d.port i = c.port i) ∧ (d.port x.port).a = (c.port x.port).a ∧ (d.port x.port).b = (c.port x.port).b ∧
    (d.port x.port).c = (c.port x.port).c ∧ (d.port x.port).m = (c.port x.port).m)

/-- The frame of the scalar arithmetic, logic and shift operations and of the integer lane operations of two operands: wherever one
issues, in a lane operation in an admitted mode, it goes on to a next state in which nothing but its result differs: no byte of memory,
no other register, no other core, and the program counter stays for its bundle to move (R67, R77, R130, R174, R178, R213, R214). -/
def Obligations.RegisterOperationsChangeOnlyTheirResult : Prop :=
  (∀ op ∈ scalarOps, ∀ s row f x, Issues (op f) {} s row f x → ∃ t, exec (op f) s = .next t ∧ OnlyItsResult s t x) ∧
  (∀ op ∈ ([.vaiAdd, .vaiSub, .vaiMul, .vaiMulh, .vaiMin, .vaiMax, .vaiAnd, .vaiXor, .vaiShl, .vaiShr, .vaiSar] : List (Form → Instr)),
    ∀ s row f x, Issues (op f) { base := useMerge } s row f x → ModeOk s.core .intg false x →
      ∃ t, exec (op f) s = .next t ∧ OnlyItsResult s t x)

end
end

