-- ==== Sys2Proof/Laws/Tables.lean ====
section
/-! SUPPORT. Reading a register file or a sparse table after writing it, and the hard-wired registers (R67). -/

namespace Sys2Proof

theorem RF.get_put_same {n : Nat} {α : Type} (r : RF n α) (i : BitVec n) (x : α) : (r.put i x).get i = x := by
  simp [RF.get, RF.put, Vector.get_eq_getElem]

theorem RF.get_put_ne {n : Nat} {α : Type} (r : RF n α) {i j : BitVec n} (x : α) (h : i ≠ j) :
    (r.put i x).get j = r.get j := by
  have : i.toNat ≠ j.toNat := fun e => h (BitVec.eq_of_toNat_eq e)
  simp [RF.get, RF.put, Vector.get_eq_getElem, this]

theorem RF.get_put {n : Nat} {α : Type} (r : RF n α) (i j : BitVec n) (x : α) :
    (r.put i x).get j = if i = j then x else r.get j := by
  split
  · next h => subst h; exact RF.get_put_same r i x
  · next h => exact RF.get_put_ne r x h

@[simp] theorem RF.get_fill {n : Nat} {α : Type} (x : α) (i : BitVec n) : (RF.fill x : RF n α).get i = x := by
  simp [RF.get, RF.fill, Vector.get_eq_getElem]

theorem RF.put_put {n : Nat} {α : Type} (r : RF n α) (i : BitVec n) (x y : α) : (r.put i x).put i y = r.put i y := by
  simp [RF.put, Vector.set_set]

theorem Tbl.get_put_same {α : Type} (d : α) (k : Nat) (x : α) (t : Tbl α) : Tbl.get d (Tbl.put k x t) k = x := by
  induction t with
  | nil => simp [Tbl.put, Tbl.get]
  | cons e r ih =>
    obtain ⟨k', y⟩ := e
    simp only [Tbl.put]
    split
    · simp [Tbl.get]
    · split
      · simp [Tbl.get]
      · next h _ => simp [Tbl.get, h, ih]

theorem Tbl.get_put_ne {α : Type} (d : α) {k j : Nat} (x : α) (t : Tbl α) (h : k ≠ j) :
    Tbl.get d (Tbl.put k x t) j = Tbl.get d t j := by
  induction t with
  | nil => simp [Tbl.put, Tbl.get, Ne.symm h]
  | cons e r ih =>
    obtain ⟨k', y⟩ := e
    simp only [Tbl.put]
    split
    · next he => subst he; simp [Tbl.get, Ne.symm h]
    · split
      · simp [Tbl.get, Ne.symm h]
      · simp only [Tbl.get, ih]

theorem Tbl.put_put {α : Type} (k : Nat) (x y : α) (t : Tbl α) : Tbl.put k y (Tbl.put k x t) = Tbl.put k y t := by
  induction t with
  | nil => simp [Tbl.put]
  | cons e r ih =>
    obtain ⟨k', z⟩ := e
    simp only [Tbl.put]
    split
    · simp [Tbl.put]
    · split
      · simp [Tbl.put]
      · next h h' => simp [Tbl.put, h, h', ih]

namespace Machine

/-! ## The hard-wired registers (R67) -/

@[simp] theorem Ctx.rdS_zero (c : Ctx) : c.rdS 0 = 0 := rfl
@[simp] theorem Ctx.fullS_zero (c : Ctx) : c.fullS 0 = true := rfl
@[simp] theorem Ctx.wrS_zero (c : Ctx) (v : Word) : c.wrS 0 v = c := rfl
@[simp] theorem Ctx.rdP_zero (c : Ctx) : c.rdP 0 = true := rfl
@[simp] theorem Ctx.wrP_zero (c : Ctx) (b : Bool) : c.wrP 0 b = c := rfl

/-- A scalar register other than s0 reads as it was written. -/
theorem Ctx.rdS_wrS_same (c : Ctx) {i : BitVec 6} (v : Word) (h : i ≠ 0) : (c.wrS i v).rdS i = v := by
  rw [Ctx.wrS, if_neg h, Ctx.rdS, if_neg h]
  exact RF.get_put_same _ _ _

/-- A write leaves every other scalar register alone. -/
theorem Ctx.rdS_wrS_ne (c : Ctx) {i j : BitVec 6} (v : Word) (h : i ≠ j) : (c.wrS i v).rdS j = c.rdS j := by
  unfold Ctx.wrS
  split
  · rfl
  · unfold Ctx.rdS
    split
    · rfl
    · exact RF.get_put_ne _ _ h

theorem Ctx.rdV_wrV_same (c : Ctx) (i : BitVec 5) (v : Vec) : (c.wrV i v).rdV i = v := RF.get_put_same _ _ _

theorem Ctx.rdV_wrV_ne (c : Ctx) {i j : BitVec 5} (v : Vec) (h : i ≠ j) : (c.wrV i v).rdV j = c.rdV j :=
  RF.get_put_ne _ _ h

theorem Ctx.creg_setCreg_same (c : Ctx) (i : BitVec 5) (v : Word) : (c.setCreg i v).creg i = v := RF.get_put_same _ _ _

theorem Ctx.creg_setCreg_ne (c : Ctx) {i j : BitVec 5} (v : Word) (h : i ≠ j) : (c.setCreg i v).creg j = c.creg j :=
  RF.get_put_ne _ _ h

theorem Core.creg_setCreg_same (c : Core) (i : BitVec 5) (v : Word) : (c.setCreg i v).creg i = v := RF.get_put_same _ _ _

theorem Core.creg_setCreg_ne (c : Core) {i j : BitVec 5} (v : Word) (h : i ≠ j) : (c.setCreg i v).creg j = c.creg j :=
  RF.get_put_ne _ _ h

end Machine
end Sys2Proof
end

