-- ==== Sys2Proof/Laws/State.lean ====
section
/-! SUPPORT. What each update of the state leaves as it was: one lemma per field and update. -/

namespace Sys2Proof.Machine

/-! ## A core of the state -/

@[simp] theorem State.coreAt_setCoreAt_same (s : State) (n : CoreNo) (c : Core) : (s.setCoreAt n c).coreAt n = c :=
  Tbl.get_put_same _ _ _ _

theorem State.coreAt_setCoreAt_ne (s : State) {n m : CoreNo} (c : Core) (h : n ≠ m) :
    (s.setCoreAt n c).coreAt m = s.coreAt m :=
  Tbl.get_put_ne _ _ _ fun e => h (BitVec.eq_of_toNat_eq e)

@[simp] theorem State.setCoreAt_setCoreAt (s : State) (n : CoreNo) (c d : Core) :
    (s.setCoreAt n c).setCoreAt n d = s.setCoreAt n d := by
  simp [State.setCoreAt, Tbl.put_put]

@[simp] theorem State.setCoreAt_mem (s : State) (n : CoreNo) (c : Core) : (s.setCoreAt n c).mem = s.mem := rfl
@[simp] theorem State.setCoreAt_fab (s : State) (n : CoreNo) (c : Core) : (s.setCoreAt n c).fab = s.fab := rfl
@[simp] theorem State.setCoreAt_dist (s : State) (n : CoreNo) (c : Core) : (s.setCoreAt n c).dist = s.dist := rfl
@[simp] theorem State.setCoreAt_plat (s : State) (n : CoreNo) (c : Core) : (s.setCoreAt n c).plat = s.plat := rfl
@[simp] theorem State.setCoreAt_cur (s : State) (n : CoreNo) (c : Core) : (s.setCoreAt n c).cur = s.cur := rfl
@[simp] theorem State.setCoreAt_curRouter (s : State) (n : CoreNo) (c : Core) : (s.setCoreAt n c).curRouter = s.curRouter := rfl
@[simp] theorem State.setCoreAt_agenda (s : State) (n : CoreNo) (c : Core) : (s.setCoreAt n c).agenda = s.agenda := rfl
@[simp] theorem State.setCoreAt_free (s : State) (n : CoreNo) (c : Core) : (s.setCoreAt n c).free = s.free := rfl

/-! ## The current core -/

@[simp] theorem State.core_setCore (s : State) (c : Core) : (s.setCore c).core = c :=
  State.coreAt_setCoreAt_same _ _ _

@[simp] theorem State.core_onCore (s : State) (f : Core → Core) : (s.onCore f).core = f s.core :=
  State.core_setCore _ _

theorem State.coreAt_onCore_ne (s : State) (f : Core → Core) {n : CoreNo} (h : s.cur ≠ n) :
    (s.onCore f).coreAt n = s.coreAt n :=
  State.coreAt_setCoreAt_ne _ _ h

@[simp] theorem State.setCore_setCore (s : State) (c d : Core) : (s.setCore c).setCore d = s.setCore d :=
  State.setCoreAt_setCoreAt _ _ _ _

@[simp] theorem State.onCore_onCore (s : State) (f g : Core → Core) : (s.onCore f).onCore g = s.onCore (g ∘ f) := by
  simp only [State.onCore, State.core_setCore, State.setCore_setCore, Function.comp]

@[simp] theorem State.onCore_mem (s : State) (f : Core → Core) : (s.onCore f).mem = s.mem := rfl
@[simp] theorem State.onCore_fab (s : State) (f : Core → Core) : (s.onCore f).fab = s.fab := rfl
@[simp] theorem State.onCore_dist (s : State) (f : Core → Core) : (s.onCore f).dist = s.dist := rfl
@[simp] theorem State.onCore_plat (s : State) (f : Core → Core) : (s.onCore f).plat = s.plat := rfl
@[simp] theorem State.onCore_cur (s : State) (f : Core → Core) : (s.onCore f).cur = s.cur := rfl
@[simp] theorem State.onCore_curRouter (s : State) (f : Core → Core) : (s.onCore f).curRouter = s.curRouter := rfl
@[simp] theorem State.onCore_agenda (s : State) (f : Core → Core) : (s.onCore f).agenda = s.agenda := rfl
@[simp] theorem State.onCore_free (s : State) (f : Core → Core) : (s.onCore f).free = s.free := rfl

/-! ## The memory system -/

@[simp] theorem State.withMem_mem (s : State) (f : MemSys → MemSys) : (s.withMem f).mem = f s.mem := rfl
@[simp] theorem State.withMem_cores (s : State) (f : MemSys → MemSys) : (s.withMem f).cores = s.cores := rfl
@[simp] theorem State.withMem_coreAt (s : State) (f : MemSys → MemSys) (n : CoreNo) : (s.withMem f).coreAt n = s.coreAt n := rfl
@[simp] theorem State.withMem_fab (s : State) (f : MemSys → MemSys) : (s.withMem f).fab = s.fab := rfl
@[simp] theorem State.withMem_dist (s : State) (f : MemSys → MemSys) : (s.withMem f).dist = s.dist := rfl
@[simp] theorem State.withMem_plat (s : State) (f : MemSys → MemSys) : (s.withMem f).plat = s.plat := rfl

/-! ## Routers and device registers -/

@[simp] theorem State.routerAt_setRouterAt_same (s : State) (r : RouterNo) (x : Router) :
    (s.setRouterAt r x).routerAt r = x :=
  Tbl.get_put_same _ _ _ _

theorem State.routerAt_setRouterAt_ne (s : State) {r q : RouterNo} (x : Router) (h : r ≠ q) :
    (s.setRouterAt r x).routerAt q = s.routerAt q :=
  Tbl.get_put_ne _ _ _ fun e => h (BitVec.eq_of_toNat_eq e)

@[simp] theorem State.setRouterAt_cores (s : State) (r : RouterNo) (x : Router) : (s.setRouterAt r x).cores = s.cores := rfl
@[simp] theorem State.setRouterAt_mem (s : State) (r : RouterNo) (x : Router) : (s.setRouterAt r x).mem = s.mem := rfl
@[simp] theorem State.setRouterAt_dist (s : State) (r : RouterNo) (x : Router) : (s.setRouterAt r x).dist = s.dist := rfl
@[simp] theorem State.setRouterAt_plat (s : State) (r : RouterNo) (x : Router) : (s.setRouterAt r x).plat = s.plat := rfl

@[simp] theorem State.reg_setReg_same (s : State) (off : Nat) (v : Word) : (s.setReg off v).reg off = v :=
  Tbl.get_put_same _ _ _ _

theorem State.reg_setReg_ne (s : State) {off o : Nat} (v : Word) (h : off ≠ o) : (s.setReg off v).reg o = s.reg o :=
  Tbl.get_put_ne _ _ _ h

@[simp] theorem State.setReg_cores (s : State) (off : Nat) (v : Word) : (s.setReg off v).cores = s.cores := rfl
@[simp] theorem State.setReg_mem (s : State) (off : Nat) (v : Word) : (s.setReg off v).mem = s.mem := rfl
@[simp] theorem State.setReg_fab (s : State) (off : Nat) (v : Word) : (s.setReg off v).fab = s.fab := rfl
@[simp] theorem State.setReg_dist (s : State) (off : Nat) (v : Word) : (s.setReg off v).dist = s.dist := rfl

/-! ## A core's own fields -/

@[simp] theorem Core.setCreg_depth_of (c : Core) {i : BitVec 5} (v : Word) (h : i ≠ crHSTAT) :
    (c.setCreg i v).depth = c.depth := by
  unfold Core.depth; rw [Core.creg_setCreg_ne c v h]

@[simp] theorem Core.setLate_s (c : Core) : c.setLate.ctx.s = c.ctx.s := rfl
@[simp] theorem Core.setLate_v (c : Core) : c.setLate.ctx.v = c.ctx.v := rfl
@[simp] theorem Core.setLate_pc (c : Core) : c.setLate.ctx.pc = c.ctx.pc := rfl
@[simp] theorem Core.setLate_depth (c : Core) : c.setLate.depth = c.depth := Core.setCreg_depth_of c _ (by decide)

@[simp] theorem Core.port_setPort_same (c : Core) (i : BitVec 6) (p : PortInst) : (c.setPort i p).port i = p := by
  show ((c.banks.put c.depth (c.bank.put i p)).get c.depth).get i = p
  rw [RF.get_put_same, RF.get_put_same]

theorem Core.port_setPort_ne (c : Core) {i j : BitVec 6} (p : PortInst) (h : i ≠ j) : (c.setPort i p).port j = c.port j := by
  show ((c.banks.put c.depth (c.bank.put i p)).get c.depth).get j = (c.banks.get c.depth).get j
  rw [RF.get_put_same, RF.get_put_ne _ _ h]; rfl

@[simp] theorem Core.setPort_ctx (c : Core) (i : BitVec 6) (p : PortInst) : (c.setPort i p).ctx = c.ctx := rfl
@[simp] theorem Core.voidPorts_ctx (c : Core) (x : Args) : (c.voidPorts x).ctx = c.ctx := by
  unfold Core.voidPorts; split <;> rfl
@[simp] theorem Core.retag_ctx (c : Core) (d : Dst) (t : Option Word) : (c.retag d t).ctx = c.ctx := rfl
@[simp] theorem Core.beginSheet_ctx (c : Core) : c.beginSheet.ctx = c.ctx := by
  unfold Core.beginSheet; split <;> (try split) <;> rfl
@[simp] theorem Core.beginSheet_frozen (c : Core) : c.beginSheet.frozen = c.frozen := by
  unfold Core.beginSheet; split <;> (try split) <;> rfl
@[simp] theorem Core.stampLate_frozen (c : Core) : c.stampLate.frozen = c.frozen := by
  unfold Core.stampLate; split <;> (try split) <;> rfl
@[simp] theorem Core.stampLate_s (c : Core) : c.stampLate.ctx.s = c.ctx.s := by
  unfold Core.stampLate; split <;> (try split) <;> rfl
@[simp] theorem Core.stampLate_v (c : Core) : c.stampLate.ctx.v = c.ctx.v := by
  unfold Core.stampLate; split <;> (try split) <;> rfl
@[simp] theorem Core.stampLate_pc (c : Core) : c.stampLate.ctx.pc = c.ctx.pc := by
  unfold Core.stampLate; split <;> (try split) <;> rfl
@[simp] theorem Core.beginIssue_s (c : Core) : c.beginIssue.ctx.s = c.ctx.s := by simp [Core.beginIssue]
@[simp] theorem Core.beginIssue_v (c : Core) : c.beginIssue.ctx.v = c.ctx.v := by simp [Core.beginIssue]
@[simp] theorem Core.beginIssue_pc (c : Core) : c.beginIssue.ctx.pc = c.ctx.pc := by simp [Core.beginIssue]

end Sys2Proof.Machine
end

