-- ==== Sys2Proof/Laws/Issue.lean ====
section
/-! SUPPORT. What issuing one operation by itself can do (R74-R79, R434, R435): nothing under a false guard, a hold, a trap, or its
commit. -/

namespace Sys2Proof.Machine

/-! ## Conditions and their report -/

theorem reported_eq_none {fs : List Found} : reported fs = none ↔ fs = [] := by
  cases fs with
  | nil => simp [reported]
  | cons f r =>
    simp only [reported]
    cases reported r with
    | none => simp
    | some g => simp only; split <;> simp

theorem evaluated_eq_nil {fs : List Found} : evaluated fs = [] ↔ fs = [] := by
  constructor
  · intro h
    unfold evaluated at h
    simp only at h
    split at h
    · next ha => exact absurd h ha
    · split at h
      · next hb => exact absurd h hb
      · exact h
  · rintro rfl; rfl

/-- A bundle traps where it has a condition, and only there. -/
theorem trapOf_eq_none {fs : List Found} {pc : Word} : trapOf fs pc = none ↔ fs = [] := by
  unfold trapOf
  simp only
  split
  · next h => simp [evaluated_eq_nil.mp (reported_eq_none.mp h)]
  · next f h =>
    constructor
    · intro h'; cases h'
    · rintro rfl; simp [evaluated, reported] at h

@[simp] theorem trapOf_nil (pc : Word) : trapOf [] pc = none := rfl

/-- One part holds its bundle exactly where it is not ready. -/
theorem heldBy_single (p : Part) :
    heldBy [p] = if p.sem.block then
      some { regs := !p.sem.waits && !p.sem.queue, waits := p.sem.waits, queue := p.sem.queue, meets := p.sem.meets,
             why := if p.sem.waits then p.sem.why else none,
             whys := if p.sem.waits || p.sem.queue then [p.sem.why] else [] } else none := by
  unfold heldBy
  cases h : p.sem.block
  · simp [h]
  · simp only [List.filter, h, List.isEmpty_cons, if_true]
    cases hm : p.sem.meets <;> cases hw : p.sem.waits <;> cases hq : p.sem.queue <;> cases hy : p.sem.why <;>
      simp [List.findSome?, hm, hw, hq, hy]

@[simp] theorem Core.checkFound_none {c : Core} (h : c.check = none) (ps : List Part) : c.checkFound ps = [] := by
  simp [Core.checkFound, h]

/-! ## Judging one operation (R76, R434, R435) -/

/-- What holds an operation is what its bundle is held for. -/
theorem Core.judge_held {c : Core} {p : Part} {h : Held} (hb : heldBy [p] = some h) : c.judge [p] [] = .held h := by
  simp [Core.judge, hb]

/-- An operation that nothing holds is stopped by the trap of its conditions and of the overrun at hand. -/
theorem Core.judge_trap {c : Core} {p : Part} {t : TrapInfo} (hb : p.sem.block = false) (hf : p.sem.fills = false)
    (hk : c.check = none) (ht : trapOf (p.found c ++ c.overrunFound) c.ctx.pc = some t) : c.judge [p] [] = .trap t := by
  simp [Core.judge, heldBy_single, hb, hf, hk, ht]

/-- An operation that nothing holds and nothing stops may commit. -/
theorem Core.judge_clear {c : Core} {p : Part} (hb : p.sem.block = false) (hf : p.sem.fills = false) (hk : c.check = none)
    (hc : p.found c = []) (ho : c.overrunFound = []) : c.judge [p] [] = .clear := by
  simp [Core.judge, heldBy_single, hb, hf, hk, hc, ho]

/-! ## One operation -/

/-- A well-formed operation answers a next state, whatever its semantics meets. -/
theorem issueOp_next {i : Instr} {row : OpRow} {f : Form} (h : opRow i = some (row, f)) (hf : formOk row f = true) (m : Sem)
    (s : State) : issueOp i m s = .next (issueSem row f m s) := by
  simp [issueOp, h, hf]

/-- Under a false guard an operation has no effect (R74). -/
theorem issueSem_idle {row : OpRow} {f : Form} {m : Sem} {s : State} (h : s.core.guardOf f = false) : issueSem row f m s = s := by
  simp [issueSem, h]

/-- An operation that something holds stays where it is (R76). -/
theorem issueSem_held {row : OpRow} {f : Form} {m : Sem} {s : State} (hg : s.core.guardOf f = true) (hb : m.block = true) :
    issueSem row f m s = s.holdCore s.cur
      { regs := !m.waits && !m.queue, waits := m.waits, queue := m.queue, meets := m.meets,
        why := if m.waits then m.why else none, whys := if m.waits || m.queue then [m.why] else [] } := by
  have := heldBy_single { slot := formSlot row f, move := 0, sem := m }
  simp only [hb, if_true] at this
  simp [issueSem, hg, Core.judge_held this]

/-- An operation that meets a condition commits nothing, and its trap is pending (R79, R421). -/
theorem issueSem_trap {row : OpRow} {f : Form} {m : Sem} {s : State} {t : TrapInfo} (hg : s.core.guardOf f = true)
    (hb : m.block = false) (hf : m.fills = false) (hk : s.core.check = none)
    (ht : trapOf (({ slot := formSlot row f, move := 0, sem := m } : Part).found s.core ++ s.core.overrunFound) s.core.ctx.pc =
      some t) :
    issueSem row f m s = s.onCore (Core.stopWith · t) := by
  simp [issueSem, hg, Core.judge_trap (p := { slot := formSlot row f, move := 0, sem := m }) hb hf hk ht]

/-- An operation that nothing holds and nothing stops commits. -/
theorem issueSem_commit {row : OpRow} {f : Form} {m : Sem} {s : State} (hg : s.core.guardOf f = true) (hb : m.block = false)
    (hf : m.fills = false) (hk : s.core.check = none) (hc : m.conds = []) (hm : m.mx = true → s.core.accAbsent = false)
    (ho : s.core.overrunFound = []) :
    issueSem row f m s = s.commitParts [{ slot := formSlot row f, move := 0, sem := m }] id := by
  have hx : (m.mx && s.core.accAbsent) = false := by
    cases h : m.mx
    · rfl
    · simp [hm h]
  have := Core.judge_clear (c := s.core) (p := { slot := formSlot row f, move := 0, sem := m }) hb hf hk
    (by simp [Part.found, hx, hc]) ho
  simp [issueSem, hg, this]

/-- What a commit of one part comes to where it neither writes a control register, transfers control nor traps: its effect. -/
theorem commitParts_effect {p : Part} {fall : State → State} {s : State} (he : p.sem.early = id) (hl : p.sem.late = id)
    (hx : p.sem.xfer = none) (hs : p.sem.soft = none) :
    s.commitParts [p] fall = fall (p.sem.eff (s.onCore Core.beginIssue)) := by
  simp [State.commitParts, applyParts, applyXfers, State.softTrap, he, hl, hx, hs]

/-- What a commit of one transfer comes to. -/
theorem commitParts_transfer {p : Part} {fall : State → State} {s : State} {f : State → State} (he : p.sem.early = id)
    (hl : p.sem.late = id) (hx : p.sem.xfer = some f) (hs : p.sem.soft = none) :
    s.commitParts [p] fall = f (p.sem.eff (s.onCore Core.beginIssue)) := by
  simp [State.commitParts, applyParts, applyXfers, State.softTrap, he, hl, hx, hs]

@[simp] theorem Core.beginIssue_frozen (c : Core) : c.beginIssue.frozen = c.frozen := by
  simp [Core.beginIssue]

@[simp] theorem State.now_onCore_beginIssue (s : State) : (s.onCore Core.beginIssue).now = s.now := by
  simp [State.now]

end Sys2Proof.Machine
end

