-- ==== Sys2Proof/Laws/Claims.lean ====
section
/-! SUPPORT. What an operation that issues by itself comes to, in the terms of the statements: its effect, its value, its stop. -/

namespace Sys2Proof.Claims

open Machine

variable {i : Instr} {use : Use} {s : State} {row : OpRow} {f : Form} {x : Args} {m : Sem}

/-- An operation that only has an effect answers that effect. -/
theorem issueOp_effect (h : Issues i use s row f x) (hb : m.block = x.block) (hc : m.conds = x.conds) (he : m.early = id)
    (hl : m.late = id) (hx : m.xfer = none) (hs : m.soft = none) (hm : m.mx = true → s.core.accAbsent = false)
    (hf : m.fills = false := by rfl) :
    issueOp i m s = .next (m.eff (s.onCore Core.beginIssue)) := by
  rw [issueOp_next h.op h.shape, issueSem_commit h.guard (hb.trans h.ready) hf h.sound (hc.trans h.given) hm h.onTime,
    commitParts_effect he hl hx hs]
  rfl

/-- An operation whose own semantics has no condition and no hold answers its effect. -/
theorem issueOp_clear (h : Issues i use s row f x) (hb : m.block = false) (hc : m.conds = []) (he : m.early = id)
    (hl : m.late = id) (hx : m.xfer = none) (hs : m.soft = none) (hm : m.mx = true → s.core.accAbsent = false)
    (hf : m.fills = false := by rfl) :
    issueOp i m s = .next (m.eff (s.onCore Core.beginIssue)) :=
  issueOp_effect h (hb.trans h.ready.symm) (hc.trans h.given.symm) he hl hx hs hm hf

/-- An operation that transfers control answers its transfer, after its effect. -/
theorem issueOp_transfer {g : State → State} (h : Issues i use s row f x) (hb : m.block = false) (hc : m.conds = [])
    (he : m.early = id) (hl : m.late = id) (hx : m.xfer = some g) (hs : m.soft = none)
    (hm : m.mx = true → s.core.accAbsent = false)
    (hf : m.fills = false := by rfl) :
    issueOp i m s = .next (g (m.eff (s.onCore Core.beginIssue))) := by
  rw [issueOp_next h.op h.shape, issueSem_commit h.guard hb hf h.sound hc hm h.onTime, commitParts_transfer he hl hx hs]

theorem effY_begun (s : State) (x : Args) (lat : Nat) (v : Vec) : effY x lat v (s.onCore Core.beginIssue) = answered s x lat v 0 := by
  simp [effY, answered, Function.comp_def]

theorem effYF_begun (s : State) (x : Args) (lat : Nat) (v : Vec) (fl : FFlags) :
    effYF x lat v fl (s.onCore Core.beginIssue) = answered s x lat v fl := by
  simp [effYF, answered, Function.comp_def]

theorem effNone_begun (s : State) (x : Args) : effNone x (s.onCore Core.beginIssue) = begun s x := by
  simp [effNone, begun, Function.comp_def]

/-- An operation of one fixed-latency result and no flag answers that result. -/
theorem issueOp_value {lat : Nat} {v : Vec} (h : Issues i use s row f x)
    (hm : m = { block := x.block, conds := x.conds, eff := effY x lat v }) : issueOp i m s = .next (answered s x lat v 0) := by
  subst hm
  rw [issueOp_effect h rfl rfl rfl rfl rfl rfl (by simp)]
  exact congrArg _ (effY_begun ..)

/-- The slot bit of TSLOT (R421). -/
theorem slotBit (b : BitVec 3) :
    b.setWidth 64 <<< 8 ||| ((1 : BitVec 8) <<< b.toNat).setWidth 64 = b.setWidth 64 <<< 8 ||| (1 : Word) <<< b.toNat := by
  revert b; decide

/-- An operation that meets the one condition `k`, of a rank from 2 to 8, stops with its trap. -/
theorem issueOp_stop {k : Cond} (h : Issues i use s row f x) (hb : m.block = false) (hc : m.conds = [k])
    (hm : m.mx = true → s.core.accAbsent = false)
    (hf : m.fills = false := by rfl) (hr : 2 ≤ k.rank ∧ k.rank ≤ 8) :
    issueOp i m s = .next (s.onCore fun c => c.stopWith (onlyTrap s row f k)) := by
  have hx : (m.mx && s.core.accAbsent) = false := by
    cases hmx : m.mx
    · rfl
    · simp [hm hmx]
  rw [issueOp_next h.op h.shape]
  refine congrArg _ (issueSem_trap h.guard hb hf h.sound ?_)
  have h9 : ¬ k.rank = 9 := by omega
  simp only [Part.found, hx, hc, h.onTime, List.map_cons, List.map_nil, List.append_nil, Bool.false_eq_true, if_false,
    List.nil_append, trapOf]
  by_cases h7 : k.rank ≤ 7
  · have hz : (if k.rank = 2 then List.foldl min 0 (List.map Found.move
        (List.filter (fun g => decide (g.cond.rank = 2)) [{ slot := formSlot row f, move := 0, cond := k }])) else 0) = 0 := by
      split <;> simp [*]
    have hrep : reported [{ slot := formSlot row f, move := 0, cond := k }] =
        some { slot := formSlot row f, move := 0, cond := k } := rfl
    simp only [evaluated, faultMask, onlyTrap, List.filter, h7, decide_true, ne_eq, List.cons_ne_nil, not_false_eq_true, if_true,
      hrep, h9, if_false] at hz ⊢
    rw [hz]
    simpa [hr] using slotBit (formSlot row f)
  · have h8 : k.rank = 8 := by omega
    simpa [evaluated, reported, faultMask, h8, onlyTrap] using slotBit (formSlot row f)

end Sys2Proof.Claims
end

