-- ==== Sys2Proof/Laws/Memory.lean ====
section
/-! SUPPORT. The byte store: reading after writing, and the canonical form kept by every operation over it (R4, R21). -/

namespace Sys2Proof.Machine

theorem Memory.wfFrom_mono {m : List Host.Cell} {lo hi : Nat} (h : Memory.wfFrom hi m = true) (hl : lo ≤ hi) :
    Memory.wfFrom lo m = true := by
  cases m with
  | nil => rfl
  | cons e r =>
    simp only [Memory.wfFrom, Bool.and_eq_true, decide_eq_true_eq] at h ⊢
    exact ⟨⟨by omega, h.1.2⟩, h.2⟩

/-- An address below every entry reads as empty. -/
theorem Memory.get_below {m : List Host.Cell} {lo k : Nat} (h : Memory.wfFrom lo m = true) (hk : k < lo) :
    Memory.get m k = Memory.empty := by
  cases m with
  | nil => rfl
  | cons e r =>
    simp only [Memory.wfFrom, Bool.and_eq_true, decide_eq_true_eq] at h
    have h1 := h.1.1
    simp only [Memory.get]
    rw [if_neg (by omega), if_pos (by omega)]

theorem Memory.wfFrom_put {m : List Host.Cell} {lo k : Nat} (v : Byte) (h : Memory.wfFrom lo m = true) (hk : lo ≤ k) :
    Memory.wfFrom lo (Memory.put m k v) = true := by
  induction m generalizing lo with
  | nil =>
    simp only [Memory.put]
    split
    · rfl
    · next hv => simp [Memory.wfFrom, hk, hv]
  | cons e r ih =>
    obtain ⟨a, b⟩ := e
    have h0 := h
    simp only [Memory.wfFrom, Bool.and_eq_true, decide_eq_true_eq] at h
    simp only [Memory.put]
    split
    · next he =>
      subst he
      split
      · exact Memory.wfFrom_mono h.2 (by omega)
      · next hv => simp [Memory.wfFrom, hk, hv, h.2]
    · split
      · next hlt =>
        split
        · exact h0
        · next hv => simp [Memory.wfFrom, hk, hv, h.1.2, h.2]; omega
      · simp only [Memory.wfFrom, Bool.and_eq_true, decide_eq_true_eq]
        exact ⟨h.1, ih h.2 (by omega)⟩

/-- A byte write keeps the canonical form. -/
theorem Memory.wf_put {m : List Host.Cell} (k : Nat) (v : Byte) (h : Memory.wf m = true) : Memory.wf (Memory.put m k v) = true :=
  Memory.wfFrom_put v h (Nat.zero_le k)

/-- A write of many bytes keeps the canonical form. -/
theorem Memory.wf_write {m : List Host.Cell} (a : Nat) (bs : List Byte) (h : Memory.wf m = true) :
    Memory.wf (Memory.write m a bs) = true := by
  induction bs generalizing m a with
  | nil => exact h
  | cons b r ih => exact ih _ (Memory.wf_put a b h)

theorem Memory.get_put_from {m : List Host.Cell} {lo : Nat} (k j : Nat) (v : Byte) (h : Memory.wfFrom lo m = true) :
    Memory.get (Memory.put m k v) j = if j = k then v else Memory.get m j := by
  induction m generalizing lo with
  | nil =>
    simp only [Memory.put]
    by_cases hj : j = k
    · subst hj; by_cases hv : v = Memory.empty <;> simp [hv, Memory.get]
    · by_cases hv : v = Memory.empty <;> simp [hv, hj, Memory.get]
  | cons e r ih =>
    obtain ⟨a, b⟩ := e
    simp only [Memory.wfFrom, Bool.and_eq_true, decide_eq_true_eq] at h
    simp only [Memory.put]
    by_cases hka : k = a
    · subst hka
      by_cases hv : v = Memory.empty
      · simp only [hv, if_true, Memory.get]
        by_cases hj : j = k
        · subst hj; rw [if_pos rfl]; exact Memory.get_below h.2 (by omega)
        · rw [if_neg hj, if_neg hj]
          by_cases hlt : j < k
          · rw [if_pos hlt]; exact Memory.get_below h.2 (by omega)
          · rw [if_neg hlt]
      · simp only [if_neg hv, if_true, Memory.get]
        by_cases hj : j = k <;> simp [hj]
    · rw [if_neg hka]
      by_cases hlt : k < a
      · rw [if_pos hlt]
        by_cases hv : v = Memory.empty
        · rw [if_pos hv]
          by_cases hj : j = k
          · subst hj; rw [if_pos rfl, hv]; simp only [Memory.get]; rw [if_neg hka, if_pos hlt]
          · rw [if_neg hj]
        · rw [if_neg hv]
          by_cases hj : j = k
          · subst hj; simp [Memory.get]
          · rw [if_neg hj]
            by_cases hjk : j < k
            · simp only [Memory.get]; rw [if_neg hj, if_pos hjk, if_neg (by omega), if_pos (by omega)]
            · simp only [Memory.get]; rw [if_neg hj, if_neg hjk]
      · rw [if_neg hlt]
        simp only [Memory.get, ih h.2]
        by_cases hj : j = k
        · subst hj; rw [if_neg hka, if_neg hlt, if_pos rfl, if_pos rfl]
        · rw [if_neg hj, if_neg hj]

/-- A byte reads as it was last written, and every other byte as before. -/
theorem Memory.get_put {m : List Host.Cell} (k j : Nat) (v : Byte) (h : Memory.wf m = true) :
    Memory.get (Memory.put m k v) j = if j = k then v else Memory.get m j :=
  Memory.get_put_from k j v h

/-- After a write of many bytes, its bytes read as written and every other byte as before. -/
theorem Memory.get_write {m : List Host.Cell} (a j : Nat) (bs : List Byte) (h : Memory.wf m = true) :
    Memory.get (Memory.write m a bs) j = if a ≤ j ∧ j < a + bs.length then bs.getD (j - a) 0 else Memory.get m j := by
  induction bs generalizing m a with
  | nil => rw [if_neg (by simp only [List.length_nil]; omega)]; rfl
  | cons b r ih =>
    simp only [Memory.write, ih (a + 1) (Memory.wf_put a b h), Memory.get_put _ _ _ h, List.length_cons]
    by_cases h1 : j = a
    · subst h1; rw [if_neg (by omega), if_pos rfl, if_pos (by omega)]; simp
    · rw [if_neg h1]
      by_cases h2 : a + 1 ≤ j ∧ j < a + 1 + r.length
      · rw [if_pos h2, if_pos (by omega)]
        have : j - a = (j - (a + 1)) + 1 := by omega
        rw [this, List.getD_cons_succ]
      · rw [if_neg h2, if_neg (by omega)]

/-- Memory at reset is canonical. -/
theorem Memory.wf_reset : Memory.wf State.reset.mem.mem = true := rfl

theorem Memory.length_read (m : List Host.Cell) (a n : Nat) : (Memory.read m a n).length = n := by
  induction n generalizing a with
  | zero => rfl
  | succ n ih => simp [Memory.read, ih]

theorem leBytes_length (n x : Nat) : (leBytes n x).length = n := by
  induction n generalizing x with
  | zero => rfl
  | succ n ih => simp [leBytes, ih]

/-- The little-endian bytes of a number that fits read back as it. -/
theorem leNat_leBytes (n x : Nat) (h : x < 256 ^ n) : leNat (leBytes n x) = x := by
  induction n generalizing x with
  | zero => simp only [Nat.pow_zero, Nat.lt_one_iff] at h; subst h; rfl
  | succ n ih =>
    have : x / 256 < 256 ^ n := by rw [Nat.pow_succ] at h; exact Nat.div_lt_of_lt_mul (by omega)
    simp only [leBytes, leNat, ih _ this, BitVec.toNat_ofNat]
    omega

end Sys2Proof.Machine
end

