-- ==== Sys2Proof/Laws/PerInstr.lean ====
section
/-! SUPPORT. What holds of every instruction as syntax: the length of its encoding (R72, R75, R139, R275). -/

namespace Sys2Proof.Laws

theorem bytesOfWord_length (n w : Nat) : (bytesOfWord n w).length = n := by
  induction n generalizing w with
  | zero => rfl
  | succ n ih => simp [bytesOfWord, ih]

/-- The lengths that an encoding allows: two bytes for a transit instruction; a word and its immediate words for a move, one of 4 and
one of 8 bytes; a slot word with the word of its right neighbour or without. -/
def lengthOk (enc : Encoding) (n : Nat) : Prop :=
  match enc with
  | .transit => n = 2
  | .move => n = 4 ∨ n = 8 ∨ n = 12
  | .slot _ => n = 4 ∨ n = 8

/-- Where an instruction has an encoding, its length is one that the encoding allows. -/
def Encoded.Statement (i : Instr) : Prop := ∀ enc bs, encode i = some (enc, bs) → lengthOk enc bs.length

theorem encodeMove_length {i : Instr} {bs : List Byte} (h : encodeMove i = some bs) : lengthOk .move bs.length := by
  unfold encodeMove at h
  split at h <;> cases h
  all_goals simp [lengthOk, bytesOfWord_length]

theorem encoded (i : Instr) : Encoded.Statement i := by
  intro enc bs h
  unfold encode at h
  cases hm : encodeMove i with
  | some b =>
    simp only [hm, Option.some.injEq, Prod.mk.injEq] at h
    obtain ⟨rfl, rfl⟩ := h
    exact encodeMove_length hm
  | none =>
    cases ht : encodeTransit i with
    | some w =>
      simp only [hm, ht, Option.some.injEq, Prod.mk.injEq] at h
      obtain ⟨rfl, rfl⟩ := h
      simp [lengthOk, bytesOfWord_length]
    | none =>
      cases hs : encodeSlot i with
      | none => simp [hm, ht, hs] at h
      | some x =>
        obtain ⟨n, w, e⟩ := x
        cases e <;> simp only [hm, ht, hs, Option.some.injEq, Prod.mk.injEq] at h <;> obtain ⟨rfl, rfl⟩ := h <;>
          simp [lengthOk, bytesOfWord_length]

theorem Encoded.bundleIssue (core : CoreNo) : Encoded.Statement (.bundleIssue core) := encoded _
theorem Encoded.trapEntry (core : CoreNo) : Encoded.Statement (.trapEntry core) := encoded _
theorem Encoded.resultLanding (core : CoreNo) (i : Nat) : Encoded.Statement (.resultLanding core i) := encoded _
theorem Encoded.streamFetch (core : CoreNo) (q : BitVec 3) : Encoded.Statement (.streamFetch core q) := encoded _
theorem Encoded.streamWriteElement (core : CoreNo) (q : BitVec 3) : Encoded.Statement (.streamWriteElement core q) := encoded _
theorem Encoded.gatedEntryDrain (core : CoreNo) : Encoded.Statement (.gatedEntryDrain core) := encoded _
theorem Encoded.translationComplete (die : BitVec 3) (core : CoreNo) (groups : Nat) : Encoded.Statement (.translationComplete die core groups) := encoded _
theorem Encoded.translationRetry (die : BitVec 3) (core : CoreNo) : Encoded.Statement (.translationRetry die core) := encoded _
theorem Encoded.descriptorCacheFill (core : CoreNo) : Encoded.Statement (.descriptorCacheFill core) := encoded _
theorem Encoded.launchTake (t : BitVec 5) (q : BitVec 3) : Encoded.Statement (.launchTake t q) := encoded _
theorem Encoded.wake (i : Nat) : Encoded.Statement (.wake i) := encoded _
theorem Encoded.timeSliceExpiry (core : CoreNo) : Encoded.Statement (.timeSliceExpiry core) := encoded _
theorem Encoded.preemptionRequest (who : PreemptTarget) : Encoded.Statement (.preemptionRequest who) := encoded _
theorem Encoded.preemptionSave (core : CoreNo) : Encoded.Statement (.preemptionSave core) := encoded _
theorem Encoded.pageFaultHold (core : CoreNo) : Encoded.Statement (.pageFaultHold core) := encoded _
theorem Encoded.cancel (t : BitVec 5) (handle : BitVec 32) : Encoded.Statement (.cancel t handle) := encoded _
theorem Encoded.lqtailWrite (t : BitVec 5) (q : BitVec 3) (tail : Word) : Encoded.Statement (.lqtailWrite t q tail) := encoded _
theorem Encoded.tenantDisable (t : BitVec 5) : Encoded.Statement (.tenantDisable t) := encoded _
theorem Encoded.armedSend (core : CoreNo) : Encoded.Statement (.armedSend core) := encoded _
theorem Encoded.armedCopyQueue (core : CoreNo) : Encoded.Statement (.armedCopyQueue core) := encoded _
theorem Encoded.copyStart (core : CoreNo) : Encoded.Statement (.copyStart core) := encoded _
theorem Encoded.copyGranule (core : CoreNo) (i : Nat) (g : Nat) : Encoded.Statement (.copyGranule core i g) := encoded _
theorem Encoded.packetInjection (core : CoreNo) : Encoded.Statement (.packetInjection core) := encoded _
theorem Encoded.transitRun (router : RouterNo) (src : RunSource) : Encoded.Statement (.transitRun router src) := encoded _
theorem Encoded.combineDeadlineRelease (router : RouterNo) (slot : BitVec 6) : Encoded.Statement (.combineDeadlineRelease router slot) := encoded _
theorem Encoded.delivery (i : Nat) : Encoded.Statement (.delivery i) := encoded _
theorem Encoded.linkCrcRetry (link : LinkNo) : Encoded.Statement (.linkCrcRetry link) := encoded _
theorem Encoded.linkRetrain (link : LinkNo) (spared : Bool) : Encoded.Statement (.linkRetrain link spared) := encoded _
theorem Encoded.bearingExchange (port : BitVec 3) (dist : BitVec 16) (bound : BitVec 32) (t1 t2 t3 t4 : Word) : Encoded.Statement (.bearingExchange port dist bound t1 t2 t3 t4) := encoded _
theorem Encoded.atomicAtHome (i : Nat) (merge : Bool) : Encoded.Statement (.atomicAtHome i merge) := encoded _
theorem Encoded.pileWriteApply (die pile : BitVec 3) : Encoded.Statement (.pileWriteApply die pile) := encoded _
theorem Encoded.pileMarkerApply (die pile : BitVec 3) : Encoded.Statement (.pileMarkerApply die pile) := encoded _
theorem Encoded.pileHeldRead (i : Nat) : Encoded.Statement (.pileHeldRead i) := encoded _
theorem Encoded.pileHoldTimeout (i : Nat) : Encoded.Statement (.pileHoldTimeout i) := encoded _
theorem Encoded.pileLost (pile : BitVec 3) : Encoded.Statement (.pileLost pile) := encoded _
theorem Encoded.cacheEviction (level : CacheLevel) (line : Nat) : Encoded.Statement (.cacheEviction level line) := encoded _
theorem Encoded.patrolScrub (block : Nat) : Encoded.Statement (.patrolScrub block) := encoded _
theorem Encoded.hangWatchdogExpiry (core : CoreNo) : Encoded.Statement (.hangWatchdogExpiry core) := encoded _
theorem Encoded.saveGraceExpiry (core : CoreNo) : Encoded.Statement (.saveGraceExpiry core) := encoded _
theorem Encoded.selfTestComplete (i : Nat) (lasting : Bool) : Encoded.Statement (.selfTestComplete i lasting) := encoded _
theorem Encoded.coreSpareMove (core : CoreNo) : Encoded.Statement (.coreSpareMove core) := encoded _
theorem Encoded.failStop (cause : FailCause) : Encoded.Statement (.failStop cause) := encoded _
theorem Encoded.thermalThrottle (step : Throttle) : Encoded.Statement (.thermalThrottle step) := encoded _
theorem Encoded.tlbinvcGo (v : Word) : Encoded.Statement (.tlbinvcGo v) := encoded _
theorem Encoded.atrevGo (t : BitVec 5) (die : BitVec 3) (v : Word) : Encoded.Statement (.atrevGo t die v) := encoded _
theorem Encoded.atrevNoticeExpiry (t : BitVec 5) (die : BitVec 3) : Encoded.Statement (.atrevNoticeExpiry t die) := encoded _
theorem Encoded.pkcmdRelease (router : RouterNo) (entry : BitVec 4) : Encoded.Statement (.pkcmdRelease router entry) := encoded _
theorem Encoded.pkcmdDiscard (router : RouterNo) (entry : BitVec 4) : Encoded.Statement (.pkcmdDiscard router entry) := encoded _
theorem Encoded.csfree (router : RouterNo) (t : BitVec 5) (v : Word) : Encoded.Statement (.csfree router t v) := encoded _
theorem Encoded.pfresResume (t : BitVec 5) (savea : Word) : Encoded.Statement (.pfresResume t savea) := encoded _
theorem Encoded.pfresKill (t : BitVec 5) (savea : Word) : Encoded.Statement (.pfresKill t savea) := encoded _
theorem Encoded.crclr (v : Word) : Encoded.Statement (.crclr v) := encoded _
theorem Encoded.stgownWrite (cluster : BitVec 8) (v : Word) : Encoded.Statement (.stgownWrite cluster v) := encoded _
theorem Encoded.stagingClearComplete (cluster : BitVec 8) (slice : BitVec 3) : Encoded.Statement (.stagingClearComplete cluster slice) := encoded _
theorem Encoded.pcapWrite (v : Word) : Encoded.Statement (.pcapWrite v) := encoded _
theorem Encoded.clockChange (step : BitVec 8) : Encoded.Statement (.clockChange step) := encoded _
theorem Encoded.tdispConfigLock (t : BitVec 5) (run : Bool) : Encoded.Statement (.tdispConfigLock t run) := encoded _
theorem Encoded.tdispUnlock (t : BitVec 5) : Encoded.Statement (.tdispUnlock t) := encoded _
theorem Encoded.keyInstall (msg : KeyMessage) : Encoded.Statement (.keyInstall msg) := encoded _
theorem Encoded.spdmRequest (msg : List Byte) : Encoded.Statement (.spdmRequest msg) := encoded _
theorem Encoded.firmwareUpdate (image : List Byte) : Encoded.Statement (.firmwareUpdate image) := encoded _
theorem Encoded.firmwareCommit (msg : List Byte) : Encoded.Statement (.firmwareCommit msg) := encoded _
theorem Encoded.deviceRegisterWrite (addr : BitVec 52) (size : Nat) (v : Word) : Encoded.Statement (.deviceRegisterWrite addr size v) := encoded _
theorem Encoded.moveRegister (e n : BitVec 1) (g : BitVec 4) (d s : BitVec 12) : Encoded.Statement (.moveRegister e n g d s) := encoded _
theorem Encoded.moveImmediate12 (e n : BitVec 1) (g : BitVec 4) (d s : BitVec 12) : Encoded.Statement (.moveImmediate12 e n g d s) := encoded _
theorem Encoded.moveImmediate32 (e n : BitVec 1) (g : BitVec 4) (d : BitVec 12) (imm : BitVec 32) : Encoded.Statement (.moveImmediate32 e n g d imm) := encoded _
theorem Encoded.moveImmediate64 (e n : BitVec 1) (g : BitVec 4) (d : BitVec 12) (imm : Word) : Encoded.Statement (.moveImmediate64 e n g d imm) := encoded _
theorem Encoded.add (f : Form) : Encoded.Statement (.add f) := encoded _
theorem Encoded.sub (f : Form) : Encoded.Statement (.sub f) := encoded _
theorem Encoded.mul (f : Form) : Encoded.Statement (.mul f) := encoded _
theorem Encoded.mulh (f : Form) : Encoded.Statement (.mulh f) := encoded _
theorem Encoded.mulhu (f : Form) : Encoded.Statement (.mulhu f) := encoded _
theorem Encoded.div (f : Form) : Encoded.Statement (.div f) := encoded _
theorem Encoded.divu (f : Form) : Encoded.Statement (.divu f) := encoded _
theorem Encoded.rem (f : Form) : Encoded.Statement (.rem f) := encoded _
theorem Encoded.remu (f : Form) : Encoded.Statement (.remu f) := encoded _
theorem Encoded.imin (f : Form) : Encoded.Statement (.imin f) := encoded _
theorem Encoded.imax (f : Form) : Encoded.Statement (.imax f) := encoded _
theorem Encoded.minu (f : Form) : Encoded.Statement (.minu f) := encoded _
theorem Encoded.maxu (f : Form) : Encoded.Statement (.maxu f) := encoded _
theorem Encoded.iabs (f : Form) : Encoded.Statement (.iabs f) := encoded _
theorem Encoded.addw (f : Form) : Encoded.Statement (.addw f) := encoded _
theorem Encoded.subw (f : Form) : Encoded.Statement (.subw f) := encoded _
theorem Encoded.mulw (f : Form) : Encoded.Statement (.mulw f) := encoded _
theorem Encoded.lea (f : Form) : Encoded.Statement (.lea f) := encoded _
theorem Encoded.cmp (f : Form) : Encoded.Statement (.cmp f) := encoded _
theorem Encoded.cmpn (f : Form) : Encoded.Statement (.cmpn f) := encoded _
theorem Encoded.sel (f : Form) : Encoded.Statement (.sel f) := encoded _
theorem Encoded.bitAnd (f : Form) : Encoded.Statement (.bitAnd f) := encoded _
theorem Encoded.bitOr (f : Form) : Encoded.Statement (.bitOr f) := encoded _
theorem Encoded.bitXor (f : Form) : Encoded.Statement (.bitXor f) := encoded _
theorem Encoded.shl (f : Form) : Encoded.Statement (.shl f) := encoded _
theorem Encoded.shr (f : Form) : Encoded.Statement (.shr f) := encoded _
theorem Encoded.sar (f : Form) : Encoded.Statement (.sar f) := encoded _
theorem Encoded.rotr (f : Form) : Encoded.Statement (.rotr f) := encoded _
theorem Encoded.extu (f : Form) : Encoded.Statement (.extu f) := encoded _
theorem Encoded.exts (f : Form) : Encoded.Statement (.exts f) := encoded _
theorem Encoded.insf (f : Form) : Encoded.Statement (.insf f) := encoded _
theorem Encoded.cnt (f : Form) : Encoded.Statement (.cnt f) := encoded _
theorem Encoded.bswap (f : Form) : Encoded.Statement (.bswap f) := encoded _
theorem Encoded.br (f : Form) : Encoded.Statement (.br f) := encoded _
theorem Encoded.jmp (f : Form) : Encoded.Statement (.jmp f) := encoded _
theorem Encoded.call (f : Form) : Encoded.Statement (.call f) := encoded _
theorem Encoded.callr (f : Form) : Encoded.Statement (.callr f) := encoded _
theorem Encoded.ret (f : Form) : Encoded.Statement (.ret f) := encoded _
theorem Encoded.loop (f : Form) : Encoded.Statement (.loop f) := encoded _
theorem Encoded.lexit (f : Form) : Encoded.Statement (.lexit f) := encoded _
theorem Encoded.susp (f : Form) : Encoded.Statement (.susp f) := encoded _
theorem Encoded.spawn (f : Form) : Encoded.Statement (.spawn f) := encoded _
theorem Encoded.exit (f : Form) : Encoded.Statement (.exit f) := encoded _
theorem Encoded.crrd (f : Form) : Encoded.Statement (.crrd f) := encoded _
theorem Encoded.crwr (f : Form) : Encoded.Statement (.crwr f) := encoded _
theorem Encoded.crset (f : Form) : Encoded.Statement (.crset f) := encoded _
theorem Encoded.trap (f : Form) : Encoded.Statement (.trap f) := encoded _
theorem Encoded.tret (f : Form) : Encoded.Statement (.tret f) := encoded _
theorem Encoded.issueat (f : Form) : Encoded.Statement (.issueat f) := encoded _
theorem Encoded.frmwait (f : Form) : Encoded.Statement (.frmwait f) := encoded _
theorem Encoded.timeat (f : Form) : Encoded.Statement (.timeat f) := encoded _
theorem Encoded.accsp (f : Form) : Encoded.Statement (.accsp f) := encoded _
theorem Encoded.accfl (f : Form) : Encoded.Statement (.accfl f) := encoded _
theorem Encoded.msps (f : Form) : Encoded.Statement (.msps f) := encoded _
theorem Encoded.msfl (f : Form) : Encoded.Statement (.msfl f) := encoded _
theorem Encoded.mark (f : Form) : Encoded.Statement (.mark f) := encoded _
theorem Encoded.pbld (f : Form) : Encoded.Statement (.pbld f) := encoded _
theorem Encoded.psend (f : Form) : Encoded.Statement (.psend f) := encoded _
theorem Encoded.dwait (f : Form) : Encoded.Statement (.dwait f) := encoded _
theorem Encoded.darm (f : Form) : Encoded.Statement (.darm f) := encoded _
theorem Encoded.dread (f : Form) : Encoded.Statement (.dread f) := encoded _
theorem Encoded.dadd (f : Form) : Encoded.Statement (.dadd f) := encoded _
theorem Encoded.dset (f : Form) : Encoded.Statement (.dset f) := encoded _
theorem Encoded.vaiAdd (f : Form) : Encoded.Statement (.vaiAdd f) := encoded _
theorem Encoded.vaiSub (f : Form) : Encoded.Statement (.vaiSub f) := encoded _
theorem Encoded.vaiMul (f : Form) : Encoded.Statement (.vaiMul f) := encoded _
theorem Encoded.vaiMulh (f : Form) : Encoded.Statement (.vaiMulh f) := encoded _
theorem Encoded.vaiMin (f : Form) : Encoded.Statement (.vaiMin f) := encoded _
theorem Encoded.vaiMax (f : Form) : Encoded.Statement (.vaiMax f) := encoded _
theorem Encoded.vaiAbs (f : Form) : Encoded.Statement (.vaiAbs f) := encoded _
theorem Encoded.vaiAnd (f : Form) : Encoded.Statement (.vaiAnd f) := encoded _
theorem Encoded.vaiOr (f : Form) : Encoded.Statement (.vaiOr f) := encoded _
theorem Encoded.vaiXor (f : Form) : Encoded.Statement (.vaiXor f) := encoded _
theorem Encoded.vaiShl (f : Form) : Encoded.Statement (.vaiShl f) := encoded _
theorem Encoded.vaiShr (f : Form) : Encoded.Statement (.vaiShr f) := encoded _
theorem Encoded.vaiSar (f : Form) : Encoded.Statement (.vaiSar f) := encoded _
theorem Encoded.vaiCmp (f : Form) : Encoded.Statement (.vaiCmp f) := encoded _
theorem Encoded.vfpAdd (f : Form) : Encoded.Statement (.vfpAdd f) := encoded _
theorem Encoded.vfpSub (f : Form) : Encoded.Statement (.vfpSub f) := encoded _
theorem Encoded.vfpMul (f : Form) : Encoded.Statement (.vfpMul f) := encoded _
theorem Encoded.vfpFma (f : Form) : Encoded.Statement (.vfpFma f) := encoded _
theorem Encoded.vfpFms (f : Form) : Encoded.Statement (.vfpFms f) := encoded _
theorem Encoded.vfpFnma (f : Form) : Encoded.Statement (.vfpFnma f) := encoded _
theorem Encoded.vfpMin (f : Form) : Encoded.Statement (.vfpMin f) := encoded _
theorem Encoded.vfpMax (f : Form) : Encoded.Statement (.vfpMax f) := encoded _
theorem Encoded.vfpAbs (f : Form) : Encoded.Statement (.vfpAbs f) := encoded _
theorem Encoded.vfpNeg (f : Form) : Encoded.Statement (.vfpNeg f) := encoded _
theorem Encoded.vfpCmp (f : Form) : Encoded.Statement (.vfpCmp f) := encoded _
theorem Encoded.vfpScal (f : Form) : Encoded.Statement (.vfpScal f) := encoded _
theorem Encoded.vfpRint (f : Form) : Encoded.Statement (.vfpRint f) := encoded _
theorem Encoded.vfpCpsgn (f : Form) : Encoded.Statement (.vfpCpsgn f) := encoded _
theorem Encoded.vperm (f : Form) : Encoded.Statement (.vperm f) := encoded _
theorem Encoded.vcmpr (f : Form) : Encoded.Statement (.vcmpr f) := encoded _
theorem Encoded.vexpd (f : Form) : Encoded.Statement (.vexpd f) := encoded _
theorem Encoded.vmatch (f : Form) : Encoded.Statement (.vmatch f) := encoded _
theorem Encoded.vredsum (f : Form) : Encoded.Statement (.vredsum f) := encoded _
theorem Encoded.vredmin (f : Form) : Encoded.Statement (.vredmin f) := encoded _
theorem Encoded.vredmax (f : Form) : Encoded.Statement (.vredmax f) := encoded _
theorem Encoded.vscan (f : Form) : Encoded.Statement (.vscan f) := encoded _
theorem Encoded.vcvt (f : Form) : Encoded.Statement (.vcvt f) := encoded _
theorem Encoded.vquant (f : Form) : Encoded.Statement (.vquant f) := encoded _
theorem Encoded.vdqnt (f : Form) : Encoded.Statement (.vdqnt f) := encoded _
theorem Encoded.vbcst (f : Form) : Encoded.Statement (.vbcst f) := encoded _
theorem Encoded.vexp2 (f : Form) : Encoded.Statement (.vexp2 f) := encoded _
theorem Encoded.vlog2 (f : Form) : Encoded.Statement (.vlog2 f) := encoded _
theorem Encoded.vrcp (f : Form) : Encoded.Statement (.vrcp f) := encoded _
theorem Encoded.vrsqrt (f : Form) : Encoded.Statement (.vrsqrt f) := encoded _
theorem Encoded.vsqrt (f : Form) : Encoded.Statement (.vsqrt f) := encoded _
theorem Encoded.vsinpi (f : Form) : Encoded.Statement (.vsinpi f) := encoded _
theorem Encoded.vcospi (f : Form) : Encoded.Statement (.vcospi f) := encoded _
theorem Encoded.vtanh (f : Form) : Encoded.Statement (.vtanh f) := encoded _
theorem Encoded.verf (f : Form) : Encoded.Statement (.verf f) := encoded _
theorem Encoded.mcfg (f : Form) : Encoded.Statement (.mcfg f) := encoded _
theorem Encoded.mcfgr (f : Form) : Encoded.Statement (.mcfgr f) := encoded _
theorem Encoded.mlgd (f : Form) : Encoded.Statement (.mlgd f) := encoded _
theorem Encoded.mlgs (f : Form) : Encoded.Statement (.mlgs f) := encoded _
theorem Encoded.mdsc (f : Form) : Encoded.Statement (.mdsc f) := encoded _
theorem Encoded.mzero (f : Form) : Encoded.Statement (.mzero f) := encoded _
theorem Encoded.mbeat (f : Form) : Encoded.Statement (.mbeat f) := encoded _
theorem Encoded.mbeatq (f : Form) : Encoded.Statement (.mbeatq f) := encoded _
theorem Encoded.mdrn (f : Form) : Encoded.Statement (.mdrn f) := encoded _
theorem Encoded.mfil (f : Form) : Encoded.Statement (.mfil f) := encoded _
theorem Encoded.mstc (f : Form) : Encoded.Statement (.mstc f) := encoded _
theorem Encoded.ld (f : Form) : Encoded.Statement (.ld f) := encoded _
theorem Encoded.ldLong (f : Form) : Encoded.Statement (.ldLong f) := encoded _
theorem Encoded.st (f : Form) : Encoded.Statement (.st f) := encoded _
theorem Encoded.stLong (f : Form) : Encoded.Statement (.stLong f) := encoded _
theorem Encoded.ldsp (f : Form) : Encoded.Statement (.ldsp f) := encoded _
theorem Encoded.stsp (f : Form) : Encoded.Statement (.stsp f) := encoded _
theorem Encoded.ldrs (f : Form) : Encoded.Statement (.ldrs f) := encoded _
theorem Encoded.strs (f : Form) : Encoded.Statement (.strs f) := encoded _
theorem Encoded.gath (f : Form) : Encoded.Statement (.gath f) := encoded _
theorem Encoded.scat (f : Form) : Encoded.Statement (.scat f) := encoded _
theorem Encoded.tagl (f : Form) : Encoded.Statement (.tagl f) := encoded _
theorem Encoded.tagw (f : Form) : Encoded.Statement (.tagw f) := encoded _
theorem Encoded.fes (f : Form) : Encoded.Statement (.fes f) := encoded _
theorem Encoded.fec (f : Form) : Encoded.Statement (.fec f) := encoded _
theorem Encoded.sbind (f : Form) : Encoded.Statement (.sbind f) := encoded _
theorem Encoded.sfree (f : Form) : Encoded.Statement (.sfree f) := encoded _
theorem Encoded.sstat (f : Form) : Encoded.Statement (.sstat f) := encoded _
theorem Encoded.copy (f : Form) : Encoded.Statement (.copy f) := encoded _
theorem Encoded.bbset (f : Form) : Encoded.Statement (.bbset f) := encoded _
theorem Encoded.bbwait (f : Form) : Encoded.Statement (.bbwait f) := encoded _
theorem Encoded.cmnt (f : Form) : Encoded.Statement (.cmnt f) := encoded _
theorem Encoded.fence (f : Form) : Encoded.Statement (.fence f) := encoded _
theorem Encoded.icinv (f : Form) : Encoded.Statement (.icinv f) := encoded _
theorem Encoded.tclk (f : Form) : Encoded.Statement (.tclk f) := encoded _
theorem Encoded.tculk (f : Form) : Encoded.Statement (.tculk f) := encoded _
theorem Encoded.aadd (f : Form) : Encoded.Statement (.aadd f) := encoded _
theorem Encoded.amin (f : Form) : Encoded.Statement (.amin f) := encoded _
theorem Encoded.amax (f : Form) : Encoded.Statement (.amax f) := encoded _
theorem Encoded.aand (f : Form) : Encoded.Statement (.aand f) := encoded _
theorem Encoded.aor (f : Form) : Encoded.Statement (.aor f) := encoded _
theorem Encoded.axor (f : Form) : Encoded.Statement (.axor f) := encoded _
theorem Encoded.axchg (f : Form) : Encoded.Statement (.axchg f) := encoded _
theorem Encoded.acas (f : Form) : Encoded.Statement (.acas f) := encoded _
theorem Encoded.pushi (n : BitVec 10) : Encoded.Statement (.pushi n) := encoded _
theorem Encoded.xtnd (n : BitVec 10) : Encoded.Statement (.xtnd n) := encoded _
theorem Encoded.ldw (i : BitVec 2) : Encoded.Statement (.ldw i) := encoded _
theorem Encoded.stw (i : BitVec 2) : Encoded.Statement (.stw i) := encoded _
theorem Encoded.addi (n : BitVec 10) : Encoded.Statement (.addi n) := encoded _
theorem Encoded.env (s : BitVec 10) : Encoded.Statement (.env s) := encoded _
theorem Encoded.pld (i : BitVec 6) : Encoded.Statement (.pld i) := encoded _
theorem Encoded.pst (i : BitVec 6) : Encoded.Statement (.pst i) := encoded _
theorem Encoded.pvadd (t : BitVec 1) (s : BitVec 6) : Encoded.Statement (.pvadd t s) := encoded _
theorem Encoded.comb (t : BitVec 1) : Encoded.Statement (.comb t) := encoded _
theorem Encoded.skz (n : BitVec 4) : Encoded.Statement (.skz n) := encoded _
theorem Encoded.sknz (n : BitVec 4) : Encoded.Statement (.sknz n) := encoded _
theorem Encoded.skip (n : BitVec 4) : Encoded.Statement (.skip n) := encoded _
theorem Encoded.clon (m : BitVec 10) : Encoded.Statement (.clon m) := encoded _
theorem Encoded.fwd (d : BitVec 4) : Encoded.Statement (.fwd d) := encoded _
theorem Encoded.least (m : BitVec 10) : Encoded.Statement (.least m) := encoded _
theorem Encoded.park (c : BitVec 10) : Encoded.Statement (.park c) := encoded _
theorem Encoded.sysCrclr (f : Form) : Encoded.Statement (.sysCrclr f) := encoded _
theorem Encoded.taskDispatch : Encoded.Statement (.taskDispatch) := encoded _
theorem Encoded.taskResume : Encoded.Statement (.taskResume) := encoded _
theorem Encoded.errorRecordWrite : Encoded.Statement (.errorRecordWrite) := encoded _
theorem Encoded.tlbInvalidationComplete : Encoded.Statement (.tlbInvalidationComplete) := encoded _
theorem Encoded.packageReset : Encoded.Statement (.packageReset) := encoded _
theorem Encoded.warmReset : Encoded.Statement (.warmReset) := encoded _
theorem Encoded.dup : Encoded.Statement (.dup) := encoded _
theorem Encoded.drop : Encoded.Statement (.drop) := encoded _
theorem Encoded.swap : Encoded.Statement (.swap) := encoded _
theorem Encoded.transitAdd : Encoded.Statement (.transitAdd) := encoded _
theorem Encoded.transitSub : Encoded.Statement (.transitSub) := encoded _
theorem Encoded.transitAnd : Encoded.Statement (.transitAnd) := encoded _
theorem Encoded.transitOr : Encoded.Statement (.transitOr) := encoded _
theorem Encoded.transitXor : Encoded.Statement (.transitXor) := encoded _
theorem Encoded.transitShl : Encoded.Statement (.transitShl) := encoded _
theorem Encoded.transitShr : Encoded.Statement (.transitShr) := encoded _
theorem Encoded.ceq : Encoded.Statement (.ceq) := encoded _
theorem Encoded.clt : Encoded.Statement (.clt) := encoded _
theorem Encoded.cltu : Encoded.Statement (.cltu) := encoded _
theorem Encoded.wpld : Encoded.Statement (.wpld) := encoded _
theorem Encoded.wpst : Encoded.Statement (.wpst) := encoded _
theorem Encoded.wpadd : Encoded.Statement (.wpadd) := encoded _
theorem Encoded.wpclm : Encoded.Statement (.wpclm) := encoded _
theorem Encoded.dlvr : Encoded.Statement (.dlvr) := encoded _
theorem Encoded.kill : Encoded.Statement (.kill) := encoded _

end Sys2Proof.Laws
end

