-- ==== Sys2Proof/Tests/Slice0.lean ====
section
/-! SUPPORT. Tests: instructions that the encodings refuse, words written out from the spec that decode, small results worked out by
hand, and for every statement with hypotheses a state and operands that meet them together. -/

namespace Sys2Proof.Tests

open Sys2Proof Sys2Proof.Machine Sys2Proof.Claims

set_option Elab.async false

/-! ## States -/

/-- Core 0 runs a task of tenant 3 at privilege 1, every register full: scalar i holds i, and every lane of vector i holds i. -/
def busy : State :=
  State.reset.onCore fun c => { c with
    running := some { tenant := 3, handle := 7, savea := 0x20000 }
    ctx := { c.ctx with
      s := Vector.ofFn fun i => BitVec.ofNat 64 i.val
      v := Vector.ofFn fun i => BitVec.ofNat 1024 (i.val * 0x100000001)
      p := 0xF
      pc := 0x10000
      cr := (c.ctx.cr.put crHSTAT 4).put crTENANT 3 } }

/-- `busy` with a scalar register set. -/
def busyS (i : BitVec 6) (v : Word) (s : State := busy) : State := s.onCore fun c => { c with ctx := c.ctx.wrS i v }
/-- `busy` with a vector register set. -/
def busyV (i : BitVec 5) (v : Vec) (s : State := busy) : State := s.onCore fun c => { c with ctx := c.ctx.wrV i v }
/-- A state with a control register of core 0 set. -/
def busyCr (i : BitVec 5) (v : Word) (s : State := busy) : State := s.onCore fun c => c.setCreg i v

/-- `busy` with the input latches of every port of the core's depth set: a, b and c to the numbers, the mode latch to `m`. -/
def latched (a b c : Vec) (m : BitVec 32) (s : State := busy) : State :=
  s.onCore fun k => { k with banks := k.banks.put k.depth (RF.fill { a := some a, b := some b, c := some c, m := m, y := .val 0 }) }

/-- `busy` with translations of a large page for the supervisor and for the tenant to package memory, one of the supervisor's to the
device registers, and a window of the tenant over package memory. -/
def mapped (s : State := busy) : State :=
  let es : List TlbEntry := [
    { owner := 32, va := 2 ^ 56, bits := 21, pa := 0, x := true, w := true, nc := false },
    { owner := 3, va := 0, bits := 21, pa := 0, x := true, w := true, nc := false },
    { owner := 32, va := 2 ^ 56 + 2 ^ 30, bits := 21, pa := devBase, x := false, w := true, nc := true }]
  ((s.setReg (tenantBlock 3 + 0x100) 0).setReg (tenantBlock 3 + 0x108) (BitVec.ofNat 64 (2 ^ 63 + 2 ^ 62 + 0x7FFFFF * 65536))).withMem fun m =>
    { m with tlb := [(0, es), (255, es)] }

/-! ## Whether an operation issues -/

/-- Whether no check has failed at a core, none of its registers is uncorrectable of itself, and its tag table is correct. -/
def sound (c : Core) : Bool := c.check.isNone && c.tags.all (fun t => !t.own) && c.tagBad.isEmpty

/-- A sound core meets the statements' hypotheses on failed checks and uncorrectable registers. -/
theorem sound_spec {c : Core} (h : sound c = true) : c.check = none ∧ (∀ r, c.ownBad r = false) ∧ ModesSound c ∧ c.tagSpoiled = false := by
  simp only [sound, Bool.and_eq_true, List.all_eq_true, Bool.not_eq_true', Option.isNone_iff_eq_none, List.isEmpty_iff] at h
  have own : ∀ r, c.ownBad r = false := fun r => by
    simp only [Core.ownBad, List.any_eq_false, Bool.and_eq_true, not_and, Bool.not_eq_true]
    exact fun t ht _ => h.1.2 t ht
  exact ⟨h.1.1, own, fun i _ => own _, by simp [Core.tagSpoiled, h.2]⟩

/-- Whether an operation issues on the current core with a mode and operands of which `ok` holds; the core is sound. -/
def meets (i : Instr) (use : Use) (s : State) (ok : OpRow → Form → Args → Bool := fun _ _ _ => true) : Bool :=
  match opRow i with
  | some (row, f) =>
    let x := fetchArgs row use f s.core
    formOk row f && s.core.guardOf f && !x.block && x.conds.isEmpty && s.core.overrunFound.isEmpty && sound s.core && ok row f x
  | none => false

/-- Where `meets` holds, the hypothesis `Issues` of the statements holds of the same state and operands, together with `ok`. -/
theorem issues_of_meets {i : Instr} {use : Use} {s : State} {ok : OpRow → Form → Args → Bool} (h : meets i use s ok = true) :
    ∃ row f x, Issues i use s row f x ∧ ok row f x = true := by
  unfold meets at h
  split at h
  · rename_i row f he
    simp only [Bool.and_eq_true, Bool.not_eq_true', List.isEmpty_iff] at h
    exact ⟨row, f, _, ⟨he, h.1.1.1.1.1.1, h.1.1.1.1.1.2, rfl, h.1.1.1.1.2, h.1.1.1.2, h.1.1.2, (sound_spec h.1.2).1⟩, h.2⟩
  · cases h

/-- A native word of slot 0 in format SR: s5 from s6 and s7. -/
def sr : Form := .nat 0 0 0 (.sr 5 6 7 0)
/-- The same with the immediate -1 for b. -/
def srImm : Form := .nat 0 0 0 (.sr 5 6 0x7F 1)
/-- The same without b. -/
def srA : Form := .nat 0 0 0 (.sr 5 6 0 0)
/-- The Wyilo trigger of unit 0. -/
def wy : Form := .wy 0

theorem witness_scalar_operations : (scalarOps.all fun op => meets (op sr) {} busy && meets (op srImm) {} busy &&
    meets (op wy) {} (latched 9 5 3 0)) = true := by decide +kernel

theorem issues_somewhere : ∃ row f x, Issues (.add sr) {} busy row f x ∧ decide (x.a64 = 6 ∧ x.b64 = 7) = true :=
  issues_of_meets (by decide +kernel)

theorem witness_DivisionCornersAreFixed :
    ([Instr.div, .divu, .rem, .remu].all fun op =>
      meets (op srImm) {} (busyS 6 0x8000000000000000) (fun _ _ x => x.a64 == 0x8000000000000000 && x.b64 == 0xFFFFFFFFFFFFFFFF) &&
      meets (op sr) {} (busyS 7 0) (fun _ _ x => x.b64 == 0) && meets (op wy) {} (latched 9 0 3 0) (fun _ _ x => x.b64 == 0)) = true ∧
    meets (.iabs srA) { b := noB } (busyS 6 0x8000000000000000) (fun _ _ x => x.a64 == 0x8000000000000000) = true := by decide +kernel

theorem witness_IntegerOperations :
    ([Instr.mulh, .mulhu, .div, .divu, .rem, .remu].all fun op => meets (op sr) {} busy fun _ _ x => x.b64 != 0) = true ∧
    meets (.iabs srA) { b := noB } busy = true ∧
    meets (.lea wy) { c := true } (latched 9 5 3 0) = true ∧ meets (.sel wy) { c := true } (latched 9 5 3 0) = true ∧
    meets (.lea (.nat 0 0 0 (.sp 5 6 7 3))) { c := true } busy (fun _ _ x => x.c64 == 3) = true ∧
    meets (.sel (.nat 0 0 0 (.sp 5 6 7 2))) { c := true } busy (fun _ _ x => x.c64 == 1) = true := by decide +kernel

theorem witness_LogicAndShifts :
    ([Instr.bitAnd, .bitOr, .bitXor, .shl, .shr, .sar, .rotr].all fun op => meets (op sr) {} busy &&
      meets (op srImm) {} busy (fun _ _ x => x.b64 == 0xFFFFFFFFFFFFFFFF)) = true := by decide +kernel

theorem witness_FieldsCountsAndCompares :
    ([Instr.extu, .exts].all fun op => meets (op sr) (readsField sr) busy && meets (op wy) (readsField wy) (latched 9 5 3 0)) = true ∧
    meets (.insf sr) (readsInsert sr) busy = true ∧ meets (.insf wy) (readsInsert wy) (latched 9 5 3 0) = true ∧
    ((List.range 3).all fun k => meets (.cnt (.nat 0 0 0 (.sr 5 6 (BitVec.ofNat 7 k) 1))) {} busy
      (fun _ _ x => x.b64.toNat % 256 == k)) = true ∧
    meets (.cnt wy) {} (latched 9 3 0 0) (fun _ _ x => 2 < x.b64.toNat % 256) = true ∧
    meets (.bswap srA) { b := noB } busy = true ∧
    ((List.range 8).all fun k => meets (.cmp wy) {} (latched 9 5 0 (BitVec.ofNat 32 (k * 2 ^ 16)))
      (fun _ _ x => x.m.toNat / 2 ^ 16 % 8 == k)) = true ∧
    ([(0 : BitVec 2), 1, 2].all fun cc => meets (.cmpn (.nat 0 0 0 (.sk 3 cc 4 5 0))) {} busy &&
      meets (.cmp (.nat 0 0 0 (.sk 3 cc 4 5 0))) {} busy (fun _ _ x => decide (x.m.toNat / 2 ^ 16 % 8 < 6))) = true := by
  decide +kernel

theorem witness_OperandFieldsAreRead :
    ((latched 9 5 3 0).core.port (portIx .INT 0)).a = some 9 ∧ ((latched 9 5 3 0).core.port (portIx .INT 0)).b = some 5 ∧
    (busy.core.port (portIx .INT 0)).b = none := by decide +kernel

/-- The operands of the addition of 6 and 7 in native code, and in Wyilo. -/
theorem witness_ResultsArriveAfterTheirLatency :
    meets (.add sr) {} busy (fun _ _ x => x.nat && busy.core.pend.isEmpty && busy.core.outst.isEmpty) = true ∧
    meets (.add wy) {} (latched 9 5 3 0) (fun _ _ x => !x.nat) = true := by decide +kernel

theorem witness_HardWiredRegisters : (5 : BitVec 6) ≠ 0 ∧ (6 : BitVec 6) ≠ 5 ∧ (3 : BitVec 4) ≠ 0 ∧ (2 : BitVec 4) ≠ 3 := by decide

/-- `busy` with s6 empty, and with the tags of s6 and v2 set. -/
def emptied : State := busy.onCore fun c => { c with ctx := { c.ctx with sfull := ~~~0x40 } }
def tagged : State := busy.onCore fun c => { c with tags := [⟨.s 6, 0x4440, false⟩, ⟨.v 2, 0x5550, false⟩] }

theorem witness_GuardsHoldsAndTags :
    busy.core.guardOf (.nat 0 0 4 (.sr 5 6 7 0)) = false ∧ formOk ⟨.INT, 4, 0x1, 0, 1, .sr .sreg true .any⟩ (.nat 0 0 4 (.sr 5 6 7 0)) = true ∧
    (scalarOps.all fun op => [(6 : BitVec 7), 0x46].all fun a => match opRow (op (.nat 0 0 0 (.sr 5 a 7 1))) with
      | some (row, f) => formOk row f && emptied.core.guardOf f && !emptied.core.ctx.fullS (a.setWidth 6) &&
          !emptied.core.outstanding (.s 5) && emptied.core.overrunFound.isEmpty
      | none => false) = true ∧
    formOk ⟨.BIT, 5, 0x19, 0, 1, .sr .sreg true .any⟩ (.nat 0 0 0 (.sr 5 6 0 0)) = true ∧
    formOk ⟨.BIT, 4, 0x18, 0, 1, .sr .sreg true .any⟩ (.nat 0 0 0 (.sr 5 6 0 0)) = true ∧
    formOk ⟨.VAI, 12, 0x9, 0, 1, .v .intg true⟩ (.nat 2 0 0 (.vr 1 2 32 0)) = true ∧
    tagged.core.guardOf (.nat 0 0 0 (.sr 5 6 0 0)) = true ∧ tagged.core.guardOf (.nat 2 0 0 (.vr 1 2 32 0)) = true ∧
    tagged.core.ctx.fullS 6 = true ∧ tagged.core.ctx.fullV 2 = true ∧ tagged.core.outstanding (.s 5) = false ∧
    tagged.core.outstanding (.v 1) = false ∧ tagged.core.overrunFound = [] ∧ tagged.core.tagOf (.s 0) = none ∧
    tagged.core.tagOf (.s 6) = some 0x4440 ∧ tagged.core.tagOf (.v 2) = some 0x5550 ∧ tagConds tagged.core (.s 0) 1 = [] ∧
    tagged.core.ownBad (.s 6) = false ∧ tagged.core.ownBad (.v 2) = false := by decide +kernel

/-- `mapped` with a code object of 64 words at 0x10000 whose regions start at words 0, 8 and 32. -/
def coded (s : State := mapped) : State :=
  { s with plat := { s.plat with objects := [{ code := 3 <<< 43, text := 0x10000, words := 64, regions := [0, 8, 32] }] } }

/-- `coded` with a native image at 0x40 and the core in the bundle `k` of its first sheet. -/
def native (k : Nat) : State :=
  let s := coded
  let s := { s with plat := { s.plat with images := [{ die := 0, code := 3 <<< 43, pin := false, base := 0x40, text := 0x10000, sheets := [
    { vent := 0, ngrp := 3, loop := false, nent := 0, nbs := 3, exits := [] },
    { vent := 0x20, ngrp := 3, loop := false, nent := 3, nbs := 1, exits := [] }] }] } }
  s.onCore fun c => c.openSheet [] (some k) false

/-- `coded` with an open text sheet of three words. -/
def text (s : State := coded) : State := s.onCore fun c => c.openSheet [0, 0, 0] none false

theorem witness_TransfersContinueAtTheirTarget :
    ([Instr.jmp, .ret].all fun op =>
      meets (op (.nat 0 0 0 (.sr 0 6 0 0))) (readsTarget false (.nat 0 0 0 (.sr 0 6 0 0))) (busyS 6 0x10020 coded)
        (fun _ f x => coded.targetOk 3 (targetOfJump f x)) &&
      meets (op wy) (readsTarget false wy) (latched 0x10000 0 0 0 coded) (fun _ f x => coded.targetOk 3 (targetOfJump f x))) = true ∧
    meets (.br wy) (readsTarget false wy) (latched 0x10080 0 0 0 coded) (fun _ _ x => coded.targetOk 3 x.a64) = true ∧
    meets (.callr (.nat 0 0 0 (.sr 62 6 0 0))) (readsTarget true (.nat 0 0 0 (.sr 62 6 0 0))) (busyS 6 0x10020 coded)
      (fun _ f x => coded.targetOk 3 (targetOfJump f x)) = true ∧
    meets (.call wy) (readsTarget true wy) (latched 0x10080 62 0 0 coded) (fun _ _ x => coded.targetOk 3 x.a64) = true ∧
    meets (.jmp wy) (readsTarget false wy) (latched 0x10004 0 0 0 coded) (fun _ f x => !coded.targetOk 3 (targetOfJump f x)) = true ∧
    (native 1).nativeSheet 0 ≠ none ∧ meets (.br (.nat 0 0 0 (.sb 1))) { b := noB } (native 1) = true ∧
    meets (.call (.nat 0 0 0 (.sd 62 0x7FFF))) { b := noB } (native 1) = true ∧
    (∃ sh, (text.coreAt 0).sheet = some sh ∧ sh.bundle = none ∧ sh.entry.toNat ≤ 0x10008 ∧ 0x10008 < sh.entry.toNat + 4 * sh.text.length) ∧
    (∃ sh, (text.coreAt 0).sheet = some sh ∧ ¬ 0x10020 < sh.entry.toNat + 4 * sh.text.length) := by
  refine ⟨by decide +kernel, by decide +kernel, by decide +kernel, by decide +kernel, by decide +kernel, by decide +kernel,
    by decide +kernel, by decide +kernel, ⟨_, rfl, by decide +kernel⟩, ⟨_, rfl, by decide +kernel⟩⟩

/-- The operands of a Wyilo loop on engine 1 with its first stage predicate at `pb`, `n` stages and count `a`. -/
def loopAt (a : Vec) (pb n : Nat) : State := latched a (BitVec.ofNat 1024 (1 + 4 * pb + 64 * (n - 1))) 0 0 coded
/-- Its engine 1 already active. -/
def looping (s : State) : State :=
  s.onCore fun c => { c with ctx := { c.ctx with lc := c.ctx.lc.put 1 ((5 <<< 96) ||| ((0x10020 >>> 2) <<< 41) ||| (3 <<< 32) ||| (1 <<< 28) ||| (2 <<< 24) ||| 1), loops := [1] } }

theorem witness_LoopsStartAndExit :
    ([(1, 1), (15, 1), (1, 8), (8, 8)].all fun p => [(1 : Vec), 2 ^ 32 - 1].all fun a =>
      meets (.loop wy) {} (loopAt a p.1 p.2) fun _ _ x => !lcAct ((loopAt a p.1 p.2).core.ctx.lc.get (loopEngine x)) && loopPB x == p.1 &&
        loopStages x == p.2 && decide (x.a64.toNat < 2 ^ 32) && x.a64 != 0) = true ∧
    (loopAt 1 1 1).nativeSheet 0 = none ∧ (loopAt 1 1 1).core.preempt = false ∧
    meets (.loop wy) {} (looping (loopAt 4 1 2)) (fun _ _ x => lcAct ((looping (loopAt 4 1 2)).core.ctx.lc.get (loopEngine x)) &&
      loopPB x == 1 && loopStages x == 2 && decide (x.a64.toNat < 2 ^ 32)) = true ∧
    ([(0, 1), (15, 2)].all fun p => meets (.loop wy) {} (loopAt 4 p.1 p.2) fun _ _ x => loopPB x == p.1 && loopStages x == p.2) = true ∧
    meets (.loop wy) {} (loopAt (2 ^ 32) 1 1) (fun _ _ x => decide (2 ^ 32 ≤ x.a64.toNat) && loopPB x != 0) = true ∧
    meets (.lexit wy) { a := false, b := noB } (looping (latched 0 0 0 0 coded)) = true ∧
    (looping (latched 0 0 0 0 coded)).core.ctx.loops = [1] ∧
    meets (.lexit wy) { a := false, b := noB } (latched 0 0 0 0 coded) = true ∧ (latched 0 0 0 0 coded).core.ctx.loops = [] := by decide +kernel

/-- A launch record of handle 7 with one task, at an entry of the code object, and the launch that it makes. -/
def record : BitVec 1024 := (7 <<< 128) ||| (1 <<< 184) ||| (0x10000 <<< 64) ||| (3 <<< 43)
def launch : Launch := { tenant := 3, queue := 1, index := 0, order := 4, rec_ := record, deps := 0, taken := true, next := 1, live := 1 }
/-- `coded` with that launch. -/
def launched (s : State := coded) : State := { s with dist := { s.dist with launches := [launch], order := 5 } }

/-- Whether a translation or a read gave a value. -/
def isOk {a e : Type} : Except e a → Bool | .ok _ => true | .error _ => false

theorem witness_TasksLeaveAndSpawn :
    meets (.exit wy) { a := false, b := noB } (latched 0 0 0 0) = true ∧
    meets (.exit (.nat 0 0 0 (.sr 0 0 0 0))) { a := false, b := noB } busy = true ∧
    ([Instr.susp, .spawn].all fun op => meets (op wy) (useRecord wy) (latched 0x240 0 0 0 launched) fun _ f x =>
      (recordAddr f x).toNat % 64 == 0 && (match translateRange launched 0 3 true (recordAddr f x) 64 .rw with
        | .ok (_ :: rest, _) => rest.isEmpty | _ => false)) = true ∧
    launched.core.taggedLive = none ∧ (∀ i, lcAct (launched.core.ctx.lc.get i) = false) ∧
    (∃ i, lcAct ((looping launched).core.ctx.lc.get i) = true) ∧ (looping launched).core.taggedLive = none ∧
    meets (.susp wy) (useRecord wy) (looping (latched 0x240 0 0 0 launched)) = true ∧
    (match launched.readRecord 0 0x240 with | .ok (some (_, v, none)) => launched.spawnOk 0 v | _ => false) = true ∧
    meets (.spawn wy) (useRecord wy) (latched 0x248 0 0 0 launched) (fun _ f x => (recordAddr f x).toNat % 64 != 0) = true ∧
    busy.core.running.isSome = true ∧ busy.mayLeave 0 = true ∧ busy.cores.any (fun kc => !kc.2.copyQ.isEmpty) = false ∧
    busy.core.tags = [] ∧ busy.core.depth = 0 ∧ busy.core.l1 = [] := by decide +kernel

theorem witness_ControlRegistersReadAndWrite :
    meets (.crrd wy) (readsNumber wy) (latched 0x44 0 0 0) (fun _ f x => numberOf f x == 0x44) = true ∧
    meets (.crrd (.nat 0 0 0 (.sc 0x45 0 5))) (readsNumber (.nat 0 0 0 (.sc 0x45 0 5))) busy (fun _ f x => numberOf f x == 0x45) = true ∧
    crDefined 0x16 ∧ crDefined 0x40 ∧ crDefined 0x44 ∧ ¬ crDefined 0x17 ∧ ¬ crDefined 0x3F ∧ ¬ crDefined 0x45 ∧
    meets (.crrd wy) (readsNumber wy) (latched 0x42 0 0 0) (fun _ f x => numberOf f x == 0x42) = true ∧ busy.core.accAbsent = false ∧ busy.core.mxBad = [] ∧ (busyCr crSAVEA 0x80).core.mxBad = [] ∧
    (busyCr crSAVEA 0x80).core.accAbsent = true ∧
    (wholeCrs.all fun i => [Instr.crwr, .crset, .sysCrclr].all fun op =>
      meets (op wy) {} (latched 0x55 (i.setWidth 1024) 0 0 (busyCr crHSTAT 5)) fun _ _ x => x.b64.setWidth 8 == i) = true ∧
    mayWriteCr (busyCr crHSTAT 5).core 0x14 ∧ mayWriteCr (busyCr crHSTAT 5).core 0x41 ∧
    (((0x02 : BitVec 8) :: 0x03 :: deviceCrs).all fun i =>
      meets (.crwr (.nat 0 0 0 (.sc i 6 0))) {} busy fun _ _ x => x.b64.setWidth 8 == i) = true ∧
    ¬ mayWriteCr (busyCr crHSTAT 0).core 0x14 ∧ ¬ mayWriteCr (busyCr crHSTAT 0).core 0x06 := by
  refine ⟨by decide +kernel, by decide +kernel, .inl (by decide), .inr (by decide), .inr (by decide), by unfold crDefined; decide,
    by unfold crDefined; decide, by unfold crDefined; decide, by decide +kernel,
    by decide +kernel, by decide +kernel, by decide +kernel, by decide +kernel, by decide +kernel, ⟨fun _ => by decide +kernel, fun _ => by decide +kernel⟩,
    ⟨fun _ => by decide +kernel, fun _ => by decide +kernel⟩, by decide +kernel, ?_, ?_⟩
  · exact fun h => absurd (h.1 (by decide)) (by decide +kernel)
  · exact fun h => absurd (h.2 (by decide)) (by decide +kernel)

theorem witness_SoftwareTrapFollowsItsGroup :
    meets (.trap (.nat 0 0 0 (.sg 128 0))) (readsNumber (.nat 0 0 0 (.sg 128 0))) busy (fun _ f x => numberOf f x == 128) = true ∧
    meets (.trap wy) (readsNumber wy) (latched 5 0 0 0) (fun _ f x => numberOf f x == 5) = true ∧
    busy.core.running.isSome = true ∧ busy.core.leaving = .none := by decide +kernel

/-- `mapped` with a frame base and trap vectors, and a pending arithmetic trap; one with a result still on its way. -/
def trapping : State :=
  (busyCr crTFBASE 0x30000 (busyCr crTVEC 0x10000 (busyCr crSVEC 0x100000000010000 mapped))).onCore fun c =>
    { c with pendTrap := some { sup := false, cls := 0x15, code := 1, tvpc := 0x10004, tslot := 1, tinfo := 9, tmove := 0x400 } }
def landing : State := trapping.onCore fun c => { c with pend := [{ due := 9, dst := .s 5, val := 1, flags := 0 }] }

theorem witness_TrapEntrySavesState :
    coreOk 0 = true ∧ trapping.alive 0 = true ∧ (∃ t, (trapping.coreAt 0).pendTrap = some t ∧ t.cls ≠ 0x30 ∧ t.cls ≠ 0x42 ∧
      trapping.faultHeld 0 t = false) ∧
    (trapping.coreAt 0).outst = [] ∧ (trapping.coreAt 0).pend = [] ∧ (trapping.coreAt 0).depth.toNat < 2 ∧
    (match trapping.ctxStore 0 ((trapping.coreAt 0).creg crTFBASE) (trapping.coreAt 0).frame with
      | .ok (some _) => true | _ => false) = true ∧
    landing.alive 0 = true ∧ (landing.coreAt 0).pendTrap ≠ none ∧ (landing.coreAt 0).pend ≠ [] := by
  refine ⟨by decide, by decide +kernel, ⟨_, rfl, by decide, by decide, by decide +kernel⟩, by decide +kernel, by decide +kernel,
    by decide +kernel, by decide +kernel, by decide +kernel, by decide +kernel, by decide +kernel⟩

/-- A handler at depth 1 that returns to where its task began. -/
def handler : State := busyCr crTVPC 0x10000 (busyCr crTFBASE 0x30000 (busyCr crHSTAT 5 mapped)) |>.onCore fun c =>
  { c with entryPc := c.entryPc.put 0 0x10000 }

theorem witness_TrapReturnRestoresItsFrame :
    meets (.tret (.nat 0 0 0 (.sg 0 0))) { a := false, b := noB } busy (fun _ _ _ => busy.core.depth == 0) = true ∧
    meets (.tret (.nat 0 0 0 (.sg 0 0))) { a := false, b := noB } handler = true ∧ handler.core.depth = 1 ∧
    handler.core.creg crTVPC = handler.core.entryPc.get 0 ∧ handler.core.sheets = RF.fill none ∧
    (handler.trapReturn 0).isSome = true ∧
    (match (handler.onCore Core.beginIssue).ctxLoad 0 0x30000 128 with
      | .ok (some (s1, _)) => (match s1.ctxLoad 0 (0x30000 + 128) 128 with | .ok (some _) => true | _ => false)
      | _ => false) = true := by decide +kernel

theorem witness_IssueTimesHoldTheNextBundle :
    ([Instr.issueat, .timeat].all fun op => meets (op (.nat 0 0 0 (.sg 0 6))) { b := noB } busy &&
      meets (op wy) { b := noB } (latched (2 ^ 64 - 1) 0 0 0)) = true ∧
    meets (.frmwait (.nat 0 0 0 (.sg 255 0))) (readsNumber (.nat 0 0 0 (.sg 255 0))) busy = true ∧
    meets (.mark (.nat 0 0 0 (.sg 7 6))) {} busy = true := by decide +kernel

/-- `mapped` with every page non-cacheable. -/
def uncached : State := mapped.withMem fun m =>
  { m with tlb := m.tlb.map fun x => (x.1, x.2.map fun e => { e with nc := true }) }

theorem witness_MatrixStateSpillsAndFills :
    ([Instr.accsp, .msps, .accfl, .msfl].all fun op => meets (op wy) { b := noB } (latched 0x1000 0 0 0 mapped) fun _ _ x =>
      x.a64.toNat % 64 == 0 && x.a64 != 0 && decide (x.a64.toNat + 4096 ≤ 2 ^ 57) && mapped.core.priv) = true ∧
    isOk (translateRange mapped 0 3 true 0x1000 4096 .write) = true ∧ isOk (translateRange mapped 0 3 true 0x1000 64 .write) = true ∧
    ([Instr.accsp, .msps].all fun op => meets (op wy) { b := noB } (latched 0x1000 0 0 0 (busyCr crHSTAT 0)) fun _ _ x =>
      x.a64.toNat % 64 == 0 && !(busyCr crHSTAT 0).core.priv) = true ∧
    ([Instr.accfl, .msfl].all fun op => meets (op wy) { b := noB } (latched 0 0 0 0) fun _ _ x => x.a64 == 0 && busy.core.priv) = true ∧
    (let d := readBlocks uncached 0x1000 128 (List.range 32); d.page.isNone && !d.held && d.bad.isNone && d.data.length == 32) = true ∧
    (let d := readBlocks mapped 0x1000 64 [0]; d.page.isNone && !d.held && d.bad.isNone && d.data.length == 1) = true ∧
    mapped.core.mxBad = [] ∧ spillConds mapped.core = [] ∧ (busyCr crHSTAT 0).core.mxBad = [] ∧
    spillConds (busyCr crHSTAT 0).core = [] := by decide +kernel

/-! ## Lanes and the matrix array -/

/-- Whether a mode is admitted, as `ModeOk` says it. -/
def admits (k : VKind) (rounds : Bool) (s : State) (x : Args) : Bool :=
  etOk k (BitVec.ofNat 4 (mET x.m)) && mW x.m != 3 &&
    (!rounds || (mRM x.m != 5 && mRM x.m != 6 && (mRM x.m != 7 || decide (s.core.fmodeRm.toNat < 5)) && sound s.core))

theorem modeOk_of_admits {k : VKind} {rounds : Bool} {s : State} {x : Args} (h : admits k rounds s x = true) :
    ModeOk s.core k rounds x := by
  simp only [admits, Bool.and_eq_true, Bool.or_eq_true, Bool.not_eq_true', bne_iff_ne, decide_eq_true_eq] at h
  refine ⟨h.1.1, h.1.2, fun hr => ?_⟩
  rcases h.2 with h2 | ⟨⟨⟨h5, h6⟩, h7⟩, h8⟩
  · simp_all
  · exact ⟨h5, h6, fun h => by simp_all, (sound_spec h8).2.2.1⟩

/-- A vector word of slot 2 in format VR, and one in format VX of element type `et` that masks by k1 and merges. -/
def vr (t : BitVec 2) (b : BitVec 7 := 3) : Form := .nat 2 0 0 (.vr 4 2 b t)
def vx (et : BitVec 4) (b : BitVec 7 := 3) (rm : BitVec 3 := 0) : Form := .nat 2 0 0 (.vx 4 2 b 0 et 0 rm 1 1 1)

/-- Whether an operation issues natively in both formats, admitted and with the merge value read where it masks, and by a trigger. -/
def laneMeets (op : Form → Instr) (k : VKind) (rounds : Bool) (use : Use) (t : BitVec 2) (et : BitVec 4) (b : BitVec 7 := 3) : Bool :=
  meets (op (vr t b)) { use with base := useMerge } busy (fun _ _ x => admits k rounds busy x) &&
  meets (op (vx et b)) { use with base := useMerge } busy (fun _ _ x => admits k rounds busy x && mME x.m && mMRG x.m) &&
  meets (op wy) { use with base := useMerge } (latched 7 9 3 (et.setWidth 32)) (fun _ _ x => admits k rounds busy x)

theorem witness_IntegerLanes :
    ([Instr.vaiAdd, .vaiSub, .vaiMul, .vaiMulh, .vaiMin, .vaiMax, .vaiAnd, .vaiOr, .vaiXor].all fun op =>
      laneMeets op .intg false {} 0 14) = true ∧
    laneMeets .vaiAbs .intg false { b := noB } 3 5 0 = true := by decide +kernel

theorem witness_LaneShifts : ([Instr.vaiShl, .vaiShr, .vaiSar].all fun op => laneMeets op .intg false {} 2 7) = true := by decide +kernel

theorem witness_FloatingLanesRoundOnce :
    ([Instr.vfpAdd, .vfpSub, .vfpMul, .vfpScal].all fun op => laneMeets op .fltR true {} 0 2) = true ∧
    ([Instr.vfpFma, .vfpFms, .vfpFnma].all fun op => laneMeets op .fltR true { c := true } 1 0) = true := by decide +kernel

theorem witness_LanesAreComparedSelectedAndMoved :
    ([(Instr.vaiCmp, VKind.intg), (.vfpCmp, .flt)].all fun p => [(0 : BitVec 5), 8, 16, 24].all fun d =>
      meets (p.1 (.nat 2 0 0 (.vr (d + 1) 2 3 0))) {} busy (fun _ _ x => admits p.2 false busy x && x.m.toNat / 2 ^ 16 % 4 == d.toNat / 8)) = true ∧
    ([Instr.vfpMin, .vfpMax, .vfpCpsgn].all fun op => laneMeets op .flt false {} 0 1) = true ∧
    ([Instr.vfpAbs, .vfpNeg].all fun op => laneMeets op .flt false { b := noB } 0 1 0) = true ∧
    laneMeets .vfpRint .fltR true { b := noB } 0 1 0 = true ∧
    ([Instr.vperm, .vbcst, .vmatch].all fun op => laneMeets op .perm false {} 1 3) = true ∧
    ([Instr.vcmpr, .vexpd].all fun op => laneMeets op .perm false { b := noB } 1 3 0) = true := by decide +kernel

theorem witness_ReductionsScansAndConversions :
    ([Instr.vredsum, .vredmin, .vredmax].all fun op =>
      meets (op (vr 2 0)) { b := noB } busy (fun _ _ x => admits .red false busy x && decide (5 ≤ mET x.m))) = true ∧
    meets (.vredsum (vr 0 0)) { b := noB } busy (fun _ _ x => admits .red true busy x && decide (mET x.m < 3)) = true ∧
    meets (.vscan (vr 3 0)) { b := noB, base := useMerge } busy (fun _ _ x => admits .red false busy x && decide (5 ≤ mET x.m)) = true ∧
    meets (.vcvt (.nat 2 0 0 (.vx 4 2 0 0 5 0 0 1 1 0b110011))) { b := noB, base := useMerge } busy (fun _ _ x =>
      admits .cvt true busy x && decide (5 ≤ mET x.m) && mDT x.m == 9 && x.m.getLsbD 21 && etOk .cvt (BitVec.ofNat 4 (mDT x.m))) = true := by
  decide +kernel

theorem witness_QuantisingGroups :
    ((0 : BitVec 2) :: [1, 2, 3]).all (fun t =>
      let s := busyCr crQCFG 0x100
      let ok (x : Args) : Bool := admits .quant true s { x with m := x.m &&& 0xFFFFFFCF } && decide (quantGroup s.core * laneBits x ≤ 2048) &&
        !mME x.m && !s.core.accAbsent && !s.core.outstanding x.z
      meets (.vquant (vr t)) { b := fun c m => 1024 < quantGroup c * etBits (mET m) } s (fun _ _ x => ok x) &&
      s.core.mxBad.isEmpty && meets (.vdqnt (vr t)) {} s (fun _ _ x => ok x)) = true := by decide +kernel

theorem witness_SpecialFunctions :
    ([Instr.vexp2, .vlog2, .vrcp, .vrsqrt, .vsqrt, .vsinpi, .vcospi, .vtanh, .verf].all fun op => [(0 : BitVec 2), 1, 2].all fun t =>
      meets (op (.nat 4 0 0 (.vr 4 2 0 t))) { b := noB } busy (fun _ _ x => decide (mET x.m < 3) && mW x.m == 0 && !mME x.m)) = true ∧
    ((fmtBf16.decode 0x7FC1).isNan && (fmtBf16.decode 0xFF80).isInf && (fmtBf16.decode 0x8000).isZero && (fmtBf16.decode 0xBF80).sign) = true := by
  decide +kernel

/-- A matrix word of slot 5. -/
def xs (d : BitVec 5) (a : BitVec 7) : Form := .nat 5 0 0 (.xs d a)

theorem witness_MatrixStateOperations :
    ([busy, busyCr crSAVEA 0x80].all fun s =>
      ([Instr.mzero, .mstc].all fun op => meets (op (xs 0 0)) { a := false, b := noB } s) &&
      ([Instr.mcfgr, .mlgs].all fun op => meets (op (xs 4 0)) { a := false, b := noB } s) &&
      meets (.mcfg (xs 0 38)) { b := noB } s && meets (.mlgd (xs 0 2)) { b := noB } s &&
      meets (.mdrn (.nat 5 0 0 (.xr 4 31 0))) { b := noB } s && meets (.mfil (.nat 5 0 0 (.xr 0 31 2))) {} s &&
      meets (.mbeat (.nat 5 0 0 (.xb 2 3 0 0))) {} s (fun _ _ x =>
        [1, 2, 3, 4, 9, 10, 11, 12].contains (mET x.m) && decide (s.core.fmodeRm.toNat < 5))) = true ∧
    ([(0 : BitVec 5), 1].all fun p => meets (.mdsc (xs p 2)) {} (busyV 2 0x12300000000000000040) fun _ _ x =>
      x.a64.toNat % 16 == 0 && x.b64.getLsbD 0 == p.getLsbD 0) = true ∧
    meets (.mdsc (xs 0 2)) {} (busyV 2 0x48) (fun _ _ x => x.a64.toNat % 16 != 0) = true ∧
    busy.core.accAbsent = false ∧ busy.core.mxBad = [] ∧ (busyCr crSAVEA 0x80).core.mxBad = [] ∧
      (busyCr crSAVEA 0x80).core.aown ≠ (busyCr crSAVEA 0x80).core.creg crSAVEA := by decide +kernel

theorem witness_BeatsAccumulate :
    ((List.range 8).all fun t => [(0 : BitVec 1), 1].all fun cl => meets (.mbeat (.nat 5 0 0 (.xb 2 3 cl (BitVec.ofNat 3 t)))) {} busy
      fun _ _ x => [1, 2, 3, 4, 9, 10, 11, 12].contains (mET x.m) && x.m.getLsbD 16 == (cl == 1)) = true ∧
    busy.core.accAbsent = false ∧ busy.core.mxBad = [] ∧ busy.core.fmodeRm.toNat < 5 := by decide +kernel

/-- `busy` with descriptors of group 0 of both planes' tensor cached, and the given MCFG. -/
def grouped (m : Word) : State := busy.onCore fun c =>
  { c with mcfg := m, descCache := [⟨0, 0, List.replicate 32 0x0104⟩] }

theorem witness_GroupedBeatsUseDescriptors :
    ([(5 : BitVec 3), 7].all fun t => [(0 : Word), 3, 0x0001000000000000].all fun m => meets (.mbeatq (.nat 5 0 0 (.xb 2 3 0 t))) {} (grouped m)
      fun _ _ x => (mET x.m == 10 || mET x.m == 12) && decide (beatGroup m ≤ mcfgGpl m false) && decide (beatGroup m ≤ mcfgGpl m true) &&
        ((m.toNat % 4 == 3) == (m == 3)) && ((mcfgKpos m % (16 / etBits (mET x.m)) != 0) == (m != 0 && m != 3))) = true ∧
    (grouped 0).core.accAbsent = false ∧ (grouped 0).core.mxBad = [] ∧ (grouped 0).core.fmodeRm.toNat < 5 ∧
    (∃ da, (grouped 0).core.descOf false 0 = some da ∧ (grouped 0).core.descOf true 0 = some da) := by
  refine ⟨by decide +kernel, by decide +kernel, by decide +kernel, by decide +kernel, _, rfl, rfl⟩

theorem witness_RecombinedIntegerSumsAreClassical : (1 : Nat) ≤ 2 ∧ 31 < 32 ∧ (9 = 9 ∨ 9 = 10 ∨ 9 = 11 ∨ 9 = 12) := by decide

/-! ## Memory, scratchpad, streams, copies and fences -/

/-- A native word of slot 6 in format MA with s0 for b, and one in format MW that stores s9 or v9. -/
def ma (sub : BitVec 4) (d : BitVec 6 := 5) : Form := .nat 6 0 0 (.ma sub d 6 0 0)
def mw (sub : BitVec 4) : Form := .nat 6 0 0 (.mw sub 9 6 0)
/-- The long forms, with offset 8. -/
def me (sub : BitVec 4) : Form := .nat 6 0 0 (.me sub 5 6 8)
def my (sub : BitVec 4) : Form := .nat 6 0 0 (.my sub 9 6 8)

/-- Whether an access of `kind` at a + b has a size, is aligned and translates to `target`. -/
def reaches (s : State) (kind : AccKind) (target : Target) (x : Args) : Bool :=
  match accessSize x.m with
  | some (n, _) => (x.a64 + x.b64).toNat % (if x.m.getLsbD 16 then 16 else n) == 0 && decide ((x.a64 + x.b64).toNat + n ≤ 2 ^ 57) &&
      (match translateRange s s.cur s.core.tenant s.core.priv (x.a64 + x.b64) n kind with
        | .ok ([(pa, k, _)], _) => k == n && targetOf pa == target
        | _ => false)
  | none => false

/-- `mapped` with s6 the address of memory, and of a device register. -/
def pointing : State := busyS 6 0x2000 mapped
def atDevice : State := busyS 6 0x100000040000000 mapped

theorem witness_LoadsReadTheCoresView :
    ((List.range 10).all fun sub => meets (.ld (ma (BitVec.ofNat 4 sub))) {} pointing fun _ _ x => reaches pointing .read .package x) = true ∧
    meets (.ldLong (me 0)) {} pointing (fun _ _ x => reaches pointing .read .package x) = true ∧
    meets (.ld wy) {} (latched 0x2000 0 0 14 mapped) (fun _ _ x => reaches mapped .read .package x) = true ∧
    meets (.ld (ma 6)) {} atDevice (fun _ _ x => reaches atDevice .read .device x) = true ∧
    (performRead mapped 0 ⟨[⟨0x2000, 8, 0, false, 0x2000, false⟩], 0, none, none, none, none⟩).isSome = true := by decide +kernel

theorem witness_StoresWriteOnlyTheirBytes :
    ((List.range 7).all fun sub => meets (.st (mw (BitVec.ofNat 4 sub))) readsStore pointing fun _ _ x => reaches pointing .write .package x) = true ∧
    meets (.stLong (my 0)) readsStore pointing (fun _ _ x => reaches pointing .write .package x) = true ∧
    meets (.st wy) readsStore (latched 0x2000 0 9 14 mapped) (fun _ _ x => reaches mapped .write .package x) = true ∧
    Topmost mapped.core := by
  refine ⟨by decide +kernel, by decide +kernel, by decide +kernel, by decide +kernel, by decide +kernel, ?_⟩
  exact fun d hd => by revert d; decide +kernel

theorem witness_AccessFaultsStoreNothing :
    ([Instr.ld, .st].all fun op => meets (op wy) readsStore (latched 0x2000 0 9 15) fun _ _ x => accessSize x.m == none) = true ∧
    ([0x2001, 2 ^ 57, 0x300000].all fun a =>
      meets (.ld (ma 6)) {} (busyS 6 (BitVec.ofNat 64 a) mapped) (fun _ _ x => accessSize x.m == some (8, false) && x.a64.toNat == a) &&
      meets (.st (mw 3)) readsStore (busyS 6 (BitVec.ofNat 64 a) mapped) (fun _ _ x => accessSize x.m == some (8, false) && x.a64.toNat == a)) = true ∧
    isOk (translateRange mapped 0 3 true 0x300000 8 .read) = false ∧ isOk (translateRange mapped 0 3 true 0x300000 8 .write) = false := by
  decide +kernel

theorem witness_GathersAndScatters :
    ([(0 : BitVec 4), 1].all fun sub =>
      meets (.gath (.nat 6 0 0 (.mg sub 4 38 0))) { base := useMerge } (busyV 0 0 pointing) (fun _ _ x => (gatherBits x.m).isSome &&
        isOk (laneRuns pointing .read (((List.range 16).filter (laneActive pointing.core x.m)).map fun i =>
          (i, x.a64 + BitVec.ofInt 64 (laneI true 64 i x.b))))) &&
      meets (.scat (.nat 6 0 0 (.mw sub 9 6 0))) readsStore (busyV 0 0 pointing) (fun _ _ x => (gatherBits x.m).isSome &&
        isOk (laneRuns pointing .write (((List.range 16).filter (laneActive pointing.core x.m)).map fun i =>
          (i, x.a64 + BitVec.ofInt 64 (laneI true 64 i x.b)))))) = true := by decide +kernel

/-- Whether the scratchpad access of `x` is `Scratch`, to core 0 from core 0. -/
def scratchAt (x : Args) : Bool :=
  match scratchSize x.m with
  | some n => x.a64.toNat % (if n = 8 then 8 else 16) == 0 && decide (x.a64.toNat + n ≤ 2 ^ 20)
  | none => false

/-- `busy` with granule 512 of the scratchpad, at 0x2000, empty. -/
def emptyAt : State := busyS 6 0x2000 |>.onCore fun c => { c with emptyGran := [512] }

theorem witness_ScratchpadAndTagTable :
    ([Instr.ldsp, .ldrs].all fun op => [(0 : BitVec 2), 1, 2].all fun q => [(0 : BitVec 2), 1, 2, 3].all fun sz => [emptyAt, busyS 6 0x2000].all fun s =>
      meets (op (.nat 6 0 0 (.ms 5 6 q sz))) { b := noB } s (fun _ _ x => scratchAt x && scratchQ x.m == q)) = true ∧
    ([Instr.stsp, .strs].all fun op => [(0 : BitVec 2), 1, 2, 3].all fun sz =>
      meets (op (.nat 6 0 0 (.mu 9 6 sz))) {} emptyAt (fun _ _ x => scratchAt x)) = true ∧
    (emptyAt.coreAt 0).curTenant = some emptyAt.core.tenant ∧ emptyAt.scratchTag 0 0 0x2000 128 = none ∧
    emptyAt.mayMeet (.scratch 0) 0 = true ∧ emptyAt.core.committed = [] ∧
    emptyAt.granHolder 0 0 (granRange 0x2000 128) = none ∧ emptyAt.granFull 0 0 512 = false ∧ busy.granFull 0 0 512 = true ∧
    meets (.tagl (ma 0)) {} pointing (fun _ _ x => decide ((x.a64 + x.b64).toNat < 2 ^ 57)) = true ∧
    ([0, 255, 256].all fun i => meets (.tagw (mw 0)) {} (busyS 6 (BitVec.ofNat 64 i)) fun _ _ x => x.a64.toNat == i) = true ∧
    ([Instr.fes, .fec].all fun op => [0, 1, 2 ^ 20 - 0x2000].all fun n =>
      meets (op (.nat 6 0 0 (.mt 6 7 0 0))) {} (busyS 7 (BitVec.ofNat 64 n) pointing) fun _ _ x =>
        x.b64.toNat == n && decide (x.a64.toNat + x.b64.toNat ≤ 2 ^ 20)) = true := by decide +kernel

/-- A descriptor of a read stream of four elements of 8 bytes from the scratchpad's start; `busy` with stream 2 bound to it. -/
def descriptor : BitVec 256 := (8 <<< 64) ||| (3 <<< 160) ||| (1 <<< 209)
def bound : State := busy.onCore fun c => { c with ctx := { c.ctx with q := c.ctx.q.put 2 { desc := sdSetBound descriptor true, base := [0] } } }

theorem witness_StreamsBindAndFree :
    ([(busy, false), (bound, true)].all fun (s, b) => meets (.sbind (.nat 6 0 0 (.mq 2 2 0))) {} (busyV 2 (descriptor.setWidth 1024) s) fun _ _ x =>
      sdBound (s.core.ctx.q.get (x.b64.setWidth 3)).desc == b && bindReason s (x.a.setWidth 256) == none) = true ∧
    meets (.sbind wy) {} (latched (3 <<< 209) 2 0 0) (fun _ _ x => sdSpace (x.a.setWidth 256) == 3) = true ∧
    meets (.sbind wy) {} (latched ((9 <<< 224) ||| descriptor.setWidth 1024) 2 0 0) (fun _ _ x => sdSpace (x.a.setWidth 256) != 3 &&
      decide (sdTotal (x.a.setWidth 256) < 2 ^ 32) && decide (sdTotal (x.a.setWidth 256) ≤ sdPos (x.a.setWidth 256))) = true ∧
    ([busy, bound].all fun s => meets (.sfree (.nat 6 0 0 (.mq 2 0 0))) { b := noB } s && meets (.sstat (.nat 6 0 0 (.mq 2 0 5))) { b := noB } s && decide (s.core.streamHeld 2 ≤ 8)) = true ∧
    (3 : Nat) < sdCnt descriptor 0 ∧ (0 : Nat) < sdCnt descriptor 1 ∧ (0 : Nat) < sdCnt descriptor 2 := by decide +kernel

/-- A copy command from `src` to `dst` of a length between two spaces, with the fields of bits 164 up. -/
def command (src dst ssp dsp len fl : Nat) : BitVec 256 :=
  BitVec.ofNat 256 (src + dst * 2 ^ 64 + len * 2 ^ 128 + ssp * 2 ^ 160 + dsp * 2 ^ 162 + fl * 2 ^ 164)
/-- `mapped` with 16 copies queued. -/
def someCopy : CopyEntry := { cmd := 0, tenant := 3, handle := 7, owner := 0, armed := false }
def copying : State := mapped.onCore fun c => { c with copyQ := List.replicate 16 someCopy }
/-- A barrier of `mapped` with a count, and with FAIL. -/
def barred (p : BitVec 63) (fail : Bool) : State := mapped.onCore fun c => { c with bb := c.bb.put 4 { pending := p, fail := fail } }

/-- `mapped` with a gated copy bound to byte barrier 4. -/
def boundCopy : State := mapped.onCore fun c => c.gate (.copy { someCopy with cmd := command 0x100 0x4000 1 0 40 12 })

theorem witness_CopiesAndByteBarriers :
    ([(mapped, command 0x100 0x4000 1 0 40 8, 0), (mapped, command 0x100 0x800 1 1 40 12, 0), (copying, command 0x100 0x800 1 1 40 0, 0),
        (mapped, command 0x108 0x4000 1 0 40 8, 1)].all fun (s, d, bad) =>
      meets (.copy (.nat 6 0 0 (.mc 2))) { b := noB } (busyV 2 (d.setWidth 1024) s) fun _ _ x =>
        x.a.setWidth 256 == d && (copyChecks s 3 d).length == bad) = true ∧
    mapped.core.copiesOut < 16 ∧ 16 ≤ copying.core.copiesOut ∧
    ([0x2000, 0, 0x2008].all fun a => meets (.bbset (.nat 6 0 0 (.mn 4 6))) {} (busyS 6 (BitVec.ofNat 64 a)) fun _ _ x => x.a64.toNat == a) = true ∧
    ([barred 5 false, barred 0 false, barred 0 true].all fun s => meets (.bbwait (.nat 6 0 0 (.mn 4 0))) { b := noB } s && s.core.gatedAll.isEmpty) = true ∧
    meets (.bbwait (.nat 6 0 0 (.mn 4 0))) { b := noB } boundCopy (fun _ _ x => (boundCopy.core.gatedAll.any fun g =>
      match g with
      | .copy e => ccBbe e.cmd && ccBb e.cmd == x.a64.setWidth 3 && ccLen e.cmd != 0
      | _ => false) && (boundCopy.core.bb.get (x.a64.setWidth 3)).pending == 0) = true := by
  decide +kernel

/-- A core that awaits a read. -/
def awaiting : State := busy.onCore fun c => { c with outst := [{ dst := .s 9, awaits := .atomic false none }] }

theorem witness_MaintenanceFencesAndLocks :
    busy.core.pin = false ∧
    ([(Instr.cmnt, (.mt 6 7 2 1 : Fmt)), (.icinv, .mt 6 7 0 3), (.tculk, .mk 0 6 7)].all fun p => [0, 300].all fun n =>
      meets (p.1 (.nat 6 0 0 p.2)) {} (busyS 7 (BitVec.ofNat 64 n) pointing) fun _ _ x =>
        x.b64.toNat == n && (rangeConds pointing .read x.a64 x.b64.toNat).1.isEmpty && x.m.extractLsb' 16 2 != 3) = true ∧
    ([(1 : BitVec 2), 0, 2].all fun k => (List.range 5).all fun sc => meets (.fence (.nat 6 0 0 (.mf k (BitVec.ofNat 3 sc)))) { a := false, b := noB } busy &&
      meets (.fence (.nat 6 0 0 (.mf k (BitVec.ofNat 3 sc)))) { a := false, b := noB } awaiting) = true ∧
    meets (.fence wy) { a := false, b := noB } (latched 0 0 0 0x30000) = true ∧ meets (.fence wy) { a := false, b := noB } (latched 0 0 0 0x140000) = true ∧
    busy.awaiting 0 = false ∧ awaiting.awaiting 0 = true ∧
    ([0, 64].all fun n => meets (.tclk (.nat 6 0 0 (.mk 3 6 7))) {} (busyS 7 (BitVec.ofNat 64 n) pointing) fun _ _ x =>
      x.b64.toNat == n && (rangeConds pointing .fetch x.a64 x.b64.toNat).1.isEmpty) = true ∧
    (pointing.lockCode 0 0x2000 64).isSome = true ∧ ((pointing.setReg (atqOffset 0 3 + 8) 0x8000000000000000).lockCode 0 0x2000 64).isNone = true ∧
    pointing.core.sheet = none := by decide +kernel

/-! ## Atomics, counters, packets and moves -/

theorem witness_AtomicsAndTheirValues :
    (atomicOps.all fun p => [(0 : BitVec 6), 5].all fun d => [(0 : BitVec 1), 1].all fun z =>
      meets (p.1 (.nat 6 0 0 (.atm 0 d 6 7 z))) { c := p.2 == 0x3D } pointing fun _ _ x => match atomicForm p.2 x.m with
        | some (op, z) => x.a64.toNat % atomicBytes op z == 0 && decide (x.a64.toNat + atomicBytes op z ≤ 2 ^ 57) &&
            x.m.getLsbD 17 == (d == 0)
        | none => false) = true ∧
    (match translate mapped 0 3 true 0x2000 .rw with | .ok e => targetOf (e.phys 0x2000) == .package | _ => false) = true ∧
    (atomicOps.all fun p => meets (p.1 wy) { c := p.2 == 0x3D } (latched 0x2001 5 9 14 mapped) fun _ _ x => match atomicForm p.2 x.m with
      | some (op, z) => x.a64.toNat % atomicBytes op z != 0 | none => false) = true ∧
    (atomicOps.all fun p => meets (p.1 wy) { c := p.2 == 0x3D } (latched 0x2000 5 9 3 mapped) fun _ _ x => (atomicForm p.2 x.m).isNone) = true ∧
    (2 ^ 32 - 1 < 2 ^ (8 * atomicBytes 0x30 0) ∧ 2 ^ 64 - 1 < 2 ^ (8 * atomicBytes 0x30 1)) := by decide +kernel

/-- `busy` with counter 5 at 40 and two arms of it. -/
def counting : State := busy.onCore fun c => { c with
  dc := c.dc.put 5 40
  arms := c.arms.put 5 (((RF.fill {}).put 1 { armed := true, kind := 0, thr := 42, arg := 0x80 }).put 3 { armed := true, kind := 1, thr := 50, arg := 0x80 }) }

theorem witness_DeliveryCountersAndArms :
    ([40, 41].all fun v => meets (.dwait (.nat 1 0 0 (.sr 5 0 7 0))) (readsCounter (.nat 1 0 0 (.sr 5 0 7 0))) (busyS 7 (BitVec.ofNat 64 v) counting)
      fun _ f x => counterOf f x == 5 && (amountOf f x).toNat == v) = true ∧
    (counting.core.dc.get 5).toNat = 40 ∧ counting.core.pin = false ∧
    meets (.dread (.nat 1 0 0 (.sr 9 0 5 1))) (readsNumber (.nat 1 0 0 (.sr 9 0 5 1))) counting = true ∧
    ([Instr.dadd, .dset].all fun op => meets (op wy) (readsCounter wy) (latched 7 5 0 0 counting) fun _ f x => counterOf f x == 5) = true ∧
    ([0x80, 0x1000000000 + 2 ^ 34].all fun ctl => meets (.darm (.nat 1 0 0 (.sr 5 6 7 0))) { c := true } (busyS 6 0x80 (busyS 7 (BitVec.ofNat 64 ctl) counting))
      fun _ _ x => (darmConds counting x.a64 x.b64).isEmpty && x.b64.getLsbD 36 == decide (2 ^ 36 ≤ ctl)) = true ∧
    (let c := counting.core
     ((c.arms.get 5).get 1).armed = true ∧ ((c.arms.get 5).get 1).thr.toNat ≤ (c.dc.get 5 + 2).toNat ∧
     ¬ ((c.arms.get 5).get 3).thr.toNat ≤ (c.dc.get 5 + 2).toNat) := by decide +kernel

/-- A full send queue. -/
def sending : State := busy.onCore fun c => { c with sendQ := List.replicate 8 ⟨{}, none, 0, false⟩ }

theorem witness_PacketsAreBuiltAndSent :
    ([0x2000, 0x2040].all fun a => meets (.pbld (.nat 1 0 0 (.sr 4 6 7 0))) {} (busyS 6 (BitVec.ofNat 64 a) mapped)
      fun _ _ x => x.a64.toNat == a) = true ∧
    isOk (translateRange mapped 0 3 true 0x2000 128 .read) = true ∧ isOk (translateRange mapped 0 3 true 0x2040 128 .read) = true ∧
    ([busy, sending].all fun s => meets (.psend (.nat 1 0 0 (.sr 5 2 7 0))) { b := noB, c := true } (busyV 2 0 s) fun _ _ x =>
      (packetOf x.a).plenField == 0 && !(packetOf x.a).tbx.getLsbD 7 && (hdrFault (packetOf x.a)).isNone) = true ∧
    sending.core.sendQ.length = 8 ∧
    meets (.psend (.nat 1 0 0 (.sr 5 2 7 0))) { b := noB, c := true } (busyV 2 (1 <<< 240)) (fun _ _ x =>
      (packetOf x.a).plenField == 0 && !(packetOf x.a).tbx.getLsbD 7 && hdrFault (packetOf x.a) == some 30) = true := by decide +kernel

theorem witness_MovesWriteTheirDestination :
    MoveReads busy 1 0 0 5 (.moveRegister 1 0 0 5 6) 1 6 ∧ MoveReads busy 1 0 0 5 (.moveImmediate12 1 0 0 5 0xFFF) 1 (-1) ∧
    MoveReads busy 0 0 0 5 (.moveImmediate32 0 0 0 5 0x80000000) 2 0xFFFFFFFF80000000 ∧
    MoveReads busy 1 0 4 5 (.moveImmediate64 1 0 4 5 77) 3 77 ∧
    WellFormed (.moveRegister 1 0 0 5 6) = true ∧ WellFormed (.moveImmediate12 1 0 0 5 0xFFF) = true ∧
    WellFormed (.moveImmediate32 0 0 0 5 0x80000000) = true ∧ WellFormed (.moveImmediate64 1 0 4 5 77) = true ∧
    busy.core.ownBad (.p 0) = false ∧ busy.core.ownBad (.p 4) = false ∧ busy.core.ownBad (.s 6) = false ∧ busy.core.sheet = none ∧
    busy.core.group = [] ∧ busy.holdsNext busy.core = false ∧ busy.core.breakpoint = none ∧ busy.core.pend = [] ∧
    busy.core.overrunFound = [] ∧ busy.core.outstanding (.s 5) = false ∧ busy.core.ctx.loops = [] ∧
    (busy.core.ctx.rdP 0 != ((0 : BitVec 1) == 1)) = true ∧ (busy.core.ctx.rdP 4 != ((0 : BitVec 1) == 1)) = false := by
  refine ⟨.inl ⟨6, by decide +kernel⟩, .inr (.inl ⟨0xFFF, by decide +kernel⟩), .inr (.inr (.inl ⟨0x80000000, by decide +kernel⟩)),
    .inr (.inr (.inr ⟨77, by decide +kernel⟩)), by decide +kernel⟩

/-! ## Transit programs and the fabric -/

/-- A packet of tenant 3 with a budget of 5 and a payload of 32 bytes, and a stack, its top first. -/
def packet (st : List (BitVec 32)) : Packet :=
  { ((({} : Packet).setHdr 152 (3 : BitVec 5)).setHdr 160 (5 : BitVec 8)).setHdr 208 (32 : BitVec 16) with
    prog := RF.fill 0x9000, stack := st, payload := (List.range 32).map (BitVec.ofNat 8) }
/-- A run of it, with every permission or none. -/
def running (st : List (BitVec 32)) (mask : BitVec 16 := 0xFFFF) : Run := { p := packet st, adir := 10, mask := mask }
/-- `mapped` with that run open at router 30 and a window of one unit, combine slot 0 the tenant's. -/
def routed (st : List (BitVec 32)) (mask : BitVec 16 := 0xFFFF) (s : State := mapped) : State :=
  { (((s.setReg (routerBlock 30 + 0x300) 0x10002).setReg (routerBlock 30 + 0x348) 1).setRun 30 (some (running st mask))) with curRouter := 30 }

theorem open_run : ∀ st ∈ ([[], [7], [7, 8], [7, 8, 9], [1, 3, 0], [0, 1, 0], [1, 2, 3, 4]] : List (List (BitVec 32))),
    OpenRun (routed st) (running st) := by
  intro st hst
  simp only [List.mem_cons, List.not_mem_nil, or_false] at hst
  rcases hst with rfl | rfl | rfl | rfl | rfl | rfl | rfl <;> exact ⟨by decide +kernel, by decide +kernel⟩

theorem witness_TransitStackAndArithmetic : OpenRun (routed [1, 2, 3, 4]) (running [1, 2, 3, 4]) ∧ OpenRun (routed []) (running []) ∧
    (running [1, 2, 3, 4]).p.stack.length = 4 :=
  ⟨open_run _ (by simp), open_run _ (by simp), rfl⟩

/-- A router whose run has gone past its last instruction comes next. -/
def past : State := { (routed []).setRun 30 (some { running [] with p := { packet [] with pc := 16 } }) with agenda := [.router 30] }

theorem witness_TransitSkips : OpenRun (routed [7]) (running [7]) ∧ past.agenda = [.router 30] ∧ past.halted = false ∧
    past.plat.failStop = false ∧ routerOk 30 = true ∧ (∃ run, (past.routerAt 30).run = some run ∧ 15 < run.p.pc) :=
  ⟨open_run _ (by simp), rfl, by decide +kernel, rfl, by decide, ⟨_, rfl, by decide⟩⟩

theorem witness_TransitMemoryAndPayload :
    OpenRun (routed [7, 8]) (running [7, 8]) ∧ (routed [7, 8]).windowAt 30 3 = (2, 1) ∧ (running [7, 8]).p.ten = 3 ∧
    Memory.wf ((routed [7, 8]).routerAt 30).waypoint = true ∧ ((routed [7, 8]).routerAt 30).badWords ++ ((routed [7, 8]).routerAt 30).fencedWords = [] ∧
    (running []).mask.getLsbD 0 = true ∧ (running [] 0).mask.getLsbD 0 = false ∧ 4 * (7 : BitVec 6).toNat + 4 ≤ (running []).p.payload.length ∧
    (running []).p.payload.length < 4 * (8 : BitVec 6).toNat + 4 ∧ 4 * ((1 : BitVec 6).toNat + 7) ≤ (running [7, 8]).p.payload.length :=
  ⟨open_run _ (by simp), by decide +kernel⟩

theorem witness_PacketsMoveOnOrEnd :
    OpenRun (routed [1, 3, 0]) (running [1, 3, 0]) ∧ OpenRun (routed [0, 1, 0]) (running [0, 1, 0]) ∧ OpenRun (routed []) (running []) ∧
    (routed []).curRouter.toNat < 224 ∧
    ([(6 : BitVec 4), 7, 8, 9].all fun d => decide (6 ≤ d.toNat) && decide (d.toNat ≤ 9) && !(routed []).dead (linkOf 30 d.toNat)) = true ∧
    (running []).p.budget = 5 ∧ (running []).p.cgen ≠ 15 ∧ (running []).cloned = false ∧ (running []).p.pin = false ∧
    (0x3C0 : BitVec 10) ≠ 0 ∧ isOk ((routed []).checkDelivery (running [])) = true ∧ (running []).p.plen ≠ 0 ∧
    ((routed []).routerAt 30).park.get 0 = none ∧ ((routed []).rreg 30 3 0x48).getLsbD 0 = true ∧
    ((running [1, 3, 0]).p.tag.setWidth 6 : BitVec 6) = 0 ∧ ((routed []).routerAt 30).slots.get 0 = {} ∧
    ((3 : BitVec 32).getLsbD 1 = true ∧ (3 : BitVec 32).toNat ≠ 2 ^ 1) ∧ ((1 : BitVec 32).getLsbD 0 = true ∧ (1 : BitVec 32).toNat = 2 ^ 0) :=
  ⟨open_run _ (by simp), open_run _ (by simp), open_run _ (by simp), by decide +kernel⟩

/-! ## Events -/

/-- `busy` with a result that is ready at cycle 5, in cycle 9 and in cycle 0. -/
def ready (now : Nat) : State :=
  let s := busy.onCore fun c => { c with outst := [{ dst := .s 9, awaits := .ready 7 (some 5) }] }
  { s with plat := { s.plat with cycle := now } }

/-- `busy` with stream 2 bound and reading the scratchpad with a place free or none, and an element of a write stream to be written. -/
def reading (places : List Nat) : State := busy.onCore fun c => { c with
  ctx := { c.ctx with q := c.ctx.q.put 2 { desc := sdSetBound descriptor true, base := places } }
  wbuf := [{ q := 3, space := 1, runs := [(0x40, 8, false)], bytes := [1, 2, 3, 4, 5, 6, 7, 8] }] }

/-- `busy` with one entry committed. -/
def draining (g : Gated) (s : State := busy) : State := s.onCore fun c => { c with committed := [(0, g)] }
/-- A granule that the open sheet of core 1 has taken from core 0. -/
def takenBy1 : State := busy.setCoreAt 1 ((({} : Core).openSheet [] none false).setSheet
  ((({} : Core).openSheet [] none false).sheet.map fun sh => { sh with takes := [(0, 4)] }))

/-- A code object of one region of four words. -/
def shortObject : CodeObj := { code := 3 <<< 43, text := 0x10000, words := 4, regions := [0] }
/-- Text at 0x10000 of four one-move groups, s5 from s6, which are one region, with no sheet of it translated. -/
def translating : State :=
  let s := coded.withMem fun m => { m with mem := Memory.write m.mem 0x10000 ((List.replicate 4 (bytesOfWord 4 0x80005006)).flatten) }
  { s with plat := { s.plat with objects := [shortObject] } }

theorem witness_CoreEventsTakeEffect :
    coreOk 0 = true ∧ (ready 9).alive 0 = true ∧ ((ready 9).coreAt 0).outst[0]?.isSome = true ∧ (ready 9).nowOf 0 = 9 ∧ (ready 4).nowOf 0 = 4 ∧
    (let st := ((reading [0]).coreAt 0).ctx.q.get 2
     sdBound st.desc = true ∧ sdWrite st.desc = false ∧ sdSpace st.desc = 1 ∧ st.base ≠ [] ∧ sdPos st.desc + st.fetched.length < sdTotal st.desc ∧
     (reading [0]).elementBad 0 st.desc (sdAddr st.desc 0) = false) ∧
    (((reading []).coreAt 0).ctx.q.get 2).base = [] ∧ ((reading []).coreAt 0).wbuf.length = 1 ∧
    Memory.wf ((reading []).coreAt 0).scratch = true ∧ (((reading []).coreAt 0).wbuf.all fun w => !w.written && w.due == 0) = true ∧
    (draining (.copy someCopy) mapped).copyReady 0 someCopy.no = true ∧ (draining (.copy someCopy) (reading [])).copyReady 0 someCopy.no = false ∧
    (draining (.scratch 0 0x40 [1, 2, 3, 4])).mayMeet (.scratch 0) (portKey 0 0) = true ∧
    busy.granHolder 0 0 (granRange 0x40 16) = none ∧ (takenBy1.setCoreAt 0 { takenBy1.coreAt 0 with committed := [] }).granHolder 0 0 (granRange 0x40 16) = some 1 ∧
    ((draining (.tagw 5 7)).coreAt 0).committed = [(0, .tagw 5 7)] ∧ busy.plat.failStop = false ∧
    translating.awaitsSheet 0 = true ∧ Tbl.get 0 translating.plat.pipesFailed 0 = 0 := by decide +kernel

/-- The region's four groups are in the sheet, however many more it may take. -/
theorem translating_groups : 4 ≤ translating.sheetGroups 0 0x10000 := by
  unfold State.sheetGroups
  rw [show translating.objAt (translating.coreAt 0).tenant 0x10000 = some shortObject from rfl]
  simp only []
  have hn : ((translating.startsTo 0 shortObject 1).findSome? fun x => if x.1 = 0 then x.2 else none) = none := by decide +kernel
  split
  · rename_i h
    exact absurd (hn.symm.trans h) nofun
  · exact Nat.le_trans (by decide +kernel) (Nat.le_add_right _ _)

theorem witness_translation : translating.objAt 3 0x10000 = some shortObject ∧
    let r := translating.sheetFrom 0 shortObject 5 0 (min (translating.sheetGroups 0 0x10000) 256) (0, 0, 0)
    r.2.isNone = true ∧ r.1.isEmpty = false := by
  have h : ∀ k < 257, 4 ≤ k → (translating.sheetFrom 0 shortObject 5 0 k (0, 0, 0)).2.isNone = true ∧
      (translating.sheetFrom 0 shortObject 5 0 k (0, 0, 0)).1.isEmpty = false := by decide +kernel
  exact ⟨rfl, h _ (by omega) (by have := translating_groups; omega)⟩

/-- A core whose native bundle, in its bundle cache, is a grouped beat that waits for plane A's descriptors, plane B's being there. -/
def waiting : State :=
  (native 0).onCore fun c => { c with bcache := [⟨3, 0, 0x20205700 <<< 672, 0x10000, 3, false⟩], dsca := 0x3000, dscb := 0x3000, mcfg := 0x0000000000010000, descCache := [⟨1, 0, List.replicate 32 0x0104⟩] }

theorem witness_descriptorFill :
    (match waiting.waitingBeat 0 with
      | some (f, t) => match readDescs waiting 0 false (beatGroup waiting.core.mcfg) (beatWidth f t) (List.range 32) with
        | .entry _ u => (u.coreAt 0).mcfg == waiting.core.mcfg && (u.coreAt 0).descCache == waiting.core.descCache
        | _ => false
      | none => false) = true ∧ waiting.core.pin = false ∧
    (waiting.core.descOf true (beatGroup waiting.core.mcfg)).isSome = true ∧ waiting.core.descOf false (beatGroup waiting.core.mcfg) = none ∧
    waiting.core.descCache.length < 64 := by decide +kernel

theorem witness_pendingSlice :
    let s := launched.onCore fun c => { c with sliceExpired := true }
    s.findLaunch 3 7 = some launch ∧ s.core.sliceExpired = true ∧ s.core.preempt = false ∧ s.core.pin = false ∧
    s.plat.failStop = false ∧ busy.core.running.isSome = true := by decide +kernel

/-- A task that is asked to leave, with a save area, and one that has met a page fault with holding on. -/
def leavingState : State := (launched uncached).onCore fun c => { c.setCreg crSAVEA 0x4000 with aown := 0x4000, preempt := true }
def faulted : TrapInfo := { sup := true, cls := 0x21, code := 1, tvpc := 0x10000, tslot := 0, tinfo := 3, tmove := 4 }
def holding : State := ((leavingState.setReg (tenantBlock 3 + 0x58) 0x8000000000000004).setReg (tenantBlock 3 + 0x50) 0x30000).onCore fun c =>
  { c with preempt := false, pendTrap := some faulted }

theorem witness_saves : leavingState.alive 0 = true ∧ (leavingState.coreAt 0).preempt = true ∧ leavingState.atBoundary 0 = true ∧ leavingState.blocked 0 = false ∧
    (leavingState.coreAt 0).ctx.loops = [] ∧ holding.faultHeld 0 faulted = true ∧ (holding.coreAt 0).pendTrap = some faulted ∧
    (holding.coreAt 0).preempt = false := by decide +kernel

theorem witness_savesAreDone :
    (let p := leavingState.setCoreAt 0 (leavingState.coreAt 0).partHold
     let q := holding.discardSheet 0 0
     [p.setCoreAt 0 (p.coreAt 0).unstop,
      q.setCoreAt 0 { (q.coreAt 0).unstop with loopSave := false, group := [], pendTrap := some faulted }].all fun s =>
        match s.saveContext 0 false with
        | .done u _ => (u.findLaunch 3 7).isSome && (u.coreAt 0).ctx.loops.isEmpty && (u.coreAt 0).running.isSome
        | _ => false) = true := by decide +kernel

/-- A task held for `hung` cycles, with its core in cycle `now`, in its grace since cycle 5. -/
def watched (hung now : Nat) (h : Word := 0) : State :=
  let s := (busyCr crHSTAT h).onCore fun c => { c with hung := hung, graceStart := some 5 }
  { s with plat := { s.plat with cycle := now } }

theorem witness_ContextsAreSavedAndResumed :
    (watched 0 0).alive 0 = true ∧ ((watched 0 0).coreAt 0).hung < (watched 0 0).hangPeriod ∧
    (watched (2 ^ 24) 0).hangPeriod ≤ ((watched (2 ^ 24) 0).coreAt 0).hung ∧ ((watched 0 0).coreAt 0).depth = 0 ∧ ((watched 0 0).coreAt 0).pin = false ∧
    (watched 0 0).plat.errors = [] ∧ ((watched 0 0).coreAt 0).fenced = false ∧ (watched (2 ^ 24) 0 1).hangPeriod ≤ ((watched (2 ^ 24) 0 1).coreAt 0).hung ∧
    ((watched (2 ^ 24) 0 1).coreAt 0).depth ≠ 0 ∧ ((watched 0 0).coreAt 0).graceStart = some 5 ∧ (watched 0 0).plat.cycle < 5 + 65536 ∧
    5 + 65536 ≤ (watched 0 (5 + 65536)).plat.cycle ∧ ((watched 0 (5 + 65536)).coreAt 0).copyQ = [] ∧
    (((watched 0 (5 + 65536)).onCore fun c => { c with copyQ := [someCopy] }).coreAt 0).copyQ ≠ [] := by decide +kernel

/-- A package of idle cores whose tenant 3 has queue 1, of 8 places, enabled with head 1 and tail 2, room for two save areas, and a launch
at the head, with `deps` launches before it; its first launch has been taken. -/
def queued (deps : BitVec 16) (code : BitVec 1024 := 3 <<< 43) : State :=
  let s := coded (mapped State.reset)
  let b := tenantBlock 3
  let s := (((((s.setReg b 0x8000000000001000).setReg (b + 8) 0x40000).setReg (b + 0x10) 2).setReg (b + 0x228) 0x8000000000000003).setReg
    (b + 0x230) 1).setReg (b + 0x238) 2
  { s with dist := { s.dist with order := 6, launches := [launch,
      { tenant := 3, queue := 1, index := 1, order := 5, rec_ := (8 <<< 128) ||| (1 <<< 184) ||| (0x10000 <<< 64) ||| code, deps := deps }] } }

theorem witness_LaunchesAreShownTakenAndCancelled :
    (queued 0).plat.failStop = false ∧ (queued 0).queueSize 3 1 = 8 ∧ (queued 0).treg 3 0x230 = 1 ∧ (queued 0).treg 3 0x238 = 2 ∧
    (queued 0).queueOn 3 1 = true ∧ (queued 0).queueOn 3 2 = false ∧ (queued 0).offering 3 1 = none ∧
    ([queued 0, queued 1, queued 0 0].all fun s => match s.dist.launches.find? (fun l => l.tenant == 3 && l.queue == 1 && !l.taken && l.index == 1) with
      | some l => !l.completed | none => false) = true ∧
    (((queued 0).dist.launches.map fun l => (l.order, l.deps.toNat, ((queued 0).launchSynd l).isNone)) = [(4, 0, true), (5, 0, true)]) ∧
    (((queued 0 0).dist.launches.map fun l => ((queued 0 0).launchSynd l).isNone) = [true, false]) ∧
    (((queued 1).dist.launches.map fun l => l.deps.toNat) = [0, 1]) ∧
    (queued 0).findLaunch 3 7 = some launch ∧ launch.cancelled = false ∧ (queued 0).findLaunch 3 9 = none ∧ (queued 0).plat.cancels = [] ∧ (queued 0).dist.pending = [] ∧
    (queued 0).plat.tdisp.get 3 = .unlocked ∧ ((queued 0).treg 3 0).getLsbD 63 = true ∧ ((queued 0).dist.launches.map Launch.order).Nodup := by
  decide +kernel

/-- A wake of the launch to a record of memory whose word is `v`, and the launch's suspended task there. -/
def waking (v : Nat) : State :=
  let s := (queued 0).withMem fun m => { m with mem := Memory.write m.mem 0x240 (leBytes 8 v) }
  { s with dist := { s.dist with wakes := [{ addr := 0x240, handle := 7, tenant := 3 }],
                                 launches := s.dist.launches.map fun l => { l with waiting := [.suspended 0x240 {}] } } }

theorem witness_wakes : (waking 0).plat.failStop = false ∧ (waking 0).dist.wakes[0]? = some { addr := 0x240, handle := 7, tenant := 3 } ∧
    ((waking 0).findLaunch 3 7).isSome = true ∧
    (match Machine.translate (waking 0) noCore 3 true 0x240 .rw with | .ok e => targetOf (e.phys 0x240) == .package && e.phys 0x240 == 0x240 | _ => false) = true ∧
    (waking 0).mem.locks = [] ∧ (waking 0).mem.readable 8 (0x240 / 128) = true ∧ (waking 0).mem.isBad (0x240 / 16) = false ∧
    ([0, 2 ^ 62, 2 ^ 63].all fun v => Memory.wf (waking v).mem.mem && leNat (Memory.read (waking v).mem.mem 0x240 8) == v) = true ∧
    ((waking 0).suspendedOn 0x240).isSome = true := by decide +kernel

/-- `queued` with the second launch taken and undispatched, or the first one's task waiting in its save area, whose image has VALID. -/
def granting : State :=
  let s := queued 0
  { s with dist := { s.dist with launches := s.dist.launches.map fun l => { l with taken := true, live := 1 } } }
def resuming : State :=
  let s := (queued 1).withMem fun m => { m with mem := Memory.write m.mem 0x40000 [1, 0, 1, 0] }
  { s with dist := { s.dist with areas := [(3, 0)], launches := s.dist.launches.map fun l =>
      if l.order = 4 then { l with waiting := [.preempted 0x40000 0 false [] {}] } else l } }

theorem witness_grantOfATask : (match granting.reserve.nextGrant with
    | some (_, t, _, c) => (match c.pick with
      | .tasks _ [(_, m)] _ => decide (m < 1792) && !granting.reserve.mustWait t m && (granting.reserve.freeAreas 3).length == 2
      | _ => false)
    | none => false) = true := by decide +kernel

theorem witness_grantOfAResumption : (match resuming.reserve.nextGrant with
    | some (_, t, _, c) => (match c.pick with
      | .resume _ _ a m => decide (m < 1792) && !resuming.reserve.mustWait t m && a == 0x40000
      | _ => false)
    | none => false) = true := by decide +kernel

theorem witness_noGrant : State.reset.reserve.nextGrant.isNone = true := by decide +kernel

theorem witness_resumedImage :
    let v := acquireAt resuming.reserve 0 (clockJoin (some (resuming.reserve.mem.vc.get 8)) none)
    let u := (v.areaLines 3 0x40000).foldl (fun u x => dropDie u (dieOf 0) x) v
    u.areaReadable 0 3 0x40000 0x1800 = true ∧ u.mem.holds = [] ∧ (match u.readArea 3 0x40000 with
      | .ok img => (headerSynd img).isNone && leNat ((img.drop 2).take 2) / 16 % 2 == 0 && !((ctxOfImage img []).creg crPSTAT).getLsbD 1
      | .error _ => false) = true := by decide +kernel

/-- `mapped` with fired actions whose descriptor and command stand in memory, the command's `d`, and `n` packets queued. -/
def fired (d : BitVec 256) (n : Nat) : State :=
  (mapped.withMem fun m => { m with mem := Memory.write m.mem 0x2080 (leBytes 32 d.toNat) }).onCore fun c =>
    { c with sendQ := List.replicate n ⟨{}, none, 0, false⟩
             fired := [{ kind := 1, arg := 0x2000, handle := 7, tenant := 3 }, { kind := 2, arg := 0x2080, handle := 7, tenant := 3 }] }

theorem witness_firedActions :
    ((fired 0 0).coreAt 0).fired.find? (fun f => f.kind == 1) = some { kind := 1, arg := 0x2000, handle := 7, tenant := 3 } ∧ ((fired 0 8).coreAt 0).sendQ.length = 8 ∧
    ((fired 0 0).coreAt 0).fired.find? (fun f => f.kind == 2) = some { kind := 2, arg := 0x2080, handle := 7, tenant := 3 } ∧
    (match (fired 0 0).readRange 0 3 false 0x2000 128 none with
      | .got _ bs => let p := packetOf (BitVec.ofNat 1024 (leNat bs))
          (hdrFault p).isNone && !p.tbx.getLsbD 7 && !p.pbx.getLsbD 7 && p.readLen == 0
      | _ => false) = true ∧
    ([(command 0x100 0x800 1 1 40 8, true), (command 0x108 0x800 1 1 40 8, false)].all fun (d, ok) =>
      match (fired d 0).readRange 0 3 false 0x2080 32 none with
        | .got t bs => BitVec.ofNat 256 (leNat bs) == d && (copyChecks (t.tookFired 0 2) 3 d).isEmpty == ok
        | _ => false) = true := by decide +kernel

/-- `mapped` with one copy queued from scratchpad to scratchpad, of three granules. -/
def queuedCopy (started : Bool) (left : List Nat) : CopyEntry :=
  { cmd := command 0x100 0x800 1 1 40 8, tenant := 3, handle := 7, owner := 0, armed := false, started := started, left := left }
def copyState (started : Bool) (left : List Nat) : State := mapped.onCore fun c => { c with copyQ := [queuedCopy started left] }

theorem witness_CopiesAndArmedActionsRun :
    (copyState false [0, 1, 2]).nextCopy 0 = some (0, queuedCopy false [0, 1, 2]) ∧ mapped.nextCopy 0 = none ∧
    (∀ l ∈ [[0, 1, 2], [2]], ((copyState true l).coreAt 0).copyQ[0]? = some (queuedCopy true l) ∧ 2 ∈ (queuedCopy true l).left) ∧
    ccSsp (queuedCopy true []).cmd = 1 ∧ ccDsp (queuedCopy true []).cmd = 1 ∧ ccDec (queuedCopy true []).cmd = false ∧
    Memory.wf (mapped.coreAt 0).scratch = true ∧ mapped.scratchTag noCore 0 0x120 8 = none ∧ mapped.granHolder 0 0 [0x820 / 16] = none ∧ mapped.mayMeet (.scratch 0) portLast = true ∧
    (queuedCopy true []).plain = none ∧ (queuedCopy true []).due = none ∧ (mapped.coreAt 0).quiesced (queuedCopy true []) = false ∧
    [0, 1, 2].erase 2 ≠ [] ∧ [2].erase 2 = [] := by decide +kernel

/-- A packet that waits, and `mapped` with one in every queue of router 30, a park entry and an open slot past its deadline. -/
def waitingPacket : FPacket := { p := packet [], adir := 6 }
def openSlot : CombSlot := { st := .opened, key := ⟨3, 0, 32, 0, 3⟩, have_ := 1, entries := [(0, waitingPacket)], d := 10, t0 := 0 }
def fabric : State :=
  let rt : Router := { inj := [waitingPacket], parkRel := [waitingPacket], combRel := [waitingPacket], slots := (RF.fill {}).put 2 openSlot,
                       park := (RF.fill none).put 1 (some { p := packet [], reason := 3, adir := 4, mtime := 9 }) }
  let s := mapped.setRouterAt 30 rt
  let l := (arrivalLink 30 (.arrival 6)).getD ⟨0, 0, 0⟩
  let s := s.setRouterAt l.router { out := (RF.fill []).put l.dir [waitingPacket] }
  let d : Deliv := { p := (packet []).setHdr 144 (1 : BitVec 2), router := 30, adir := 6, left := [1] }
  { s with plat := { s.plat with cycle := 10 }, fab := { s.fab with deliveries := [d, { d with left := [] },
      { d with left := [], p := (packet []).setHdr 146 (1 : BitVec 1) }] } }
  |>.onCore fun c => { c with sendQ := [{ p := packet [], count := some 4 }] }

theorem witness_FabricEventsTakeEffect :
    fabric.plat.failStop = false ∧ ((fabric.nextInjection (fabric.coreAt 0)).map SendEntry.bad) = some false ∧
    (mapped.nextInjection (mapped.coreAt 0)).isNone = true ∧ routerOk 30 = true ∧ (fabric.routerAt 30).run = none ∧
    ((routed []).routerAt 30).run.isSome = true ∧ nextOf (fabric.routerAt 30).inj = some waitingPacket ∧ isEdge 30 = false ∧
    (match arrivalLink 30 (.arrival 6) with
      | some l => !fabric.dead l && (nextOf (fabric.linkQueue l)).isSome && decide ((fabric.linkAt l).retries < 8) && !(fabric.setLink_ l { retries := 8 }).dead l &&
          decide (8 ≤ ((fabric.setLink_ l { retries := 8 }).linkAt l).retries)
      | none => false) = true ∧
    (fabric.fab.deliveries.map fun x => (x.p.pin, x.p.tsp.toNat, x.left.length, x.p.ce)) = [(false, 1, 1, false), (false, 1, 0, false), (false, 0, 0, true)] ∧
    Memory.wf (fabric.coreAt 0).scratch = true ∧ fabric.granHolder noCore 0 [1] = none ∧ fabric.mayMeet (.scratch 0) portLast = true ∧ fabric.mem.mayRelease (deliveryDie 30) = true ∧
    fabric.mem.baseQ = [] ∧
    (fabric.fab.deliveries.map fun x => fabric.nextGranule x) = [some 1, none, none] ∧
    (fabric.fab.deliveries.all fun x => fabric.mayMeet (.counter x.p.tcore x.p.dcIx) (1 + x.adir.toNat)) = true ∧
    ([RunSource.injection, .park 1, .combine, .arrival 6].all fun src => fabric.mayMeet (.runs 30) (runKey 30 src)) = true ∧
    (((fabric.routerAt 30).slots.get 2).due fabric.plat.cycle && ((fabric.routerAt 30).slots.get 2).released.isSome) = true ∧
    ((fabric.routerAt 30).slots.get 3).due fabric.plat.cycle = false ∧ ((fabric.routerAt 30).park.get 1).isSome = true ∧
    (fabric.routerAt 30).park.get 0 = none := by decide +kernel

/-- `mapped` with a packet on the link of router 30 in direction 6, the link in a state. -/
def linked (k : LinkState) : State :=
  (mapped.setRouterAt 30 { out := (RF.fill []).put 6 [waitingPacket] }).setLink_ ⟨30, 6, 0⟩ k

theorem witness_links : linkOk ⟨30, 6, 0⟩ = true ∧ ((linked { dead := true }).linkAt ⟨30, 6, 0⟩).dead = true ∧
    mapped.linkQueue ⟨30, 6, 0⟩ = [] ∧ ((linked { retries := 7 }).linkAt ⟨30, 6, 0⟩).retries < 8 ∧
    (linked { retries := 7 }).linkQueue ⟨30, 6, 0⟩ ≠ [] ∧ 8 ≤ ((linked { retries := 8 }).linkAt ⟨30, 6, 0⟩).retries ∧
    linkOk (torusLink 0) = true ∧ (mapped.setLink_ (torusLink 0) { retries := 8, retrains := 1 }).linkAt (torusLink 0) = { retries := 8, retrains := 1 } ∧
    linkSpares (torusLink 0) = 10 ∧
    ((linked { retries := 8 }).linkAt ⟨30, 6, 0⟩).retrains = 0 ∧ ((linked { retries := 8 }).linkAt ⟨30, 6, 0⟩).dead = false := by decide +kernel

/-- A lane's bit error rate after a retraining, a free value, stays too high or does not: one of the two clauses on it applies to `linked`. -/
theorem witness_berHigh (k : LinkState) : Config.berHigh (linked k).plat.cycle = true ∨ Config.berHigh (linked k).plat.cycle = false := by
  cases Config.berHigh (linked k).plat.cycle <;> simp

/-- A package of a torus of two in axis 0, at the first cycle of a tick or within it. -/
def bearing (now : Nat) (datum : Word) : State :=
  let s := (mapped.setReg 0x030 0x0001000000000000).setReg 0x010 datum
  { s with plat := { s.plat with mtimeMicro := now } }

theorem witness_bearings :
    (let s := bearing 1024000000000 0
     s.mtime / (64 * s.tickPeriod) ≠ (s.plat.mtimeMicro - s.cycleMicro) / 1000000 / (64 * s.tickPeriod)) ∧
    (let s := bearing 1024500000000 0
     s.mtime / (64 * s.tickPeriod) = (s.plat.mtimeMicro - s.cycleMicro) / 1000000 / (64 * s.tickPeriod)) ∧
    ((bearing 0 1).reg 0x010).getLsbD 0 = true ∧ ((bearing 0 0).reg 0x010).getLsbD 0 = false ∧
    (bearing 0 0).connected 0 = true ∧ mapped.connected 0 = false ∧ (bearing 0 0).dead (torusLink 0) = false ∧ parentOf [(0, 3, 99)] = some (0, 99) := by decide +kernel

/-! ## Homes of memory, the platform and steps -/

/-- `mapped` with three atomics of core 0 on their way: an addition, one that returns its value, and one to the same line behind the first,
which may merge with it; `stamp` stands before them. -/
def atHome (stamp : BitVec 32) : State :=
  let a : AtomicReq := { core := 0, tenant := 3, pa := 0x2000, op := 0x30, z := 1, b := 5, c := 0, no := 1, ret := false, merge := true,
                         stamp := RF.fill stamp }
  mapped.withMem fun m => { m with atomics := [a, { a with pa := 0x3000, no := 2, ret := true, merge := false }, { a with no := 3 }] }

theorem witness_HomesOfMemoryAct :
    ((atHome 0).mem.atomics.map fun a => ((atHome 0).mem.atomicFree a, a.ret, (atHome 0).mem.isBad (a.pa / 16))) =
      [(true, false, false), (true, true, false), (false, false, false)] ∧
    ((atHome 0).mem.atomics.all fun a => (atHome 0).released a) = true ∧
    ((atHome 0).onCore fun c => { c with committed := [(0, .release 3 0)] }).mem.atomics.map (fun a =>
      ((atHome 0).onCore fun c => { c with committed := [(0, .release 3 0)] }).released a) = [false, false, false] ∧
    ((atHome 1).mem.atomics.map fun a => (atHome 1).mem.atomicFree a) = [false, false, false] ∧
    (atHome 0).mem.lineHolder 0 (0x2000 / 128) = none ∧ (atHome 0).mem.holds = [] ∧ (atHome 1).mem.holds = [] ∧ ((atHome 0).mem.piles.get (pileOf 0x2000)).lost = false ∧
    (match (atHome 0).mem.atomics[0]? with | some a => ((atHome 0).mem.mergeMate 0 a).isSome | none => false) = true := by decide +kernel

/-- `mapped` with a channel from die 0 to pile 2, and line 4 locked or not. -/
def channelled (ms : List ChanMsg) (locks : List LineLock := []) : State :=
  mapped.withMem fun m => { m with chan := m.chan.put 0 ((m.chan.get 0).put 2 ms), locks := locks }

theorem witness_channels :
    (channelled [.write 0x200 [1, 2] false (RF.fill 1) [0]]).mem.channel 0 2 = [.write 0x200 [1, 2] false (RF.fill 1) [0]] ∧
    (channelled [.marker 3]).mem.channel 0 2 = [.marker 3] ∧ mapped.mem.channel 0 2 = [] ∧ mapped.mem.locks = [] ∧
    (mapped.mem.piles.get 2).lost = false ∧ mapped.mem.keepsOut (.write 0x200 [1, 2] false (RF.fill 1) [0]) = false ∧
    (channelled [] [⟨5, 4, 0x200, 1, false⟩]).mem.keepsOut (.write 0x200 [1, 2] false (RF.fill 1) [0]) = true := by decide +kernel

/-- A held read of core 0 that its die's clock lets be performed, and one that it does not; its pile has noted it, or given it up. -/
def heldRead (v : BitVec 32) (now : Nat) (expired : Bool) : State :=
  let r : LoadReq := { pieces := [{ pa := 0x2000, n := 8, bit := 0 }], base := 0, sext := none, clock := some (RF.fill v), held := some (1, []) }
  let s := mapped.onCore fun c => { c with outst := [{ dst := .s 9, no := 1, awaits := .read r none }] }
  let t := s.withMem fun m => { m with
    vc := m.vc.put 0 (RF.fill v), holds := [{ core := 0, pa := 0x2000, clock := RF.fill v, since := 5, expired := expired }] }
  { t with plat := { t.plat with cycle := now } }

theorem witness_heldReads :
    ([(0 : BitVec 32), 1].all fun v => match (heldRead v 5 false).heldReads[0]? with
      | some (n, k, r, _) => n == 0 && k == 0 && ((heldRead v 5 false).performHeld 0 r).isSome == (v == 0) &&
          (r.lines.all fun l => ((heldRead v 5 false).mem.lineHolder 0 l).isNone)
      | none => false) = true ∧
    (match (heldRead 1 5 true).heldReads[0]? with
      | some (_, _, r, _) =>
        let u := r.lines.foldl (fun u l => u.behindCmnt 0 l) (heldRead 1 5 true)
        !(u.coreAt 0).readAhead 1 r.pieces && (preparePieces u 0 r.clock 1 true r.pieces).isNone &&
          (r.pieces.find? fun p => (linesOf p.pa p.n).any (u.mem.gaveUp 0)).isSome && (u.coreAt 0).outst[0]?.isSome
      | none => false) = true ∧
    (heldRead 1 5 false).mem.stuck (RF.fill 1) (0x2000 / 128) = true ∧ (heldRead 0 5 false).mem.stuck (RF.fill 0) (0x2000 / 128) = false ∧
    (heldRead 1 5 false).plat.cycle < 5 + 2 ^ 24 ∧ 5 + 2 ^ 24 ≤ (heldRead 1 (5 + 2 ^ 24) false).plat.cycle := by decide +kernel

/-- A lost pile, and second-tier memory with an uncorrectable block, and block 5 with an error that the check corrects. -/
def lossy : State := mapped.withMem fun m => { m with
  piles := m.piles.put 2 { lost := true }, badGran := [0x1000000000], soft := [5], dieCache := m.dieCache.put 1 [{ line := 4, data := 0, valid := 0 }] }

theorem witness_losses : failStops ⟨0x38, 0⟩ = true ∧ failStops ⟨0x30, 0⟩ = false ∧ lossy.plat.failStop = false ∧ (lossy.mem.piles.get 2).lost = true ∧ (lossy.mem.piles.get 3).lost = false ∧
    ((List.range 4).any fun g => lossy.mem.badGran.contains (4 * 0x400000000 + g)) = true ∧ targetOf (64 * 0x400000000) = .tier2 ∧
    ((List.range 4).any fun g => lossy.mem.badGran.contains (4 * 5 + g)) = false ∧ lossy.mem.soft = [5] ∧ targetOf (64 * 5) = .package ∧
    (∃ l, findLine 4 (lossy.mem.dieCache.get 1) = some l ∧ l.dirty = 0) := ⟨by decide +kernel, by decide +kernel, by decide +kernel, by decide +kernel, by decide +kernel,
    by decide +kernel, by decide +kernel, by decide +kernel, by decide +kernel, by decide +kernel, _, rfl, rfl⟩

/-- A package in which an invalidation, a revocation, a test and error records are under way, a task is held, and tenant 3 is locked. -/
def busyPlatform (now : Nat) (pages : List (Nat × Nat)) : State :=
  let s := (queued 0).setReg (atqOffset 2 3 + 8) 0x8000000000000002
  let s : State := { s with dist := { s.dist with launches := s.dist.launches.map fun l => { l with waiting := [.held 0x40000 5 [] {}] } } }
  let p := s.plat
  { s with plat := { p with
      cycle := now, atrevBusy := [(atqOffset 2 3 + 8, 9)], inval := some ⟨3, 0, 0x200000, false, pages⟩
      tdisp := p.tdisp.put 3 .locked, everEnabled := true, bootst := 7
      errors := [⟨0x80 <<< 104, 9, false⟩], tests := [(⟨0x10, 3, 5, none⟩, 9), (⟨0x2B, 0, 0, some (torusLink 0)⟩, 9)]
      faulty := [⟨1, 0, 5, none⟩], spared := [7] } }

/-- A package at a slot boundary with a cap of 2000 W that is asked for, hot. -/
def capped : State :=
  let s := (bearing 1024000000000 0).setReg 0x028 0x80000000000007D0
  { s with plat := { s.plat with hot := true } }

theorem witness_PlatformEventsTakeEffect :
    mapped.plat.inval = none ∧ (∃ x, (busyPlatform 0 []).plat.inval = some x ∧ (busyPlatform 0 []).invalPending x (x.pages ++ (busyPlatform 0 []).tlbPages x) = false) ∧
    (mapped.reg (atqOffset 2 3 + 8)).getLsbD 63 = false ∧ ((busyPlatform 0 []).reg (atqOffset 2 3 + 8)).getLsbD 63 = true ∧
    (busyPlatform 0 []).plat.atrevBusy.find? (fun x => x.1 == atqOffset 2 3 + 8) = some (atqOffset 2 3 + 8, 9) ∧
    (busyPlatform 8 []).plat.cycle < 9 ∧ 9 ≤ (busyPlatform 9 []).plat.cycle ∧
    (queued 0).heldTask 3 0x40000 = none ∧ ((busyPlatform 0 []).heldTask 3 0x40000).isSome = true ∧
    Memory.wf mapped.plat.staging = true ∧ (223 : BitVec 8).toNat < 224 ∧ 224 ≤ (224 : BitVec 8).toNat ∧
    mapped.atSlot = false ∧ (bearing 1024000000000 0).atSlot = true ∧ mapped.plat.heat = none ∧ mapped.plat.hot = false ∧ mapped.pinnedRuns = false ∧
    (mapped.reg 0x028).getLsbD 63 = false ∧ (mapped.reg 0x028 &&& 0xFFF).toNat = 0 ∧ (capped.reg 0x028).getLsbD 63 = true ∧
    capped.plat.hot = true ∧ (capped.reg 0x028 &&& 0xFFF).toNat ≠ 0 ∧ capped.atSlot = true ∧ (busyCr crPSTAT 2 mapped).pinnedRuns = true ∧
    tdispLocked (tenantBlock 3 + 0x18) = true ∧ (busyPlatform 0 []).plat.tdisp.get (tenantOfOffset (tenantBlock 3 + 0x18)) ≠ .unlocked ∧
    (busyPlatform 0 []).plat.everEnabled = true ∧ (busyPlatform 0 []).plat.bootst = 7 ∧ mapped.plat.everEnabled = false ∧
    ({ mapped.plat with bootst := 5 } : Plat).bootst &&& 0xF = 5 := by
  refine ⟨by decide +kernel, ⟨_, rfl, by decide +kernel⟩, by decide +kernel⟩

theorem witness_invalidationWaits : let s := (busyPlatform 0 [(0, 2 ^ 21)]).withMem fun m => { m with
      atomics := [⟨0, 3, 0x2000, 0x30, 1, 5, 0, 1, false, false, RF.fill 0, []⟩] }
    (∃ x, s.plat.inval = some x ∧ s.invalPending x (x.pages ++ s.tlbPages x) = true) := ⟨_, rfl, by decide +kernel⟩

theorem witness_SecurityErrorsAndResets :
    (busyPlatform 0 []).plat.failStop = false ∧ (busyPlatform 0 []).plat.bootst = 7 ∧ takeReady 9 (busyPlatform 9 []).plat.errors = none ∧
    (match takeReady 10 (busyPlatform 10 []).plat.errors with | some (e, _) => (recField e.rec_ 13 8).getLsbD 7 | none => false) = true ∧
    ((busyPlatform 10 []).reg 0x108).getLsbD 63 = false ∧ (busyPlatform 0 []).plat.tests[2]? = none ∧
    ((busyPlatform 0 []).dist.launches.any fun l => l.tenant == 3 && l.handle == 7 && l.taken && l.isOpen) = true ∧ (busyPlatform 0 []).plat.keys = [] ∧
    ((busyPlatform 0 []).dist.launches.any fun l => l.tenant == 4) = false ∧
    (busyPlatform 0 []).plat.tests[0]? = some (⟨0x10, 3, 5, none⟩, 9) ∧
    (busyPlatform 0 []).plat.tests[1]? = some (⟨0x2B, 0, 0, some (torusLink 0)⟩, 9) ∧ (busyPlatform 0 []).linkAt (torusLink 0) = {} ∧
    linkSpares (torusLink 0) = 10 ∧ (⟨0x2B, 0, 0, some (torusLink 0)⟩ : SelfTest).way = none ∧ srcCoreTest 0x2B = false ∧ (busyPlatform 0 []).mem.lockQ = [] ∧ (busyPlatform 0 []).mem.baseQ = [] ∧
    (busyPlatform 0 []).spareLeft ⟨0x10, 3, 5, none⟩ = true ∧ (busyPlatform 8 []).plat.cycle < 9 ∧ 9 ≤ (busyPlatform 9 []).plat.cycle ∧
    (busyPlatform 9 []).repeats ⟨0x10, 3, 5, none⟩ = false ∧ (busyPlatform 0 []).plat.history = [] ∧ srcCoreTest 0x10 = false ∧
    (busy.coreAt 0).running.isSome = true ∧
    (let s := (busyPlatform 0 []).setCoreAt 0 { (busyPlatform 0 []).coreAt 0 with inService := false, moving := true }
     (s.coreAt 0).moving = true ∧ (s.coreAt 1).moving = false ∧ (s.coreAt 0).fenced = false ∧ (s.coreAt 0).running = none ∧ clusterOf 0 ∉ s.plat.spared ∧
     (s.plat.tests.all fun x => !srcCoreTest x.1.src) = true) := by decide +kernel

/-- Acts that come next at `s`. -/
def acting (a : Act) (s : State) : State := { s with agenda := [a] }
/-- An open sheet of one word: the addition of the immediate 5 to nothing, a move to s5. -/
def sheeted : State := mapped.onCore fun c => c.openSheet [0xA0005005] none false

theorem witness_StepRunsTheDecodedInstruction :
    (acting (.ev (.crclr 1)) busy).halted = false ∧ isEvent (.crclr 1) = true ∧ (acting (.core 0) sheeted).halted = false ∧
    (let u := (acting (.core 0) sheeted).landed 0
     u.alive 0 = true ∧ (u.coreAt 0).leaving = .none ∧ (u.coreAt 0).pendTrap = none ∧ u.canIssue 0 = true ∧
     ∃ sh, (u.coreAt 0).sheet = some sh ∧ sh.bundle = none ∧ (u.coreAt 0).sheetOff sh < sh.text.length ∧
       isOk (decodeMove ((u.coreAt 0).nextBytes sh)) = true) ∧
    (let u := (acting (.core 0) (native 1)).landed 0
     u.canIssue 0 = true ∧ ∃ sh, (u.coreAt 0).sheet = some sh ∧ sh.bundle.isSome = true) ∧
    (((acting (.core 0) trapping).landed 0).coreAt 0).pendTrap.isSome = true ∧
    (∃ run, ((routed []).routerAt 30).run = some run ∧ run.p.pc < 16 ∧ (match decodeTransit (run.p.prog.get (BitVec.ofNat 4 run.p.pc)) with
      | .ok i => !(routed []).combLate 30 run i | .error _ => false) = true) ∧
    busy.agenda = [] := by
  refine ⟨by decide +kernel, by decide +kernel, by decide +kernel, ⟨by decide +kernel, by decide +kernel, by decide +kernel, by decide +kernel,
    _, rfl, by decide +kernel⟩, ⟨by decide +kernel, _, rfl, by decide +kernel⟩, by decide +kernel, ⟨_, rfl, by decide +kernel⟩, rfl⟩

theorem witness_EncodingsRoundTrip :
    WellFormed (.add sr) = true ∧ WellFormed (.add wy) = true ∧ (encode (.add sr)).isSome = true ∧ (encodeTrigger (.add wy)).isSome = true ∧
    isEvent (.add sr) = false := by decide +kernel

/-- A native sheet whose bundle 1, in the bundle cache, adds in slot 0 and does nothing else. -/
def bundled : State := (native 1).onCore fun c => { c with bcache := [⟨3, 0, 0x3C711FE0 <<< 768, 0x10000, 3, false⟩] }

theorem witness_BundlesRunTheirOperations :
    coreOk 0 = true ∧ bundled.cur = 0 ∧ State.reset.canIssue 0 = false ∧ bundled.canIssue 0 = true ∧ bundled.holdsNext bundled.core = false ∧
    bundled.core.overrunFound = [] ∧ bundled.core.breakAhead = false ∧ bundled.mem.locks = [] ∧ bundled.core.check = none ∧
    (∀ sh ∈ bundled.core.sheet, sh.spoiled = false) ∧
    (match bundled.nativeSheet 0 with
      | some (im, _, k) => (match bundled.bundleWords 0 im k with
        | some ws => (readSlots bundled.core ws).all fun x => match x.2 with
          | .bad _ => false
          | .idle => true
          | .op i => !bundled.core.ownBad (.p (bits (ws.getD x.1.toNat 0) 0 4)) && (match semOf i bundled with
            | some m => !m.block && !m.fills && m.conds.isEmpty && !m.mx && m.xfer.isNone && m.soft.isNone && !m.ctl
            | none => false)
        | none => false)
      | none => false) = true ∧
    (∃ sh, text.core.sheet = some sh ∧ text.core.group = [] ∧ text.nativeSheet 0 = none ∧
      groupAt [0x80005006] 0 = .group [⟨0, 0, 0, 5, 6, 0⟩] 1) := by
  refine ⟨by decide +kernel, by decide +kernel, by decide +kernel, by decide +kernel, by decide +kernel, by decide +kernel, by decide +kernel,
    by decide +kernel, by decide +kernel, by decide +kernel, by decide +kernel, _, rfl, by decide +kernel⟩

theorem witness_StepsGoOnAndKeepMemoryCanonical : NextActOk (acting (.core 0) busy) = true ∧ NextActOk (acting (.ev (.crclr 1)) busy) = true ∧
    MemoryCanonical busy := ⟨by decide +kernel, by decide +kernel, by unfold MemoryCanonical; decide +kernel⟩

theorem witness_FailStopIsFinal :
    let s := acting (.core 0) { busy with plat := { busy.plat with failStop := true } }
    s.plat.failStop = true ∧ s.agenda = [.core 0] ∧ (match step s with | .next _ => true | _ => false) = true := by decide +kernel

theorem witness_RegisterOperationsChangeOnlyTheirResult :
    ([Instr.vaiAdd, .vaiSub, .vaiMul, .vaiMulh, .vaiMin, .vaiMax, .vaiAnd, .vaiXor, .vaiShl, .vaiShr, .vaiSar].all fun op =>
      laneMeets op .intg false {} 0 9) = true ∧
    (scalarOps.all fun op => meets (op sr) {} busy) = true := by decide +kernel

/-! ## Words of the encodings

Each word below is written out from the format tables: the opcode in bits 31:26, the fields where R161, R163, R165 and R166 place them, the
guard in bits 4:0 and, for the long forms, the right slot's word after it (R72, R75). -/

/-- Whether slot `k` reads the word `w`, with `x` in the slot to its right, as the instruction `i`. -/
def reads : BitVec 3 × Nat × Nat × Instr → Bool := fun (k, w, x, i) =>
  match decode (.slot k) (bytesOfWord 4 w ++ bytesOfWord 4 x) with
  | .ok (some j, _) => j == i
  | _ => false

theorem test_slot_words_INT : [(0, 0x07F01049, 0x0, .add (.nat 0 0 9 (.sr 63 0x0 0x41 0))),
     (1, 0x08683FB3, 0x0, .sub (.nat 1 1 3 (.sr 6 0x41 0x7E 1))),
     (0, 0x0FD090C9, 0x0, .mul (.nat 0 0 9 (.sr 61 0x4 0x43 0))),
     (1, 0x10887F33, 0x0, .mulh (.nat 1 1 3 (.sr 8 0x43 0x7C 1))),
     (0, 0x17B11149, 0x0, .mulhu (.nat 0 0 9 (.sr 59 0x8 0x45 0))),
     (1, 0x18A8BEB3, 0x0, .div (.nat 1 1 3 (.sr 10 0x45 0x7A 1))),
     (0, 0x1F9191C9, 0x0, .divu (.nat 0 0 9 (.sr 57 0xC 0x47 0))),
     (1, 0x20C8FE33, 0x0, .rem (.nat 1 1 3 (.sr 12 0x47 0x78 1))),
     (0, 0x27721249, 0x0, .remu (.nat 0 0 9 (.sr 55 0x10 0x49 0))),
     (1, 0x28E93DB3, 0x0, .imin (.nat 1 1 3 (.sr 14 0x49 0x76 1))),
     (0, 0x2F5292C9, 0x0, .imax (.nat 0 0 9 (.sr 53 0x14 0x4B 0))),
     (1, 0x31097D33, 0x0, .minu (.nat 1 1 3 (.sr 16 0x4B 0x74 1))),
     (0, 0x37331349, 0x0, .maxu (.nat 0 0 9 (.sr 51 0x18 0x4D 0))),
     (1, 0x3A194000, 0x0, .iabs (.nat 1 0 0 (.sr 33 0x4A 0x0 0))),
     (0, 0x3F1393C9, 0x0, .addw (.nat 0 0 9 (.sr 49 0x1C 0x4F 0))),
     (1, 0x4149FC33, 0x0, .subw (.nat 1 1 3 (.sr 20 0x4F 0x70 1))),
     (0, 0x46F41449, 0x0, .mulw (.nat 0 0 9 (.sr 47 0x20 0x51 0))),
     (0, 0x4850C1C0, 0x3, .lea (.nat 0 0 0 (.sp 5 6 7 3))),
     (0, 0x4ED09140, 0x0, .cmp (.nat 0 0 0 (.sk 11 1 4 0x45 0))),
     (1, 0x54E09FB2, 0x0, .cmpn (.nat 1 1 2 (.sk 3 2 4 0x7E 1))),
     (0, 0x5050C1C0, 0x13, .sel (.nat 0 0 0 (.sp 5 6 7 0x13))),
     (0, 0xCC914080, 0xFFFFFFFF, .add (.nat 0 0 0 (.se 9 10 0xFFFFFFFF)))].all reads = true := by decide +kernel

theorem test_slot_words_BIT : [(0, 0x60101C00, 0x0, .bitAnd (.nat 0 0 0 (.sr 1 0x0 0x70 0))),
     (1, 0x64607C60, 0x0, .bitOr (.nat 1 0 0 (.sr 6 0x3 0x71 1))),
     (0, 0x68B0DC80, 0x0, .bitXor (.nat 0 0 0 (.sr 11 0x6 0x72 0))),
     (1, 0x6D013CE0, 0x0, .shl (.nat 1 0 0 (.sr 16 0x9 0x73 1))),
     (0, 0x71519D00, 0x0, .shr (.nat 0 0 0 (.sr 21 0xC 0x74 0))),
     (1, 0x75A1FD60, 0x0, .sar (.nat 1 0 0 (.sr 26 0xF 0x75 1))),
     (0, 0x79F25D80, 0x0, .rotr (.nat 0 0 0 (.sr 31 0x12 0x76 0))),
     (1, 0x7E42BDE0, 0x0, .extu (.nat 1 0 0 (.sr 36 0x15 0x77 1))),
     (0, 0x82931E00, 0x0, .exts (.nat 0 0 0 (.sr 41 0x18 0x78 0))),
     (1, 0x86E37E60, 0x0, .insf (.nat 1 0 0 (.sr 46 0x1B 0x79 1))),
     (0, 0x889980A0, 0x0, .cnt (.nat 0 0 0 (.sr 9 0x4C 0x2 1))),
     (1, 0x8C918000, 0x0, .bswap (.nat 1 0 0 (.sr 9 0xC 0x0 0))),
     (0, 0xCC914F80, 0xC10, .extu (.nat 0 0 0 (.se 9 10 0xC10)))].all reads = true := by decide +kernel

theorem test_slot_words_BRC : [(0, 0xA3FFFFA0, 0x0, .br (.nat 0 0 0 (.sb 0x1FFFFD))),
     (0, 0xA400C1C0, 0x0, .jmp (.nat 0 0 0 (.sr 0 0x6 0x7 0))),
     (1, 0xABEFFFA0, 0x0, .call (.nat 1 0 0 (.sd 62 0x7FFD))),
     (1, 0xAFD0C120, 0x0, .callr (.nat 1 0 0 (.sr 61 0x6 0x4 1))),
     (0, 0xB007C000, 0x0, .ret (.nat 0 0 0 (.sr 0 0x3E 0x0 0))),
     (0, 0xB512A800, 0x10B, .loop (.nat 0 0 0 (.sl 1 9 5 2 0x10B))),
     (0, 0xB8000000, 0x0, .lexit (.nat 0 0 0 (.sr 0 0x0 0x0 0))),
     (0, 0xBC010420, 0x0, .susp (.nat 0 0 0 (.sr 0 0x8 0x10 1))),
     (1, 0xC0010240, 0x0, .spawn (.nat 1 0 0 (.sr 0 0x8 0x9 0))),
     (1, 0xC4000000, 0x0, .exit (.nat 1 0 0 (.sr 0 0x0 0x0 0)))].all reads = true := by decide +kernel

theorem test_slot_words_SYS : [(0, 0xD00C00C0, 0x0, .crrd (.nat 0 0 0 (.sc 0x3 0x0 6))),
     (0, 0xD4383800, 0x0, .crwr (.nat 0 0 0 (.sc 0xE 0x7 0))),
     (0, 0xD8083900, 0x0, .crset (.nat 0 0 0 (.sc 0x2 0x7 8))),
     (0, 0xDD063920, 0x0, .sysCrclr (.nat 0 0 0 (.sc 0x41 0x47 9))),
     (0, 0xE0014000, 0x0, .trap (.nat 0 0 0 (.sg 5 0x0))),
     (1, 0xE0400000, 0x0, .tret (.nat 1 0 0 (.sg 0 0x0))),
     (0, 0xE0802180, 0x0, .issueat (.nat 0 0 0 (.sg 0 0x43))),
     (1, 0xE0FF8000, 0x0, .frmwait (.nat 1 0 0 (.sg 254 0x0))),
     (0, 0xE1002280, 0x0, .timeat (.nat 0 0 0 (.sg 0 0x45))),
     (1, 0xE1402300, 0x0, .accsp (.nat 1 0 0 (.sg 0 0x46))),
     (0, 0xE1802380, 0x0, .accfl (.nat 0 0 0 (.sg 0 0x47))),
     (1, 0xE1C02400, 0x0, .msps (.nat 1 0 0 (.sg 0 0x48))),
     (0, 0xE2002480, 0x0, .msfl (.nat 0 0 0 (.sg 0 0x49))),
     (1, 0xE2426500, 0x0, .mark (.nat 1 0 0 (.sg 9 0x4A)))].all reads = true := by decide +kernel

theorem test_slot_words_PKT : [(1, 0xE5F0C1C0, 0x0, .pbld (.nat 1 0 0 (.sr 31 0x6 0x7 0))),
     (1, 0xE85041C0, 0x0, .psend (.nat 1 0 0 (.sr 5 0x2 0x7 0))),
     (1, 0xEC301280, 0x0, .dwait (.nat 1 0 0 (.sr 3 0x0 0x4A 0))),
     (1, 0xF1F0C1C0, 0x0, .darm (.nat 1 0 0 (.sr 31 0x6 0x7 0))),
     (1, 0xF6800160, 0x0, .dread (.nat 1 0 0 (.sr 40 0x0 0x5 1))),
     (1, 0xF8700060, 0x0, .dadd (.nat 1 0 0 (.sr 7 0x0 0x1 1))),
     (1, 0xFC800FE0, 0x0, .dset (.nat 1 0 0 (.sr 8 0x0 0x3F 1)))].all reads = true := by decide +kernel

theorem test_slot_words_VAI : [(2, 0x07E0B000, 0x0, .vaiAdd (.nat 2 0 0 (.vr 31 0x2 0x60 0))),
     (3, 0x0BC0F0A0, 0x0, .vaiSub (.nat 3 0 0 (.vr 30 0x3 0x61 1))),
     (4, 0x0FA13140, 0x0, .vaiMul (.nat 4 0 0 (.vr 29 0x4 0x62 2))),
     (2, 0x138171E0, 0x0, .vaiMulh (.nat 2 0 0 (.vr 28 0x5 0x63 3))),
     (3, 0x1761B200, 0x0, .vaiMin (.nat 3 0 0 (.vr 27 0x6 0x64 0))),
     (4, 0x1B41F2A0, 0x0, .vaiMax (.nat 4 0 0 (.vr 26 0x7 0x65 1))),
     (2, 0x1F220040, 0x0, .vaiAbs (.nat 2 0 0 (.vr 25 0x8 0x0 2))),
     (3, 0x230273E0, 0x0, .vaiAnd (.nat 3 0 0 (.vr 24 0x9 0x67 3))),
     (4, 0x26E2B400, 0x0, .vaiOr (.nat 4 0 0 (.vr 23 0xA 0x68 0))),
     (2, 0x2AC2F4A0, 0x0, .vaiXor (.nat 2 0 0 (.vr 22 0xB 0x69 1))),
     (3, 0x2EA33540, 0x0, .vaiShl (.nat 3 0 0 (.vr 21 0xC 0x6A 2))),
     (4, 0x328375E0, 0x0, .vaiShr (.nat 4 0 0 (.vr 20 0xD 0x6B 3))),
     (2, 0x3663B600, 0x0, .vaiSar (.nat 2 0 0 (.vr 19 0xE 0x6C 0))),
     (3, 0x3A43F6A0, 0x0, .vaiCmp (.nat 3 0 0 (.vr 18 0xF 0x6D 1))),
     (2, 0xFC814300, 0x406A393, .vaiAdd (.nat 2 0 0 (.vx 4 0x5 0x6 0 13 1 0 1 6 0x13)))].all reads = true := by decide +kernel

theorem test_slot_words_VFP : [(2, 0x40100000, 0x0, .vfpAdd (.nat 2 0 0 (.vr 0 0x40 0x0 0))),
     (3, 0x443041A0, 0x0, .vfpSub (.nat 3 0 0 (.vr 1 0x41 0x3 1))),
     (4, 0x48508340, 0x0, .vfpMul (.nat 4 0 0 (.vr 2 0x42 0x6 2))),
     (2, 0x4C70C480, 0x0, .vfpFma (.nat 2 0 0 (.vr 3 0x43 0x9 0))),
     (3, 0x50910620, 0x0, .vfpFms (.nat 3 0 0 (.vr 4 0x44 0xC 1))),
     (4, 0x54B147C0, 0x0, .vfpFnma (.nat 4 0 0 (.vr 5 0x45 0xF 2))),
     (2, 0x58D18900, 0x0, .vfpMin (.nat 2 0 0 (.vr 6 0x46 0x12 0))),
     (3, 0x5CF1CAA0, 0x0, .vfpMax (.nat 3 0 0 (.vr 7 0x47 0x15 1))),
     (4, 0x61120040, 0x0, .vfpAbs (.nat 4 0 0 (.vr 8 0x48 0x0 2))),
     (2, 0x65324000, 0x0, .vfpNeg (.nat 2 0 0 (.vr 9 0x49 0x0 0))),
     (3, 0x69528F20, 0x0, .vfpCmp (.nat 3 0 0 (.vr 10 0x4A 0x1E 1))),
     (4, 0x6D72D0C0, 0x0, .vfpScal (.nat 4 0 0 (.vr 11 0x4B 0x21 2))),
     (2, 0x71930000, 0x0, .vfpRint (.nat 2 0 0 (.vr 12 0x4C 0x0 0))),
     (3, 0x75B353A0, 0x0, .vfpCpsgn (.nat 3 0 0 (.vr 13 0x4D 0x27 1))),
     (2, 0xFC814300, 0x4C395E81, .vfpFma (.nat 2 0 0 (.vx 4 0x5 0x6 7 2 2 7 1 2 0x1)))].all reads = true := by decide +kernel

theorem test_slot_words_VPM : [(2, 0x80400480, 0x0, .vperm (.nat 2 0 0 (.vr 2 0x0 0x9 0))),
     (3, 0x84804020, 0x0, .vcmpr (.nat 3 0 0 (.vr 4 0x1 0x0 1))),
     (4, 0x88C08040, 0x0, .vexpd (.nat 4 0 0 (.vr 6 0x2 0x0 2))),
     (2, 0x8D00C660, 0x0, .vmatch (.nat 2 0 0 (.vr 8 0x3 0xC 3))),
     (3, 0x91410000, 0x0, .vredsum (.nat 3 0 0 (.vr 10 0x4 0x0 0))),
     (4, 0x95814020, 0x0, .vredmin (.nat 4 0 0 (.vr 12 0x5 0x0 1))),
     (2, 0x99C18040, 0x0, .vredmax (.nat 2 0 0 (.vr 14 0x6 0x0 2))),
     (3, 0x9E01C060, 0x0, .vscan (.nat 3 0 0 (.vr 16 0x7 0x0 3))),
     (4, 0xA2420000, 0x0, .vcvt (.nat 4 0 0 (.vr 18 0x8 0x0 0))),
     (2, 0xA6824920, 0x0, .vquant (.nat 2 0 0 (.vr 20 0x9 0x12 1))),
     (3, 0xAAC289C0, 0x0, .vdqnt (.nat 3 0 0 (.vr 22 0xA 0x13 2))),
     (4, 0xAF02CA60, 0x0, .vbcst (.nat 4 0 0 (.vr 24 0xB 0x14 3)))].all reads = true := by decide +kernel

theorem test_slot_words_SFN : [(4, 0xC0104000, 0x0, .vexp2 (.nat 4 0 0 (.vr 0 0x41 0x0 0))),
     (4, 0xC4308020, 0x0, .vlog2 (.nat 4 0 0 (.vr 1 0x42 0x0 1))),
     (4, 0xC850C040, 0x0, .vrcp (.nat 4 0 0 (.vr 2 0x43 0x0 2))),
     (4, 0xCC710000, 0x0, .vrsqrt (.nat 4 0 0 (.vr 3 0x44 0x0 0))),
     (4, 0xD0914020, 0x0, .vsqrt (.nat 4 0 0 (.vr 4 0x45 0x0 1))),
     (4, 0xD4B18040, 0x0, .vsinpi (.nat 4 0 0 (.vr 5 0x46 0x0 2))),
     (4, 0xD8D1C000, 0x0, .vcospi (.nat 4 0 0 (.vr 6 0x47 0x0 0))),
     (4, 0xDCF20020, 0x0, .vtanh (.nat 4 0 0 (.vr 7 0x48 0x0 1))),
     (4, 0xE1124040, 0x0, .verf (.nat 4 0 0 (.vr 8 0x49 0x0 2)))].all reads = true := by decide +kernel

theorem test_slot_words_MTX : [(5, 0x040B0000, 0x0, .mcfg (.nat 5 0 0 (.xs 0 0x2C))),
     (5, 0x08E00000, 0x0, .mcfgr (.nat 5 0 0 (.xs 7 0x0))),
     (5, 0x0C01C000, 0x0, .mlgd (.nat 5 0 0 (.xs 0 0x7))),
     (5, 0x11000000, 0x0, .mlgs (.nat 5 0 0 (.xs 8 0x0))),
     (5, 0x14308000, 0x0, .mdsc (.nat 5 0 0 (.xs 1 0x42))),
     (5, 0x18000000, 0x0, .mzero (.nat 5 0 0 (.xs 0 0x0))),
     (5, 0x2C000000, 0x0, .mstc (.nat 5 0 0 (.xs 0 0x0))),
     (5, 0x1C103C00, 0x0, .mbeat (.nat 5 0 0 (.xb 0x2 0x3 1 4))),
     (5, 0x21105700, 0x0, .mbeatq (.nat 5 0 0 (.xb 0x22 0x5 0 7))),
     (5, 0x253F0000, 0x0, .mdrn (.nat 5 0 0 (.xr 9 31 0))),
     (5, 0x28050400, 0x0, .mfil (.nat 5 0 0 (.xr 0 5 2)))].all reads = true := by decide +kernel

theorem test_slot_words_LDS : [(6, 0x0540DFE0, 0x0, .ld (.nat 6 0 0 (.ma 0 20 6 0x7F 1))),
     (6, 0x1D40DE60, 0x0, .ld (.nat 6 0 0 (.ma 6 20 6 0x79 1))),
     (7, 0x2940DDA0, 0x0, .ld (.nat 7 0 0 (.ma 9 20 6 0x76 1))),
     (6, 0x2CA060E0, 0x0, .st (.nat 6 0 0 (.mw 0 20 6 7))),
     (7, 0x38A060E0, 0x0, .st (.nat 7 0 0 (.mw 3 20 6 7))),
     (6, 0x44A060E0, 0x0, .st (.nat 6 0 0 (.mw 6 20 6 7))),
     (6, 0xF940C380, 0x80000001, .ldLong (.nat 6 0 0 (.me 6 20 6 0x80000001))),
     (6, 0xFCA06380, 0x1234, .stLong (.nat 6 0 0 (.my 3 20 6 0x1234))),
     (7, 0x4940CC00, 0x0, .ldsp (.nat 7 0 0 (.ms 20 6 1 2))),
     (7, 0x5140CC00, 0x0, .ldrs (.nat 7 0 0 (.ms 20 6 1 2))),
     (6, 0x4CA06C00, 0x0, .stsp (.nat 6 0 0 (.mu 20 6 3))),
     (6, 0x54A06C00, 0x0, .strs (.nat 6 0 0 (.mu 20 6 3))),
     (6, 0x59298180, 0x0, .gath (.nat 6 0 0 (.mg 0 9 0x26 3))),
     (7, 0x60486060, 0x0, .scat (.nat 7 0 0 (.mw 0 9 6 3))),
     (6, 0x5D298180, 0x0, .gath (.nat 6 0 0 (.mg 1 9 0x26 3))),
     (7, 0x64486060, 0x0, .scat (.nat 7 0 0 (.mw 1 9 6 3))),
     (6, 0x6850C1C0, 0x0, .tagl (.nat 6 0 0 (.ma 0 5 6 7 0))),
     (6, 0x6C4860E0, 0x0, .tagw (.nat 6 0 0 (.mw 0 9 6 7))),
     (7, 0x70307000, 0x0, .fes (.nat 7 0 0 (.mt 6 7 0 0))),
     (7, 0x74307000, 0x0, .fec (.nat 7 0 0 (.mt 6 7 0 0)))].all reads = true := by decide +kernel

theorem test_slot_words_XFR : [(6, 0x82890000, 0x0, .sbind (.nat 6 0 0 (.mq 5 9 0))),
     (6, 0x86800000, 0x0, .sfree (.nat 6 0 0 (.mq 5 0 0))),
     (7, 0x8A808400, 0x0, .sstat (.nat 7 0 0 (.mq 5 0 33))),
     (6, 0x8C480000, 0x0, .copy (.nat 6 0 0 (.mc 9))),
     (6, 0x92890000, 0x0, .bbset (.nat 6 0 0 (.mn 5 9))),
     (6, 0x96800000, 0x0, .bbwait (.nat 6 0 0 (.mn 5 0))),
     (7, 0x98307900, 0x0, .cmnt (.nat 7 0 0 (.mt 6 7 2 1))),
     (6, 0x9E800000, 0x0, .fence (.nat 6 0 0 (.mf 2 4))),
     (6, 0xA0307300, 0x0, .icinv (.nat 6 0 0 (.mt 6 7 0 3))),
     (6, 0xA5C30800, 0x0, .tclk (.nat 6 0 0 (.mk 7 6 8))),
     (6, 0xA8030800, 0x0, .tculk (.nat 6 0 0 (.mk 0 6 8)))].all reads = true := by decide +kernel

theorem test_slot_words_ATM : [(6, 0xC1590260, 0x0, .aadd (.nat 6 0 0 (.atm 0 21 0x48 9 1))),
     (6, 0xC9590260, 0x0, .aadd (.nat 6 0 0 (.atm 2 21 0x48 9 1))),
     (7, 0xD1590240, 0x0, .amin (.nat 7 0 0 (.atm 1 21 0x48 9 0))),
     (6, 0xE1590240, 0x0, .amax (.nat 6 0 0 (.atm 2 21 0x48 9 0))),
     (6, 0xE5590240, 0x0, .aand (.nat 6 0 0 (.atm 0 21 0x48 9 0))),
     (6, 0xE9590260, 0x0, .aor (.nat 6 0 0 (.atm 0 21 0x48 9 1))),
     (6, 0xED590240, 0x0, .axor (.nat 6 0 0 (.atm 0 21 0x48 9 0))),
     (6, 0xF1590260, 0x0, .axchg (.nat 6 0 0 (.atm 0 21 0x48 9 1))),
     (6, 0xF5590260, 0x0, .acas (.nat 6 0 0 (.atm 0 21 0x48 9 1)))].all reads = true := by decide +kernel

/-- The port codes of R156 in the layout of R140: unit type `t`, the highest instance, trigger codes 4 up. -/
def triggers (t : Nat) (inst : BitVec 2) (ops : List (Form → Instr)) : Bool :=
  ((List.range ops.length).zip ops).all fun (k, op) =>
    decodeTrigger (BitVec.ofNat 12 (0x800 + 128 * t + 32 * inst.toNat + 4 + k)) == some (op (.wy inst))

theorem test_trigger_ports :
    (triggers 0 3 [Instr.add, .sub, .mul, .mulh, .mulhu, .div, .divu, .rem, .remu, .imin, .imax, .minu, .maxu, .iabs, .addw, .subw, .mulw, .lea, .cmp, .sel] &&
     triggers 1 3 [Instr.bitAnd, .bitOr, .bitXor, .shl, .shr, .sar, .rotr, .extu, .exts, .insf, .cnt, .bswap] &&
     triggers 2 0 [Instr.br, .jmp, .call, .callr, .ret, .loop, .lexit, .susp, .spawn, .exit] &&
     triggers 3 0 [Instr.crrd, .crwr, .crset, .sysCrclr, .trap, .tret, .issueat, .frmwait, .timeat, .accsp, .accfl, .msps, .msfl, .mark] &&
     triggers 4 3 [Instr.vaiAdd, .vaiSub, .vaiMul, .vaiMulh, .vaiMin, .vaiMax, .vaiAbs, .vaiAnd, .vaiOr, .vaiXor, .vaiShl, .vaiShr, .vaiSar, .vaiCmp] &&
     triggers 5 3 [Instr.vfpAdd, .vfpSub, .vfpMul, .vfpFma, .vfpFms, .vfpFnma, .vfpMin, .vfpMax, .vfpAbs, .vfpNeg, .vfpCmp, .vfpScal, .vfpRint, .vfpCpsgn] &&
     triggers 6 3 [Instr.vperm, .vcmpr, .vexpd, .vmatch, .vredsum, .vredmin, .vredmax, .vscan, .vcvt, .vquant, .vdqnt, .vbcst] &&
     triggers 7 0 [Instr.vexp2, .vlog2, .vrcp, .vrsqrt, .vsqrt, .vsinpi, .vcospi, .vtanh, .verf] &&
     triggers 8 0 [Instr.mcfg, .mcfgr, .mlgd, .mlgs, .mdsc, .mzero, .mbeat, .mbeatq, .mdrn, .mfil, .mstc] &&
     triggers 9 3 [Instr.ld, .st, .ldsp, .stsp, .ldrs, .strs, .gath, .scat, .tagl, .tagw, .fes, .fec] &&
     triggers 10 3 [Instr.sbind, .sfree, .sstat, .copy, .bbset, .bbwait, .cmnt, .fence, .icinv, .tclk, .tculk] &&
     triggers 11 0 [Instr.pbld, .psend, .dwait, .darm, .dread, .dadd, .dset] &&
     triggers 12 3 [Instr.aadd, .amin, .amax, .aand, .aor, .axor, .axchg, .acas]) = true := by
  decide +kernel

theorem test_trigger_codes_unassigned :
    ([(0, 24), (1, 16), (2, 14), (3, 18), (4, 18), (5, 18), (6, 16), (7, 13), (8, 15), (9, 16), (10, 15), (11, 11), (12, 12), (13, 4), (15, 4)].all
      fun p => (decodeTrigger (BitVec.ofNat 12 (0x800 + 128 * p.1 + p.2))).isNone) = true := by decide +kernel

/-- The moves of the example after R141, and the 64-bit form with its low word first (R139). -/
theorem test_move_words :
    decode .move (bytesOfWord 4 0x00004003) = .ok (some (.moveRegister 0 0 0 0x004 0x003), []) ∧
    decode .move (bytesOfWord 4 0x80003004) = .ok (some (.moveRegister 1 0 0 0x003 0x004), []) ∧
    decode .move (bytesOfWord 4 0x00801004) = .ok (some (.moveRegister 0 0 0 0x801 0x004), []) ∧
    decode .move (bytesOfWord 4 0x80005800) = .ok (some (.moveRegister 1 0 0 0x005 0x800), []) ∧
    decode .move (bytesOfWord 4 0x09822FFD) = .ok (some (.moveImmediate12 0 0 2 0x822 0xFFD), []) ∧
    decode .move (bytesOfWord 4 0x82009000 ++ bytesOfWord 4 0x00010000) = .ok (some (.moveImmediate32 1 0 0 0x009 0x00010000), []) ∧
    decode .move (bytesOfWord 4 0x83009000 ++ bytesOfWord 4 0x00000001 ++ bytesOfWord 4 0x80000000) =
      .ok (some (.moveImmediate64 1 0 0 0x009 0x8000000000000001), []) := by decide +kernel

/-- OP in bits 15:10 over OPD in bits 9:0, the low byte first (R275). -/
theorem test_transit_words : (([(0x06A5, .pushi 0x2A5), (0x0AA5, .xtnd 0x2A5), (0x0C02, .ldw 2), (0x1003, .stw 3), (0x1400, .dup), (0x1800, .drop)] ++
    [(0x1C00, .swap), (0x2000, .transitAdd), (0x2400, .transitSub), (0x2800, .transitAnd), (0x2C00, .transitOr), (0x3000, .transitXor)] ++
    [(0x3400, .transitShl), (0x3800, .transitShr), (0x3FFF, .addi 0x3FF), (0x4000, .ceq), (0x4400, .clt), (0x4800, .cltu)] ++
    [(0x4D07, .env 0x107), (0x5000, .wpld), (0x5400, .wpst), (0x5800, .wpadd), (0x5C00, .wpclm), (0x603F, .pld 63)] ++
    [(0x6405, .pst 5), (0x6847, .pvadd 1 7), (0x6C01, .comb 1), (0x7009, .skz 9), (0x740F, .sknz 15), (0x7801, .skip 1)] ++
    [(0x7FC0, .clon 0x3C0), (0x800E, .fwd 0xE), (0x84C0, .least 0x0C0), (0x8800, .dlvr), (0x8D55, .park 0x155), (0x9000, .kill)] : List (Nat × Instr)).all fun p =>
      match decode .transit (bytesOfWord 2 p.1) with | .ok (some j, []) => j == p.2 | _ => false) = true ∧
    ([0x0000, 0x9400, 0xFC00, 0x0C04, 0x1401, 0x8010, 0x6C02].all fun w => match decode .transit (bytesOfWord 2 w) with
      | .error _ => true | .ok _ => false) = true := by decide +kernel

/-! ## What the encodings refuse

One ill-formed instruction for each check of `WellFormed`. -/

theorem test_refused_moves :
    ([.moveRegister 0 1 0 0x005 0x006, .moveRegister 0 0 0 0x140 0x006, .moveRegister 0 0 0 0x120 0x006,
      .moveRegister 0 0 0 0x220 0x006, .moveRegister 0 0 0 0x700 0x006, .moveRegister 0 0 0 0xFA0 0x006,
      .moveRegister 0 0 0 0x81F 0x006, .moveRegister 0 0 0 0x920 0x006, .moveRegister 0 0 0 0x005 0x803,
      .moveRegister 0 0 0 0x005 0x140, .moveImmediate12 0 1 0 0x005 0, .moveImmediate32 0 0 0 0xFE0 0,
      .moveImmediate64 0 0 0 0x320 0] : List Instr).all (fun i => !WellFormed i) = true := by decide +kernel

theorem test_refused_places :
    ([.add (.nat 0 1 0 (.sr 5 6 7 0)), .add (.nat 2 0 0 (.sr 5 6 7 0)), .add (.nat 1 0 0 (.se 5 6 7)), .pbld (.nat 0 0 0 (.sr 31 6 7 0)),
      .vexp2 (.nat 3 0 0 (.vr 10 11 0 1)), .add (.nat 0 0 0 (.vr 5 6 7 0)), .cmpn (.wy 0), .br (.wy 1),
      .bundleIssue 1792, .transitRun 230 .combine, .linkCrcRetry { router := 231, dir := 0, die := 0 },
      .cacheEviction (.l1 1792) 0] : List Instr).all (fun i => !WellFormed i) = true := by decide +kernel

theorem test_refused_fields :
    ([.iabs (.nat 0 0 0 (.sr 5 6 7 0)), .jmp (.nat 0 0 0 (.sr 1 6 7 0)), .cnt (.nat 0 0 0 (.sr 5 6 3 1)), .cnt (.nat 0 0 0 (.sr 5 6 2 0)),
      .dread (.nat 1 0 0 (.sr 32 1 5 1)), .cmp (.nat 0 0 0 (.sk 3 3 4 5 0)), .crrd (.nat 0 0 0 (.sc 3 1 6)), .tret (.nat 1 0 0 (.sg 1 0)),
      .lea (.nat 0 0 0 (.sp 5 6 7 4)), .vfpAdd (.nat 2 0 0 (.vr 1 2 3 3)), .vfpAbs (.nat 2 0 0 (.vr 1 2 3 0)), .vfpFma (.nat 2 0 0 (.vr 1 2 3 3)),
      .vexp2 (.nat 4 0 0 (.vr 10 11 1 1)), .mbeatq (.nat 5 0 0 (.xb 2 3 1 4)), .mdsc (.nat 5 0 0 (.xs 2 3)), .mzero (.nat 5 0 0 (.xs 1 0)),
      .ld (.nat 6 0 0 (.ma 10 1 2 3 0)), .ld (.nat 6 0 0 (.ma 8 32 2 3 0)), .ldsp (.nat 6 0 0 (.ms 1 2 3 0)), .gath (.nat 6 0 0 (.mg 0 1 6 3)),
      .fence (.nat 6 0 0 (.mf 3 0)), .fence (.nat 6 0 0 (.mf 0 5)), .vquant (.nat 4 0 0 (.vr 3 6 7 0)), .vquant (.nat 4 0 0 (.vr 4 5 7 0))] :
      List Instr).filter WellFormed = [] := by decide +kernel

/-! ## Results of the spec's worked examples -/

/-- What a Wyilo operation leaves in its unit's result port, or puts on the way there. -/
def leaves (u : Unit13) (i : Instr) (s : State) : Option Vec :=
  match exec i s with
  | .next t => match (t.core.port (portIx u 0)).y with
    | .val v => some v
    | _ => match t.core.outst with
      | [{ awaits := .ready v _, .. }] => some v
      | _ => none
  | _ => none

/-- The field example of R179's chapter: offset 16, width 12. -/
theorem test_bit_fields : leaves .BIT (.extu wy) (latched 0xABCD1234 16 12 0) = some 0xBCD ∧
    leaves .BIT (.exts wy) (latched 0xABCD1234 16 12 0) = some (BitVec.ofInt 64 (-1075) |>.setWidth 1024) := by decide +kernel

/-- The lane example of R213: 100 and 50 in 8 bits. -/
theorem test_vai_lanes : ([(Instr.vaiAdd, 9, 0x96), (.vaiMul, 9, 0x88), (.vaiMulh, 9, 0x13)].all fun (op, m, r) =>
    leaves .VAI (op wy) (latched 0x64 0x32 0 m) == some r) = true := by decide +kernel

/-- The tables' example: exp2 of 0.5 and log2 of 1.5 in FP32, in lane 0. -/
theorem test_exp2_log2 : (leaves .SFN (.vexp2 wy) (latched 0x3F000000 0 0 0)).map (·.setWidth 32) = some (0x3FB504F3 : BitVec 32) ∧
    (leaves .SFN (.vlog2 wy) (latched 0x3FC00000 0 0 0)).map (·.setWidth 32) = some (0x3F15C01A : BitVec 32) := by decide +kernel

end Sys2Proof.Tests
end

section
/-! SUPPORT. The layout of a save area: which bytes stand at which offset of an image, and what they read back as (R63, R64). -/

namespace Sys2Proof

theorem RF.get_ofFn {n : Nat} {α : Type} (f : Fin (2 ^ n) → α) (i : BitVec n) : RF.get (Vector.ofFn f) i = f ⟨i.toNat, i.isLt⟩ := by
  simp [RF.get, Vector.get_eq_getElem]

namespace Machine

/-- The bytes `bs` stand at offset `o` of an image. -/
def ImageHas (img : List Byte) (o : Nat) (bs : List Byte) : Prop := ∃ r, img.drop o = bs ++ r

theorem ImageHas.whole (img : List Byte) : ImageHas img 0 img := ⟨[], by simp⟩

variable {img : List Byte} {o : Nat}

theorem ImageHas.left {a b : List Byte} (h : ImageHas img o (a ++ b)) : ImageHas img o a := by
  obtain ⟨r, h⟩ := h
  exact ⟨b ++ r, by rw [h, List.append_assoc]⟩

theorem ImageHas.right {a b : List Byte} (h : ImageHas img o (a ++ b)) : ImageHas img (o + a.length) b := by
  obtain ⟨r, h⟩ := h
  exact ⟨r, by rw [← List.drop_drop, h, List.append_assoc, List.drop_left]⟩

/-- A concatenation is laid out part after part. -/
theorem imageHas_append {a b : List Byte} :
    ImageHas img o (a ++ b) ↔ ImageHas img o a ∧ ImageHas img (o + a.length) b := by
  refine ⟨fun h => ⟨h.left, h.right⟩, ?_⟩
  rintro ⟨⟨r, ha⟩, q, hb⟩
  rw [← List.drop_drop, ha, List.drop_left] at hb
  exact ⟨q, by rw [ha, hb, List.append_assoc]⟩

/-- Entry `i` of a table of `m` entries of `w` bytes stands at `w * i`. -/
theorem ImageHas.entry {f : Nat → List Byte} {w m i : Nat} (h : ImageHas img o ((List.range m).flatMap f))
    (hf : ∀ i, (f i).length = w) (hi : i < m) : ImageHas img (o + w * i) (f i) := by
  obtain ⟨k, rfl⟩ : ∃ k, m = i + (1 + k) := ⟨m - i - 1, by omega⟩
  rw [List.range_add, List.flatMap_append] at h
  have hlen : ((List.range i).flatMap f).length = w * i := by simp [List.length_flatMap, hf, Nat.mul_comm]
  have := h.right
  rw [hlen, List.range_add, List.map_append, List.flatMap_append] at this
  simpa using this.left

/-- A little-endian register in an image reads back as it was stored (R4). -/
theorem ImageHas.reads {k w : Nat} {x : BitVec w} (h : ImageHas img o (leBytes k x.toNat)) (hw : w ≤ 8 * k) :
    BitVec.ofNat w (imgNat img o k) = x := by
  obtain ⟨r, h⟩ := h
  have hx : x.toNat < 256 ^ k := calc
    x.toNat < 2 ^ w := x.isLt
    _ ≤ 2 ^ (8 * k) := Nat.pow_le_pow_right (by omega) hw
    _ = 256 ^ k := by rw [Nat.pow_mul]
  have ht : (img.drop o).take k = leBytes k x.toNat := by
    rw [h, List.take_left' (leBytes_length k _)]
  rw [imgNat, ht, leNat_leBytes _ _ hx]
  simp

end Machine

namespace Claims
open Machine

section
variable (c : Core) (n : CoreNo) (loop acch : Bool)

theorem length_saveHeader (state : Nat) : (c.saveHeader n state loop acch).length = 0x40 := by
  simp [Core.saveHeader, leBytes_length]

theorem length_saveLow : c.saveLow.length = 0x700 := by
  simp [Core.saveLow, leBytes_length]

theorem length_saveHigh : c.saveHigh.length = 0x1080 := by
  simp [Core.saveHigh, leBytes_length]

theorem length_savedImage : (savedImage c n loop acch).length = 0x1800 := by
  simp [savedImage, length_saveHeader, length_saveLow, length_saveHigh]

/-- The three parts of a save area that hold anything (R63). -/
theorem savedImage_parts : ImageHas (savedImage c n loop acch) 0 (c.saveHeader n 1 loop acch) ∧
    ImageHas (savedImage c n loop acch) 0x40 c.saveLow ∧ ImageHas (savedImage c n loop acch) 0x780 c.saveHigh := by
  have h := ImageHas.whole (savedImage c n loop acch)
  unfold savedImage at h ⊢
  simp only [imageHas_append, length_saveHeader, length_saveLow, List.length_append, List.length_replicate] at h
  obtain ⟨⟨⟨hh, hl⟩, -⟩, hu⟩ := h
  exact ⟨hh, hl, hu⟩

/-- What the header of a save area holds (R64). -/
theorem savedImage_header : let img := savedImage c n loop acch
    ImageHas img 8 (leBytes 8 ((c.ctx.pc &&& (0x01FFFFFFFFFFFFFC : Word)) ||| ((BitVec.ofBool c.pin).setWidth 64 <<< 61)).toNat) ∧
    ImageHas img 16 (leBytes 8 c.ctx.code.toNat) ∧ ImageHas img 32 (leBytes 8 c.ctx.lastSusp.toNat) ∧
    ImageHas img 40 ((List.range 8).flatMap fun i => leBytes 2 (c.ctx.coords.get (BitVec.ofNat 3 i)).toNat) := by
  have h := (savedImage_parts c n loop acch).1
  simp only [Core.saveHeader, imageHas_append, leBytes_length, List.length_append] at h
  obtain ⟨⟨⟨⟨⟨⟨-, hpc⟩, hcode⟩, -⟩, hsusp⟩, hcoords⟩, -⟩ := h
  exact ⟨hpc, hcode, hsusp, hcoords⟩

/-- What the lower part of a save area holds (R63). -/
theorem savedImage_low : let img := savedImage c n loop acch
    ImageHas img 0x40 ((List.range 24).flatMap fun i => leBytes 8 (if i < 23 then c.creg (BitVec.ofNat 5 i) else 0).toNat) ∧
    ImageHas img 0x100 ((List.range 64).flatMap fun i => leBytes 8 (c.ctx.rdS (BitVec.ofNat 6 i)).toNat) ∧
    ImageHas img 0x300 ((List.range 8).flatMap fun i => leBytes 16 (c.ctx.k.get (BitVec.ofNat 3 i)).toNat) ∧
    ImageHas img 0x380 ((List.range 4).flatMap fun i => leBytes 16 (c.ctx.lc.get (BitVec.ofNat 2 i)).toNat) ∧
    ImageHas img 0x3C0 (leBytes 8 c.ctx.sfull.toNat) ∧ ImageHas img 0x3C8 (leBytes 4 c.ctx.vfull.toNat) ∧
    ImageHas img 0x3CC (leBytes 2 (c.ctx.p ||| 1).toNat) ∧
    ImageHas img 0x400 ((List.range 8).flatMap fun i => leBytes 32 (c.ctx.q.get (BitVec.ofNat 3 i)).desc.toNat) := by
  have h := (savedImage_parts c n loop acch).2.1
  simp only [Core.saveLow, imageHas_append, leBytes_length, List.length_append, List.length_flatMap, List.length_replicate,
    List.map_const', List.length_range, List.sum_replicate, smul_eq_mul] at h
  obtain ⟨⟨⟨⟨⟨⟨⟨⟨⟨⟨hcr, hs⟩, hk⟩, hlc⟩, hsf⟩, hvf⟩, hp⟩, -⟩, -⟩, hq⟩, -⟩ := h.1
  exact ⟨hcr, hs, hk, hlc, hsf, hvf, hp, hq⟩

/-- The vector registers end a save area (R63). -/
theorem savedImage_vectors : ImageHas (savedImage c n loop acch) 0x800
    ((List.range 32).flatMap fun i => leBytes 128 (c.ctx.rdV (BitVec.ofNat 5 i)).toNat) := by
  obtain ⟨-, -, h⟩ := savedImage_parts c n loop acch
  simpa [leBytes_length] using h.right

end

/-- PIN of the header's PC word lies outside the virtual PC (R64). -/
theorem pinBit_and_pcMask (b : Bool) : (BitVec.ofBool b).setWidth 64 <<< 61 &&& (0x01FFFFFFFFFFFFFC : Word) = 0#64 := by
  revert b; decide

/-- The first part of O46: every field of the context is read from the bytes that its save laid there. -/
theorem contextsResumeAsSaved : ContextsResumeAsSaved := by
  intro c n loop acch loops
  obtain ⟨hpc, hcode, hsusp, hcoords⟩ := savedImage_header c n loop acch
  obtain ⟨hcr, hs, hk, hlc, hsf, hvf, hp, hq⟩ := savedImage_low c n loop acch
  have hv := savedImage_vectors c n loop acch
  refine ⟨length_savedImage c n loop acch, fun i => ?s, fun i => ?v, fun i => ?p, fun i => ?k, fun i => ?lc, hsf.reads (by simp),
    hvf.reads (by simp), fun i hi => ?cr, fun i => ?q, fun i => ?coords, ?pc, hcode.reads (by simp), hsusp.reads (by simp), rfl⟩
  case s =>
    have := (hs.entry (fun _ => leBytes_length 8 _) i.isLt).reads (by simp)
    rw [BitVec.ofNat_toNat, BitVec.setWidth_eq] at this
    by_cases hi : i = 0
    · rw [hi, Ctx.rdS_zero, Ctx.rdS_zero]
    · rw [← this, Ctx.rdS, if_neg hi]
      simp [ctxOfImage, RF.get_ofFn]
  case v =>
    have := (hv.entry (fun _ => leBytes_length 128 _) i.isLt).reads (by simp)
    simpa [Ctx.rdV, ctxOfImage, RF.get_ofFn] using this
  case p =>
    have := hp.reads (by simp)
    by_cases hi : i = 0
    · rw [hi, Ctx.rdP_zero, Ctx.rdP_zero]
    · have hi : i.toNat ≠ 0 := fun h => hi (BitVec.eq_of_toNat_eq h)
      simp [Ctx.rdP, ctxOfImage, this, hi]
  case k =>
    have := (hk.entry (fun _ => leBytes_length 16 _) i.isLt).reads (by simp)
    simpa [ctxOfImage, RF.get_ofFn] using this
  case lc =>
    have := (hlc.entry (fun _ => leBytes_length 16 _) i.isLt).reads (by simp)
    simpa [ctxOfImage, RF.get_ofFn] using congrArg lcHeld this
  case cr =>
    have := (hcr.entry (fun _ => leBytes_length 8 _) (show i.toNat < 24 by omega)).reads (by simp)
    simp only [hi, if_true, BitVec.ofNat_toNat, BitVec.setWidth_eq] at this
    simp [ctxOfImage, Ctx.creg, RF.get_ofFn, hi, this]
  case q =>
    have := (hq.entry (fun _ => leBytes_length 32 _) i.isLt).reads (by simp)
    simpa [ctxOfImage, RF.get_ofFn] using congrArg sdHeld this
  case coords =>
    have := (hcoords.entry (fun _ => leBytes_length 2 _) i.isLt).reads (by simp)
    simpa [ctxOfImage, RF.get_ofFn] using this
  case pc =>
    have := hpc.reads (by simp)
    simp only [ctxOfImage, this, BitVec.and_or_distrib_right, BitVec.and_assoc, BitVec.and_self, pinBit_and_pcMask, BitVec.or_zero]

end Claims
end Sys2Proof
end

section
/-! SUPPORT. Requests for pre-emption: what one does to the cores that it reaches and to the others (R59, R192). -/

namespace Sys2Proof

/-- Reading a table whose entries have been changed one by one, by a change that keeps what an absent entry reads as. -/
theorem Tbl.get_map {α : Type} {d : α} {f : Nat → α → α} {k : Nat} (hd : f k d = d) (t : Tbl α) :
    Tbl.get d (t.map fun kc => (kc.1, f kc.1 kc.2)) k = f k (Tbl.get d t k) := by
  induction t with
  | nil => exact hd.symm
  | cons e r ih =>
    simp only [List.map_cons, Tbl.get]
    split
    · next h => rw [h]
    · exact ih

/-- What reads otherwise than an absent entry stands in the table. -/
theorem Tbl.mem_of_get_ne {α : Type} {d : α} {k : Nat} {t : Tbl α} (h : Tbl.get d t k ≠ d) : (k, Tbl.get d t k) ∈ t := by
  induction t with
  | nil => exact absurd rfl h
  | cons e r ih =>
    obtain ⟨j, y⟩ := e
    simp only [Tbl.get] at h ⊢
    split
    · next hk => subst hk; exact List.mem_cons_self
    · next hk => rw [if_neg hk] at h; exact List.mem_cons_of_mem _ (ih h)

namespace Machine

/-! ## Events at a core -/

/-- An event at a core that runs a task does what it does. -/
theorem coreEvent_alive {n : CoreNo} {s : State} (hn : coreOk n = true) (ha : s.alive n = true) (f : State → State) :
    coreEvent n f s = .next (f s) := by
  simp [coreEvent, hn, ha]

theorem State.alive_iff {s : State} {n : CoreNo} :
    s.alive n = true ↔ s.plat.failStop = false ∧ ∃ r, (s.coreAt n).running = some r := by
  simp [State.alive, Option.isSome_iff_exists]

/-- Reading a core after every core has been changed by a change that leaves a core at reset as it is. -/
theorem State.coreAt_mapCores (s : State) {f : Nat → Core → Core} {n : CoreNo} (hf : f n.toNat {} = {}) :
    ({ s with cores := s.cores.map fun kc => (kc.1, f kc.1 kc.2) } : State).coreAt n = f n.toNat (s.coreAt n) :=
  Tbl.get_map hf _

/-! ## Requests -/

/-- A core that a request names, with `own` one of its task's own slice (R59). -/
def Core.requested (c : Core) (own : Bool) : Core := { c.asked with sliceCut := c.sliceCut || own && !c.preempt }

@[simp] theorem Core.requested_preempt (c : Core) (own : Bool) : (c.requested own).preempt = true := rfl
@[simp] theorem Core.requested_inService (c : Core) (own : Bool) : (c.requested own).inService = c.inService := rfl
@[simp] theorem Core.requested_sheets (c : Core) (own : Bool) : (c.requested own).sheets = c.sheets := rfl

/-- A request changes nothing of a core's context and task, and takes no request back. -/
def Core.MayBeAsked (c d : Core) : Prop :=
  d.ctx = c.ctx ∧ d.running = c.running ∧ (c.preempt = true → d.preempt = true)

/-- What a request to core `m`, which runs `r`, makes of core `k`: core `m` and the others of its gang are asked (R59). -/
def Core.afterRequest (c : Core) (m : CoreNo) (r : Running) (own : Bool) (k : Nat) : Core :=
  match c.running with
  | some x =>
    if k = m.toNat then c.requested own
    else if r.gang ≠ 0 ∧ x.gang = r.gang ∧ x.tenant = r.tenant ∧ x.handle = r.handle then c.asked
    else c
  | none => c

theorem State.requestCore_coreAt {s : State} {m : CoreNo} {r : Running} (h : (s.coreAt m).running = some r) (own : Bool) (n : CoreNo) :
    (s.requestCore m own).coreAt n = (s.coreAt n).afterRequest m r own n.toNat := by
  unfold State.requestCore
  rw [h]
  exact State.coreAt_mapCores s (f := fun k c => c.afterRequest m r own k) rfl

/-- The core that a request names is asked. -/
theorem State.requestCore_self {s : State} {n : CoreNo} {r : Running} (h : (s.coreAt n).running = some r) (own : Bool) :
    (s.requestCore n own).coreAt n = (s.coreAt n).requested own := by
  simp only [State.requestCore_coreAt h, Core.afterRequest, h, if_true]

theorem Core.mayBeAsked_afterRequest (c : Core) (m : CoreNo) (r : Running) (own : Bool) (k : Nat) :
    c.MayBeAsked (c.afterRequest m r own k) := by
  unfold Core.afterRequest
  split
  · split
    · exact ⟨rfl, rfl, fun _ => rfl⟩
    · split
      · exact ⟨rfl, rfl, fun _ => rfl⟩
      · exact ⟨rfl, rfl, id⟩
  · exact ⟨rfl, rfl, id⟩

/-- A request changes any core at most by asking it. -/
theorem State.requestCore_asks (s : State) (m : CoreNo) (own : Bool) (n : CoreNo) :
    (s.coreAt n).MayBeAsked ((s.requestCore m own).coreAt n) := by
  cases h : (s.coreAt m).running with
  | none => simp [State.requestCore, h, Core.MayBeAsked]
  | some r => exact State.requestCore_coreAt h own n ▸ Core.mayBeAsked_afterRequest ..

@[simp] theorem State.requestCore_mem (s : State) (n : CoreNo) (own : Bool) : (s.requestCore n own).mem = s.mem := by
  unfold State.requestCore; split <;> rfl

@[simp] theorem State.requestCore_plat (s : State) (n : CoreNo) (own : Bool) : (s.requestCore n own).plat = s.plat := by
  unfold State.requestCore; split <;> rfl

/-- Requests in turn to a list of cores ask a core of the list that runs a task, and change nothing else of it. -/
theorem State.requestCores_ask (l : List CoreNo) (n : CoreNo) (s : State) :
    let t := l.foldl (fun s n => s.requestCore n false) s
    (s.coreAt n).MayBeAsked (t.coreAt n) ∧ t.mem = s.mem ∧
      ((s.coreAt n).running.isSome = true → n ∈ l → (t.coreAt n).preempt = true) := by
  induction l generalizing s with
  | nil => exact ⟨⟨rfl, rfl, id⟩, rfl, fun _ h => absurd h List.not_mem_nil⟩
  | cons m l ih =>
    obtain ⟨hctx, hrun, hpre⟩ := s.requestCore_asks m false n
    obtain ⟨⟨ictx, irun, ipre⟩, imem, iask⟩ := ih (s.requestCore m false)
    refine ⟨⟨ictx.trans hctx, irun.trans hrun, ipre ∘ hpre⟩, imem.trans (s.requestCore_mem m false), fun hr hm => ?_⟩
    rcases List.mem_cons.mp hm with rfl | hm
    · obtain ⟨r, hr⟩ := Option.isSome_iff_exists.mp hr
      exact ipre (by rw [State.requestCore_self hr]; rfl)
    · exact iask (hrun ▸ hr) hm

/-- The cores whose tasks meet a test include a core whose task meets it. -/
theorem State.mem_coresWith {s : State} {n : CoreNo} {r : Running} (p : Nat → Running → Bool) (h : (s.coreAt n).running = some r)
    (hp : p n.toNat r = true) : n ∈ s.coresWith p := by
  have hne : s.coreAt n ≠ {} := fun e => by rw [e] at h; cases h
  refine List.mem_map.mpr ⟨(n.toNat, s.coreAt n), List.mem_filter.mpr ⟨Tbl.mem_of_get_ne hne, ?_⟩, ?_⟩
  · simp only [h, hp]
  · simp

end Machine

namespace Claims
open Machine

/-- A supervisor's request asks a core whose task it means. -/
theorem execPreemptionRequest_asks {s : State} {n : CoreNo} {r : Running} (hs : s.plat.failStop = false)
    (hr : (s.coreAt n).running = some r) {w : PreemptTarget} (hw : w = .core n ∨ w = .launch r.tenant r.handle ∨ w = .tenant r.tenant) :
    ∃ t, exec (.preemptionRequest w) s = .next t ∧
      (t.coreAt n).preempt = true ∧ (t.coreAt n).ctx = (s.coreAt n).ctx ∧ (t.coreAt n).running = some r ∧ t.mem = s.mem := by
  refine ⟨_, rfl, ?_⟩
  rw [hs, if_neg Bool.false_ne_true]
  obtain ⟨⟨hctx, hrun, -⟩, hm, hask⟩ := State.requestCores_ask (s.coresWith _) n s
  refine ⟨hask (by rw [hr]; rfl) (State.mem_coresWith _ hr ?_), hctx, hrun.trans hr, hm⟩
  rcases hw with rfl | rfl | rfl <;> simp

theorem exec_timeSliceExpiry (n : CoreNo) (s : State) : exec (.timeSliceExpiry n) s = execTimeSliceExpiry n s := rfl

/-- The second part of O46: what a request does to one core, over the cores that it reaches. -/
theorem preemptionIsAskedFor : PreemptionIsAskedFor := by
  intro s n r hs hr
  refine ⟨fun w hw => execPreemptionRequest_asks hs hr hw, fun l hn hl hexp hpre hpin => ?_⟩
  have hexec : exec (.timeSliceExpiry n) s =
      .next (if s.candidateFor n (s.queueClass l.tenant l.queue).toNat then s.requestCore n true else s) := by
    rw [exec_timeSliceExpiry, execTimeSliceExpiry, coreEvent_alive hn (State.alive_iff.mpr ⟨hs, r, hr⟩)]
    simp only [hr, hl, hexp, hpre, hpin, Bool.not_true, Bool.or_false, Bool.false_eq_true, if_false]
  refine ⟨fun hc => ⟨_, by rw [hexec, if_pos hc], ?_⟩, fun hc => by rw [hexec, hc, if_neg Bool.false_ne_true]⟩
  rw [State.requestCore_self hr, State.requestCore_mem]
  exact ⟨rfl, by simp [Core.requested, hpre], rfl, rfl⟩

end Claims
end Sys2Proof
end

section
/-! SUPPORT. A saved task leaves its core and waits in its launch (R60-R62, R447). -/

namespace Sys2Proof.Machine

/-! ## A core without its task -/

/-- A core that holds no task and no context. -/
def Core.Empty (c : Core) : Prop := c.running = none ∧ c.ctx = {}

@[simp] theorem Core.traceAdd_running (c : Core) (kind num : BitVec 8) (val cyc : Word) :
    (c.traceAdd kind num val cyc).running = c.running := by
  unfold Core.traceAdd Core.traceAddFor; split <;> rfl


theorem State.leaveCore_empty (s : State) (n : CoreNo) (why : BitVec 8) : ((s.leaveCore n why).coreAt n).Empty := by
  unfold State.leaveCore
  rw [State.coreAt_setCoreAt_same]
  exact ⟨rfl, rfl⟩

@[simp] theorem State.leaveCore_preempt (s : State) (n : CoreNo) (why : BitVec 8) : ((s.leaveCore n why).coreAt n).preempt = false := by
  simp [State.leaveCore]

theorem State.leaveCore_lastTenant {s : State} {n : CoreNo} {r : Running} (h : (s.coreAt n).running = some r) (why : BitVec 8) :
    ((s.leaveCore n why).coreAt n).lastTenant = some r.tenant := by
  simp [State.leaveCore, h]

/-! ## A task that waits in its launch -/

theorem State.findLaunch_mem {s : State} {t : BitVec 5} {h : BitVec 32} {l : Launch} (hl : s.findLaunch t h = some l) :
    l ∈ s.dist.launches := by
  unfold State.findLaunch at hl
  split at hl
  · next hf => exact Option.some.inj hl ▸ List.mem_of_find?_eq_some hf
  · exact List.mem_of_find?_eq_some hl

@[simp] theorem State.addWaiting_mem (s : State) (r : Running) (w : Waiting) : (s.addWaiting r w).mem = s.mem := by
  unfold State.addWaiting; split <;> rfl

@[simp] theorem State.addWaiting_coreAt (s : State) (r : Running) (w : Waiting) (n : CoreNo) :
    (s.addWaiting r w).coreAt n = s.coreAt n := by
  unfold State.addWaiting; split <;> rfl

/-- A task that waits stands in its launch. -/
theorem State.addWaiting_waits {s : State} {r : Running} {l : Launch} (h : s.findLaunch r.tenant r.handle = some l) (w : Waiting) :
    ∃ l' ∈ (s.addWaiting r w).dist.launches, l'.order = l.order ∧ w ∈ l'.waiting := by
  unfold State.addWaiting
  rw [h]
  refine ⟨{ l with waiting := l.waiting ++ [w] }, List.mem_map.mpr ⟨l, State.findLaunch_mem h, if_pos rfl⟩, rfl, ?_⟩
  exact List.mem_append_right _ List.mem_cons_self

/-- A saved task has left its core, and it waits in its launch as `w` (R62). -/
theorem State.saved_leaves {s : State} {n : CoreNo} {r : Running} {l : Launch} (hr : (s.coreAt n).running = some r)
    (hl : s.findLaunch r.tenant r.handle = some l) (decs : List (BitVec 4 × Nat)) (f : Word → List (BitVec 2) → TaskMem → Waiting) :
    let t := s.saved n decs f
    let w := f ((s.coreAt n).creg crSAVEA) (s.coreAt n).ctx.loops { s.taskMem n with decs := decs }
    t.mem = s.mem ∧ (t.coreAt n).running = none ∧ (t.coreAt n).ctx = {} ∧ (t.coreAt n).lastTenant = some r.tenant ∧
      (t.coreAt n).preempt = false ∧ ∃ l' ∈ t.dist.launches, l'.order = l.order ∧ w ∈ l'.waiting := by
  obtain ⟨hrun, hctx⟩ := s.leaveCore_empty n 2
  simp only [State.saved, hr, State.addWaiting_mem, State.addWaiting_coreAt]
  exact ⟨rfl, hrun, hctx, State.leaveCore_lastTenant hr 2, State.leaveCore_preempt s n 2,
    State.addWaiting_waits (s := s.leaveCore n 2) hl _⟩

/-! ## The steps of a save and of a hold -/

@[simp] theorem Core.partHold_loops (c : Core) : c.partHold.ctx.loops = c.ctx.loops := by unfold Core.partHold; split <;> rfl
@[simp] theorem Core.partHold_sliceCut (c : Core) : c.partHold.sliceCut = c.sliceCut := by unfold Core.partHold; split <;> rfl

/-- A request for pre-emption that is met outside loops saves the context where the core stands (R60-R62). -/
theorem State.preemptStep_outsideLoops {s u : State} {n : CoreNo} {decs : List (BitVec 4 × Nat)} (hp : (s.coreAt n).preempt = true)
    (hb : s.atBoundary n = true) (hh : s.blocked n = false) (hl : (s.coreAt n).ctx.loops = [])
    (hu : (let p := s.setCoreAt n (s.coreAt n).partHold; p.setCoreAt n (p.coreAt n).unstop).saveContext n false = .done u decs) :
    s.preemptStep n = u.saved n decs fun a loops k => .preempted a n (s.coreAt n).sliceCut loops k := by
  simp only [State.coreAt_setCoreAt_same] at hu
  simp only [State.preemptStep, hp, hh, hb, hl, hu, State.coreAt_setCoreAt_same, Core.partHold_loops, Core.partHold_sliceCut,
    Bool.not_true, Bool.and_false, Bool.false_eq_true, if_false, List.isEmpty_nil, Bool.or_true, Bool.true_or, Bool.or_false]

/-- A page fault that is held saves the context at the entry of its sheet and leaves an entry in the ring (R447). -/
theorem State.holdStep_saved {s u : State} {n : CoreNo} {tr : TrapInfo} {decs : List (BitVec 4 × Nat)}
    (ht : (s.coreAt n).pendTrap = some tr) (hf : s.faultHeld n tr = true)
    (hu : (let p := s.discardSheet n 0
      p.setCoreAt n { (p.coreAt n).unstop with loopSave := false, group := [], pendTrap := some tr }).saveContext n false = .done u decs) :
    s.holdStep n = (u.queueFault (s.coreAt n).tenant (heldEntry (u.coreAt n) tr)).saved n decs fun a loops k => .held a n loops k := by
  simp only at hu
  simp only [State.holdStep, ht, hf, hu, Bool.not_true, Bool.false_eq_true, if_false]

@[simp] theorem State.raiseMsix_cores (s : State) (v : Nat) : (s.raiseMsix v).cores = s.cores := by
  unfold State.raiseMsix; split
  · rfl
  · split <;> rfl

/-- The entry of a held fault is written beside the cores. -/
@[simp] theorem State.queueFault_coreAt (s : State) (t : BitVec 5) (e : List Byte) (n : CoreNo) :
    (s.queueFault t e).coreAt n = s.coreAt n := by
  simp [State.queueFault, State.coreAt, State.baseRelease]

end Sys2Proof.Machine

namespace Sys2Proof.Claims
open Machine

theorem exec_preemptionSave (n : CoreNo) (s : State) : exec (.preemptionSave n) s = execPreemptionSave n s := rfl
theorem exec_pageFaultHold (n : CoreNo) (s : State) : exec (.pageFaultHold n) s = execPageFaultHold n s := rfl

/-- The third part of O46: a save that is done ends in `State.saved`, on either way there. -/
theorem savedTasksLeaveTheirCore : SavedTasksLeaveTheirCore := by
  intro s n u r l hn ha hr
  rw [exec_preemptionSave, exec_pageFaultHold, execPreemptionSave, execPageFaultHold, coreEvent_alive hn ha, coreEvent_alive hn ha]
  refine ⟨fun decs hp hb hh hloops hl hu huloops => ?preempted, fun tr decs ht hf hu => ?held, fun hp => ?unasked⟩
  case preempted =>
    refine ⟨_, congrArg _ (State.preemptStep_outsideLoops hp hb hh hloops hu), ?_⟩
    have := State.saved_leaves hr hl decs fun a loops k => .preempted a n (s.coreAt n).sliceCut loops k
    rwa [huloops] at this
  case held =>
    intro q hl
    refine ⟨_, congrArg _ (State.holdStep_saved ht hf hu), ?_⟩
    have hq := u.queueFault_coreAt (s.coreAt n).tenant (heldEntry (u.coreAt n) tr) n
    have := State.saved_leaves (hq ▸ hr) hl decs fun a loops k => .held a n loops k
    rw [hq] at this
    exact this.2
  case unasked => simp [State.preemptStep, hp]

end Sys2Proof.Claims
end

section
/-! SUPPORT. Tasks that are lost, cores that are reset or tested, and the watchdogs (R251, R398-R402, R410, R453). -/

namespace Sys2Proof.Machine

/-! ## A discarded sheet (R340) -/

/-- A discarded sheet gives its granules back, which changes nothing else of any core (R338). -/
theorem State.untake_coreAt (l : List (CoreNo × Nat)) (m : CoreNo) (s : State) :
    ∃ g, (s.untake l).coreAt m = { s.coreAt m with emptyGran := g } := by
  induction l generalizing s with
  | nil => exact ⟨_, rfl⟩
  | cons x l ih =>
    obtain ⟨n, g⟩ := x
    obtain ⟨g', hg⟩ := ih (s.setCoreAt n { s.coreAt n with emptyGran := granFill (s.coreAt n).emptyGran [g] })
    refine ⟨g', hg.trans ?_⟩
    by_cases h : n = m
    · subst h; rw [State.coreAt_setCoreAt_same]
    · rw [State.coreAt_setCoreAt_ne s _ h]

@[simp] theorem State.untake_plat (l : List (CoreNo × Nat)) (s : State) : (s.untake l).plat = s.plat := by
  induction l generalizing s with
  | nil => rfl
  | cons x l ih => exact ih _

/-- The reservations of a discarded sheet end beside the core that it ran on and the clock (R338, R345). -/
theorem State.endTakes_core (s : State) (n : CoreNo) (c : Core) (takes : List (CoreNo × Nat)) (locks : List NewLock) (t : BitVec 5)
    (f : MemSys → MemSys) :
    let u := (locks.foldl (fun s l => s.unlockAtlas t l.die (fun e => e.entry == l.entry)) ((s.setCoreAt n c).untake takes)).withMem f
    (∃ g, u.coreAt n = { c with emptyGran := g }) ∧ u.plat.cycle = s.plat.cycle := by
  have hlocks (l : List NewLock) (u : State) :
      let v := l.foldl (fun s l => s.unlockAtlas t l.die (fun e => e.entry == l.entry)) u
      v.cores = u.cores ∧ v.plat.cycle = u.plat.cycle := by
    induction l generalizing u with
    | nil => exact ⟨rfl, rfl⟩
    | cons x l ih => exact ih _
  obtain ⟨hcores, hcycle⟩ := hlocks locks ((s.setCoreAt n c).untake takes)
  obtain ⟨g, hg⟩ := State.untake_coreAt takes n (s.setCoreAt n c)
  rw [State.coreAt_setCoreAt_same] at hg
  exact ⟨⟨g, (congrArg (fun cs => Tbl.get ({} : Core) cs n.toNat) hcores).trans hg⟩, hcycle.trans (by rw [State.untake_plat]; rfl)⟩

@[simp] theorem Core.traceAdd_inService (c : Core) (kind num : BitVec 8) (val cyc : Word) :
    (c.traceAdd kind num val cyc).inService = c.inService := by
  unfold Core.traceAdd Core.traceAddFor; split <;> rfl
@[simp] theorem Core.traceAdd_sheets (c : Core) (kind num : BitVec 8) (val cyc : Word) :
    (c.traceAdd kind num val cyc).sheets = c.sheets := by
  unfold Core.traceAdd Core.traceAddFor; split <;> rfl
@[simp] theorem Core.dropStale_running (c : Core) : c.dropStale.running = c.running := by unfold Core.dropStale; split <;> rfl
@[simp] theorem Core.dropStale_inService (c : Core) : c.dropStale.inService = c.inService := by unfold Core.dropStale; split <;> rfl
@[simp] theorem Core.dropStale_sheets (c : Core) : c.dropStale.sheets = c.sheets := by unfold Core.dropStale; split <;> rfl

/-- A discard ends the open sheet of its depth, and leaves the core's task and service and the clock as they are. -/
theorem State.discardSheet_core (s : State) (n : CoreNo) (d : BitVec 2) : let t := s.discardSheet n d
    (t.coreAt n).running = (s.coreAt n).running ∧ (t.coreAt n).inService = (s.coreAt n).inService ∧
      (t.coreAt n).sheets.get d = none ∧ t.plat.cycle = s.plat.cycle := by
  intro t
  cases h : (s.coreAt n).sheets.get d with
  | none =>
    have ht : t = s := by simp only [t, State.discardSheet, h]
    rw [ht]
    exact ⟨rfl, rfl, h, rfl⟩
  | some sh =>
    obtain ⟨⟨g, hg⟩, hcycle⟩ : (∃ g, t.coreAt n = _) ∧ t.plat.cycle = s.plat.cycle := by
      simp only [t, State.discardSheet, h]
      exact State.endTakes_core ..
    rw [hg]
    simp only [Core.dropStale_running, Core.dropStale_inService, Core.dropStale_sheets, Core.traceAdd_running,
      Core.traceAdd_inService, Core.traceAdd_sheets, RF.get_put_same]
    exact ⟨trivial, trivial, trivial, hcycle⟩

/-! ## What leaves every core as it is -/

theorem State.devStore_cores {s t : State} {n : BitVec 5} {va : Word} {bs : List Byte} (h : s.devStore n va bs = .ok t) :
    t.cores = s.cores := by
  unfold State.devStore at h
  split at h
  · cases h
  · split at h
    · cases h
    · cases h; rfl

@[simp] theorem State.writeIncomplete_coreAt (s : State) (n m : CoreNo) : (s.writeIncomplete n).coreAt m = s.coreAt m := by
  unfold State.writeIncomplete
  simp only
  split
  · next h => simp only [State.coreAt, State.devStore_cores h]
  · rfl

/-- A record of SEV 4, 5 or 6 starts no test (R405). -/
theorem State.report_cores {s : State} {r : ErrRec} (h : 4 ≤ r.sev.toNat) : (s.report r).cores = s.cores := by
  have h0 : r.sev ≠ 0 := fun e => by rw [e] at h; exact absurd h (by decide)
  unfold State.report
  split
  · rfl
  · rfl

@[simp] theorem State.writeDone_cores (s : State) (l : Launch) : (s.writeDone l).cores = s.cores := by
  unfold State.writeDone
  split
  · rfl
  · simp only
    split
    · next h => exact (State.devStore_cores h :)
    · exact State.report_cores (show 4 ≤ (6 : BitVec 8).toNat by decide)

theorem State.satisfy_cores (s : State) (t : BitVec 5) (h : BitVec 32) : (s.satisfy t h).cores = s.cores := by
  unfold State.satisfy; split <;> rfl

theorem State.satisfyAll_cores (t : BitVec 5) (h : Nat → BitVec 32) (l : List Nat) (s : State) :
    (l.foldl (fun s i => s.satisfy t (h i)) s).cores = s.cores := by
  induction l generalizing s with
  | nil => rfl
  | cons i l ih => exact (ih _).trans (s.satisfy_cores t (h i))

@[simp] theorem State.modLaunch_cores (s : State) (o : Nat) (f : Launch → Launch) : (s.modLaunch o f).cores = s.cores := rfl

/-- A launch completes beside the cores (R56). -/
@[simp] theorem State.complete_cores (s : State) (l : Launch) : (s.complete l).cores = s.cores := by
  unfold State.complete State.endReservation State.raiseTenantVec
  simp only
  split <;> split <;> simp [State.satisfyAll_cores]

@[simp] theorem State.checkComplete_cores (s : State) (o : Nat) : (s.checkComplete o).cores = s.cores := by
  unfold State.checkComplete
  split
  · split
    · exact State.complete_cores ..
    · rfl
  · rfl

@[simp] theorem State.endTask_coreAt (s : State) (t : BitVec 5) (h : BitVec 32) (n : CoreNo) : (s.endTask t h).coreAt n = s.coreAt n := by
  unfold State.endTask
  split
  · rfl
  · simp [State.coreAt]

/-! ## A cancelled launch and a lost task (R57, R402) -/

theorem State.releaseAcc_empty {s : State} {n : CoreNo} (h : (s.coreAt n).Empty) (a : Word) : ((s.releaseAcc a).coreAt n).Empty := by
  have hmap : (s.releaseAcc a).coreAt n =
      if (s.coreAt n).aown = a ∧ a ≠ 0 then { s.coreAt n with aown := 0, descCache := [] } else s.coreAt n :=
    State.coreAt_mapCores s (f := fun _ c => if c.aown = a ∧ a ≠ 0 then { c with aown := 0, descCache := [] } else c)
      (if_neg fun ⟨h0, ha⟩ => ha h0.symm)
  rw [hmap]
  split <;> exact h

/-- A waiting task of a cancelled launch gives its save area back, and the accumulators that it owns (R55, R57). -/
def State.freeWaiting (t : BitVec 5) (s : State) (w : Waiting) : State :=
  match w.area with
  | some a => (s.freeArea t a).releaseAcc a
  | none => s

theorem State.freeWaitings_empty (t : BitVec 5) {n : CoreNo} (ws : List Waiting) {s : State} (h : (s.coreAt n).Empty) :
    ((ws.foldl (State.freeWaiting t) s).coreAt n).Empty := by
  induction ws generalizing s with
  | nil => exact h
  | cons w ws ih =>
    refine ih ?_
    unfold State.freeWaiting
    split
    · exact State.releaseAcc_empty (s := s.freeArea t _) h _
    · exact h

/-- A core whose launch is cancelled marks its task (R57). -/
def Core.markCancelled (t : BitVec 5) (h : BitVec 32) (c : Core) : Core :=
  match c.running with
  | some r => if r.tenant == t && r.handle == h then { c with running := some { r with cancelPending := true } } else c
  | none => c

theorem Core.markCancelled_empty {c : Core} (h : c.Empty) (t : BitVec 5) (hd : BitVec 32) : (c.markCancelled t hd).Empty := by
  obtain ⟨hrun, hctx⟩ := h
  simp only [Core.markCancelled, hrun]
  exact ⟨hrun, hctx⟩

/-- A cancelled launch gives no core a task (R57). -/
theorem State.cancelLaunch_empty {s : State} {n : CoreNo} (h : (s.coreAt n).Empty) (l : Launch) : ((s.cancelLaunch l).coreAt n).Empty := by
  have hmarked (u : State) (hu : (u.coreAt n).Empty) :
      (({ u with cores := u.cores.map fun kc => (kc.1, kc.2.markCancelled l.tenant l.handle) } : State).coreAt n).Empty := by
    rw [State.coreAt_mapCores u (f := fun _ c => c.markCancelled l.tenant l.handle) rfl]
    exact Core.markCancelled_empty hu _ _
  have hfreed := State.freeWaitings_empty l.tenant l.waiting h
  unfold State.cancelLaunch
  simp only
  split
  · rw [State.coreAt, State.checkComplete_cores]
    exact hmarked (State.modLaunch _ _ _) hfreed
  · rw [State.coreAt, State.complete_cores]
    exact hmarked (State.modLaunch _ _ _) hfreed

/-- A lost task leaves its core empty (R402). -/
theorem State.loseTask_empty {s : State} {n : CoreNo} {r : Running} (h : (s.coreAt n).running = some r) (src synd : BitVec 8) :
    ((s.loseTask n src synd).coreAt n).Empty := by
  simp only [State.loseTask, h, State.endTask_coreAt]
  have hreport (u : State) (e : ErrRec) (he : e.sev = 4) (hu : (u.coreAt n).Empty) : ((u.report e).coreAt n).Empty := by
    simpa only [State.coreAt, State.report_cores (s := u) (r := e) (by rw [he]; decide)] using hu
  split
  · split
    · exact hreport _ _ rfl (State.leaveCore_empty ..)
    · exact State.cancelLaunch_empty (hreport _ _ rfl (State.leaveCore_empty ..)) _
  · exact hreport _ _ rfl (State.leaveCore_empty ..)

/-! ## A core reset (R67, R251, R400) -/

/-- The reset of an empty core takes its accumulator from its owner; what tasks have left goes once no copy is queued. -/
theorem State.coreReset_core {s : State} {n : CoreNo} (h : (s.coreAt n).Empty) : let t := s.coreReset n
    (t.coreAt n).running = none ∧ (t.coreAt n).ctx = {} ∧ (t.coreAt n).aown = 0 ∧
      if (t.coreAt n).copyQ = [] then (t.coreAt n).lastTenant = none ∧ (t.coreAt n).scratch = [] else (t.coreAt n).resetting = true := by
  obtain ⟨hrun, hctx⟩ := h
  intro t
  by_cases hq : (s.coreAt n).copyQ = []
  · simp [t, State.coreReset, State.endReset, Core.clearPrivate, hq, hrun, hctx]
  · simp [t, State.coreReset, State.endReset, hq, hrun, hctx]

/-! ## The record of a hang and its test (R405, R409, R410) -/

/-- The SRC and UNIT of a packed record (R405). -/
theorem ErrRec.pack_src (r : ErrRec) (time : Word) (test : BitVec 8) : (recField (r.pack time test) 8 8 : BitVec 8) = r.src := calc
  (recField (r.pack time test) 8 8 : BitVec 8) = _ := BitVec.extractLsb'_append_eq_of_le (show 64 ≤ 8 * 8 by decide)
  _ = r.src := BitVec.extractLsb'_append_eq_right

theorem ErrRec.pack_unit (r : ErrRec) (time : Word) (test : BitVec 8) : (recField (r.pack time test) 10 16 : BitVec 16) = r.unit := calc
  (recField (r.pack time test) 10 16 : BitVec 16) = _ := BitVec.extractLsb'_append_eq_of_le (show 64 ≤ 8 * 10 by decide)
  _ = _ := BitVec.extractLsb'_append_eq_of_le (show 8 ≤ 8 * 10 - 64 by decide)
  _ = _ := BitVec.extractLsb'_append_eq_of_le (show 8 ≤ 8 * 10 - 64 - 8 by decide)
  _ = r.unit := BitVec.extractLsb'_append_eq_right

/-- A record whose SRC or UNIT no pending record has merges into none (R409). -/
theorem merges_eq_false {ps : List ErrPend} {r : ErrRec} {time : Word} {test : BitVec 8} {now : Nat}
    (h : ∀ p ∈ ps, (recField p.rec_ 8 8 : BitVec 8) = r.src → (recField p.rec_ 10 16 : BitVec 16) ≠ r.unit) :
    (ps.any fun p => p.merges (r.pack time test) now) = false := by
  rw [List.any_eq_false]
  intro p hp
  have hne : ((recField p.rec_ 8 8 : BitVec 8) == r.src && (recField p.rec_ 10 16 : BitVec 16) == r.unit) = false := by
    simpa using h p hp
  simp only [ErrPend.merges, ErrRec.pack_src, ErrRec.pack_unit, hne, Bool.false_and, Bool.false_eq_true, not_false_eq_true]

/-- The hang of a core that is in use, where no pending record is of one, takes the core out of service for its test (R400, R410). -/
theorem State.report_takesOut {s : State} {r : ErrRec} {n : CoreNo} (hs : s.plat.failStop = false) (hsev : r.sev = 3)
    (hsrc : r.src = 0x30) (hunit : r.unit = n.setWidth 16) (htest : r.test = none) (hfence : (s.coreAt n).fenced = false)
    (hnew : ∀ p ∈ s.plat.errors, (recField p.rec_ 8 8 : BitVec 8) = r.src → (recField p.rec_ 10 16 : BitVec 16) ≠ r.unit) :
    ∃ u : State, s.report r = u.takeOut n ∧ u.cores = s.cores ∧ u.plat.cycle = s.plat.cycle := by
  have hn : (n.setWidth 16).setWidth 11 = n := by simp
  have hf : s.fencedAt { src := r.src, unit := r.unit, addr := r.addr, link := r.link } = false := by
    simp [State.fencedAt, hsrc, hunit, hn, hfence, srcNamesCore]
  have hm (test : BitVec 8) := merges_eq_false (time := BitVec.ofNat 64 s.mtime) (test := test) (now := s.plat.cycle) hnew
  have hcore : srcCoreTest r.src = true := by rw [hsrc]; rfl
  have htested : srcTested r.src = true := by rw [hsrc]; rfl
  have h0 : r.sev ≠ 0 := fun e => absurd (hsev.symm.trans e) (by decide)
  have h4 : ¬ 4 ≤ r.sev.toNat := by rw [hsev]; decide
  unfold State.report
  simp only [hs, h0, h4, htest, htested, hf, hm, State.beginTest, hcore, Bool.false_eq_true, if_false, if_true, Option.isNone_none,
    Bool.and_self, Bool.not_false, Bool.not_true, Bool.and_false]
  rw [hunit, hn]
  exact ⟨_, rfl, rfl, rfl⟩

/-- A core that is taken out of service, and runs a task outside the pinned regime (R412). -/
theorem State.takeOut_free {s : State} {n : CoreNo} {r : Running} (hr : (s.coreAt n).running = some r) (hp : (s.coreAt n).pin = false) :
    s.takeOut n = s.setCoreAt n { s.coreAt n with inService := false, preempt := true, sliceCut := false } := by
  simp [State.takeOut, hr, hp]

/-! ## The watchdogs (R398-R400, R453) -/

/-- The record of a core's hang watchdog (R398, R405). -/
def hangRecord (c : Core) (n : CoreNo) : ErrRec :=
  { src := 0x30, sev := 3, unit := n.setWidth 16, ten := some c.tenant, vpc := c.ctx.pc, task := c.creg crTASK }

/-- A new record of a hang takes its core out of service, and leaves its task there (R400, R410). -/
theorem State.report_hang_core {s : State} {n : CoreNo} {r : Running} (c : Core) (hs : s.plat.failStop = false)
    (hr : (s.coreAt n).running = some r) (hp : (s.coreAt n).pin = false) (hfence : (s.coreAt n).fenced = false)
    (hnew : ∀ p ∈ s.plat.errors, (recField p.rec_ 8 8 : BitVec 8) = 0x30 → (recField p.rec_ 10 16 : BitVec 16) ≠ n.setWidth 16) :
    let t := s.report (hangRecord c n)
    (t.coreAt n).running = some r ∧ (t.coreAt n).inService = false ∧ t.plat.cycle = s.plat.cycle := by
  obtain ⟨u, hu, hcores, hcycle⟩ := State.report_takesOut (r := hangRecord c n) hs rfl rfl rfl rfl hfence hnew
  have hcore : u.coreAt n = s.coreAt n := by simp only [State.coreAt, hcores]
  intro t
  have ht : t = _ := hu.trans (State.takeOut_free (hcore ▸ hr) (hcore ▸ hp))
  rw [ht, State.coreAt_setCoreAt_same]
  exact ⟨hcore ▸ hr, rfl, hcycle⟩

/-- What the hang watchdog does to a task at depth 0 outside the pinned regime: the record, the request and the grace (R399, R400, R453). -/
def State.endHang (s : State) (n : CoreNo) : State :=
  let c := s.coreAt n
  let u := ((s.report (hangRecord c n)).discardSheet n 0).requestCore n false
  u.setCoreAt n { u.coreAt n with hung := 0, saving := true, graceStart := some (c.graceStart.getD u.plat.cycle) }

theorem State.endHang_core {s : State} {n : CoreNo} {r : Running} (hs : s.plat.failStop = false)
    (hr : (s.coreAt n).running = some r) (hp : (s.coreAt n).pin = false) (hfence : (s.coreAt n).fenced = false)
    (hnew : ∀ p ∈ s.plat.errors, (recField p.rec_ 8 8 : BitVec 8) = 0x30 → (recField p.rec_ 10 16 : BitVec 16) ≠ n.setWidth 16) :
    let t := s.endHang n
    (t.coreAt n).preempt = true ∧ (t.coreAt n).hung = 0 ∧ (t.coreAt n).inService = false ∧
      (t.coreAt n).graceStart = some ((s.coreAt n).graceStart.getD s.plat.cycle) ∧ (t.coreAt n).sheets.get 0 = none := by
  obtain ⟨hrun, hout, hcycle⟩ := State.report_hang_core (s.coreAt n) hs hr hp hfence hnew
  obtain ⟨drun, dout, dsheet, dcycle⟩ := (s.report (hangRecord (s.coreAt n) n)).discardSheet_core n 0
  simp only [State.endHang, State.coreAt_setCoreAt_same, State.requestCore_self (drun.trans hrun), State.requestCore_plat,
    Core.requested_preempt, Core.requested_inService, Core.requested_sheets, dout, hout, dcycle, hcycle, dsheet, and_self]

end Sys2Proof.Machine

namespace Sys2Proof.Claims
open Machine

section
variable {s : State} {n : CoreNo} {r : Running} (hn : coreOk n = true) (ha : s.alive n = true)
include hn ha

theorem exec_hangWatchdogExpiry_early (hlt : (s.coreAt n).hung < s.hangPeriod) : exec (.hangWatchdogExpiry n) s = .next s := by
  show execHangWatchdogExpiry n s = _
  rw [execHangWatchdogExpiry, coreEvent_alive hn ha]
  exact congrArg _ (if_pos hlt)

theorem exec_hangWatchdogExpiry_loses (hle : s.hangPeriod ≤ (s.coreAt n).hung) (hd : (s.coreAt n).depth ≠ 0) :
    exec (.hangWatchdogExpiry n) s = .next ((s.writeIncomplete n).loseTask n 0x30 0) := by
  show execHangWatchdogExpiry n s = _
  rw [execHangWatchdogExpiry, coreEvent_alive hn ha]
  exact congrArg _ ((if_neg (Nat.not_lt.mpr hle)).trans (if_pos hd))

theorem exec_hangWatchdogExpiry_asks (hle : s.hangPeriod ≤ (s.coreAt n).hung) (hd : (s.coreAt n).depth = 0)
    (hr : (s.coreAt n).running = some r) (hp : (s.coreAt n).pin = false) :
    exec (.hangWatchdogExpiry n) s = .next (s.endHang n) := by
  show execHangWatchdogExpiry n s = _
  rw [execHangWatchdogExpiry, coreEvent_alive hn ha]
  refine congrArg _ ((if_neg (Nat.not_lt.mpr hle)).trans ((if_neg (not_not.mpr hd)).trans ?_))
  simp only [hr, hp, Bool.false_eq_true, if_false]
  rfl

theorem exec_saveGraceExpiry_early {t0 : Nat} (ht0 : (s.coreAt n).graceStart = some t0) (hlt : s.plat.cycle < t0 + 65536) :
    exec (.saveGraceExpiry n) s = .next s := by
  show execSaveGraceExpiry n s = _
  rw [execSaveGraceExpiry, coreEvent_alive hn ha, ht0]
  exact congrArg _ (if_pos hlt)

theorem exec_saveGraceExpiry_resets {t0 : Nat} (ht0 : (s.coreAt n).graceStart = some t0) (hle : t0 + 65536 ≤ s.plat.cycle) :
    exec (.saveGraceExpiry n) s = .next (((s.writeIncomplete n).loseTask n 0x31 1).coreReset n) := by
  show execSaveGraceExpiry n s = _
  rw [execSaveGraceExpiry, coreEvent_alive hn ha, ht0]
  exact congrArg _ (if_neg (Nat.not_lt.mpr hle))

end

/-- The fourth part of O46: the equation of each event, and what it leaves of the core. -/
theorem watchdogsExpire : WatchdogsExpire := by
  intro s n hn ha
  obtain ⟨hs, r, hr⟩ := State.alive_iff.mp ha
  have hlost (src synd : BitVec 8) : (((s.writeIncomplete n).loseTask n src synd).coreAt n).Empty :=
    State.loseTask_empty (by rwa [State.writeIncomplete_coreAt]) src synd
  refine ⟨exec_hangWatchdogExpiry_early hn ha, fun hle hd hp hf hnew => ?asked, fun hle hd => ?lost,
    fun t0 ht0 => ⟨exec_saveGraceExpiry_early hn ha ht0, fun hle => ?reset⟩⟩
  case asked => exact ⟨_, exec_hangWatchdogExpiry_asks hn ha hle hd hr hp, State.endHang_core hs hr hp hf hnew⟩
  case lost => exact ⟨_, exec_hangWatchdogExpiry_loses hn ha hle hd, hlost 0x30 0⟩
  case reset => exact ⟨_, exec_saveGraceExpiry_resets hn ha ht0 hle, State.coreReset_core (hlost 0x31 1)⟩

/-- Settles O46: an image gives back the context that it saved, a request only raises its cores' bits, a save that is done empties its
core, and so does a task that a watchdog loses. -/
theorem contextsAreSavedAndResumed : Obligations.ContextsAreSavedAndResumed :=
  ⟨contextsResumeAsSaved, preemptionIsAskedFor, savedTasksLeaveTheirCore, watchdogsExpire⟩

end Sys2Proof.Claims
end

section
/-! SUPPORT. The ways off a core: exit, susp and spawn as they issue, and the core that an exit leaves (R42, R46, R47, R55, R185). -/

namespace Sys2Proof.Machine

/-- What a commit of one part comes to where it neither transfers control nor traps, and has an effect behind the group's others. -/
theorem commitParts_late {p : Part} {fall : State → State} {s : State} (he : p.sem.early = id) (hx : p.sem.xfer = none)
    (hs : p.sem.soft = none) : s.commitParts [p] fall = fall (p.sem.late (p.sem.eff (s.onCore Core.beginIssue))) := by
  simp [State.commitParts, applyParts, applyXfers, State.softTrap, he, hx, hs]

theorem ownConds_sound {c : Core} {d : Dst} (h : c.ownBad d = false) (o : BitVec 4) : ownConds c d o = [] := by
  simp [ownConds, h]

/-! ## An exit that is done (R47) -/

@[simp] theorem cleanDie_cores (s : State) (d : BitVec 3) (line : Nat) : (cleanDie s d line).cores = s.cores := by
  unfold cleanDie; split <;> rfl

/-- Cleaning lines of a die cache happens beside the cores. -/
theorem cleanDies_cores (d : BitVec 3) (ls : List Line) (s : State) : (ls.foldl (fun s l => cleanDie s d l.line) s).cores = s.cores := by
  induction ls generalizing s with
  | nil => rfl
  | cons l ls ih => exact (ih _).trans (cleanDie_cores ..)

/-- The flush of an empty L1 changes no core. -/
theorem flushL1_cores {s : State} {n : CoreNo} (h : (s.coreAt n).l1 = []) : (flushL1 s n).cores = s.cores := by
  simp only [flushL1, h, List.foldl_nil, cleanDies_cores]

@[simp] theorem releaseAt_cores (s : State) (n : CoreNo) (k : BitVec 3) : (releaseAt s n k).cores = s.cores := by
  unfold releaseAt; split <;> rfl

/-- No sheet stands open below depth 0. -/
theorem State.discardOuter_depth_zero {s : State} {n : CoreNo} (h : (s.coreAt n).depth = 0) : s.discardOuter n = s := by
  simp [State.discardOuter, h]

/-- A core at depth 0 without tags has none to report at its exit. -/
theorem Core.exitTags_nil {c : Core} (ht : c.tags = []) (hd : c.depth = 0) : c.exitTags = [] := by
  simp [Core.exitTags, ht, hd]

@[simp] theorem Core.traceAdd_aown (c : Core) (kind num : BitVec 8) (val cyc : Word) : (c.traceAdd kind num val cyc).aown = c.aown := by
  unfold Core.traceAdd Core.traceAddFor; split <;> rfl

@[simp] theorem State.leaveCore_leaving (s : State) (n : CoreNo) (why : BitVec 8) : ((s.leaveCore n why).coreAt n).leaving = .none := by
  simp [State.leaveCore]

@[simp] theorem State.leaveCore_aown (s : State) (n : CoreNo) (why : BitVec 8) :
    ((s.leaveCore n why).coreAt n).aown = (s.coreAt n).aown := by
  simp [State.leaveCore]

@[simp] theorem Core.releaseAcc_running (c : Core) : c.releaseAcc.running = c.running := by unfold Core.releaseAcc; split <;> rfl

/-- The core owns no accumulator for a task that has given it up (R55). -/
theorem Core.releaseAcc_aown {c : Core} (h : c.aown = c.creg crSAVEA) : c.releaseAcc.aown = 0 := by
  simp [Core.releaseAcc, h]

@[simp] theorem State.freeArea_coreAt (s : State) (t : BitVec 5) (a : Word) (n : CoreNo) : (s.freeArea t a).coreAt n = s.coreAt n := rfl

/-- The state in which a task's last release is made, as it exits (R47). -/
def State.flushAndRelease (s : State) (n : CoreNo) : State := releaseAt (flushL1 s n) n 3

theorem State.flushAndRelease_coreAt {s : State} {n : CoreNo} (h : (s.coreAt n).l1 = []) : (s.flushAndRelease n).coreAt n = s.coreAt n := by
  simp only [State.flushAndRelease, State.coreAt, releaseAt_cores, flushL1_cores h]

/-- An exit that waits for nothing, from depth 0 and with no tag to report, releases, frees what the task held and ends it (R47). -/
theorem State.exitFinish_done {s : State} {n : CoreNo} {r : Running} (hr : (s.coreAt n).running = some r) (hm : s.mayLeave n = true)
    (hq : (s.cores.any fun kc => kc.2.copyQ.any fun e => e.task == r.task && !e.armed) = false) (ht : (s.coreAt n).tags = [])
    (hd : (s.coreAt n).depth = 0) :
    let u := s.flushAndRelease n
    s.exitFinish n =
      (((u.setCoreAt n (u.coreAt n).releaseAcc).freeArea r.tenant r.savea).leaveCore n 1).endTask r.tenant r.handle := by
  simp only [State.exitFinish, hr, hm, hq, Core.exitTags_nil ht hd, State.discardOuter_depth_zero hd, List.foldl_nil, Bool.not_true,
    Bool.or_false, Bool.false_eq_true, if_false, State.flushAndRelease]

end Sys2Proof.Machine

namespace Sys2Proof.Claims
open Machine

/-- An operation with an effect behind the group's others answers both effects. -/
theorem issueOp_late {i : Instr} {use : Use} {s : State} {row : OpRow} {f : Form} {x : Args} {m : Sem} (h : Issues i use s row f x)
    (hb : m.block = false) (hc : m.conds = []) (he : m.early = id) (hx : m.xfer = none) (hs : m.soft = none)
    (hm : m.mx = true → s.core.accAbsent = false) (hf : m.fills = false) :
    issueOp i m s = .next (m.late (m.eff (s.onCore Core.beginIssue))) := by
  rw [issueOp_next h.op h.shape, issueSem_commit h.guard hb hf h.sound hc hm h.onTime, commitParts_late he hx hs]
  rfl

/-- An operation issues by its row of the catalogue. -/
theorem Issues.row_eq {i : Instr} {use : Use} {s : State} {row r : OpRow} {f : Form} {x : Args} (h : Issues i use s row f x)
    (hr : opRow i = some (r, f)) : r = row :=
  congrArg Prod.fst (Option.some.inj (hr.symm.trans h.op))

@[simp] theorem begun_cur (s : State) (x : Args) : (begun s x).cur = s.cur := rfl

section
variable {s : State} {row : OpRow} {f : Form} {x : Args}

theorem semExit_eq (h : Issues (.exit f) { a := false, b := noB } s row f x) :
    semExit f s = { block := x.block, conds := [], ctl := true, eff := effNone x, xfer := some fun t => t.leaveBy t.cur .exit } := by
  obtain rfl := h.row_eq rfl
  rw [semExit, h.args]

theorem exec_exit (h : Issues (.exit f) { a := false, b := noB } s row f x) :
    exec (.exit f) s = .next ((begun s x).leaveBy s.cur .exit) := by
  show issueOp (.exit f) (semExit f s) s = _
  rw [semExit_eq h, issueOp_transfer h h.ready rfl rfl rfl rfl rfl (by simp)]
  simp only [effNone_begun, begun_cur]

/-- A susp that a record's address and tags do not stop stops inside a loop alone (R185). -/
theorem semSusp_eq {runs : List (Nat × Nat × Bool)} {es : List TlbEntry} (h : Issues (.susp f) (useRecord f) s row f x)
    (hb : ∀ i, s.core.ownBad (.lc i) = false) (ha : (recordAddr f x).toNat % 64 = 0) (ht : s.core.taggedLive = none)
    (htr : translateRange s s.cur s.core.tenant true (recordAddr f x) 64 .rw = .ok (runs, es)) :
    semSusp f s =
      { block := x.block
        conds := if (List.range 4).any (fun i => lcAct (s.core.ctx.lc.get (BitVec.ofNat 2 i))) then [condControl 5 15 0] else []
        ctl := true, eff := effNone x
        xfer := some fun t => match runs with
          | (pa, _, _) :: _ => (t.keepTlb t.cur es).leaveBy t.cur (.susp (recordAddr f x) pa)
          | _ => t } := by
  obtain rfl := h.row_eq rfl
  have hown : ((List.range 4).flatMap fun i => ownConds s.core (.lc (BitVec.ofNat 2 i)) 15) = [] := by
    simp [ownConds_sound (hb _)]
  unfold semSusp
  simp only [h.args, h.given, hown, ha, ht, htr, List.nil_append, List.append_nil, ne_eq, not_true_eq_false, if_false]
  cases runs <;> rfl

theorem exec_susp {pa m : Nat} {nc : Bool} {rest : List (Nat × Nat × Bool)} {es : List TlbEntry}
    (h : Issues (.susp f) (useRecord f) s row f x) (hlc : ∀ i, lcAct (s.core.ctx.lc.get i) = false)
    (hb : ∀ i, s.core.ownBad (.lc i) = false) (ha : (recordAddr f x).toNat % 64 = 0) (ht : s.core.taggedLive = none)
    (htr : translateRange s s.cur s.core.tenant true (recordAddr f x) 64 .rw = .ok ((pa, m, nc) :: rest, es)) :
    exec (.susp f) s = .next (((begun s x).keepTlb s.cur es).leaveBy s.cur (.susp (recordAddr f x) pa)) := by
  show issueOp (.susp f) (semSusp f s) s = _
  rw [semSusp_eq h hb ha ht htr, issueOp_transfer h h.ready (if_neg (by simp [hlc])) rfl rfl rfl rfl (by simp)]
  simp only [effNone_begun, begun_cur]

theorem exec_susp_inLoop {i : BitVec 2} {q : List (Nat × Nat × Bool) × List TlbEntry}
    (h : Issues (.susp f) (useRecord f) s row f x) (hlc : lcAct (s.core.ctx.lc.get i) = true)
    (hb : ∀ i, s.core.ownBad (.lc i) = false) (ha : (recordAddr f x).toNat % 64 = 0) (ht : s.core.taggedLive = none)
    (htr : translateRange s s.cur s.core.tenant true (recordAddr f x) 64 .rw = .ok q) :
    StopsWith (.susp f) s row f ⟨7, 0x15, 5, 15, 0, 0⟩ := by
  have hany : (List.range 4).any (fun i => lcAct (s.core.ctx.lc.get (BitVec.ofNat 2 i))) = true :=
    List.any_eq_true.mpr ⟨i.toNat, List.mem_range.mpr i.isLt, by simpa using hlc⟩
  show issueOp (.susp f) (semSusp f s) s = _
  rw [semSusp_eq h hb ha ht htr]
  exact issueOp_stop h h.ready (if_pos hany) (by simp) rfl (by decide)

theorem exec_spawn {t : State} {v : Vec} (h : Issues (.spawn f) (useRecord f) s row f x) (ha : (recordAddr f x).toNat % 64 = 0)
    (hr : s.readRecord s.cur (recordAddr f x) = .ok (some (t, v, none))) (hv : s.spawnOk s.cur v = true) :
    exec (.spawn f) s =
      .next ((begun s x).onCore fun c => (c.gate (.release 3 c.ops)).gate (.spawn (recordAddr f x))) := by
  have hsem : semSpawn f s =
      { block := x.block, conds := [], ctl := true, eff := effNone x
        late := fun t => t.onCore fun c => (c.gate (.release 3 c.ops)).gate (.spawn (recordAddr f x)) } := by
    obtain rfl := h.row_eq rfl
    unfold semSpawn
    simp only [h.args, h.given, ha, hr, hv, ne_eq, not_true_eq_false, if_false, if_true, Bool.or_false, List.append_nil]
  show issueOp (.spawn f) (semSpawn f s) s = _
  rw [hsem, issueOp_late h h.ready rfl rfl rfl rfl (by simp) rfl]
  simp only [effNone_begun]

/-- A record that is misaligned stops its spawn, whatever it holds (R185). -/
theorem exec_spawn_misaligned (h : Issues (.spawn f) (useRecord f) s row f x) (ha : (recordAddr f x).toNat % 64 ≠ 0) :
    StopsWith (.spawn f) s row f ⟨7, 0x15, 6, 4, recordAddr f x, 0⟩ := by
  obtain rfl := h.row_eq rfl
  show issueOp (.spawn f) (semSpawn f s) s = _
  unfold semSpawn
  simp only [h.args, ha, ne_eq, not_false_eq_true, if_true]
  exact issueOp_stop h ((Bool.or_false _).trans h.ready) (by rw [h.given]; rfl) (by simp) rfl (by simp)

end

theorem departuresBegin : DeparturesBegin :=
  ⟨fun _ _ _ _ h => exec_exit h, fun _ _ _ _ _ _ _ _ _ h hlc hb ha ht htr => exec_susp h hlc hb ha ht htr,
    fun _ _ _ _ _ _ h hlc hb ha ht htr => exec_susp_inLoop h hlc hb ha ht htr,
    fun _ _ _ _ _ _ h ha hr hv => exec_spawn h ha hr hv, fun _ _ _ _ h ha => exec_spawn_misaligned h ha⟩

/-- The second part of O11: what the core of a task that has left holds, and whose accumulator it keeps. -/
theorem exitFreesTheCore : ExitFreesTheCore := by
  intro s n r hr hm hq ht hd hl t
  have hu : (s.flushAndRelease n).coreAt n = s.coreAt n := State.flushAndRelease_coreAt hl
  simp only [t, State.exitFinish_done hr hm hq ht hd, State.endTask_coreAt, hu]
  obtain ⟨hrun, hctx⟩ := State.leaveCore_empty
    (((s.flushAndRelease n).setCoreAt n (s.coreAt n).releaseAcc).freeArea r.tenant r.savea) n 1
  refine ⟨hrun, State.leaveCore_leaving .., hctx, State.leaveCore_lastTenant ?_ 1, fun ha => ?_⟩
  · simp [hr]
  · simp [Core.releaseAcc_aown ha]

/-- Settles O11: each departure as it issues, and the core that an exit leaves. -/
theorem tasksLeaveAndSpawn : Obligations.TasksLeaveAndSpawn := ⟨departuresBegin, exitFreesTheCore⟩

end Sys2Proof.Claims
end

section
/-! SUPPORT. The matrix state: its operations with the accumulator present, and their trap while it is absent (R66, R231, R234, R235, R240,
R435). -/

namespace Sys2Proof.Machine

/-! ## The condition that comes first (R435) -/

theorem opndOrder_le (o : BitVec 4) : opndOrder o ≤ 6 := by
  unfold opndOrder; split <;> decide

/-- A condition of a lower rank comes first (R435). -/
theorem Found.key_lt_of_rank_lt {f g : Found} (h : f.cond.rank < g.cond.rank) : f.key < g.key := by
  have ho := opndOrder_le f.cond.opnd
  have hs := f.slot.isLt
  have hcls := f.cond.cls.isLt
  have hcode := f.cond.code.isLt
  simp only [Found.key]
  omega

theorem mem_of_reported {fs : List Found} {g : Found} (h : reported fs = some g) : g ∈ fs := by
  induction fs with
  | nil => cases h
  | cons f r ih =>
    simp only [reported] at h
    split at h
    · next k hk =>
      split at h
      · exact List.mem_cons_of_mem _ (ih (hk.trans h))
      · cases h; exact List.mem_cons_self
    · cases h; exact List.mem_cons_self

/-- A condition that no other comes before is the one reported (R435). -/
theorem reported_first {f : Found} {r : List Found} (h : ∀ g ∈ r, f.key < g.key) : reported (f :: r) = some f := by
  cases hr : reported r with
  | none => simp only [reported, hr]
  | some g => simp only [reported, hr, if_neg (Nat.lt_asymm (h g (mem_of_reported hr)))]

/-- The conditions of one slot mark that slot (R435). -/
theorem faultMask_oneSlot {slot : BitVec 3} {fs : List Found} (hne : fs ≠ [])
    (h : ∀ g ∈ fs, g.slot = slot ∧ 2 ≤ g.cond.rank ∧ g.cond.rank ≤ 8) : faultMask fs = (1 : BitVec 8) <<< slot.toNat := by
  have hfold (fs : List Found) (m : BitVec 8) (hm : m ||| (1 : BitVec 8) <<< slot.toNat = m)
      (h : ∀ g ∈ fs, g.slot = slot ∧ 2 ≤ g.cond.rank ∧ g.cond.rank ≤ 8) :
      fs.foldl (fun m f => if 2 ≤ f.cond.rank ∧ f.cond.rank ≤ 8 then m ||| ((1 : BitVec 8) <<< f.slot.toNat) else m) m = m := by
    induction fs with
    | nil => rfl
    | cons g r ih =>
      obtain ⟨hs, hr⟩ := h g List.mem_cons_self
      rw [List.foldl_cons, if_pos hr, hs, hm]
      exact ih fun k hk => h k (List.mem_cons_of_mem _ hk)
  obtain ⟨g, r, rfl⟩ := List.exists_cons_of_ne_nil hne
  obtain ⟨hs, hr⟩ := h g List.mem_cons_self
  rw [faultMask, List.foldl_cons, if_pos hr, hs, show (0 : BitVec 8) ||| (1 : BitVec 8) <<< slot.toNat = _ from BitVec.zero_or]
  exact hfold r _ BitVec.or_self fun k hk => h k (List.mem_cons_of_mem _ hk)

theorem rank_of_mem_ownConds {c : Core} {d : Dst} {o : BitVec 4} {k : Cond} (h : k ∈ ownConds c d o) : k.rank = 6 := by
  unfold ownConds at h
  split at h
  · rw [List.mem_singleton.mp h]
  · cases h

/-- What rounds meets data errors of the control registers that it reads (R395). -/
theorem rank_of_mem_roundConds {c : Core} {m : BitVec 32} {e : Nat} {k : Cond} (h : k ∈ roundConds c m e) : k.rank = 6 := by
  have hif {p : Prop} [Decidable p] {d : Dst} (h : k ∈ if p then ownConds c d 15 else []) : k.rank = 6 := by
    split at h
    · exact rank_of_mem_ownConds h
    · cases h
  simp only [roundConds, List.mem_append] at h
  rcases h with (h | h) | h <;> exact hif h

/-- Among conditions of one operation, the absent accumulator's comes before those of ranks 3 to 7 (R434, R435). -/
theorem trapOf_absent (slot : BitVec 3) (aown : Word) {ks : List Cond} (h : ∀ k ∈ ks, 3 ≤ k.rank ∧ k.rank ≤ 7) (pc : Word) :
    trapOf (⟨slot, 0, condAbsent aown⟩ :: ks.map fun k => ⟨slot, 0, k⟩) pc =
      some { sup := true, cls := 1, code := 0, tvpc := pc
             tslot := (slot.setWidth 64 <<< 8) ||| ((1 : BitVec 8) <<< slot.toNat).setWidth 64
             tinfo := aown, tmove := tmoveOf 15 0, va := 0 } := by
  have hks : ∀ g ∈ ks.map fun k => (⟨slot, 0, k⟩ : Found), g.slot = slot ∧ 3 ≤ g.cond.rank ∧ g.cond.rank ≤ 7 := by
    intro g hg
    obtain ⟨k, hk, rfl⟩ := List.mem_map.mp hg
    exact ⟨rfl, h k hk⟩
  generalize (ks.map fun k => (⟨slot, 0, k⟩ : Found)) = r at hks
  let f : Found := ⟨slot, 0, condAbsent aown⟩
  have hall : ∀ g ∈ f :: r, g.slot = slot ∧ 2 ≤ g.cond.rank ∧ g.cond.rank ≤ 7 := by
    rintro g (_ | ⟨_, hg⟩)
    · exact ⟨rfl, by simp [f, condAbsent]⟩
    · obtain ⟨hs, h3, h7⟩ := hks g hg
      exact ⟨hs, by omega, h7⟩
  have hev : evaluated (f :: r) = f :: r := by
    have : (f :: r).filter (fun g => decide (g.cond.rank ≤ 7)) = f :: r :=
      List.filter_eq_self.mpr fun g hg => decide_eq_true (hall g hg).2.2
    simp [evaluated, this]
  have hrep : reported (f :: r) = some f := reported_first fun g hg => Found.key_lt_of_rank_lt (hks g hg).2.1
  have hmask : faultMask (f :: r) = (1 : BitVec 8) <<< slot.toNat :=
    faultMask_oneSlot (List.cons_ne_nil _ _) fun g hg =>
      ⟨(hall g hg).1, (hall g hg).2.1, Nat.le_trans (hall g hg).2.2 (by decide)⟩
  have htwo : (f :: r).filter (fun g => decide (g.cond.rank = 2)) = [f] := by
    rw [List.filter_cons_of_pos (by simp [f, condAbsent]), List.filter_eq_nil_iff.mpr fun g hg => ?_]
    have := (hks g hg).2.1
    simp only [decide_eq_true_eq]
    omega
  simp only [trapOf, show (⟨slot, 0, condAbsent aown⟩ : Found) = f from rfl, hev, hrep, hmask, htwo]
  simp [f, condAbsent, supLevel]

/-! ## Fields of MCFG (R234) -/

/-- A field that has been shifted to its place reads back there. -/
theorem extractLsb'_field_same {n : Nat} (x : BitVec n) {lo : Nat} (h : lo + n ≤ 64) :
    ((x.setWidth 64 : Word) <<< lo).extractLsb' lo n = x := by
  ext i hi
  have h1 : lo + i < 64 := by omega
  simp [h1, BitVec.getLsbD_eq_getElem hi]

/-- Nothing of it reads at a field that does not overlap it. -/
theorem extractLsb'_field_other {n : Nat} (x : BitVec n) {lo a w : Nat} (h : a + w ≤ lo ∨ lo + n ≤ a) :
    ((x.setWidth 64 : Word) <<< lo).extractLsb' a w = 0 := by
  ext i hi
  simp only [BitVec.getElem_extractLsb', BitVec.getLsbD_shiftLeft, BitVec.getLsbD_setWidth]
  rcases h with h | h
  · have : a + i < lo := by omega
    simp [this]
  · simp [BitVec.getLsbD_of_ge x (a + i - lo) (by omega)]

/-- MCFG once TID and GPL of a plane have been put at `lo` and `hi`, their places masked out. -/
def mcfgWith (m mask : Word) (lo hi : Nat) (tid : BitVec 8) (gpl : BitVec 12) : Word :=
  (m &&& ~~~mask) ||| (gpl.setWidth 64 <<< hi) ||| (tid.setWidth 64 <<< lo)

section
variable {m mask : Word} {lo hi : Nat} {tid : BitVec 8} {gpl : BitVec 12}

theorem mcfgWith_tid (hlo : lo + 8 ≤ hi) (hhi : hi ≤ 52) (hm : (~~~mask).extractLsb' lo 8 = 0) :
    (mcfgWith m mask lo hi tid gpl).extractLsb' lo 8 = tid := by
  rw [mcfgWith, BitVec.extractLsb'_or, BitVec.extractLsb'_or, BitVec.extractLsb'_and, hm, extractLsb'_field_other gpl (.inl hlo),
    extractLsb'_field_same tid (by omega)]
  simp

theorem mcfgWith_gpl (hlo : lo + 8 ≤ hi) (hhi : hi ≤ 52) (hm : (~~~mask).extractLsb' hi 12 = 0) :
    (mcfgWith m mask lo hi tid gpl).extractLsb' hi 12 = gpl := by
  rw [mcfgWith, BitVec.extractLsb'_or, BitVec.extractLsb'_or, BitVec.extractLsb'_and, hm, extractLsb'_field_other tid (.inr hlo),
    extractLsb'_field_same gpl (by omega)]
  simp

/-- The other fields stand. -/
theorem mcfgWith_other {a w : Nat} (hm : (~~~mask).extractLsb' a w = BitVec.allOnes w) (hlo : a + w ≤ lo ∨ lo + 8 ≤ a)
    (hhi : a + w ≤ hi ∨ hi + 12 ≤ a) : (mcfgWith m mask lo hi tid gpl).extractLsb' a w = m.extractLsb' a w := by
  rw [mcfgWith, BitVec.extractLsb'_or, BitVec.extractLsb'_or, BitVec.extractLsb'_and, hm, extractLsb'_field_other gpl hhi,
    extractLsb'_field_other tid hlo]
  simp
end

/-! ## What an issue leaves of the matrix state -/

theorem mxConds_nil {c : Core} {items : List Nat} (h : ∀ i ∈ items, i ∉ c.mxBad) : mxConds c items = [] := by
  have : items.filter c.mxBad.contains = [] := List.filter_eq_nil_iff.mpr fun i hi => by simpa using h i hi
  simp only [mxConds, this]

@[simp] theorem Core.mxRepair_nil (c : Core) : c.mxRepair [] = c := by
  simp [Core.mxRepair]

/-- The matrix state that mdsc reads and writes: the accumulator, MCFG, the planes' addresses and the descriptor cache (R235). -/
def Core.matrixState (c : Core) : RF 5 Vec × Word × Word × Word × List DescEntry := (c.acc, c.mcfg, c.dsca, c.dscb, c.descCache)

@[simp] theorem Core.beginIssue_matrixState (c : Core) : c.beginIssue.matrixState = c.matrixState := by
  unfold Core.beginIssue Core.beginSheet Core.stampLate
  repeat' split
  all_goals rfl

@[simp] theorem Core.voidPorts_matrixState (c : Core) (x : Args) : (c.voidPorts x).matrixState = c.matrixState := by
  unfold Core.voidPorts; split <;> rfl

end Sys2Proof.Machine

namespace Sys2Proof.Claims
open Machine

section
variable {i : Instr} {use : Use} {s : State} {row : OpRow} {f : Form} {x : Args}

/-- An operation that meets no condition changes the matrix state and repairs what it writes whole (R231, R395). -/
theorem issueOp_semMx {conds : Args → List Cond} {g : Args → Core → Core} {whole : Args → List Nat} (h : Issues i use s row f x)
    (ha : s.core.accAbsent = false) (hc : conds x = []) :
    issueOp i (semMx row use conds g f s whole) s = .next ((begun s x).onCore fun c => (g x c).mxRepair (whole x)) := by
  have hsem : semMx row use conds g f s whole =
      { block := x.block, conds := x.conds, mx := true, eff := fun t => (effNone x t).onCore fun c => (g x c).mxRepair (whole x) } := by
    simp only [semMx, h.args, hc, List.append_nil]
  rw [hsem, issueOp_effect h rfl rfl rfl rfl rfl rfl fun _ => ha]
  simp only [effNone_begun]

/-- A read of matrix state that is sound meets no condition of its own. -/
theorem semMxRead_eq {v : Args → Core → Vec} {items : Args → List Nat} (h : Issues i use s row f x)
    (hb : ∀ k ∈ items x, k ∉ s.core.mxBad) :
    semMxRead row use v items f s =
      { block := x.block, conds := x.conds, mx := true
        eff := fun t => (effProduce x 4 (v x s.core) 0 t).onCore Core.markMatrixRead } := by
  simp only [semMxRead, h.args, mxConds_nil hb, List.append_nil]

/-- A read of matrix state that is sound is a producer of 4 cycles (R231). -/
theorem issueOp_semMxRead {v : Args → Core → Vec} {items : Args → List Nat} (h : Issues i use s row f x)
    (ha : s.core.accAbsent = false) (hb : ∀ k ∈ items x, k ∉ s.core.mxBad) :
    issueOp i (semMxRead row use v items f s) s = .next (producedMatrix s x 4 (v x s.core)) := by
  rw [semMxRead_eq h hb, issueOp_effect h rfl rfl rfl rfl rfl rfl fun _ => ha]
  simp only [effProduce, producedMatrix, produced, State.now_onCore_beginIssue, State.onCore_onCore, Function.comp_def]

/-- A matrix operation whose accumulator is absent stops with it, whatever else of ranks 3 to 7 it meets (R66, R435). -/
theorem issueOp_absent {m : Sem} (h : Issues i use s row f x) (hb : m.block = false) (hf : m.fills = false) (hm : m.mx = true)
    (ha : s.core.aown ≠ s.core.creg crSAVEA) (hc : ∀ k ∈ m.conds, 3 ≤ k.rank ∧ k.rank ≤ 7) :
    issueOp i m s = .next (s.onCore fun c => c.stopWith (onlyTrap s row f ⟨2, 1, 0, 15, s.core.aown, 0⟩)) := by
  have habs : s.core.accAbsent = true := bne_iff_ne.mpr ha
  rw [issueOp_next h.op h.shape]
  refine congrArg _ (issueSem_trap h.guard hb hf h.sound ?_)
  simp only [Part.found, hm, habs, h.onTime, List.append_nil, Bool.and_self, if_true, List.singleton_append, trapOf_absent _ _ hc,
    slotBit]
  rfl

/-- The same of an operation that changes the matrix state. -/
theorem issueOp_semMx_absent {conds : Args → List Cond} {g : Args → Core → Core} {whole : Args → List Nat}
    (h : Issues i use s row f x) (ha : s.core.aown ≠ s.core.creg crSAVEA) (hc : ∀ k ∈ conds x, 3 ≤ k.rank ∧ k.rank ≤ 7) :
    issueOp i (semMx row use conds g f s whole) s =
      .next (s.onCore fun c => c.stopWith (onlyTrap s row f ⟨2, 1, 0, 15, s.core.aown, 0⟩)) := by
  refine issueOp_absent h ?_ rfl rfl ha ?_
  · simpa only [semMx, h.args] using h.ready
  · simpa only [semMx, h.args, h.given, List.nil_append] using hc

/-! ## mdsc (R235) -/

/-- What mdsc of a plane makes of a core (R235). -/
def mdscPlane (x : Args) (c : Core) : Core :=
  let tid : BitVec 8 := x.a.extractLsb' 64 8
  let gpl : BitVec 12 := x.a.extractLsb' 72 12
  let c := if x.b64.getLsbD 0 then { c with dscb := x.a64, mcfg := mcfgWith c.mcfg 0xFFF000FF0000 16 36 tid gpl }
    else { c with dsca := x.a64, mcfg := mcfgWith c.mcfg 0xFFF00FF00 8 24 tid gpl }
  { c with descCache := c.descCache.filter fun e => e.tid != tid }

/-- mdsc, with MCFG sound. -/
theorem semMdsc_eq (hb : 34 ∉ s.core.mxBad) (f : Form) :
    semMdsc f s = semMx ⟨.MTX, 8, 0x05, 0, 1, .mdsc⟩ {} (fun x => if x.a64.toNat % 16 ≠ 0 then [condOwn 0x16 5 4 x.a64] else [])
      mdscPlane f s fun x => [if x.b64.getLsbD 0 then 36 else 35] := by
  have : mxConds s.core [34] = [] := mxConds_nil (by simpa using hb)
  simp only [semMdsc, this, List.nil_append]
  rfl

/-- A plane at an address that is no multiple of 16 stops mdsc (R430). -/
theorem exec_mdsc_misaligned (h : Issues (.mdsc f) {} s row f x) (ha : s.core.accAbsent = false) (hb : 34 ∉ s.core.mxBad)
    (hm : x.a64.toNat % 16 ≠ 0) : StopsWith (.mdsc f) s row f ⟨7, 0x16, 5, 4, x.a64, 0⟩ := by
  obtain rfl := h.row_eq rfl
  show issueOp (.mdsc f) (semMdsc f s) s = _
  rw [semMdsc_eq hb]
  simp only [semMx, h.args, h.given, if_pos hm]
  exact issueOp_stop h h.ready rfl (fun _ => ha) rfl (by simp)

theorem exec_mdsc (h : Issues (.mdsc f) {} s row f x) (ha : s.core.accAbsent = false) (hb : 34 ∉ s.core.mxBad)
    (hm : x.a64.toNat % 16 = 0) :
    exec (.mdsc f) s =
      .next ((begun s x).onCore fun c => (mdscPlane x c).mxRepair [if x.b64.getLsbD 0 then 36 else 35]) := by
  obtain rfl := h.row_eq rfl
  show issueOp (.mdsc f) (semMdsc f s) s = _
  rw [semMdsc_eq hb]
  exact issueOp_semMx h ha (if_neg (not_not.mpr hm))

end

/-- A descriptor plane comes with the TID and GPL of its tensor, whose cached descriptors go; the rest stands (R235). -/
theorem mdscPlane_spec (x : Args) (c : Core) :
    let d := mdscPlane x c
    let tid : BitVec 8 := x.a.extractLsb' 64 8
    let gpl : BitVec 12 := x.a.extractLsb' 72 12
    d.acc = c.acc ∧ d.descCache = c.descCache.filter (fun e => e.tid != tid) ∧
    (x.b64.getLsbD 0 = false → d.dsca = x.a64 ∧ d.dscb = c.dscb ∧ d.mcfg.extractLsb' 8 8 = tid ∧ d.mcfg.extractLsb' 24 12 = gpl ∧
      d.mcfg.extractLsb' 0 8 = c.mcfg.extractLsb' 0 8 ∧ d.mcfg.extractLsb' 16 8 = c.mcfg.extractLsb' 16 8 ∧
      d.mcfg.extractLsb' 36 28 = c.mcfg.extractLsb' 36 28) ∧
    (x.b64.getLsbD 0 = true → d.dscb = x.a64 ∧ d.dsca = c.dsca ∧ d.mcfg.extractLsb' 16 8 = tid ∧ d.mcfg.extractLsb' 36 12 = gpl ∧
      d.mcfg.extractLsb' 0 16 = c.mcfg.extractLsb' 0 16 ∧ d.mcfg.extractLsb' 24 12 = c.mcfg.extractLsb' 24 12 ∧
      d.mcfg.extractLsb' 48 16 = c.mcfg.extractLsb' 48 16) := by
  cases hp : x.b64.getLsbD 0
  · simp only [mdscPlane, hp, Bool.false_eq_true, if_false, forall_const, false_imp_iff, and_true, true_and]
    exact ⟨mcfgWith_tid (by decide) (by decide) (by decide), mcfgWith_gpl (by decide) (by decide) (by decide),
      mcfgWith_other (by decide) (by decide) (by decide), mcfgWith_other (by decide) (by decide) (by decide),
      mcfgWith_other (by decide) (by decide) (by decide)⟩
  · simp only [mdscPlane, hp, Bool.true_eq_false, if_true, forall_const, false_imp_iff, true_and]
    exact ⟨mcfgWith_tid (by decide) (by decide) (by decide), mcfgWith_gpl (by decide) (by decide) (by decide),
      mcfgWith_other (by decide) (by decide) (by decide), mcfgWith_other (by decide) (by decide) (by decide),
      mcfgWith_other (by decide) (by decide) (by decide)⟩

theorem begun_matrixState (s : State) (x : Args) : (begun s x).core.matrixState = s.core.matrixState := by
  simp [begun]

theorem matrixStateWhilePresent : MatrixStateWhilePresent := by
  intro s row f x ha
  refine ⟨fun h => ?mcfg, fun h hb => ?mcfgr, fun h => ?mlgd, fun h hb => ?mlgs, fun h hb hm => exec_mdsc_misaligned h ha hb hm,
    fun h hb hm => ⟨_, exec_mdsc h ha hb hm, ?mdsc⟩, fun h => ?mzero, fun h => ?mstc, fun h hb => ?mdrn, fun h => ?mfil⟩
  case mdsc =>
    obtain ⟨hacc, hmcfg, hdsca, hdscb, hcache⟩ :=
      (by simpa only [Core.matrixState, Prod.mk.injEq] using begun_matrixState s x : _ ∧ _ ∧ _ ∧ _ ∧ _)
    have := mdscPlane_spec x (begun s x).core
    rw [hacc, hmcfg, hdsca, hdscb, hcache] at this
    rw [State.core_onCore]
    exact this
  all_goals obtain rfl := h.row_eq rfl
  case mcfg => exact issueOp_semMx h ha rfl
  case mcfgr => exact issueOp_semMxRead h ha (by simpa using hb)
  case mlgd => exact issueOp_semMx h ha rfl
  case mlgs => exact issueOp_semMxRead h ha (by simpa using hb)
  case mzero => exact issueOp_semMx h ha rfl
  case mstc =>
    refine (issueOp_semMx h ha rfl).trans ?_
    simp only [Core.mxRepair_nil]
  case mdrn => exact issueOp_semMxRead h ha (by simpa using hb)
  case mfil => exact issueOp_semMx h ha rfl

theorem absentAccumulatorTraps : AbsentAccumulatorTraps := by
  intro s row f x ha hb
  refine ⟨fun h => ?mzero, fun h => ?mfil, fun h => ?mdrn, fun h het hrm => ?mbeat⟩
  all_goals obtain rfl := h.row_eq rfl
  case mzero => exact issueOp_semMx_absent h ha (by simp)
  case mfil => exact issueOp_semMx_absent h ha (by simp)
  case mdrn =>
    show issueOp (.mdrn f) (semMdrn f s) s = _
    rw [semMdrn, semMxRead_eq h (by simp [hb])]
    exact issueOp_absent h h.ready rfl rfl ha (by simp [h.given])
  case mbeat =>
    refine issueOp_semMx_absent h ha fun k hk => ?_
    have hrm : ¬ 5 ≤ s.core.fmodeRm.toNat := Nat.not_le.mpr hrm
    have hmx : mxConds s.core accItems = [] := mxConds_nil (by simp [hb])
    simp only [het, beatRmConds, if_true, if_neg hrm, hmx, List.nil_append, List.append_nil] at hk
    rw [rank_of_mem_roundConds hk]
    decide

/-- Settles O25: each operation as it issues, and the absent accumulator as the condition of the lowest rank. -/
theorem matrixStateOperations : Obligations.MatrixStateOperations := ⟨matrixStateWhilePresent, absentAccumulatorTraps⟩

end Sys2Proof.Claims
end

section
/-! SUPPORT. How launches move on: what completing, cancelling and disabling do to the launches of the package, and to what stands beside
them (R48, R56, R57, R362). -/

namespace Sys2Proof.Machine

/-! ## Beside the distributor -/

/-- A record of SEV 4, 5 or 6 only joins those on their way to the logs (R405). -/
theorem State.report_eq (s : State) {r : ErrRec} (h : 4 ≤ r.sev.toNat) :
    ∃ es, s.report r = { s with plat := { s.plat with errors := es } } := by
  have h0 : r.sev ≠ 0 := fun e => by rw [e] at h; exact absurd h (by decide)
  unfold State.report
  split
  · exact ⟨_, rfl⟩
  · exact ⟨_, rfl⟩

theorem State.devStore_eq {s t : State} {n : BitVec 5} {va : Word} {bs : List Byte} (h : s.devStore n va bs = .ok t) :
    ∃ m, t = { s with mem := m } := by
  unfold State.devStore at h
  split at h
  · cases h
  · split at h
    · cases h
    · cases h
      exact ⟨_, rfl⟩

/-- A completion word is written to memory, or its failure reported (R56). -/
theorem State.writeDone_eq (s : State) (l : Launch) :
    ∃ m es, s.writeDone l = { s with mem := m, plat := { s.plat with errors := es } } := by
  unfold State.writeDone
  split
  · exact ⟨_, _, rfl⟩
  · simp only
    split
    · next h =>
      obtain ⟨m, hm⟩ := State.devStore_eq h
      exact ⟨m, _, hm⟩
    · obtain ⟨es, he⟩ := s.report_eq (r := { src := 0x38, sev := 6, ten := some l.tenant, addr := l.done, synd := 0x20 })
        (show 4 ≤ (6 : BitVec 8).toNat by decide)
      exact ⟨_, es, he⟩

theorem State.raiseMsix_eq (s : State) (v : Nat) :
    ∃ ps ms, s.raiseMsix v = { s with plat := { s.plat with msixPending := ps, msixSent := ms } } := by
  unfold State.raiseMsix
  split
  · exact ⟨_, _, rfl⟩
  · split <;> exact ⟨_, _, rfl⟩

/-! ## Launches that move on -/

/-- A launch `b` is `a` at a later time: it is the same one, and what it has become it stays. -/
structure Launch.Later (a b : Launch) : Prop where
  order : b.order = a.order
  tenant : b.tenant = a.tenant
  queue : b.queue = a.queue
  taken : a.taken = true → b.taken = true
  refused : a.refused = true → b.refused = true
  cancelled : a.cancelled = true → b.cancelled = true
  completed : a.completed = true → b.completed = true
  waiting : a.waiting = [] → b.waiting = []

theorem Launch.Later.refl (a : Launch) : a.Later a := ⟨rfl, rfl, rfl, id, id, id, id, id⟩

theorem Launch.Later.trans {a b c : Launch} (h : a.Later b) (k : b.Later c) : a.Later c where
  order := k.order.trans h.order
  tenant := k.tenant.trans h.tenant
  queue := k.queue.trans h.queue
  taken := k.taken ∘ h.taken
  refused := k.refused ∘ h.refused
  cancelled := k.cancelled ∘ h.cancelled
  completed := k.completed ∘ h.completed
  waiting := k.waiting ∘ h.waiting

theorem Launch.isOpen_iff {l : Launch} : l.isOpen = true ↔ l.completed = false ∧ l.refused = false := by
  simp [Launch.isOpen]

/-- A launch that is open has been so before. -/
theorem Launch.Later.isOpen {a b : Launch} (h : a.Later b) (hb : b.isOpen = true) : a.isOpen = true := by
  obtain ⟨hc, hr⟩ := Launch.isOpen_iff.mp hb
  exact Launch.isOpen_iff.mpr ⟨Bool.eq_false_iff.mpr fun e => by simp [h.completed e] at hc,
    Bool.eq_false_iff.mpr fun e => by simp [h.refused e] at hr⟩

/-- The launches of `u` are those of `s` at a later time, and no device register has changed. -/
def State.MovesOn (s u : State) : Prop :=
  (∃ f : Launch → Launch, (∀ l : Launch, l.Later (f l)) ∧ u.dist.launches = s.dist.launches.map f) ∧ u.plat.regs = s.plat.regs

theorem State.MovesOn.of_eq {s u : State} (h : u.dist.launches = s.dist.launches) (hr : u.plat.regs = s.plat.regs) : s.MovesOn u :=
  ⟨⟨id, Launch.Later.refl, by rw [h, List.map_id]⟩, hr⟩

theorem State.MovesOn.refl (s : State) : s.MovesOn s := .of_eq rfl rfl

theorem State.MovesOn.trans {s u v : State} (h : s.MovesOn u) (k : u.MovesOn v) : s.MovesOn v := by
  obtain ⟨⟨f, hf, hl⟩, hr⟩ := h
  obtain ⟨⟨g, hg, kl⟩, kr⟩ := k
  exact ⟨⟨g ∘ f, fun l => (hf l).trans (hg (f l)), by rw [kl, hl, List.map_map]⟩, kr.trans hr⟩

/-- Every launch of the later state was one before. -/
theorem State.MovesOn.earlier {s u : State} (h : s.MovesOn u) {y : Launch} (hy : y ∈ u.dist.launches) :
    ∃ x ∈ s.dist.launches, x.Later y := by
  obtain ⟨⟨f, hf, hl⟩, -⟩ := h
  rw [hl] at hy
  obtain ⟨x, hx, rfl⟩ := List.mem_map.mp hy
  exact ⟨x, hx, hf x⟩

theorem State.MovesOn.orders {s u : State} (h : s.MovesOn u) : u.dist.launches.map Launch.order = s.dist.launches.map Launch.order := by
  obtain ⟨⟨f, hf, hl⟩, -⟩ := h
  rw [hl, List.map_map]
  exact List.map_congr_left fun x _ => (hf x).order

theorem State.MovesOn.treg {s u : State} (h : s.MovesOn u) (t : BitVec 5) (off : Nat) : u.treg t off = s.treg t off :=
  congrArg (Tbl.get _ · _) h.2

/-- A fold of steps that each let the launches move on does so. -/
theorem State.MovesOn.foldl {α : Type} {f : State → α → State} (hf : ∀ (s : State) a, s.MovesOn (f s a)) (l : List α) (s : State) :
    s.MovesOn (l.foldl f s) := by
  induction l generalizing s with
  | nil => exact .refl s
  | cons a l ih => exact (hf s a).trans (ih _)

/-- Launches that are changed where they meet a test. -/
theorem State.MovesOn.of_map {s u : State} {p : Launch → Prop} [DecidablePred p] {f : Launch → Launch} (hf : ∀ l : Launch, l.Later (f l))
    (hl : u.dist.launches = s.dist.launches.map fun l => if p l then f l else l) (hr : u.plat.regs = s.plat.regs) : s.MovesOn u :=
  ⟨⟨_, fun l => by split; exacts [hf l, .refl l], hl⟩, hr⟩

/-! ## Completion (R56) -/

theorem State.satisfy_movesOn (s : State) (t : BitVec 5) (h : BitVec 32) : s.MovesOn (s.satisfy t h) := by
  unfold State.satisfy
  split
  · exact .refl s
  · exact .of_map (f := fun l => { l with deps := if l.deps = 0 then 0 else l.deps - 1 })
      (fun l => ⟨rfl, rfl, rfl, id, id, id, id, id⟩) rfl rfl

theorem State.writeDone_movesOn (s : State) (l : Launch) : s.MovesOn (s.writeDone l) := by
  obtain ⟨m, es, h⟩ := s.writeDone_eq l
  rw [h]
  exact .of_eq rfl rfl

theorem State.raiseTenantVec_movesOn (s : State) (t : BitVec 5) (n : Nat) : s.MovesOn (s.raiseTenantVec t n) := by
  obtain ⟨ps, ms, h⟩ := s.raiseMsix_eq ((bits (s.treg t 0) 16 11 : BitVec 11).toNat + n)
  rw [State.raiseTenantVec, h]
  exact .of_eq rfl rfl

/-- The notice of a launch that completes (R56). -/
def State.notify (s : State) (l : Launch) : State :=
  if l.flagNotify ∧ l.vec.toNat < (bits (s.treg l.tenant 0) 0 12 : BitVec 12).toNat then s.raiseTenantVec l.tenant l.vec.toNat else s

/-- What a launch that has run holds of the package ends with it (R263, R363, R54). -/
def State.endHoldings (s : State) (l : Launch) : State :=
  if l.refused ∨ ¬ l.taken then s else
  State.endReservation { s with plat := { s.plat with
    keys := s.plat.keys.filter (fun k => !(k.tenant == l.tenant && k.handle == l.handle))
    atlas := s.plat.atlas.map fun (es : List AtlasEntry) => es.map fun (e : AtlasEntry) =>
      if e.tenant == l.tenant && e.lock == some l.handle then { e with lock := none } else e } } l

theorem State.complete_eq (s : State) (l : Launch) : s.complete l =
    ((((List.range 4).foldl (fun s i => s.satisfy l.tenant (l.succ i))
      (s.modLaunch l.order fun l => { l with completed := true, bound := [], waiting := [] })).writeDone l).notify l).endHoldings l := rfl

theorem State.notify_movesOn (s : State) (l : Launch) : s.MovesOn (s.notify l) := by
  unfold State.notify
  split
  · exact s.raiseTenantVec_movesOn _ _
  · exact .refl s

theorem State.endHoldings_movesOn (s : State) (l : Launch) : s.MovesOn (s.endHoldings l) := by
  unfold State.endHoldings
  split
  · exact .refl s
  · exact .of_eq rfl rfl

/-- A launch that completes does so at once, and the others move on (R56). -/
theorem State.complete_movesOn (s : State) (l : Launch) :
    (s.modLaunch l.order fun l => { l with completed := true, bound := [], waiting := [] }).MovesOn (s.complete l) := by
  rw [State.complete_eq]
  exact .trans (.foldl (fun s i => s.satisfy_movesOn l.tenant (l.succ i)) (List.range 4) _)
    (.trans (State.writeDone_movesOn _ l) (.trans (State.notify_movesOn _ l) (State.endHoldings_movesOn _ l)))

theorem State.modLaunch_movesOn (s : State) (o : Nat) {f : Launch → Launch} (hf : ∀ l : Launch, l.Later (f l)) : s.MovesOn (s.modLaunch o f) :=
  .of_map hf rfl rfl

/-- What holds of every launch of an order number once one has been changed, and stays so, holds later. -/
theorem State.MovesOn.modified {s u : State} {o : Nat} {f : Launch → Launch} (h : (s.modLaunch o f).MovesOn u) {P : Launch → Prop}
    (hf : ∀ l, P (f l)) (hP : ∀ a b : Launch, a.Later b → P a → P b) :
    ∀ y ∈ u.dist.launches, y.order = o → P y := by
  intro y hy hyo
  obtain ⟨x, hx, hxy⟩ := h.earlier hy
  obtain ⟨z, -, rfl⟩ := List.mem_map.mp hx
  have hz : z.order = o := by
    have := hxy.order.symm.trans hyo
    split at this
    · assumption
    · exact this
  rw [if_pos hz] at hxy
  exact hP _ _ hxy (hf z)

theorem Launch.Later.complete (l : Launch) : l.Later { l with completed := true, bound := [], waiting := [] } :=
  ⟨rfl, rfl, rfl, id, id, id, fun _ => rfl, fun _ => rfl⟩

theorem State.complete_movesOn' (s : State) (l : Launch) : s.MovesOn (s.complete l) :=
  (s.modLaunch_movesOn _ Launch.Later.complete).trans (s.complete_movesOn l)

theorem State.checkComplete_movesOn (s : State) (o : Nat) : s.MovesOn (s.checkComplete o) := by
  unfold State.checkComplete
  split
  · split
    · exact s.complete_movesOn' _
    · exact .refl s
  · exact .refl s

/-! ## Cancellation (R57) -/

/-- A launch as its cancellation leaves it, `gone` being its tasks that will not run. -/
def Launch.cancelWith (gone : Nat) (l : Launch) : Launch :=
  { l with cancelled := true, waiting := [], next := l.tasks, live := if l.taken then l.live - BitVec.ofNat 64 gone else l.live }

theorem Launch.Later.cancel (gone : Nat) (l : Launch) : l.Later (l.cancelWith gone) :=
  ⟨rfl, rfl, rfl, id, id, fun _ => rfl, id, fun _ => rfl⟩

/-- Every core that runs a task of a launch has it marked. -/
def State.markCancelled (s : State) (l : Launch) : State :=
  { s with cores := s.cores.map fun kc => (kc.1, kc.2.markCancelled l.tenant l.handle) }

/-- A launch that is cancelled, its waiting tasks discarded and its running ones marked, before it may complete. -/
def State.cancelled (s : State) (l : Launch) : State :=
  ((l.waiting.foldl (State.freeWaiting l.tenant) s).modLaunch l.order
    (Launch.cancelWith (l.waiting.length + (l.tasks - l.next)))).markCancelled l

theorem State.cancelLaunch_eq (s : State) (l : Launch) : s.cancelLaunch l =
    if l.taken then (s.cancelled l).checkComplete l.order else (s.cancelled l).complete { l with cancelled := true } := rfl

theorem State.freeWaiting_movesOn (t : BitVec 5) (s : State) (w : Waiting) : s.MovesOn (State.freeWaiting t s w) := by
  unfold State.freeWaiting
  split
  · exact .of_eq rfl rfl
  · exact .refl s

theorem State.cancelLaunch_after (s : State) (l : Launch) : (s.cancelled l).MovesOn (s.cancelLaunch l) := by
  rw [State.cancelLaunch_eq]
  split
  · exact State.checkComplete_movesOn ..
  · exact State.complete_movesOn' ..

theorem State.cancelLaunch_movesOn (s : State) (l : Launch) : s.MovesOn (s.cancelLaunch l) :=
  .trans (.foldl (State.freeWaiting_movesOn l.tenant) l.waiting s)
    (.trans (State.modLaunch_movesOn _ l.order (Launch.Later.cancel _)) (State.cancelLaunch_after s l))

/-- A launch is cancelled, and keeps no waiting task (R57). -/
theorem State.cancelLaunch_cancels (s : State) (l : Launch) :
    ∀ x ∈ (s.cancelLaunch l).dist.launches, x.order = l.order → x.cancelled = true ∧ x.waiting = [] :=
  State.MovesOn.modified (f := Launch.cancelWith (l.waiting.length + (l.tasks - l.next)))
    (.trans (.of_eq rfl rfl) (s.cancelLaunch_after l)) (fun _ => ⟨rfl, rfl⟩) fun _ _ h ha => ⟨h.cancelled ha.1, h.waiting ha.2⟩

@[simp] theorem State.cancelLaunch_cores (s : State) (l : Launch) : (s.cancelLaunch l).cores = (s.cancelled l).cores := by
  rw [State.cancelLaunch_eq]
  split
  · exact State.checkComplete_cores ..
  · exact State.complete_cores ..

theorem State.releaseAcc_running (s : State) (a : Word) (n : CoreNo) : ((s.releaseAcc a).coreAt n).running = (s.coreAt n).running := by
  have hmap : (s.releaseAcc a).coreAt n =
      if (s.coreAt n).aown = a ∧ a ≠ 0 then { s.coreAt n with aown := 0, descCache := [] } else s.coreAt n :=
    State.coreAt_mapCores s (f := fun _ c => if c.aown = a ∧ a ≠ 0 then { c with aown := 0, descCache := [] } else c)
      (if_neg fun ⟨h0, ha⟩ => ha h0.symm)
  rw [hmap]
  split <;> rfl

/-- Waiting tasks are discarded beside those that run. -/
theorem State.freeWaitings_running (t : BitVec 5) (n : CoreNo) (ws : List Waiting) (s : State) :
    ((ws.foldl (State.freeWaiting t) s).coreAt n).running = (s.coreAt n).running := by
  induction ws generalizing s with
  | nil => rfl
  | cons w ws ih =>
    refine (ih _).trans ?_
    unfold State.freeWaiting
    split
    · exact State.releaseAcc_running (s.freeArea t _) _ n
    · rfl

theorem Core.markCancelled_running {c : Core} {r : Running} (h : c.running = some r) (t : BitVec 5) (hd : BitVec 32) :
    (c.markCancelled t hd).running = some (if r.tenant = t ∧ r.handle = hd then { r with cancelPending := true } else r) := by
  by_cases hm : r.tenant = t ∧ r.handle = hd
  · simp [Core.markCancelled, h, hm]
  · have : (r.tenant == t && r.handle == hd) = false := by simpa using hm
    simp only [Core.markCancelled, h, this, Bool.false_eq_true, if_false, hm]

/-- The running tasks of a cancelled launch have a cancel pending, and no other has (R57). -/
theorem State.cancelLaunch_running {s : State} {n : CoreNo} {r : Running} (h : (s.coreAt n).running = some r) (l : Launch) :
    ((s.cancelLaunch l).coreAt n).running =
      some (if r.tenant = l.tenant ∧ r.handle = l.handle then { r with cancelPending := true } else r) := by
  have hcore : (s.cancelLaunch l).coreAt n = (s.cancelled l).coreAt n := by simp only [State.coreAt, State.cancelLaunch_cores]
  rw [hcore, State.cancelled, State.markCancelled,
    State.coreAt_mapCores _ (f := fun _ c => c.markCancelled l.tenant l.handle) rfl]
  exact Core.markCancelled_running ((State.freeWaitings_running ..).trans h) _ _

theorem State.findLaunch_names {s : State} {t : BitVec 5} {h : BitVec 32} {l : Launch} (hl : s.findLaunch t h = some l) :
    l.tenant = t ∧ l.handle = h := by
  unfold State.findLaunch at hl
  split at hl
  · next hf =>
    cases hl
    have := List.find?_some hf
    simp only [Bool.and_eq_true, beq_iff_eq] at this
    exact this.1.1
  · have := List.find?_some hl
    simp only [Bool.and_eq_true, beq_iff_eq] at this
    exact this.1

/-! ## A tenant that is disabled (R362) -/

/-- Cancels a launch of a list where it still stands open. -/
def State.cancelListed (s : State) (l : Launch) : State :=
  match s.dist.launches.find? fun x => x.order == l.order with
  | some x => if x.isOpen ∧ ¬ x.cancelled then s.cancelLaunch x else s
  | none => s

/-- The launches of a tenant's queue that are to be cancelled. -/
def State.openLaunches (s : State) (t : BitVec 5) (q : BitVec 3) : List Launch :=
  s.dist.launches.filter fun l => l.tenant == t && l.queue == q && l.isOpen && !l.cancelled

theorem State.cancelAll_eq (s : State) (t : BitVec 5) : s.cancelAll t =
    (List.range 8).foldl (fun s q => (s.openLaunches t (BitVec.ofNat 3 q)).foldl State.cancelListed s) s := rfl

theorem State.cancelListed_movesOn (s : State) (l : Launch) : s.MovesOn (s.cancelListed l) := by
  unfold State.cancelListed
  split
  · split
    · exact s.cancelLaunch_movesOn _
    · exact .refl s
  · exact .refl s

theorem State.cancelAll_movesOn (s : State) (t : BitVec 5) : s.MovesOn (s.cancelAll t) := by
  rw [State.cancelAll_eq]
  exact .foldl (fun s q => .foldl State.cancelListed_movesOn _ s) _ s

/-- A launch that is open has been cancelled. -/
def Launch.Ending (l : Launch) : Prop := l.isOpen = true → l.cancelled = true

theorem Launch.Later.ending {a b : Launch} (h : a.Later b) (ha : a.Ending) : b.Ending := fun hb => h.cancelled (ha (h.isOpen hb))

theorem order_unique {ls : List Launch} (h : (ls.map Launch.order).Nodup) {x y : Launch} (hx : x ∈ ls) (hy : y ∈ ls)
    (ho : x.order = y.order) : x = y :=
  List.inj_on_of_nodup_map h hx hy ho

/-- A launch of the list has been cancelled, or was before. -/
theorem State.cancelListed_ends {s : State} (hn : (s.dist.launches.map Launch.order).Nodup) (l : Launch) :
    ∀ y ∈ (s.cancelListed l).dist.launches, y.order = l.order → y.Ending := by
  intro y hy hyo
  unfold State.cancelListed at hy
  split at hy
  · next x hx =>
    have hxo : x.order = l.order := by simpa using List.find?_some hx
    split at hy
    · exact fun _ => (s.cancelLaunch_cancels x y hy (hyo.trans hxo.symm)).1
    · next hc =>
      rw [order_unique hn hy (List.mem_of_find?_eq_some hx) (hyo.trans hxo.symm)]
      intro hopen
      simpa [hopen] using hc
  · next hx => exact absurd hyo (by simpa using List.find?_eq_none.mp hx y hy)

theorem State.cancelListed_foldl_ends (ls : List Launch) (s : State) (hn : (s.dist.launches.map Launch.order).Nodup) :
    ∀ l ∈ ls, ∀ y ∈ (ls.foldl State.cancelListed s).dist.launches, y.order = l.order → y.Ending := by
  induction ls generalizing s with
  | nil => intro l hl; cases hl
  | cons k ls ih =>
    have hn' : ((s.cancelListed k).dist.launches.map Launch.order).Nodup := by rwa [(s.cancelListed_movesOn k).orders]
    intro l hl y hy hyo
    rcases List.mem_cons.mp hl with rfl | hl
    · obtain ⟨x, hx, hxy⟩ := (State.MovesOn.foldl State.cancelListed_movesOn ls (s.cancelListed l)).earlier hy
      exact hxy.ending (State.cancelListed_ends hn l x hx (hxy.order.symm.trans hyo))
    · exact ih _ hn' l hl y hy hyo

/-- A queue that has been gone through has no launch of the tenant that is open and not cancelled. -/
theorem State.cancelQueue_ends {s : State} (hn : (s.dist.launches.map Launch.order).Nodup) (t : BitVec 5) (q : BitVec 3) :
    ∀ y ∈ ((s.openLaunches t q).foldl State.cancelListed s).dist.launches, y.tenant = t → y.queue = q → y.Ending := by
  intro y hy ht hq hopen
  obtain ⟨x, hx, hxy⟩ := (State.MovesOn.foldl State.cancelListed_movesOn (s.openLaunches t q) s).earlier hy
  cases hc : x.cancelled with
  | true => exact hxy.cancelled hc
  | false =>
    have hmem : x ∈ s.openLaunches t q := by
      refine List.mem_filter.mpr ⟨hx, ?_⟩
      simp [← hxy.tenant, ← hxy.queue, ht, hq, hxy.isOpen hopen, hc]
    exact State.cancelListed_foldl_ends _ s hn x hmem y hy hxy.order hopen

theorem State.cancelQueues_end (t : BitVec 5) (qs : List Nat) (s : State) (hn : (s.dist.launches.map Launch.order).Nodup) :
    ∀ q ∈ qs, ∀ y ∈ (qs.foldl (fun s q => (s.openLaunches t (BitVec.ofNat 3 q)).foldl State.cancelListed s) s).dist.launches,
      y.tenant = t → y.queue = BitVec.ofNat 3 q → y.Ending := by
  have hmove (s : State) (q : Nat) : s.MovesOn ((s.openLaunches t (BitVec.ofNat 3 q)).foldl State.cancelListed s) :=
    .foldl State.cancelListed_movesOn _ s
  induction qs generalizing s with
  | nil => intro q hq; cases hq
  | cons k qs ih =>
    intro q hq y hy ht hyq
    rcases List.mem_cons.mp hq with rfl | hq
    · obtain ⟨x, hx, hxy⟩ := (State.MovesOn.foldl hmove qs _).earlier hy
      exact hxy.ending (State.cancelQueue_ends hn t _ x hx (hxy.tenant.symm.trans ht) (hxy.queue.symm.trans hyq))
    · exact ih _ (by rwa [(hmove s k).orders]) q hq y hy ht hyq

/-- No launch of a disabled tenant is open and not cancelled (R362). -/
theorem State.cancelAll_ends {s : State} (hn : (s.dist.launches.map Launch.order).Nodup) (t : BitVec 5) :
    ∀ y ∈ (s.cancelAll t).dist.launches, y.tenant = t → y.Ending := by
  rw [State.cancelAll_eq]
  intro y hy ht
  exact State.cancelQueues_end t (List.range 8) s hn y.queue.toNat (List.mem_range.mpr y.queue.isLt) y hy ht (by simp)

end Sys2Proof.Machine
end

section
/-! SUPPORT. Launch queues: how tail indexes show launches and how heads are taken (R51, R318, R361, R459). -/

namespace Sys2Proof.Machine

/-! ## Visible records (R318, R361) -/

/-- The launch that a record of a queue becomes as it is shown (R33, R51). -/
def State.shownLaunch (s : State) (p : BitVec 5 × BitVec 3 × Nat) : Launch :=
  let rec_ : BitVec 1024 := match s.mem.devRead (s.recordAt p.1 p.2.1 p.2.2) 128 with
    | .ok bs => BitVec.ofNat 1024 (leNat bs)
    | .error _ => 0
  { tenant := p.1, queue := p.2.1, index := BitVec.ofNat 32 p.2.2, order := s.dist.order, rec_ := rec_
    deps := rec_.extractLsb' 160 16 }

/-- Launches that have been shown, those at the head of what is pending. -/
def State.withShown (s : State) (ls : List Launch) : State :=
  { s with dist := { s.dist with launches := s.dist.launches ++ ls, pending := s.dist.pending.drop ls.length
                                 order := s.dist.order + ls.length } }

/-- Whether the base die's read of a pending record cannot be performed yet (R42, R318). -/
def State.RecordWaits (s : State) (p : BitVec 5 × BitVec 3 × Nat) : Prop :=
  let pa := s.recordAt p.1 p.2.1 p.2.2
  s.mem.lockedRange pa 128 = true ∨ targetOf pa = .package ∧ s.mem.readable 8 (pa / 128) = false

/-- A record that no CANCEL of the cycle names a tenant of is shown with no further effect (R362). -/
theorem State.showRecord_eq {s : State} {p : BitVec 5 × BitVec 3 × Nat} {r : List (BitVec 5 × BitVec 3 × Nat)}
    (hp : s.dist.pending = p :: r) (hc : ∀ x ∈ s.plat.cancels, x.1 ≠ p.1) :
    ({ s with dist := { s.dist with pending := r } } : State).showRecord p.1 p.2.1 p.2.2 = s.withShown [s.shownLaunch p] := by
  have hfold (xs : List (BitVec 5 × BitVec 32)) (u : State) (hx : ∀ x ∈ xs, x.1 ≠ p.1) :
      xs.foldl (fun s x => if x.1 = p.1 then s.cancelFound x.1 x.2 else s) u = u := by
    induction xs with
    | nil => rfl
    | cons x xs ih =>
      rw [List.foldl_cons, if_neg (hx x List.mem_cons_self)]
      exact ih fun y hy => hx y (List.mem_cons_of_mem _ hy)
  refine (hfold s.plat.cancels _ hc).trans ?_
  simp only [State.withShown, hp, List.length_singleton, List.drop_one, List.tail_cons]
  rfl

@[simp] theorem State.withShown_nil (s : State) : s.withShown [] = s := by simp [State.withShown]

theorem State.withShown_withShown (s : State) (ls ms : List Launch) : (s.withShown ls).withShown ms = s.withShown (ls ++ ms) := by
  simp [State.withShown, Nat.add_assoc]

/-- Launch `l` has been made of the pending record `p` as the `i`-th that is shown in `s`. -/
def State.Shows (s : State) (i : Nat) (p : BitVec 5 × BitVec 3 × Nat) (l : Launch) : Prop :=
  l.tenant = p.1 ∧ l.queue = p.2.1 ∧ l.index = BitVec.ofNat 32 p.2.2 ∧ l.taken = false ∧ l.order = s.dist.order + i ∧ l.waiting = []

/-- Pending records are shown in their order, up to the first that cannot be read yet (R318, R361). -/
theorem State.showPending_eq (fuel : Nat) (s : State) (hc : ∀ x ∈ s.plat.cancels, ∀ p ∈ s.dist.pending, x.1 ≠ p.1)
    (hf : s.dist.pending.length ≤ fuel) :
    ∃ ls, s.showPending fuel = s.withShown ls ∧
      (∀ (i : Nat) (l : Launch), ls[i]? = some l → ∃ p, s.dist.pending[i]? = some p ∧ s.Shows i p l) ∧
      ∀ p, (s.dist.pending.drop ls.length).head? = some p → s.RecordWaits p := by
  induction fuel generalizing s with
  | zero =>
    have hp : s.dist.pending = [] := List.length_eq_zero_iff.mp (Nat.le_zero.mp hf)
    exact ⟨[], s.withShown_nil.symm, by simp, by simp [hp]⟩
  | succ fuel ih =>
    cases hp : s.dist.pending with
    | nil => exact ⟨[], by simp only [State.showPending, hp, State.withShown_nil], by simp, by simp⟩
    | cons p r =>
      by_cases hw : s.RecordWaits p
      · refine ⟨[], ?_, by simp, by simpa using hw⟩
        have : s.mem.lockedRange (s.recordAt p.1 p.2.1 p.2.2) 128 = true ∨
          targetOf (s.recordAt p.1 p.2.1 p.2.2) = .package ∧ ¬ s.mem.readable 8 (s.recordAt p.1 p.2.1 p.2.2 / 128) = true := by
          simpa [State.RecordWaits] using hw
        simp only [State.showPending, hp, if_pos this, State.withShown_nil]
      · have hw' : ¬ (s.mem.lockedRange (s.recordAt p.1 p.2.1 p.2.2) 128 = true ∨
          targetOf (s.recordAt p.1 p.2.1 p.2.2) = .package ∧ ¬ s.mem.readable 8 (s.recordAt p.1 p.2.1 p.2.2 / 128) = true) := by
          simpa [State.RecordWaits] using hw
        have hv : (s.withShown [s.shownLaunch p]).dist.pending = r := by simp [State.withShown, hp]
        obtain ⟨ls, hls, hshow, hwait⟩ := ih (s.withShown [s.shownLaunch p])
          (fun x hx q hq => hc x hx q (hp ▸ List.mem_cons_of_mem _ (hv ▸ hq))) (by rw [hv]; simpa [hp] using hf)
        refine ⟨s.shownLaunch p :: ls, ?_, fun i l hl => ?_, ?_⟩
        · simp only [State.showPending, hp, if_neg hw']
          rw [State.showRecord_eq hp fun x hx => hc x hx p (hp ▸ List.mem_cons_self), hls, State.withShown_withShown,
            List.singleton_append]
        · cases i with
          | zero =>
            cases hl
            exact ⟨p, rfl, rfl, rfl, rfl, rfl, rfl, rfl⟩
          | succ i =>
            obtain ⟨q, hq, ht, hqu, hix, htk, ho, hwt⟩ := hshow i l hl
            exact ⟨q, hv ▸ hq, ht, hqu, hix, htk, ho.trans (Nat.add_right_comm ..), hwt⟩
        · rw [hv] at hwait
          exact hwait

@[simp] theorem State.treg_setReg_same (s : State) (t : BitVec 5) (a b : Nat) (v : Word) :
    (s.setReg (tenantBlock t + a + b) v).treg t (a + b) = v := by
  rw [State.treg, Nat.add_assoc]
  exact s.reg_setReg_same _ v

/-- A tail index that has moved to `new`, with the records that are then pending: the base die has heard every pile (R318, R361). -/
def State.tailMoved (s : State) (t : BitVec 5) (q : BitVec 3) (new : Nat) (due : List (BitVec 5 × BitVec 3 × Nat)) : State :=
  let s := (s.setReg (tenantBlock t + 0x218 + 32 * q.toNat) (BitVec.ofNat 64 new)).withMem fun m =>
    { m with vc := m.vc.put 8 ((List.range 8).foldl (fun k p => clockMax k (m.piles.get (BitVec.ofNat 3 p)).oc) (m.vc.get 8)) }
  { s with dist := { s.dist with pending := due } }

/-! ## Heads (R51, R459) -/

/-- The head index of a queue passes over its head (R51). -/
def State.headMoved (s : State) (t : BitVec 5) (q : BitVec 3) : State :=
  s.setReg (tenantBlock t + 0x210 + 32 * q.toNat) ((s.treg t (0x210 + 32 * q.toNat) + 1) &&& 0xFFFFFFFF)

theorem State.showPending_none {s : State} (h : s.dist.pending = []) : s.showPending s.dist.pending.length = s := by
  rw [h]; rfl

section
variable {s : State} {t : BitVec 5} {q : BitVec 3}

theorem State.takeLaunch_off (h : s.queueOn t q = false) : s.takeLaunch t q = s := by
  simp [State.takeLaunch, h]

variable {l : Launch} (hq : s.queueOn t q = true) (ho : s.offering t q = none)
  (hl : s.dist.launches.find? (fun l => l.tenant == t && l.queue == q && !l.taken &&
    l.index == (s.treg t (0x210 + 32 * q.toNat)).setWidth 32) = some l) (hc : l.completed = false)
include hq ho hl hc

/-- A head with predecessors waits (R51). -/
theorem State.takeLaunch_waits (hd : l.deps ≠ 0) : s.takeLaunch t q = s := by
  simp only [State.takeLaunch, hq, ho, hl, hc, if_pos hd, Option.isSome_none, Bool.not_true, Bool.or_false, Bool.false_eq_true, if_false]

theorem State.takeLaunch_takes (hd : l.deps = 0) (hy : s.launchSynd l = none) : s.takeLaunch t q =
    (({ s with free := s.free + 1 } : State).headMoved t q).modLaunch l.order fun l =>
      { l with taken := true, pinned := l.flagPin, live := l.live + BitVec.ofNat 64 l.tasks } := by
  simp only [State.takeLaunch, hq, ho, hl, hc, hd, hy, Option.isSome_none, Bool.not_true, Bool.or_false, Bool.false_eq_true, if_false,
    ne_eq, not_true_eq_false]
  rfl

/-- A head that fails a check is refused, reported and complete (R459). -/
theorem State.takeLaunch_refuses {e : Word} (hd : l.deps = 0) (hy : s.launchSynd l = some e) : s.takeLaunch t q =
    (((({ s with free := s.free + 1 } : State).headMoved t q).modLaunch l.order fun l => { l with taken := true, refused := true }).report
      { src := 0x38, sev := 6, ten := some t, synd := e }).complete { l with taken := true, refused := true } := by
  simp only [State.takeLaunch, hq, ho, hl, hc, hd, hy, Option.isSome_none, Bool.not_true, Bool.or_false, Bool.false_eq_true, if_false,
    ne_eq, not_true_eq_false]
  rfl

end

theorem State.report_movesOn (s : State) {r : ErrRec} (h : 4 ≤ r.sev.toNat) : s.MovesOn (s.report r) := by
  obtain ⟨es, he⟩ := s.report_eq h
  rw [he]
  exact .of_eq rfl rfl

/-- A launch that is refused as it is taken is complete (R459). -/
theorem State.refused_completes (s : State) (l : Launch) (t : BitVec 5) (e : Word) :
    ∀ x ∈ (((s.modLaunch l.order fun l => { l with taken := true, refused := true }).report
        { src := 0x38, sev := 6, ten := some t, synd := e }).complete { l with taken := true, refused := true }).dist.launches,
      x.order = l.order → x.taken = true ∧ x.refused = true ∧ x.completed = true := by
  intro x hx hxo
  have hrep := State.report_movesOn (s.modLaunch l.order fun l => { l with taken := true, refused := true })
    (r := { src := 0x38, sev := 6, ten := some t, synd := e }) (show 4 ≤ (6 : BitVec 8).toNat by decide)
  obtain ⟨ht, hr⟩ := State.MovesOn.modified (hrep.trans (State.complete_movesOn' _ { l with taken := true, refused := true }))
    (P := fun x => x.taken = true ∧ x.refused = true) (fun _ => ⟨rfl, rfl⟩) (fun _ _ h ha => ⟨h.taken ha.1, h.refused ha.2⟩) x hx hxo
  exact ⟨ht, hr, State.MovesOn.modified (State.complete_movesOn _ { l with taken := true, refused := true })
    (P := fun x => x.completed = true) (fun _ => rfl) (fun _ _ h => h.completed) x hx hxo⟩

end Sys2Proof.Machine

namespace Sys2Proof.Claims
open Machine

section
variable {s : State} (hs : s.plat.failStop = false)
include hs

theorem exec_lqtailWrite (t : BitVec 5) (q : BitVec 3) (tail : Word) : exec (.lqtailWrite t q tail) s = .next (s.writeTail t q tail) := by
  show execLqtailWrite t q tail s = _
  simp [execLqtailWrite, hs]

theorem exec_launchTake (t : BitVec 5) (q : BitVec 3) (hp : s.dist.pending = []) :
    exec (.launchTake t q) s = .next (s.takeLaunch t q) := by
  show execLaunchTake t q s = _
  simp [execLaunchTake, hs, State.showPending_none hp]

theorem exec_cancel (t : BitVec 5) (h : BitVec 32) : exec (.cancel t h) s = .next (s.cancelHandle t h) := by
  show execCancel t h s = _
  simp [execCancel, hs]

end

theorem launchesAreShownTakenAndCancelled : LaunchesAreShownTakenAndCancelled := by
  intro s t q hs head old ahead
  refine ⟨fun tail => ⟨fun hc h1 h2 => ?shown, fun hd => ?ignored⟩,
    fun l hp hq ho hl hc => ⟨fun hd => ?waits, fun hd hy => ?takes, fun e hd hy => ?refuses⟩, fun hp hq => ?off,
    fun h => ⟨fun hl => ?unnamed, fun l hl hc => ?again, fun l hl hc => ?cancels⟩, fun ht hen hn => ?disables, fun hd => ?stays⟩
  case shown =>
    generalize hdue : s.dist.pending ++ _ = due at hc
    obtain ⟨ls, hls, hshow, hwait⟩ := State.showPending_eq due.length (s.tailMoved t q (tail.toNat % 2 ^ 32) due) hc (Nat.le_refl _)
    refine ⟨(s.tailMoved t q (tail.toNat % 2 ^ 32) due).withShown ls, ls, ?_, ?_, rfl, rfl, rfl, rfl, hshow, hwait⟩
    · rw [exec_lqtailWrite hs, ← hls, ← hdue]
      exact congrArg _ (if_pos ⟨h1, h2⟩)
    · exact State.treg_setReg_same ..
  case ignored =>
    obtain ⟨es, he⟩ := s.report_eq (r := { src := 0x3C, sev := 6, ten := some t, addr := q.setWidth 64 })
      (show 4 ≤ (6 : BitVec 8).toNat by decide)
    refine ⟨_, (exec_lqtailWrite hs t q tail).trans (congrArg _ ((if_neg ?_).trans he)), rfl⟩
    rintro ⟨h1, h2⟩
    exact hd.elim (Nat.not_lt.mpr h1) (Nat.not_lt.mpr h2)
  case waits => rw [exec_launchTake hs t q hp, State.takeLaunch_waits hq ho hl hc hd]
  case takes =>
    refine ⟨_, (exec_launchTake hs t q hp).trans (congrArg _ (State.takeLaunch_takes hq ho hl hc hd hy)), ?_, rfl, rfl, rfl⟩
    exact State.treg_setReg_same ..
  case refuses =>
    refine ⟨_, (exec_launchTake hs t q hp).trans (congrArg _ (State.takeLaunch_refuses hq ho hl hc hd hy)), ?_⟩
    exact State.refused_completes _ l t e
  case off => rw [exec_launchTake hs t q hp, State.takeLaunch_off hq]
  case unnamed => rw [exec_cancel hs, State.cancelHandle, hl]; rfl
  case again => rw [exec_cancel hs]; simp [State.cancelHandle, State.cancelFound, hl, hc]
  case cancels =>
    obtain ⟨ht, hh⟩ := State.findLaunch_names hl
    have hu : s.cancelHandle t h = s.cancelLaunch l := by simp [State.cancelHandle, State.cancelFound, hl, hc]
    refine ⟨_, (exec_cancel hs t h).trans (congrArg _ hu), s.cancelLaunch_cancels l, fun n r hr => ?_⟩
    rw [State.cancelLaunch_running hr, ht, hh]
  case disables =>
    have hu : exec (.tenantDisable t) s =
        .next ((s.setReg (tenantBlock t) (s.treg t 0 &&& 0x7FFFFFFFFFFFFFFF)).cancelAll t) := by
      show execTenantDisable t s = _
      simp [execTenantDisable, hs, ht, hen]
    have hends := State.cancelAll_ends (s := s.setReg (tenantBlock t) (s.treg t 0 &&& 0x7FFFFFFFFFFFFFFF)) hn t
    refine ⟨_, hu, ?_, hends⟩
    rw [(State.cancelAll_movesOn _ t).treg]
    exact State.reg_setReg_same ..
  case stays =>
    show execTenantDisable t s = _
    simp only [execTenantDisable, hs]
    exact congrArg _ (if_pos (by simpa using hd))

end Sys2Proof.Claims
end

section
/-! SUPPORT. Wakes: what the distributor makes of a wake on its way and of its record (R43). -/

namespace Sys2Proof.Machine

/-! ## Words at their homes -/

theorem Memory.read_eq {m : List Host.Cell} {a : Nat} {bs : List Byte} (h : ∀ i < bs.length, Memory.get m (a + i) = bs.getD i 0) :
    Memory.read m a bs.length = bs := by
  induction bs generalizing a with
  | nil => rfl
  | cons b bs ih =>
    have h0 : Memory.get m a = b := h 0 (Nat.succ_pos _)
    rw [List.length_cons, Memory.read, h0, ih fun i hi => ?_]
    rw [Nat.add_right_comm]
    exact h (i + 1) (Nat.succ_lt_succ hi)

/-- Bytes read back as they were written. -/
theorem Memory.read_write {m : List Host.Cell} (hm : Memory.wf m = true) (a : Nat) (bs : List Byte) :
    Memory.read (Memory.write m a bs) a bs.length = bs :=
  Memory.read_eq fun i hi => by
    rw [Memory.get_write _ _ _ hm, if_pos ⟨Nat.le_add_right .., Nat.add_lt_add_left hi a⟩, Nat.add_sub_cancel_left]

/-- A granule of package memory that is sound lies in a pile that is not lost (R464). -/
theorem MemSys.pile_of_sound {m : MemSys} {pa : Nat} (hp : targetOf pa = .package) (hb : m.isBad (pa / 16) = false) :
    (m.piles.get (pileOf pa)).lost = false := by
  have hle : pa ≤ 0x7FFFFFFFFF := by
    unfold targetOf at hp
    split at hp
    · assumption
    · repeat' split at hp
      all_goals cases hp
  have hg : targetOf (pa / 16 * 16) = .package := if_pos (Nat.le_trans (Nat.div_mul_le_self pa 16) hle)
  have hpile : pileOf (pa / 16 * 16) = pileOf pa := by
    unfold pileOf
    congr 1
    omega
  simp only [MemSys.isBad, hg, hpile, decide_true, Bool.true_and, Bool.or_eq_false_iff] at hb
  exact hb.2

/-- A word that the base die writes at its home in package memory reads back there (R4, R316). -/
theorem MemSys.read_homeWrite {m : MemSys} {d : BitVec 4} {pa : Nat} (hp : targetOf pa = .package)
    (hb : m.isBad (pa / 16) = false) (hm : Memory.wf m.mem = true) (x : Word) :
    BitVec.ofNat 64 (leNat (Memory.read (m.homeWrite d pa (leBytes 8 x.toNat)).mem pa 8)) = x := by
  have hw : (m.homeWrite d pa (leBytes 8 x.toNat)).mem = Memory.write m.mem pa (leBytes 8 x.toNat) := by
    simp only [MemSys.homeWrite, MemSys.stampedWrite, MemSys.land, hp, MemSys.applyMsg, MemSys.pile_of_sound hp hb, if_true,
      Bool.false_eq_true, if_false]
  have hr := Memory.read_write hm pa (leBytes 8 x.toNat)
  rw [leBytes_length] at hr
  rw [hw, hr, leNat_leBytes 8 _ x.isLt, BitVec.ofNat_toNat, BitVec.setWidth_eq]

/-! ## A wake at its record (R43) -/

section
variable {s : State} {w : WakeReq} {l : Launch} {e : TlbEntry} (hl : s.findLaunch w.tenant w.handle = some l) (hc : l.cancelled = false)
  (he : translate s noCore w.tenant true w.addr .rw = .ok e)
include hl hc he

/-- A wake waits for the lock of its record's line (R42). -/
theorem State.applyWake_locked (hk : s.mem.locks.any (fun k => k.line == e.phys w.addr / 128) = true) : s.applyWake w = none := by
  simp only [State.applyWake, hl, hc, he, hk, Bool.true_or, Bool.false_eq_true, if_false, if_true]

/-- The word of a wake's record once it can be read. -/
theorem State.applyWake_reads {pa : Nat} (hpa : e.phys w.addr = pa) (hp : targetOf pa = .package)
    (hk : s.mem.locks.any (fun k => k.line == pa / 128) = false)
    (hr : s.mem.readable 8 (pa / 128) = true) (hb : s.mem.isBad (pa / 16) = false) {v : Word}
    (hv : BitVec.ofNat 64 (leNat (Memory.read s.mem.mem pa 8)) = v) :
    s.applyWake w =
      if v.getLsbD 63 then match s.suspendedOn pa with
        | none => some s
        | some (l, a, k) =>
          if l.tenant ≠ w.tenant then some s
          else some ((s.withMem fun m => m.homeWrite 8 pa (leBytes 8 (v &&& 0x7FFFFFFFFFFFFFFF).toNat)).modLaunch l.order
            fun l => { l with waiting := l.waiting.erase (.suspended a k) ++ [.ready a true k] })
      else if v.getLsbD 62 then some s
      else some (s.withMem fun m => m.homeWrite 8 pa (leBytes 8 (v ||| 0x4000000000000000).toNat)) := by
  simp only [State.applyWake, hl, hc, he, hpa, hk, hp, hr, hb, hv, Bool.not_true, Bool.and_false, Bool.or_false, Bool.false_eq_true,
    if_false] <;> rfl

end

end Sys2Proof.Machine

namespace Sys2Proof.Claims
open Machine

/-- A wake that is applied ends. -/
theorem exec_wake {s u : State} {i : Nat} {w : WakeReq} (hs : s.plat.failStop = false) (hw : s.dist.wakes[i]? = some w)
    (hu : s.applyWake w = some u) :
    exec (.wake i) s = .next { u with dist := { u.dist with wakes := u.dist.wakes.eraseIdx i } } := by
  show execWake i s = _
  simp only [execWake, hs, hw, hu, Bool.false_eq_true, if_false]

theorem exec_wake_waits {s : State} {i : Nat} {w : WakeReq} (hs : s.plat.failStop = false) (hw : s.dist.wakes[i]? = some w)
    (hu : s.applyWake w = none) : exec (.wake i) s = .next s := by
  show execWake i s = _
  simp only [execWake, hs, hw, hu, Bool.false_eq_true, if_false]

theorem wakesReachTheirRecords : WakesReachTheirRecords := by
  intro s i w hs hw
  refine ⟨fun hl => ?gone, fun l e hl hc he => ?found⟩
  case gone => exact exec_wake hs hw (by simp only [State.applyWake, hl])
  case found =>
    intro pa v hp
    refine ⟨fun hk => exec_wake_waits hs hw (State.applyWake_locked hl hc he hk), fun hk hr hb hm => ?_⟩
    have happly := State.applyWake_reads hl hc he (pa := pa) rfl hp hk hr hb (v := v) rfl
    refine ⟨fun h63 h62 => ?woken, fun h63 h62 => ?again, fun l' a k h63 hsus ht => ?ready⟩
    case woken =>
      rw [h63, h62] at happly
      exact ⟨_, exec_wake hs hw happly, rfl, rfl, MemSys.read_homeWrite hp hb hm _⟩
    case again =>
      rw [h63, h62] at happly
      exact exec_wake hs hw happly
    case ready =>
      simp only [h63, hsus, ht, if_true, ne_eq, not_true_eq_false, if_false] at happly
      refine ⟨_, exec_wake hs hw happly, rfl, rfl, MemSys.read_homeWrite hp hb hm _, fun x hx ho => ?_⟩
      obtain ⟨y, -, rfl⟩ := List.mem_map.mp hx
      split
      · exact List.mem_append_right _ List.mem_cons_self
      · next hne =>
        rw [if_neg hne] at ho
        exact absurd ho hne

end Sys2Proof.Claims
end

section
/-! SUPPORT. Grants: what the distributor's next grant leaves as it is, and the core that a task begins or resumes on (R40, R50, R54,
R65). -/

namespace Sys2Proof.Machine

/-! ## What a grant rearranges -/

/-- `u` is `s` but for its launches, its reservations and its rounds. -/
def State.Rearranged (s u : State) : Prop :=
  ∃ d : Dist, u = { s with dist := d } ∧ d.areas = s.dist.areas ∧ d.tasks = s.dist.tasks

theorem State.Rearranged.refl (s : State) : s.Rearranged s := ⟨_, rfl, rfl, rfl⟩

theorem State.Rearranged.trans {s u v : State} (h : s.Rearranged u) (k : u.Rearranged v) : s.Rearranged v := by
  obtain ⟨d, rfl, ha, ht⟩ := h
  obtain ⟨e, rfl, ka, kt⟩ := k
  exact ⟨e, rfl, ka.trans ha, kt.trans ht⟩

theorem State.reserve_rearranged (s : State) : s.Rearranged s.reserve := by
  refine List.foldlRecOn _ _ (motive := s.Rearranged) ⟨_, rfl, rfl, rfl⟩ fun u hu c _ => ?_
  dsimp only
  split
  · exact hu
  · split
    · exact hu.trans ⟨_, rfl, rfl, rfl⟩
    · exact hu

theorem State.advanceRound_rearranged (s : State) (k : BitVec 2) (t : BitVec 5) (q : BitVec 3) : s.Rearranged (s.advanceRound k t q) :=
  ⟨_, rfl, rfl, rfl⟩

theorem State.modLaunch_rearranged (s : State) (o : Nat) (f : Launch → Launch) : s.Rearranged (s.modLaunch o f) := ⟨_, rfl, rfl, rfl⟩

theorem State.endReservation_rearranged (s : State) (l : Launch) : s.Rearranged (s.endReservation l) := ⟨_, rfl, rfl, rfl⟩

theorem State.unslice_rearranged (s : State) (t : BitVec 5) (q : BitVec 3) (ns : List Nat) : s.Rearranged (s.unslice t q ns) :=
  ⟨_, rfl, rfl, rfl⟩

theorem State.Rearranged.coreAt {s u : State} (h : s.Rearranged u) (n : CoreNo) : u.coreAt n = s.coreAt n := by
  obtain ⟨d, rfl, -⟩ := h; rfl

theorem State.Rearranged.areas {s u : State} (h : s.Rearranged u) : u.dist.areas = s.dist.areas := by
  obtain ⟨d, rfl, ha, -⟩ := h; exact ha

theorem State.Rearranged.tasks {s u : State} (h : s.Rearranged u) : u.dist.tasks = s.dist.tasks := by
  obtain ⟨d, rfl, -, ht⟩ := h; exact ht

theorem State.Rearranged.treg {s u : State} (h : s.Rearranged u) (t : BitVec 5) (off : Nat) : u.treg t off = s.treg t off := by
  obtain ⟨d, rfl, -⟩ := h; rfl

theorem State.Rearranged.freeAreas {s u : State} (h : s.Rearranged u) (t : BitVec 5) : u.freeAreas t = s.freeAreas t := by
  simp only [State.freeAreas, h.treg, h.areas]

theorem State.Rearranged.coordOf {s u : State} (h : s.Rearranged u) (l : Launch) (i j : Nat) : u.coordOf l i j = s.coordOf l i j := by
  obtain ⟨d, rfl, -⟩ := h; rfl

/-! ## The context that a task begins with (R40) -/

/-- The coordinates and live values of a task in its registers, up to the `n`-th of each (R40). -/
def Ctx.withArgs (co : Nat → BitVec 16) (live : Nat → BitVec 32) (n : Nat) (c : Ctx) : Ctx :=
  (List.range n).foldl (fun (c : Ctx) j => (c.wrS (BitVec.ofNat 6 (48 + j)) ((co j).setWidth 64)).wrS
    (BitVec.ofNat 6 (56 + j)) ((live j).setWidth 64)) c

theorem Ctx.withArgs_succ (co : Nat → BitVec 16) (live : Nat → BitVec 32) (n : Nat) (c : Ctx) : c.withArgs co live (n + 1) =
    ((c.withArgs co live n).wrS (BitVec.ofNat 6 (48 + n)) ((co n).setWidth 64)).wrS (BitVec.ofNat 6 (56 + n)) ((live n).setWidth 64) := by
  simp [Ctx.withArgs, List.range_succ]

@[simp] theorem Ctx.wrS_pc (c : Ctx) (i : BitVec 6) (v : Word) : (c.wrS i v).pc = c.pc := by unfold Ctx.wrS; split <;> rfl
@[simp] theorem Ctx.wrS_cr (c : Ctx) (i : BitVec 6) (v : Word) : (c.wrS i v).cr = c.cr := by unfold Ctx.wrS; split <;> rfl

@[simp] theorem Ctx.setCreg_pc (c : Ctx) (i : BitVec 5) (v : Word) : (c.setCreg i v).pc = c.pc := rfl
@[simp] theorem Ctx.rdS_setCreg (c : Ctx) (i : BitVec 5) (v : Word) (j : BitVec 6) : (c.setCreg i v).rdS j = c.rdS j := rfl

theorem Ctx.withArgs_pc (co : Nat → BitVec 16) (live : Nat → BitVec 32) (n : Nat) (c : Ctx) : (c.withArgs co live n).pc = c.pc := by
  induction n with
  | zero => rfl
  | succ n ih => rw [Ctx.withArgs_succ, Ctx.wrS_pc, Ctx.wrS_pc, ih]

theorem ofNat6_ne {a b : Nat} (ha : a < 64) (hb : b < 64) (h : a ≠ b) : BitVec.ofNat 6 a ≠ BitVec.ofNat 6 b := fun e =>
  h (by simpa [Nat.mod_eq_of_lt ha, Nat.mod_eq_of_lt hb] using congrArg BitVec.toNat e)

theorem Ctx.rdS_withArgs (co : Nat → BitVec 16) (live : Nat → BitVec 32) (c : Ctx) {n j : Nat} (hn : n ≤ 8) (hj : j < n) :
    (c.withArgs co live n).rdS (BitVec.ofNat 6 (48 + j)) = (co j).setWidth 64 ∧
      (c.withArgs co live n).rdS (BitVec.ofNat 6 (56 + j)) = (live j).setWidth 64 := by
  induction n with
  | zero => exact absurd hj (Nat.not_lt_zero _)
  | succ n ih =>
    have hne {a b : Nat} (ha : a < 64) (hb : b < 64) (h : a ≠ b) := ofNat6_ne ha hb h
    rw [Ctx.withArgs_succ]
    rcases Nat.lt_succ_iff_lt_or_eq.mp hj with hj | rfl
    · obtain ⟨hco, hlive⟩ := ih (by omega) hj
      rw [Ctx.rdS_wrS_ne _ _ (hne (by omega) (by omega) (by omega)), Ctx.rdS_wrS_ne _ _ (hne (by omega) (by omega) (by omega)),
        Ctx.rdS_wrS_ne _ _ (hne (by omega) (by omega) (by omega)), Ctx.rdS_wrS_ne _ _ (hne (by omega) (by omega) (by omega))]
      exact ⟨hco, hlive⟩
    · rw [Ctx.rdS_wrS_ne _ _ (hne (by omega) (by omega) (by omega)),
        Ctx.rdS_wrS_same _ _ (hne (b := 0) (by omega) (by omega) (by omega)),
        Ctx.rdS_wrS_same _ _ (hne (b := 0) (by omega) (by omega) (by omega))]
      exact ⟨rfl, rfl⟩

section
variable (s : State) (l : Launch) (i idx : Nat) (co : Nat → BitVec 16) (live : Nat → BitVec 32) (code pc savea : Word)

/-- A task begins with its code, its entry, its coordinates and its control registers (R40). -/
theorem State.freshCtx_eq : s.freshCtx l i idx co live code pc savea =
    ((((((((Ctx.withArgs co live 8 { code := code, pc := pc, coords := Vector.ofFn fun j => co j.val }).setCreg crTASK
      (l.handle ++ BitVec.ofNat 32 i)).setCreg crTENANT (l.tenant.setWidth 64)).setCreg crSAVEA savea).setCreg crTFBASE
      (s.treg l.tenant 0x038 + BitVec.ofNat 64 (512 * idx))).setCreg crTVEC (s.treg l.tenant 0x080)).setCreg crSVEC
      (s.treg l.tenant 0x088)).setCreg crPSTAT (if l.pinned then 2 else 0)) := by
  rfl

theorem State.freshCtx_pc : (s.freshCtx l i idx co live code pc savea).pc = pc := by
  rw [State.freshCtx_eq]
  repeat rw [Ctx.setCreg_pc]
  rw [Ctx.withArgs_pc]

theorem State.freshCtx_rdS {j : Nat} (hj : j < 8) :
    (s.freshCtx l i idx co live code pc savea).rdS (BitVec.ofNat 6 (48 + j)) = (co j).setWidth 64 ∧
      (s.freshCtx l i idx co live code pc savea).rdS (BitVec.ofNat 6 (56 + j)) = (live j).setWidth 64 := by
  rw [State.freshCtx_eq]
  repeat rw [Ctx.rdS_setCreg]
  exact Ctx.rdS_withArgs co live _ (Nat.le_refl 8) hj

/-- TASK, TENANT and SAVEA of a task that begins (R40, R69). -/
theorem State.freshCtx_cregs : let c := s.freshCtx l i idx co live code pc savea
    c.creg crTASK = l.handle ++ BitVec.ofNat 32 i ∧ c.creg crTENANT = l.tenant.setWidth 64 ∧ c.creg crSAVEA = savea := by
  simp only [State.freshCtx_eq]
  refine ⟨?_, ?_, ?_⟩ <;>
    repeat rw [Ctx.creg_setCreg_ne _ _ (by decide)]
  all_goals exact Ctx.creg_setCreg_same ..

end

/-! ## A task begins (R40, R50) -/

@[simp] theorem State.coreAt_acquireAt (s : State) (n m : CoreNo) (k : Option Clock) : (acquireAt s n k).coreAt m = s.coreAt m := rfl

@[simp] theorem State.coreAt_floorClock (s : State) (pin : Bool) (n : CoreNo) : (s.floorClock pin).coreAt n = s.coreAt n := by
  unfold State.floorClock; split <;> rfl

@[simp] theorem Core.traceAdd_ctx (c : Core) (kind num : BitVec 8) (val cyc : Word) : (c.traceAdd kind num val cyc).ctx = c.ctx := by
  unfold Core.traceAdd Core.traceAddFor; split <;> rfl

@[simp] theorem Core.traceAdd_bb (c : Core) (kind num : BitVec 8) (val cyc : Word) : (c.traceAdd kind num val cyc).bb = c.bb := by
  unfold Core.traceAdd Core.traceAddFor; split <;> rfl

@[simp] theorem State.coreAt_withDist (s : State) (d : Dist) (n : CoreNo) : ({ s with dist := d } : State).coreAt n = s.coreAt n := rfl

/-- A task that begins anew runs on its core, numbered, in the lowest free save area of its tenant, with its fresh context. -/
theorem State.beginTask_begins {s : State} {l : Launch} {ix : Nat} {rest : List Nat} (h : s.freeAreas l.tenant = ix :: rest) (n : CoreNo)
    (i : Nat) (co : Nat → BitVec 16) (live : Nat → BitVec 32) (code pc : Word) :
    ((s.beginTask n l i co live code pc none {}).coreAt n).running =
      some { tenant := l.tenant, handle := l.handle, savea := s.treg l.tenant 0x008 + BitVec.ofNat 64 (10240 * ix)
             task := s.dist.tasks + 1, gang := l.gangOf i } ∧
    ∃ c : Ctx, ((s.beginTask n l i co live code pc none {}).coreAt n).ctx = { c with lastSusp := 0 } ∧ c.pc = pc ∧
      c.creg crTASK = l.handle ++ BitVec.ofNat 32 i ∧ c.creg crTENANT = l.tenant.setWidth 64 ∧
      c.creg crSAVEA = s.treg l.tenant 0x008 + BitVec.ofNat 64 (10240 * ix) ∧
      ∀ j, j < 8 → c.rdS (BitVec.ofNat 6 (48 + j)) = (co j).setWidth 64 ∧ c.rdS (BitVec.ofNat 6 (56 + j)) = (live j).setWidth 64 := by
  simp only [State.beginTask, h, State.coreAt_acquireAt, State.coreAt_withDist, State.coreAt_floorClock, State.coreAt_setCoreAt_same,
    Core.traceAdd_running, Core.traceAdd_ctx]
  obtain ⟨htask, hten, hsav⟩ := s.freshCtx_cregs l i ix co live code pc (s.treg l.tenant 0x008 + BitVec.ofNat 64 (10240 * ix))
  exact ⟨rfl, s.freshCtx l i ix co live code pc (s.treg l.tenant 0x008 + BitVec.ofNat 64 (10240 * ix)), rfl, State.freshCtx_pc ..,
    htask, hten, hsav, fun j hj => State.freshCtx_rdS s l i ix co live code pc _ hj⟩

theorem State.beginTask_areas {s : State} {l : Launch} {ix : Nat} {rest : List Nat} (h : s.freeAreas l.tenant = ix :: rest) (n : CoreNo)
    (i : Nat) (co : Nat → BitVec 16) (live : Nat → BitVec 32) (code pc : Word) :
    (s.beginTask n l i co live code pc none {}).dist.areas = (l.tenant, ix) :: s.dist.areas := by
  simp only [State.beginTask, h, acquireAt, State.withMem]

/-- The grant of one undispatched task begins it, once its launch has moved on and its gang's reservation has ended (R51, R54). -/
theorem State.grant_task {c : Cand} {l : Launch} {i m : Nat} {b : List (Nat × Nat × Nat)} (hp : c.pick = .tasks l [(i, m)] b) (s : State) :
    ∃ v, s.Rearranged v ∧ s.grant c =
      v.beginTask (BitVec.ofNat 11 m) l i (fun j => BitVec.ofNat 16 (v.coordOf l i j)) l.arg l.code l.entry none {} := by
  simp only [State.grant, hp, List.foldl_cons, List.foldl_nil]
  split
  · exact ⟨_, (s.modLaunch_rearranged ..).trans (State.endReservation_rearranged ..), rfl⟩
  · exact ⟨_, s.modLaunch_rearranged .., rfl⟩

section
variable {s : State} (hf : s.plat.failStop = false)
include hf

theorem exec_taskDispatch_none (h : s.reserve.nextGrant = none) : exec .taskDispatch s = .next s.reserve := by
  simp [exec, execTaskDispatch, hf, h]

theorem exec_taskResume_none (h : s.reserve.nextGrant = none) : exec .taskResume s = .next s.reserve := by
  simp [exec, execTaskResume, hf, h]

theorem exec_taskDispatch_task {k : BitVec 2} {t : BitVec 5} {q : BitVec 3} {c : Cand} {l : Launch} {i m : Nat}
    {b : List (Nat × Nat × Nat)} (h : s.reserve.nextGrant = some (k, t, q, c)) (hp : c.pick = .tasks l [(i, m)] b)
    (hw : s.reserve.mustWait t m = false) :
    exec .taskDispatch s = .next ((((s.reserve.advanceRound k t q).grant c).unslice t q [m]).reserve) := by
  have hc : c.cores = [m] := by simp [Cand.cores, hp]
  simp [exec, execTaskDispatch, hf, h, hp, hc, hw]

/-- The next grant of one undispatched task leaves its core as `beginTask` makes it in a state rearranged by the grant. -/
theorem exec_taskDispatch_begins {k : BitVec 2} {t : BitVec 5} {q : BitVec 3} {c : Cand} {l : Launch} {i m : Nat}
    {b : List (Nat × Nat × Nat)} (h : s.reserve.nextGrant = some (k, t, q, c)) (hp : c.pick = .tasks l [(i, m)] b)
    (hw : s.reserve.mustWait t m = false) :
    ∃ u v, exec .taskDispatch s = .next u ∧ s.reserve.Rearranged v ∧ State.Rearranged (v.beginTask (BitVec.ofNat 11 m) l i
      (fun j => BitVec.ofNat 16 (v.coordOf l i j)) l.arg l.code l.entry none {}) u := by
  obtain ⟨v, hv, hg⟩ := State.grant_task hp (s.reserve.advanceRound k t q)
  refine ⟨_, v, exec_taskDispatch_task hf h hp hw, (State.advanceRound_rearranged ..).trans hv, ?_⟩
  rw [hg]
  exact (State.unslice_rearranged ..).trans (State.reserve_rearranged _)

end

end Sys2Proof.Machine
end

section
/-! SUPPORT. Resumptions: how a save area is read past the die cache and its task resumed (R65, R312, R386). -/

namespace Sys2Proof.Machine

/-! ## A task resumes (R65) -/

@[simp] theorem translateRange_withDist (s : State) (d : Dist) : translateRange { s with dist := d } = translateRange s := rfl

@[simp] theorem State.areaLines_withDist (s : State) (d : Dist) : State.areaLines { s with dist := d } = s.areaLines := rfl

@[simp] theorem State.readArea_withDist (s : State) (d : Dist) : State.readArea { s with dist := d } = s.readArea := rfl

@[simp] theorem State.areaReadable_withDist (s : State) (d : Dist) : State.areaReadable { s with dist := d } = s.areaReadable := rfl

/-- `u` is `s` but for its memory. -/
def State.SameBesideMem (s u : State) : Prop := ∃ m, u = { s with mem := m }

theorem cleanDie_besideMem (s : State) (d : BitVec 3) (x : Nat) : s.SameBesideMem (cleanDie s d x) := by
  unfold cleanDie
  split
  · exact ⟨_, rfl⟩
  · exact ⟨_, rfl⟩

theorem dropDie_besideMem (s : State) (d : BitVec 3) (x : Nat) : s.SameBesideMem (dropDie s d x) := by
  obtain ⟨m, hm⟩ := cleanDie_besideMem s d x
  exact ⟨_, by rw [dropDie, hm]; rfl⟩

theorem dropDies_besideMem (d : BitVec 3) (xs : List Nat) (s : State) :
    s.SameBesideMem (xs.foldl (fun u x => dropDie u d x) s) := by
  refine List.foldlRecOn _ _ (motive := s.SameBesideMem) ⟨_, rfl⟩ fun u hu x _ => ?_
  obtain ⟨m, rfl⟩ := hu
  exact dropDie_besideMem ..

theorem State.Rearranged.nowOf {s u : State} (h : s.Rearranged u) (n : CoreNo) : u.nowOf n = s.nowOf n := by
  obtain ⟨d, rfl, -⟩ := h; rfl

theorem State.Rearranged.withMem {s u : State} (h : s.Rearranged u) (m : MemSys) :
    State.Rearranged { s with mem := m } { u with mem := m } := by
  obtain ⟨d, rfl, ha, ht⟩ := h
  exact ⟨d, rfl, ha, ht⟩

theorem State.grantResume_resumes {s : State} {l : Launch} {w : Waiting} {a : Word} {n : CoreNo} {img : List Byte}
    (hg : ∀ x ∈ s.areaLines l.tenant a, s.mem.gaveUp n x = false) (hr : s.readArea l.tenant a = .ok img) (hh : headerSynd img = none) :
    s.grantResume l w a n = (s.dropWaiting l w).resumeTask n l a w.loops w.mem
      (l.gangOf ((BitVec.ofNat 64 (imgNat img 24 8)).toNat % 2 ^ 32)) (s.sliceOf l) img := by
  have hany : (s.areaLines l.tenant a).any (s.mem.gaveUp n) = false := by simpa using hg
  simp only [State.grantResume, hany, hr, hh, Bool.false_eq_true, if_false]

@[simp] theorem State.coreAt_withPlat (s : State) (p : Plat) (n : CoreNo) : ({ s with plat := p } : State).coreAt n = s.coreAt n := rfl

/-- A task saved under no LOOP and outside the pinned regime runs on its core with the context and the barriers of its area (R65). -/
theorem State.resumeTask_coreAt (s : State) (n : CoreNo) (l : Launch) (a : Word) (loops : List (BitVec 2)) (k : TaskMem) (gang slice : Nat)
    {img : List Byte} (h16 : leNat ((img.drop 2).take 2) / 16 % 2 = 0) (hp : ((ctxOfImage img loops).creg crPSTAT).getLsbD 1 = false) :
    ((s.resumeTask n l a loops k gang slice img).coreAt n).running =
      some { tenant := l.tenant, handle := l.handle, savea := a, task := k.task
             cancelPending := decide (leNat ((img.drop 2).take 2) / 8 % 2 = 1), gang := gang } ∧
    ((s.resumeTask n l a loops k gang slice img).coreAt n).ctx = (ctxOfImage img loops).restartStreams (s.nowOf n) ∧
    ((s.resumeTask n l a loops k gang slice img).coreAt n).bb = mergeBarriers
      (if (s.coreAt n).mustClear l.tenant then (s.coreAt n).clearPrivate else s.coreAt n).bb (barriersOfImage img) := by
  have hp' : (((ctxOfImage img loops).restartStreams (s.nowOf n)).creg crPSTAT).getLsbD 1 = false := hp
  simp only [State.resumeTask, h16, hp', Nat.zero_ne_one, if_false, Bool.false_eq_true, false_and, State.coreAt_withPlat,
    State.coreAt_floorClock, State.coreAt_setCoreAt_same, Core.traceAdd_running, Core.traceAdd_ctx, Core.traceAdd_bb, true_and]

/-- The state in which a resumption on core `n` reads its save area: after its acquire, with the area's lines out of the die cache (R65,
R312). -/
def State.atArea (s : State) (n : CoreNo) (t : BitVec 5) (w : Waiting) (a : Word) : State :=
  let v := acquireAt s n (clockJoin (some (s.mem.vc.get 8)) w.mem.rel)
  (v.areaLines t a).foldl (fun u x => dropDie u (dieOf n) x) v

theorem State.atArea_besideMem (s : State) (n : CoreNo) (t : BitVec 5) (w : Waiting) (a : Word) : s.SameBesideMem (s.atArea n t w a) := by
  obtain ⟨m, hm⟩ := dropDies_besideMem (dieOf n) ((acquireAt s n (clockJoin (some (s.mem.vc.get 8)) w.mem.rel)).areaLines t a)
    (acquireAt s n (clockJoin (some (s.mem.vc.get 8)) w.mem.rel))
  exact ⟨m, hm⟩

/-- TASK_RESUME of a pre-empted task whose area may be read at its piles (R65, R295). -/
theorem exec_taskResume_resume {s : State} (hf : s.plat.failStop = false) {k : BitVec 2} {t : BitVec 5} {q : BitVec 3} {c : Cand}
    {l : Launch} {w : Waiting} {a : Word} {m : Nat} (h : s.reserve.nextGrant = some (k, t, q, c)) (hp : c.pick = .resume l w a m)
    (hw : s.reserve.mustWait t m = false)
    (hr : (s.reserve.atArea (BitVec.ofNat 11 m) t w a).areaReadable (BitVec.ofNat 11 m) t a 0x1800 = true) :
    exec .taskResume s = .next ((((s.reserve.atArea (BitVec.ofNat 11 m) t w a).advanceRound k t q).grantResume l w a
      (BitVec.ofNat 11 m)).unslice t q [m]) := by
  have hc : c.cores = [m] := by simp [Cand.cores, hp]
  simp only [exec, execTaskResume, hf, h, hp, hc, hw, Bool.false_eq_true, if_false]
  refine congrArg Host.Outcome.next (if_neg fun hx => ?_)
  exact absurd (hx.1.symm.trans (congrArg (!·) hr)) (by decide)

/-- The next grant of a pre-empted task whose area can be read and is good resumes it on its core (R65). -/
theorem exec_taskResume_resumes {s : State} (hf : s.plat.failStop = false) {k : BitVec 2} {t : BitVec 5} {q : BitVec 3} {c : Cand}
    {l : Launch} {w : Waiting} {a : Word} {m : Nat} {img : List Byte} (h : s.reserve.nextGrant = some (k, t, q, c))
    (hp : c.pick = .resume l w a m) (hw : s.reserve.mustWait t m = false)
    (hr : (s.reserve.atArea (BitVec.ofNat 11 m) t w a).areaReadable (BitVec.ofNat 11 m) t a 0x1800 = true)
    (hg : ∀ x ∈ (s.reserve.atArea (BitVec.ofNat 11 m) t w a).areaLines l.tenant a,
      (s.reserve.atArea (BitVec.ofNat 11 m) t w a).mem.gaveUp (BitVec.ofNat 11 m) x = false)
    (hi : (s.reserve.atArea (BitVec.ofNat 11 m) t w a).readArea l.tenant a = .ok img) (hh : headerSynd img = none) :
    ∃ u v gang slice, exec .taskResume s = .next u ∧ (∃ m, State.Rearranged { s with mem := m } v) ∧
      State.Rearranged (v.resumeTask (BitVec.ofNat 11 m) l a w.loops w.mem gang slice img) u := by
  obtain ⟨v, hv⟩ : ∃ v, v = (s.reserve.atArea (BitVec.ofNat 11 m) t w a).advanceRound k t q := ⟨_, rfl⟩
  have hres := State.grantResume_resumes (s := v) (l := l) (w := w) (a := a) (n := BitVec.ofNat 11 m) (img := img)
    (by rw [hv]; exact hg) (by rw [hv]; exact hi) hh
  obtain ⟨mm, hm⟩ := State.atArea_besideMem s.reserve (BitVec.ofNat 11 m) t w a
  have hex := exec_taskResume_resume hf h hp hw hr
  rw [← hv, hres] at hex
  refine ⟨_, _, _, _, hex, ⟨mm, ?_⟩, State.unslice_rearranged ..⟩
  rw [hv, hm]
  exact ((State.reserve_rearranged s).withMem mm).trans ((State.advanceRound_rearranged ..).trans (State.modLaunch_rearranged ..))

end Sys2Proof.Machine

namespace Sys2Proof.Claims
open Machine

section
variable {s : State} (hf : s.plat.failStop = false) {k : BitVec 2} {t : BitVec 5} {q : BitVec 3} {c : Cand}
  (h : s.reserve.nextGrant = some (k, t, q, c))
include hf h

/-- A grant begins one undispatched task (R40, R50). -/
theorem grantBeginsTask {l : Launch} {i m : Nat} {b : List (Nat × Nat × Nat)} {ix : Nat} {rest : List Nat}
    (hp : c.pick = .tasks l [(i, m)] b) (hw : s.reserve.mustWait t m = false) (ha : s.reserve.freeAreas l.tenant = ix :: rest) :
    ∃ u, exec .taskDispatch s = .next u ∧
      let d := u.coreAt (BitVec.ofNat 11 m)
      let area := s.treg l.tenant 0x008 + BitVec.ofNat 64 (10240 * ix)
      d.running = some { tenant := l.tenant, handle := l.handle, savea := area, task := s.dist.tasks + 1, gang := l.gangOf i } ∧
      d.ctx.pc = l.entry ∧ d.ctx.creg crTASK = l.handle ++ BitVec.ofNat 32 i ∧ d.ctx.creg crTENANT = l.tenant.setWidth 64 ∧
      d.ctx.creg crSAVEA = area ∧ (l.tenant, ix) ∈ u.dist.areas ∧
      (∀ j, j < 8 → d.ctx.rdS (BitVec.ofNat 6 (48 + j)) = BitVec.ofNat 64 (s.coordOf l i j % 2 ^ 16) ∧
        d.ctx.rdS (BitVec.ofNat 6 (56 + j)) = (l.arg j).setWidth 64) := by
  obtain ⟨u, v, hu, hv, hb⟩ := exec_taskDispatch_begins hf h hp hw
  have hav : v.freeAreas l.tenant = ix :: rest := (hv.freeAreas _).trans ha
  have hs : s.Rearranged v := (State.reserve_rearranged s).trans hv
  obtain ⟨hrun, fc, hctx, hpc, htask, hten, hsav, hargs⟩ := State.beginTask_begins hav (BitVec.ofNat 11 m) i
    (fun j => BitVec.ofNat 16 (v.coordOf l i j)) l.arg l.code l.entry
  rw [hs.treg] at hrun hsav
  rw [hs.tasks] at hrun
  refine ⟨u, hu, ?_⟩
  simp only [hb.coreAt, hb.areas, hrun, hctx, State.beginTask_areas hav]
  refine ⟨trivial, hpc, htask, hten, hsav, List.mem_cons_self, fun j hj => ⟨(hargs j hj).1.trans ?_, (hargs j hj).2⟩⟩
  simp only [hs.coordOf]
  exact BitVec.eq_of_toNat_eq (by simp)

/-- A grant resumes a pre-empted task whose area is good (R65, R386). -/
theorem grantResumesTask {l : Launch} {w : Waiting} {a : Word} {m : Nat} {img : List Byte} (hp : c.pick = .resume l w a m)
    (hw : s.reserve.mustWait t m = false)
    (hr : (s.reserve.atArea (BitVec.ofNat 11 m) t w a).areaReadable (BitVec.ofNat 11 m) t a 0x1800 = true)
    (hg : ∀ x ∈ (s.reserve.atArea (BitVec.ofNat 11 m) t w a).areaLines l.tenant a,
      (s.reserve.atArea (BitVec.ofNat 11 m) t w a).mem.gaveUp (BitVec.ofNat 11 m) x = false)
    (hi : (s.reserve.atArea (BitVec.ofNat 11 m) t w a).readArea l.tenant a = .ok img) (hh : headerSynd img = none)
    (h16 : leNat ((img.drop 2).take 2) / 16 % 2 = 0) (hpin : ((ctxOfImage img w.loops).creg crPSTAT).getLsbD 1 = false) :
    let n : CoreNo := BitVec.ofNat 11 m
    ∃ u r, exec .taskResume s = .next u ∧ (u.coreAt n).running = some r ∧ r.tenant = l.tenant ∧ r.handle = l.handle ∧ r.savea = a ∧
      r.cancelPending = decide (leNat ((img.drop 2).take 2) / 8 % 2 = 1) ∧
      (u.coreAt n).ctx = (ctxOfImage img w.loops).restartStreams (s.nowOf n) ∧
      (u.coreAt n).bb = mergeBarriers
        (if (s.coreAt n).mustClear l.tenant then (s.coreAt n).clearPrivate else s.coreAt n).bb (barriersOfImage img) := by
  obtain ⟨u, v, gang, slice, hu, ⟨mm, hv⟩, hb⟩ := exec_taskResume_resumes hf h hp hw hr hg hi hh
  obtain ⟨hrun, hctx, hbb⟩ := State.resumeTask_coreAt v (BitVec.ofNat 11 m) l a w.loops w.mem gang slice h16 hpin
  have hcore : v.coreAt (BitVec.ofNat 11 m) = s.coreAt (BitVec.ofNat 11 m) := hv.coreAt _
  have hnow : v.nowOf (BitVec.ofNat 11 m) = s.nowOf (BitVec.ofNat 11 m) := hv.nowOf _
  rw [hcore] at hbb
  rw [hnow] at hctx
  rw [← hb.coreAt] at hrun hctx hbb
  exact ⟨u, _, hu, hrun, rfl, rfl, rfl, rfl, hctx, hbb⟩

end

theorem grantsBeginAndResumeTasks : GrantsBeginAndResumeTasks := by
  intro s hf
  refine ⟨fun h => ⟨exec_taskDispatch_none hf h, exec_taskResume_none hf h⟩, fun k t q c h => ⟨?_, ?_⟩⟩
  · intro l i m b ix rest hp _ hw ha
    exact grantBeginsTask hf h hp hw ha
  · intro l w a m img hp _ hw n v0 u0 flags hr hg hi hh h16 hpin
    exact grantResumesTask hf h hp hw hr hg hi hh h16 hpin

/-- Settles O47: the launch queues, the wakes and the grants, each from what its event leaves as it is. -/
theorem distributorServesLaunches : Obligations.DistributorServesLaunches :=
  ⟨launchesAreShownTakenAndCancelled, wakesReachTheirRecords, grantsBeginAndResumeTasks⟩

end Sys2Proof.Claims
end

section
/-! SUPPORT. The hard-wired registers beside their values: full bits and predicates (R67, R68). -/

namespace Sys2Proof.Machine

/-- The bits of a mask of one bit. -/
theorem getLsbD_oneBit {w : Nat} {i j : Nat} (hj : j < w) : ((1#w : BitVec w) <<< i).getLsbD j = decide (i = j) := by
  by_cases h : i = j
  · subst h; simp [hj]
  · simp [h, hj]; omega

theorem Ctx.fullS_wrS (c : Ctx) {i : BitVec 6} (v : Word) (h : i ≠ 0) (j : BitVec 6) :
    (c.wrS i v).fullS j = (decide (i = j) || c.fullS j) := by
  rw [Ctx.wrS, if_neg h]
  simp only [Ctx.fullS, BitVec.getLsbD_or, BitVec.ofNat_eq_ofNat, getLsbD_oneBit (w := 64) j.isLt, BitVec.toNat_inj]
  cases decide (i = j) <;> simp

theorem Ctx.rdP_wrP (c : Ctx) {i : BitVec 4} (b : Bool) (h : i ≠ 0) (j : BitVec 4) :
    (c.wrP i b).rdP j = if i = j then b else c.rdP j := by
  rw [Ctx.wrP, if_neg h]
  have hj : j.toNat < 16 := j.isLt
  have hbit : ((1 : BitVec 16) <<< i.toNat).getLsbD j.toNat = decide (i = j) := by
    simp only [BitVec.ofNat_eq_ofNat, getLsbD_oneBit hj, BitVec.toNat_inj]
  cases b <;>
    simp only [Ctx.rdP, Bool.false_eq_true, if_true, if_false, BitVec.getLsbD_and, BitVec.getLsbD_or, BitVec.getLsbD_not, hbit] <;>
    by_cases hij : i = j <;> simp_all

end Sys2Proof.Machine

namespace Sys2Proof.Claims
open Machine

/-- Settles O7: the fixed readings of s0 and p0, then a write read back at its own register and at another. -/
theorem hardWiredRegisters : Obligations.HardWiredRegisters :=
  ⟨fun c v b => ⟨c.rdS_zero, c.fullS_zero, c.wrS_zero v, c.rdP_zero, c.wrP_zero b⟩,
   fun c i v hi => ⟨c.rdS_wrS_same v hi, by simp [c.fullS_wrS v hi], fun j hj =>
     ⟨c.rdS_wrS_ne v hj.symm, by simp [c.fullS_wrS v hi, hj.symm]⟩⟩,
   fun c i b hi => ⟨by simp [c.rdP_wrP b hi], fun j hj => by simp [c.rdP_wrP b hi, hj.symm]⟩⟩

/-- Settles O55: the decoder run on each of the words. -/
theorem specWordsDecode : Obligations.SpecWordsDecode := by
  refine ⟨?_, ?_, ?_, ?_, ?_, ?_, ?_, ?_, ?_⟩ <;> rfl

/-- Settles O53: the fields one by one; the register blocks by the place of their offsets. -/
theorem resetStateHoldsTheSpecsValues : Obligations.ResetStateHoldsTheSpecsValues := by
  have hcore (n : CoreNo) : State.reset.coreAt n = {} := rfl
  refine ⟨Memory.wf_reset, rfl, rfl, rfl, fun n => ?_, rfl, rfl, rfl, rfl, fun t => ⟨?_, ?_, ?_⟩, fun r => ⟨rfl, fun t => ?_⟩,
    rfl, rfl, rfl, rfl, fun d p => ⟨?_, ?_⟩⟩
  · rw [hcore n]
    exact ⟨rfl, rfl, rfl, rfl, rfl, fun i => ⟨RF.get_fill _ i, fun j => by simp⟩, fun i => RF.get_fill _ i, rfl, rfl, rfl⟩
  · have := t.isLt
    show devReset (tenantBlock t + 0) = 0x1000
    unfold devReset tenantBlock
    rw [if_neg (by omega), if_neg (by omega), if_neg (by omega), if_pos (by omega)]
  · have := t.isLt
    show devReset (tenantBlock t + 8) = 0
    unfold devReset tenantBlock
    rw [if_neg (by omega), if_neg (by omega), if_neg (by omega), if_neg (by omega)]
  · exact RF.get_fill _ t
  · have := t.isLt
    show devReset (routerBlock r + 0x100 * t.toNat + 0) = 0
    unfold devReset routerBlock
    rw [if_neg (by omega), if_neg (by omega), if_neg (by omega), if_neg (by omega)]
  · simp [State.reset]
  · simp [State.reset]

end Sys2Proof.Claims
end

section
/-! SUPPORT. What the start of an issue, a fixed-latency result and its landing change of a core (R76, R77, R130, R190). -/

namespace Sys2Proof.Machine

/-! ## The start of an issue -/

theorem Core.stampLate_eq (c : Core) : c.stampLate = c ∨ c.stampLate = c.setLate := by
  unfold Core.stampLate
  split
  · split
    · exact .inr rfl
    · exact .inl rfl
  · exact .inl rfl

@[simp] theorem Core.stampLate_depth (c : Core) : c.stampLate.depth = c.depth := by
  rcases c.stampLate_eq with h | h <;> simp [h]

/-- Beginning a sheet changes the sheets alone. -/
theorem Core.beginSheet_eq (c : Core) : c.beginSheet = { c with sheets := c.beginSheet.sheets } := by
  unfold Core.beginSheet
  split
  · split <;> rfl
  · rfl

/-- The start of an issue: what held the bundle is over, LATE may be set and the sheet has begun. -/
theorem Core.beginIssue_eq (c : Core) : c.beginIssue =
    { c with ctx := { c.ctx with cr := c.stampLate.ctx.cr }, sheets := c.beginSheet.sheets, hold := .none, waitsIssue := false,
             stalled := false, holding := false, hung := 0, armHeld := false, descAt := none } := by
  have hsheets (d : Core) (hd : d.depth = c.depth) (hs : d.sheets = c.sheets) : d.beginSheet.sheets = c.beginSheet.sheets := by
    simp only [Core.beginSheet, Core.sheet, hd, hs]
    split
    · split
      · exact hs
      · simp only [Core.setSheet, hd, hs]
    · exact hs
  unfold Core.beginIssue
  rw [Core.beginSheet_eq]
  rcases c.stampLate_eq with h | h
  · rw [hsheets _ (by rw [h]; rfl) (by rw [h]), h]
  · rw [hsheets _ (by rw [h]; exact c.setLate_depth) (by rw [h]; rfl), h]
    rfl

@[simp] theorem Core.beginIssue_depth (c : Core) : c.beginIssue.depth = c.depth := by
  rw [Core.beginIssue_eq]; exact c.stampLate_depth

theorem Core.beginIssue_creg (c : Core) {i : BitVec 5} (h : i ≠ crPSTAT) : c.beginIssue.creg i = c.creg i := by
  rw [Core.beginIssue_eq]
  show c.stampLate.creg i = c.creg i
  rcases c.stampLate_eq with e | e
  · rw [e]
  · rw [e]; exact Core.creg_setCreg_ne _ _ h.symm

@[simp] theorem Core.beginIssue_running (c : Core) : c.beginIssue.running = c.running := by rw [Core.beginIssue_eq]
@[simp] theorem Core.beginIssue_leaving (c : Core) : c.beginIssue.leaving = c.leaving := by rw [Core.beginIssue_eq]
@[simp] theorem Core.beginIssue_tags (c : Core) : c.beginIssue.tags = c.tags := by rw [Core.beginIssue_eq]
@[simp] theorem Core.beginIssue_banks (c : Core) : c.beginIssue.banks = c.banks := by rw [Core.beginIssue_eq]
@[simp] theorem Core.beginIssue_pend (c : Core) : c.beginIssue.pend = c.pend := by rw [Core.beginIssue_eq]

/-- The start of a Wyilo operation changes its port bank alone. -/
theorem Core.voidPorts_eq (c : Core) (x : Args) : c.voidPorts x = { c with banks := (c.voidPorts x).banks } := by
  unfold Core.voidPorts
  split <;> rfl

@[simp] theorem Core.voidPorts_running (c : Core) (x : Args) : (c.voidPorts x).running = c.running := by rw [Core.voidPorts_eq]
@[simp] theorem Core.voidPorts_leaving (c : Core) (x : Args) : (c.voidPorts x).leaving = c.leaving := by rw [Core.voidPorts_eq]

/-! ## Software traps (R87, R188) -/

/-- The trap that software trap `k` of a group alone leaves pending, with control at `pc` (R87, R421). -/
def softTrapInfo (k : BitVec 8) (pc : Word) : TrapInfo :=
  { sup := supLevel 0 (k.setWidth 16), cls := 0, code := k.setWidth 16, tvpc := pc, tslot := 0, tinfo := k.setWidth 64,
    tmove := tmoveOf 4 0 }

/-- A running task takes the software trap of a group. -/
theorem State.softTrap_taken {t : State} {p : Part} {k : BitVec 8} (hs : p.sem.soft = some k) (hp : p.move = 0)
    (hr : t.core.running.isSome = true) (hv : t.core.leaving = .none) :
    t.softTrap t.cur [p] = t.onCore fun c => { c with pendTrap := some (softTrapInfo k c.ctx.pc) } := by
  have hrun : ¬ ((t.coreAt t.cur).running.isNone = true ∨ (t.coreAt t.cur).leaving ≠ .none) := by
    rintro (h | h)
    · exact Option.isSome_iff_ne_none.mp hr (Option.isNone_iff_eq_none.mp h)
    · exact h hv
  simp only [State.softTrap, List.findSome?, hs, hp, Option.map_some]
  exact if_neg hrun

/-- What a commit of one part comes to that raises a software trap and else has an effect alone. -/
theorem commitParts_soft {p : Part} {s : State} (he : p.sem.early = id) (hl : p.sem.late = id) (hx : p.sem.xfer = none) :
    s.commitParts [p] id = (p.sem.eff (s.onCore Core.beginIssue)).softTrap s.cur [p] := by
  simp [State.commitParts, applyParts, applyXfers, he, hl, hx]

end Sys2Proof.Machine

namespace Sys2Proof.Claims
open Machine

theorem begun_core (s : State) (x : Args) : (begun s x).core = s.core.beginIssue.voidPorts x := State.core_onCore s _

/-- An operation that raises a software trap and else has an effect alone answers that effect, with the trap pending. -/
theorem issueOp_soft {i : Instr} {use : Use} {s : State} {row : OpRow} {f : Form} {x : Args} {m : Sem} {k : BitVec 8}
    (h : Issues i use s row f x) (hm : m = { block := x.block, conds := x.conds, soft := some k, eff := effNone x })
    (hr : s.core.running.isSome = true) (hv : s.core.leaving = .none) :
    issueOp i m s = .next ((begun s x).onCore fun c => { c with pendTrap := some (softTrapInfo k c.ctx.pc) }) := by
  subst hm
  rw [issueOp_next h.op h.shape, issueSem_commit h.guard h.ready rfl h.sound h.given (by simp) h.onTime,
    commitParts_soft rfl rfl rfl]
  show Host.Outcome.next ((effNone x (s.onCore Core.beginIssue)).softTrap s.cur _) = _
  rw [effNone_begun, ← begun_cur s x, State.softTrap_taken rfl rfl]
  · simpa [begun_core] using hr
  · simpa [begun_core] using hv

/-- The number of a trap, a frmwait or a crrd is its field in native code and its latch in Wyilo (R186, R188, R191). -/
theorem semTrap_eq {s : State} {row : OpRow} {f : Form} {x : Args} (h : Issues (.trap f) (readsNumber f) s row f x) :
    semTrap f s = { block := x.block, conds := x.conds, soft := some (numberOf f x), eff := effNone x } := by
  obtain rfl := h.row_eq rfl
  cases f <;> rw [← h.args] <;> rfl

/-- Settles O13: the trap's number decides its level, and its operand and move are those of a group of its own. -/
theorem softwareTrapFollowsItsGroup : Obligations.SoftwareTrapFollowsItsGroup := by
  intro s row f x h hr hv trap
  have hsup : supLevel 0 ((numberOf f x).setWidth 16) = decide (128 ≤ (numberOf f x).toNat) := by
    have := (numberOf f x).isLt
    simp [supLevel, Nat.mod_eq_of_lt (show (numberOf f x).toNat < 65536 by omega)]
  show issueOp (.trap f) (semTrap f s) s = _
  have hpc : (begun s x).core.ctx.pc = s.core.ctx.pc := by simp [begun_core]
  rw [issueOp_soft h (semTrap_eq h) hr hv]
  simp only [State.onCore, hpc, softTrapInfo, hsup, trap]
  rfl

end Sys2Proof.Claims
end

section
/-! SUPPORT. Fixed-latency results: on their way, landed, and in the ports of Wyilo (R67, R77, R130). -/

namespace Sys2Proof.Machine

@[simp] theorem Core.orFstat_creg (c : Core) (fl : FFlags) : (c.orFstat fl).creg crFSTAT = c.creg crFSTAT ||| fl.setWidth 64 :=
  Core.creg_setCreg_same ..

@[simp] theorem Core.orFstat_rdS (c : Core) (fl : FFlags) (j : BitVec 6) : (c.orFstat fl).ctx.rdS j = c.ctx.rdS j := rfl
@[simp] theorem Core.orFstat_fullS (c : Core) (fl : FFlags) (j : BitVec 6) : (c.orFstat fl).ctx.fullS j = c.ctx.fullS j := rfl
@[simp] theorem Core.orFstat_rdV (c : Core) (fl : FFlags) (j : BitVec 5) : (c.orFstat fl).ctx.rdV j = c.ctx.rdV j := rfl
@[simp] theorem Core.orFstat_fullV (c : Core) (fl : FFlags) (j : BitVec 5) : (c.orFstat fl).ctx.fullV j = c.ctx.fullV j := rfl
@[simp] theorem Core.orFstat_depth (c : Core) (fl : FFlags) : (c.orFstat fl).depth = c.depth := Core.setCreg_depth_of c _ (by decide)
@[simp] theorem Core.orFstat_banks (c : Core) (fl : FFlags) : (c.orFstat fl).banks = c.banks := rfl
@[simp] theorem Core.orFstat_port (c : Core) (fl : FFlags) (i : BitVec 6) : (c.orFstat fl).port i = c.port i := by
  simp only [Core.port, Core.bank, Core.orFstat_banks, Core.orFstat_depth]
@[simp] theorem Core.retag_port (c : Core) (d : Dst) (t : Option Word) (i : BitVec 6) : (c.retag d t).port i = c.port i := rfl

theorem Ctx.fullV_wrV_same (c : Ctx) (i : BitVec 5) (v : Vec) : (c.wrV i v).fullV i = true := by
  simp only [Ctx.wrV, Ctx.fullV, BitVec.getLsbD_or, BitVec.ofNat_eq_ofNat, getLsbD_oneBit (w := 32) i.isLt, decide_true, Bool.or_true]

/-- A result that is written to a register keeps the control registers. -/
@[simp] theorem Core.wrDst_creg (c : Core) (d : Dst) (v : Vec) (i : BitVec 5) : (c.wrDst d v).creg i = c.creg i := by
  cases d <;> simp only [Core.wrDst] <;> (try rfl)
  · show (Ctx.wrS ..).creg i = _
    unfold Ctx.wrS; split <;> rfl
  · show (Ctx.wrP ..).creg i = _
    unfold Ctx.wrP; split <;> rfl

/-- What a fixed-latency result changes of the context as it lands (R77). -/
theorem Core.landPend_ctx (c : Core) (p : Pend) : (c.landPend p).ctx = ((c.wrDst p.dst p.val).orFstat p.flags).ctx := by
  show (Core.wrDst _ p.dst p.val |>.orFstat p.flags).ctx = _
  cases p.dst <;> rfl

/-- With one result on its way and no other, nothing lands before its cycle (R77). -/
theorem Core.landDue_early {c : Core} (p : Pend) (ho : c.outst = []) {t : Nat} (ht : t < p.due) :
    (({ c with pend := [p] } : Core).landDue t).ctx = c.ctx := by
  have : ¬ p.due ≤ t := by omega
  simp [Core.landDue, ho, this]

/-- From its cycle on it has landed (R77). -/
theorem Core.landDue_due {c : Core} (p : Pend) (ho : c.outst = []) {t : Nat} (ht : p.due ≤ t) :
    (({ c with pend := [p] } : Core).landDue t).ctx = ((c.wrDst p.dst p.val).orFstat p.flags).ctx := by
  simp only [Core.landDue, ho, List.filter, ht, decide_true, Bool.not_true, List.foldl_cons, List.foldl_nil, Core.landPend_ctx]
  cases p.dst <;> rfl

/-- The one result that a native issue puts on its way where nothing else is. -/
theorem Core.putResult_pend {c : Core} {x : Args} (hx : x.nat = true) (hp : c.pend = []) (now lat : Nat) (d : Dst) (v : Vec) (fl : FFlags) :
    c.putResult x now lat d v fl =
      { c with pend := [{ gen := c.sheetGen, due := now + lat, dst := d, val := v, flags := fl }] } := by
  simp [Core.putResult, hx, hp]

end Sys2Proof.Machine

namespace Sys2Proof.Claims
open Machine

section
variable {c : Core} {x : Args} {now lat : Nat} {v : Vec} {fl : FFlags}

/-- What a context reads of one native result: as before until its latency is over, as landed from then on (R77). -/
theorem landDue_putResult (hx : x.nat = true) (hp : c.pend = []) (ho : c.outst = []) (d : Dst) (t : Nat) :
    ((c.putResult x now lat d v fl).landDue t).ctx = if now + lat ≤ t then ((c.wrDst d v).orFstat fl).ctx else c.ctx := by
  rw [Core.putResult_pend hx hp]
  split
  · next ht => exact Core.landDue_due _ ho ht
  · next ht => exact Core.landDue_early _ ho (Nat.lt_of_not_le ht)

theorem scalarResultArrives (hx : x.nat = true) (hp : c.pend = []) (ho : c.outst = []) (d : BitVec 6) :
    let c1 := c.putResult x now lat (.s d) v fl
    (∀ t j, t < now + lat → (c1.landDue t).ctx.rdS j = c.ctx.rdS j) ∧
    (∀ t, now + lat ≤ t → d ≠ 0 → (c1.landDue t).ctx.rdS d = v.setWidth 64 ∧ (c1.landDue t).ctx.fullS d = true) ∧
    (∀ t j, j ≠ d ∨ d = 0 → (c1.landDue t).ctx.rdS j = c.ctx.rdS j) ∧
    (∀ t, now + lat ≤ t → (c1.landDue t).creg crFSTAT = c.creg crFSTAT ||| fl.setWidth 64) := by
  simp only [landDue_putResult hx hp ho, Core.creg]
  refine ⟨fun t j ht => ?_, fun t ht hd => ?_, fun t j hj => ?_, fun t ht => ?_⟩
  · rw [if_neg (by omega)]
  · rw [if_pos ht]
    exact ⟨Ctx.rdS_wrS_same _ _ hd, by rw [Core.orFstat_fullS]; exact (Ctx.fullS_wrS _ _ hd d).trans (by simp)⟩
  · split
    · rw [Core.orFstat_rdS]
      rcases hj with hj | rfl
      · exact Ctx.rdS_wrS_ne _ _ hj.symm
      · rfl
    · rfl
  · rw [if_pos ht]
    exact (Core.orFstat_creg ..).trans (by rw [Core.wrDst_creg]; rfl)

theorem vectorResultArrives (hx : x.nat = true) (hp : c.pend = []) (ho : c.outst = []) (d : BitVec 5) :
    let c1 := c.putResult x now lat (.v d) v fl
    (∀ t j, t < now + lat → (c1.landDue t).ctx.rdV j = c.ctx.rdV j) ∧
    (∀ t, now + lat ≤ t → (c1.landDue t).ctx.rdV d = v ∧ (c1.landDue t).ctx.fullV d = true) ∧
    (∀ t j, j ≠ d → (c1.landDue t).ctx.rdV j = c.ctx.rdV j) := by
  simp only [landDue_putResult hx hp ho]
  refine ⟨fun t j ht => ?_, fun t ht => ?_, fun t j hj => ?_⟩
  · rw [if_neg (by omega)]
  · rw [if_pos ht]
    exact ⟨Ctx.rdV_wrV_same c.ctx d v, Ctx.fullV_wrV_same c.ctx d v⟩
  · split
    · exact Ctx.rdV_wrV_ne _ _ hj.symm
    · rfl

theorem portResultArrives (hx : x.nat = false) (i : BitVec 6) :
    ((c.putResult x now lat (.y i) v fl).port i).y = .val v ∧
    (c.putResult x now lat (.y i) v fl).creg crFSTAT = c.creg crFSTAT ||| fl.setWidth 64 := by
  simp only [Core.putResult, hx, Bool.false_eq_true, if_false]
  constructor
  · simp [Core.wrDst]
  · exact (Core.orFstat_creg ..).trans (by rw [Core.wrDst_creg])

end

/-- Settles O6, by the kind of the destination. -/
theorem resultsArriveAfterTheirLatency : Obligations.ResultsArriveAfterTheirLatency :=
  fun _ _ _ _ _ _ => ⟨scalarResultArrives, vectorResultArrives, portResultArrives⟩

end Sys2Proof.Claims
end

section
/-! SUPPORT. The frame of the operations of one fixed-latency result (R67, R77, R130). -/

namespace Sys2Proof.Machine

/-- The start of an issue leaves PSTAT as it was but for LATE (R190). -/
theorem Core.beginIssue_pstat (c : Core) : c.beginIssue.creg crPSTAT &&& ~~~(1 : Word) = c.creg crPSTAT &&& ~~~(1 : Word) := by
  rw [Core.beginIssue_eq]
  show c.stampLate.creg crPSTAT &&& _ = _
  rcases c.stampLate_eq with h | h
  · rw [h]
  · rw [h, Core.setLate, Core.creg_setCreg_same]
    ext i
    simp only [BitVec.getElem_and, BitVec.getElem_or, BitVec.getElem_not]
    cases (1 : Word)[i] <;> simp

theorem Core.setPort_setPort (c : Core) (i : BitVec 6) (p q : PortInst) : (c.setPort i p).setPort i q = c.setPort i q := by
  have hbank : (c.setPort i p).bank = c.bank.put i p := RF.get_put_same ..
  have hdepth : (c.setPort i p).depth = c.depth := rfl
  unfold Core.setPort at hbank hdepth ⊢
  simp only [hbank, hdepth, RF.put_put]

/-- A Wyilo operation leaves the ports of its unit void but for its result (R130). -/
theorem Core.wrDst_voidPorts (c : Core) {x : Args} (hx : x.nat = false) (v : Vec) :
    (c.voidPorts x).wrDst (.y x.port) v = c.setPort x.port { c.port x.port with y := .val v, z := .void, f := .void } := by
  simp only [Core.voidPorts, hx, Bool.false_eq_true, if_false, Core.wrDst, Core.port_setPort_same, Core.setPort_setPort]

/-- A Wyilo operation's result goes to the result port of its unit. -/
theorem fetchArgs_wyiloResult (row : OpRow) (use : Use) (f : Form) (c : Core) :
    (fetchArgs row use f c).nat = false → (fetchArgs row use f c).y = .y (fetchArgs row use f c).port := by
  cases f with
  | wy inst => intro; rfl
  | nat => intro h; cases h

end Sys2Proof.Machine

namespace Sys2Proof.Claims
open Machine

section
variable {s : State} {x : Args} {lat : Nat} {v : Vec}

/-- The core after a native result has been put on its way. -/
theorem answered_core_native (hx : x.nat = true) :
    (answered s x lat v 0).core = { s.core.beginIssue with
      pend := s.core.pend ++ [{ gen := s.core.beginIssue.sheetGen, due := s.now + lat, dst := x.y, val := v, flags := 0 }] } := by
  simp only [answered, State.core_onCore, Core.voidPorts, Core.putResult, hx, if_true, Core.beginIssue_pend]

/-- The core after a Wyilo result has been written to its port. -/
theorem answered_core_wyilo (hx : x.nat = false) (hy : x.y = .y x.port) :
    (answered s x lat v 0).core = { s.core.beginIssue with
      ctx := s.core.beginIssue.ctx.setCreg crFSTAT (s.core.beginIssue.creg crFSTAT ||| 0)
      banks := s.core.banks.put s.core.depth (s.core.bank.put x.port { s.core.port x.port with y := .val v, z := .void, f := .void })
      tags := s.core.tags.filter fun g => g.reg != x.y } := by
  have hbank : s.core.beginIssue.bank = s.core.bank := by simp only [Core.bank, Core.beginIssue_banks, Core.beginIssue_depth]
  have hput := Core.wrDst_voidPorts s.core.beginIssue hx v
  simp only [answered, State.core_onCore, Core.putResult, hx, hy, Bool.false_eq_true, if_false, hput]
  simp only [Core.setPort, Core.orFstat, Core.retag, retagged, Core.setCreg, Core.beginIssue_banks, Core.beginIssue_depth,
    Core.beginIssue_tags, Core.port, hbank]
  rfl

theorem answered_creg_wyilo (hx : x.nat = false) (hy : x.y = .y x.port) {i : BitVec 5} (h : i ≠ crFSTAT) :
    (answered s x lat v 0).core.creg i = s.core.beginIssue.creg i := by
  rw [answered_core_wyilo hx hy]
  exact Ctx.creg_setCreg_ne _ _ h.symm

theorem answered_port_wyilo (hx : x.nat = false) (hy : x.y = .y x.port) (i : BitVec 6) :
    (answered s x lat v 0).core.port i =
      (s.core.bank.put x.port { s.core.port x.port with y := .val v, z := .void, f := .void }).get i := by
  have hdepth : (answered s x lat v 0).core.depth = s.core.depth :=
    (congrArg (BitVec.extractLsb' 0 2) (answered_creg_wyilo hx hy (by decide))).trans s.core.beginIssue_depth
  rw [Core.port, Core.bank, hdepth, answered_core_wyilo hx hy]
  simp only [RF.get_put_same]

/-- A native operation of one fixed-latency result changes nothing but its result (R67, R77). -/
theorem onlyItsResult_native (hx : x.nat = true) : OnlyItsResult s (answered s x lat v 0) x := by
  refine ⟨rfl, fun m hm => State.coreAt_onCore_ne _ _ hm.symm, ?_⟩
  rw [answered_core_native hx]
  refine ⟨?_, ?_, ?_, fun i _ hi => s.core.beginIssue_creg hi, s.core.beginIssue_pstat,
    fun _ => ⟨s.core.beginIssue_creg (by decide), s.core.beginIssue_banks, s.core.beginIssue_tags, _, rfl, rfl⟩,
    fun h => absurd (hx.symm.trans h) (by decide)⟩ <;> rw [Core.beginIssue_eq]

/-- A Wyilo operation of one result changes nothing but its port (R67, R130). -/
theorem onlyItsResult_wyilo (hx : x.nat = false) (hy : x.y = .y x.port) : OnlyItsResult s (answered s x lat v 0) x := by
  have hcore := answered_core_wyilo (s := s) (lat := lat) (v := v) hx hy
  have hcreg {i : BitVec 5} := answered_creg_wyilo (s := s) (lat := lat) (v := v) hx hy (i := i)
  refine ⟨rfl, fun m hm => State.coreAt_onCore_ne _ _ hm.symm, ?_, ?_, ?_,
    fun i hf hi => (hcreg hf).trans (s.core.beginIssue_creg hi), (congrArg (· &&& _) (hcreg (by decide))).trans s.core.beginIssue_pstat,
    fun h => absurd (h.symm.trans hx) (by decide), fun _ => ?_⟩
  · rw [hcore, Core.beginIssue_eq]
  · rw [hcore, Core.beginIssue_eq]
  · rw [hcore, Core.beginIssue_eq]; rfl
  · have hown := answered_port_wyilo (s := s) (lat := lat) (v := v) hx hy x.port
    rw [RF.get_put_same] at hown
    refine ⟨by rw [hcore]; exact s.core.beginIssue_pend, by rw [hcore], fun b hb => ?_, fun i hi => ?_, ?_, ?_, ?_, ?_⟩
    · rw [hcore]; exact RF.get_put_ne _ _ hb.symm
    · rw [answered_port_wyilo hx hy]; exact RF.get_put_ne _ _ hi.symm
    all_goals rw [hown]

/-- An operation that answers one fixed-latency result, its operands fetched from its form, changes nothing else. -/
theorem onlyItsResult_of_issues {i : Instr} {use : Use} {row : OpRow} {f : Form} (h : Issues i use s row f x) :
    OnlyItsResult s (answered s x lat v 0) x := by
  cases hx : x.nat with
  | true => exact onlyItsResult_native hx
  | false =>
    have hy := fetchArgs_wyiloResult row use f s.core
    rw [h.args] at hy
    exact onlyItsResult_wyilo hx (hy hx)

end

/-! ## The operations of a value -/

/-- An operation of the 64-bit operands alone answers its value. -/
theorem issueOp_semValue {i : Instr} {use : Use} {s : State} {row : OpRow} {f : Form} {x : Args} (h : Issues i use s row f x)
    (lat : Nat) (val : Args → Word) :
    issueOp i (semValue row use lat val f s) s = .next (answered s x lat (wide (val x)) 0) :=
  issueOp_value h (by rw [semValue, h.args])

/-- Each scalar operation of two operands is one of the 64-bit operands alone, in the words of INT and BIT that name two registers. -/
theorem scalarOps_semValue {op : Form → Instr} (h : op ∈ scalarOps) :
    ∃ row lat val, (row.shape = .sr .sreg true .any ∧ (row.unit = .INT ∨ row.unit = .BIT)) ∧
      ∀ f s, opRow (op f) = some (row, f) ∧ exec (op f) s = issueOp (op f) (semValue row {} lat val f s) s := by
  simp only [scalarOps, List.mem_cons, List.not_mem_nil, or_false] at h
  rcases h with rfl | rfl | rfl | rfl | rfl | rfl | rfl | rfl | rfl | rfl | rfl | rfl | rfl | rfl | rfl | rfl | rfl | rfl | rfl | rfl | rfl |
    rfl <;> exact ⟨_, _, _, ⟨rfl, by decide⟩, fun _ _ => ⟨rfl, rfl⟩⟩

/-- An admitted mode of an operation that does not round meets no condition (R209, R425). -/
theorem vecConds_modeOk {c : Core} {k : VKind} {x : Args} (h : ModeOk c k false x) (hk : kindRounds k = false) (f : Form) (op : BitVec 6)
    (useW : Bool) : vecConds c k f op useW x.m = [] := by
  obtain ⟨het, hw, -⟩ := h
  simp [vecConds, hk, het, hw]

/-- A lane operation in an admitted mode answers a vector. -/
theorem issueOp_semLanes {i : Instr} {use : Use} {s : State} {row : OpRow} {f : Form} {x : Args} {k : VKind}
    (h : Issues i { use with base := useMerge } s row f x) (hm : ModeOk s.core k false x) (hk : kindRounds k = false) (lat : Nat)
    (val : Args → Nat → Nat → Bool → Nat → Nat) :
    ∃ v, issueOp i (semLanes row k use lat val f s) s = .next (answered s x lat v 0) :=
  ⟨_, issueOp_value h (by simp only [semLanes, h.args, vecConds_modeOk hm hk, List.append_nil]; rfl)⟩

/-- Each integer lane operation of two operands is a lane operation of its kind. -/
theorem laneOps_semLanes {op : Form → Instr} (h : op ∈ ([.vaiAdd, .vaiSub, .vaiMul, .vaiMulh, .vaiMin, .vaiMax, .vaiAnd, .vaiXor, .vaiShl,
      .vaiShr, .vaiSar] : List (Form → Instr))) :
    ∃ row lat val, ∀ f s, opRow (op f) = some (row, f) ∧ exec (op f) s = issueOp (op f) (semLanes row .intg {} lat val f s) s := by
  simp only [List.mem_cons, List.not_mem_nil, or_false] at h
  rcases h with rfl | rfl | rfl | rfl | rfl | rfl | rfl | rfl | rfl | rfl | rfl <;> exact ⟨_, _, _, fun _ _ => ⟨rfl, rfl⟩⟩

/-- Settles O60: each operation answers one result, and such an answer changes nothing else. -/
theorem registerOperationsChangeOnlyTheirResult : Obligations.RegisterOperationsChangeOnlyTheirResult := by
  refine ⟨fun op hop s row f x h => ?_, fun op hop s row f x h hm => ?_⟩
  · obtain ⟨_, lat, val, -, hsem⟩ := scalarOps_semValue hop
    obtain ⟨hrow, hexec⟩ := hsem f s
    obtain rfl := h.row_eq hrow
    exact ⟨_, hexec.trans (issueOp_semValue h lat val), onlyItsResult_of_issues h⟩
  · obtain ⟨_, lat, val, hsem⟩ := laneOps_semLanes hop
    obtain ⟨hrow, hexec⟩ := hsem f s
    obtain rfl := h.row_eq hrow
    obtain ⟨v, hv⟩ := issueOp_semLanes (use := {}) h hm rfl lat val
    exact ⟨_, hexec.trans hv, onlyItsResult_of_issues h⟩

end Sys2Proof.Claims
end

section
/-! SUPPORT. What decides whether an operation issues: guards, full bits and tags (R74, R76, R79, R396). -/

namespace Sys2Proof.Claims
open Machine

/-- Each operation of the catalogue is issued by the shared issue logic. -/
theorem exec_eq_issueOp {i : Instr} {q : OpRow × Form} (h : opRow i = some q) (s : State) : ∃ m, exec i s = issueOp i m s := by
  cases i <;> first | exact ⟨_, rfl⟩ | exact absurd h nofun

theorem falseGuardHasNoEffect : FalseGuardHasNoEffect := by
  intro i s row f hop hshape hg
  obtain ⟨m, hm⟩ := exec_eq_issueOp hop s
  rw [hm, issueOp_next hop hshape, issueSem_idle hg]

section
variable {i : Instr} {s : State} {row : OpRow} {f : Form} {m : Sem}

/-- One condition of a rank from 2 to 8 is the trap of its operation. -/
theorem trapOf_single {k : Cond} (hr : 2 ≤ k.rank ∧ k.rank ≤ 8) :
    trapOf [{ slot := formSlot row f, move := 0, cond := k }] s.core.ctx.pc = some (onlyTrap s row f k) := by
  have heval : evaluated [{ slot := formSlot row f, move := 0, cond := k }] = [{ slot := formSlot row f, move := 0, cond := k }] := by
    unfold evaluated
    by_cases h7 : k.rank ≤ 7
    · simp [h7]
    · simp [show k.rank = 8 by omega]
  have hmin : (([{ slot := formSlot row f, move := 0, cond := k }].filter fun g : Found => decide (g.cond.rank = 2)).map
      Found.move).foldl min 0 = 0 := by
    by_cases h2 : k.rank = 2 <;> simp [h2]
  have h9 : k.rank ≠ 9 := by omega
  have hmask : faultMask [{ slot := formSlot row f, move := 0, cond := k }] = (1 : BitVec 8) <<< (formSlot row f).toNat := by
    simp [faultMask, hr]
  simp only [trapOf, heval, reported, hr, hmin, h9, and_self, if_true, if_false, ite_self, hmask, slotBit, onlyTrap]

/-- A well-formed operation under a true guard that nothing holds and one condition stops. -/
theorem issueOp_trap {k : Cond} (hop : opRow i = some (row, f)) (hshape : formOk row f = true) (hg : s.core.guardOf f = true)
    (hk : s.core.check = none) (ho : s.core.overrunFound = []) (hb : m.block = false) (hf : m.fills = false) (hm : m.mx = false)
    (hc : m.conds = [k]) (hr : 2 ≤ k.rank ∧ k.rank ≤ 8) :
    issueOp i m s = .next (s.onCore fun c => c.stopWith (onlyTrap s row f k)) := by
  rw [issueOp_next hop hshape, issueSem_trap hg hb hf hk]
  simp only [Part.found, hm, hc, ho, Bool.false_and, Bool.false_eq_true, if_false, List.nil_append, List.map_cons, List.map_nil,
    List.append_nil, trapOf_single hr]

/-- A well-formed operation under a true guard that nothing holds and nothing stops answers its effect. -/
theorem issueOp_commit (hop : opRow i = some (row, f)) (hshape : formOk row f = true) (hg : s.core.guardOf f = true)
    (hk : s.core.check = none) (ho : s.core.overrunFound = []) (hb : m.block = false) (hf : m.fills = false) (hm : m.mx = false)
    (hc : m.conds = []) (he : m.early = id) (hl : m.late = id) (hx : m.xfer = none) (hs : m.soft = none) :
    issueOp i m s = .next (m.eff (s.onCore Core.beginIssue)) := by
  rw [issueOp_next hop hshape, issueSem_commit hg hb hf hk hc (by simp [hm]) ho, commitParts_effect he hl hx hs]
  rfl

end

/-! ## Empty registers (R76, R79) -/

section
variable {row : OpRow} {c : Core} {slot : BitVec 3} {gn : BitVec 1} {g : BitVec 4} {d : BitVec 6} {a b : BitVec 7} {x : BitVec 1}

/-- What a scalar word of two operands reads, where what follows is an immediate. -/
theorem fetchArgs_immediate (hshape : row.shape = .sr .sreg true .any) (hunit : row.unit = .INT ∨ row.unit = .BIT) :
    let y := fetchArgs row {} (.nat slot gn g (.sr d a b 1)) c
    y.block = ((c.srcS a 4).block || c.outstanding (.s d)) ∧ y.conds = (c.srcS a 4).conds := by
  have hmask (m : BitVec 32) : maskConds row c m = [] := by
    unfold maskConds
    rcases hunit with h | h <;> simp [h]
  simp [fetchArgs, natOps, hshape, hmask, Core.srcBX]

/-- An empty register holds the bundle where its wait bit is set, and is an empty read where it is clear (R76). -/
theorem srcS_empty (h : c.ctx.fullS (a.setWidth 6) = false) (o : BitVec 4) :
    (c.srcS a o).block = a.getLsbD 6 ∧ (a.getLsbD 6 = false → (c.srcS a o).conds = [condOperand 1 o 0]) := by
  cases hw : a.getLsbD 6 <;> simp only [Core.srcS, srcOf, h, hw, Bool.false_eq_true, if_true, if_false] <;> simp

end

theorem emptyRegisterHoldsOrFaults : EmptyRegisterHoldsOrFaults := by
  intro op hop s slot gn g d a b row f hrow hok hg hempty hk
  obtain ⟨_, lat, val, ⟨hshape, hunit⟩, hsem⟩ := scalarOps_semValue hop
  obtain ⟨hrow', hexec⟩ := hsem f s
  obtain rfl : _ = row := congrArg Prod.fst (Option.some.inj (hrow'.symm.trans hrow))
  obtain ⟨hblock, hconds⟩ := fetchArgs_immediate (c := s.core) (slot := slot) (gn := gn) (g := g) (d := d) (a := a) (b := b) hshape hunit
  obtain ⟨hsrc, hread⟩ := srcS_empty (c := s.core) hempty 4
  rw [StopsWith, hexec]
  refine ⟨fun hw => ?_, fun hw ho hover => ?_⟩
  · rw [issueOp_next hrow' hok, issueSem_held hg (by simp only [semValue, f, hblock, hsrc, hw, Bool.true_or])]
    rfl
  · exact issueOp_trap hrow' hok hg hk hover (by simp only [semValue, f, hblock, hsrc, hw, ho, Bool.or_false]) rfl rfl
      (by simp only [semValue, f, hconds, hread hw]; rfl) (by decide)

/-! ## Tags (R396) -/

section
variable {c : Core}

/-- A full scalar register reads as its value, with the data errors of its tags. -/
theorem srcS_full {a : BitVec 7} (h : c.ctx.fullS (a.setWidth 6) = true) (o : BitVec 4) :
    c.srcS a o = { val := wide (c.ctx.rdS (a.setWidth 6)), conds := tagConds c (.s (a.setWidth 6)) o } := by
  simp only [Core.srcS, srcOf, h, if_true]

/-- The data errors of a register in sound storage are those of the tag of its value. -/
theorem tagConds_sound {d : Dst} (h : c.ownBad d = false) (o : BitVec 4) :
    tagConds c d o = (c.tagOf d).toList.map fun a => ⟨6, 0x30, 2, o, tagPlain a, a⟩ := by
  rw [tagConds, ownConds_sound h]
  cases c.tagOf d <;> rfl

/-- A carrying move raises none of them (R396). -/
theorem filter_tagConds_sound {d : Dst} (h : c.ownBad d = false) (o : BitVec 4) :
    (tagConds c d o).filter (fun k => k.cls != 0x30 || k.code == 1) = [] := by
  rw [tagConds_sound h]
  cases c.tagOf d <;> rfl

/-- A carrying move puts the value and the tag of its source on their way (R396). -/
theorem effCarry_begun (s : State) (x : Args) (lat : Nat) (v : Vec) (tag : Option Word) :
    effCarry x lat v tag (s.onCore Core.beginIssue) = s.onCore fun c => { c.beginIssue with
      pend := c.pend ++ [{ gen := c.sheetGen, due := s.now + lat, dst := x.y, val := v, flags := 0, tag := tag }] } := by
  have hgen (c : Core) : c.beginIssue.sheetGen = c.sheetGen := by rw [Core.beginIssue_eq]
  simp only [effCarry, State.onCore_onCore, Function.comp_def, State.now_onCore_beginIssue, Core.beginIssue_pend, hgen]

end

section
variable {c : Core} {row : OpRow} {slot : BitVec 3} {gn : BitVec 1} {g : BitVec 4} {d : BitVec 6} {a w : BitVec 7}

/-- What `or d, a, s0` and `and d, a, s0` read. -/
theorem fetchArgs_withS0 (hshape : row.shape = .sr .sreg true .any) (hunit : row.unit = .INT ∨ row.unit = .BIT)
    (hw : (w.setWidth 6 : BitVec 6) = 0) (ha : c.ctx.fullS (a.setWidth 6) = true) :
    let y := fetchArgs row {} (.nat slot gn g (.sr d a w 0)) c
    y.block = c.outstanding (.s d) ∧ y.conds = tagConds c (.s (a.setWidth 6)) 4 ++ tagConds c (.s 0) 1 ∧
      y.a = wide (c.ctx.rdS (a.setWidth 6)) ∧ y.y = .s d := by
  have hmask (m : BitVec 32) : maskConds row c m = [] := by
    unfold maskConds
    rcases hunit with h | h <;> simp [h]
  have hs0 : c.srcS w 1 = { val := wide 0, conds := tagConds c (.s 0) 1 } := by
    rw [srcS_full (by rw [hw]; rfl), hw]; rfl
  have hx : c.srcBX w 0 = { val := wide 0, conds := tagConds c (.s 0) 1 } := hs0
  simp only [fetchArgs, natOps, hshape, hmask, srcS_full ha, hx, if_true, Bool.false_eq_true, if_false, Bool.false_or, List.append_nil,
    and_self]

end

/-- The row of `or` in the catalogue. -/
abbrev orRow : OpRow := ⟨.BIT, 5, 0x19, 0, 1, .sr .sreg true .any⟩

/-- `or` in its carrying form. -/
theorem exec_bitOr_carry {s : State} {f : Form} {src : Dst} (hok : formOk orRow f = true) (hg : s.core.guardOf f = true)
    (hk : s.core.check = none) (ho : s.core.overrunFound = []) (hsrc : carryS f = some src)
    (hb : (fetchArgs orRow {} f s.core).block = false)
    (hc : (fetchArgs orRow {} f s.core).conds.filter (fun k => k.cls != 0x30 || k.code == 1) = []) :
    exec (.bitOr f) s = .next (effCarry (fetchArgs orRow {} f s.core) 1 (fetchArgs orRow {} f s.core).a (s.core.tagOf src)
      (s.onCore Core.beginIssue)) := by
  have hsem : semBitOr f s =
      { block := (fetchArgs orRow {} f s.core).block
        conds := (fetchArgs orRow {} f s.core).conds.filter fun k => k.cls != 0x30 || k.code == 1
        eff := effCarry (fetchArgs orRow {} f s.core) 1 (fetchArgs orRow {} f s.core).a (s.core.tagOf src) } := by
    simp only [semBitOr, semValue, Sem.carry, hsrc]
  show issueOp (.bitOr f) (semBitOr f s) s = _
  rw [hsem]
  exact issueOp_commit rfl hok hg hk ho hb rfl rfl hc rfl rfl rfl rfl

theorem orCarriesItsTag (s : State) (slot : BitVec 3) (gn : BitVec 1) (g : BitVec 4) (addr : Word) (hk : s.core.check = none)
    (d : BitVec 6) (a w : BitVec 7) :
    let f : Form := .nat slot gn g (.sr d a w 0)
    formOk ⟨.BIT, 5, 0x19, 0, 1, .sr .sreg true .any⟩ f = true → (w.setWidth 6 : BitVec 6) = 0 → s.core.guardOf f = true →
    s.core.ctx.fullS (a.setWidth 6) = true → s.core.outstanding (.s d) = false → s.core.overrunFound = [] →
    s.core.ownBad (.s 0) = false → s.core.ownBad (.s (a.setWidth 6)) = false → s.core.tagOf (.s (a.setWidth 6)) = some addr →
    exec (.bitOr f) s = .next (s.onCore fun c => { c.beginIssue with pend := c.pend ++
      [{ gen := c.sheetGen, due := s.now + 1, dst := .s d, val := wide (c.ctx.rdS (a.setWidth 6)), flags := 0, tag := some addr }] }) := by
  intro f hok hw hg hfull hout hover h0 ha htag
  have hcarry : carryS f = some (.s (a.setWidth 6)) := by
    have hb : (bits w 0 6 : BitVec 6) = 0 := (BitVec.setWidth_eq_extractLsb' (by decide)).symm.trans hw
    have hba : (bits a 0 6 : BitVec 6) = a.setWidth 6 := (BitVec.setWidth_eq_extractLsb' (by decide)).symm
    rw [← hba]
    exact if_pos hb
  obtain ⟨hblock, hconds, hval, hdst⟩ := fetchArgs_withS0 (c := s.core) (row := ⟨.BIT, 5, 0x19, 0, 1, .sr .sreg true .any⟩)
    (slot := slot) (gn := gn) (g := g) (d := d) rfl (.inr rfl) hw hfull
  rw [exec_bitOr_carry hok hg hk hover hcarry (hblock.trans hout)]
  · simp only [effCarry_begun, f, hval, hdst, htag]
    rfl
  · simp only [f, hconds, List.filter_append, filter_tagConds_sound h0, filter_tagConds_sound ha, List.append_nil]

theorem andStopsOnATag (s : State) (slot : BitVec 3) (gn : BitVec 1) (g : BitVec 4) (addr : Word) (hk : s.core.check = none)
    (d : BitVec 6) (a : BitVec 7) :
    let f : Form := .nat slot gn g (.sr d a 0 0)
    formOk ⟨.BIT, 4, 0x18, 0, 1, .sr .sreg true .any⟩ f = true → s.core.guardOf f = true →
    s.core.ctx.fullS (a.setWidth 6) = true → s.core.outstanding (.s d) = false → s.core.overrunFound = [] →
    tagConds s.core (.s 0) 1 = [] → s.core.ownBad (.s (a.setWidth 6)) = false → s.core.tagOf (.s (a.setWidth 6)) = some addr →
    StopsWith (.bitAnd f) s ⟨.BIT, 4, 0x18, 0, 1, .sr .sreg true .any⟩ f ⟨6, 0x30, 2, 4, tagPlain addr, addr⟩ := by
  intro f hok hg hfull hout hover h0 ha htag
  obtain ⟨hblock, hconds, -⟩ := fetchArgs_withS0 (c := s.core) (row := ⟨.BIT, 4, 0x18, 0, 1, .sr .sreg true .any⟩)
    (slot := slot) (gn := gn) (g := g) (d := d) (w := 0) rfl (.inr rfl) rfl hfull
  show issueOp (.bitAnd f) (semBitAnd f s) s = _
  refine issueOp_trap rfl hok hg hk hover (hblock.trans hout) rfl rfl (hconds.trans ?_) ⟨by norm_num, by norm_num⟩
  rw [h0, tagConds_sound ha, htag]
  rfl

/-- The row of `vor` in the catalogue. -/
abbrev vorRow : OpRow := ⟨.VAI, 12, 0x9, 0, 1, .v .intg true⟩

/-- What `vor d, a, s0` in format VR reads. -/
theorem fetchArgs_vorS0 {c : Core} {slot : BitVec 3} {gn : BitVec 1} {g : BitVec 4} {d : BitVec 5} {a : BitVec 7} {t : BitVec 2}
    (ha : a.getLsbD 5 = false) (hfull : c.ctx.fullV (a.setWidth 5) = true) :
    let y := fetchArgs vorRow { base := useMerge } (.nat slot gn g (.vr d a 32 t)) c
    y.block = c.outstanding (.v d) ∧ y.conds = tagConds c (.v (a.setWidth 5)) 4 ++ tagConds c (.s 0) 1 ∧
      y.a = c.ctx.rdV (a.setWidth 5) ∧ y.y = .v d ∧ y.m = vrMode .intg t := by
  have h9 : (vrMode .intg t).getLsbD 9 = false := by revert t; decide
  have hmerge : useMerge c (vrMode .intg t) = false := by simp only [useMerge, mME, h9, Bool.false_and]
  have hmask : maskConds vorRow c (vrMode .intg t) = [] := by
    simp only [maskConds, h9, Bool.false_eq_true, if_false, ite_self]
  have hva : c.srcV a 4 = { val := c.ctx.rdV (a.setWidth 5), conds := tagConds c (.v (a.setWidth 5)) 4 } := by
    simp only [Core.srcV, ha, srcOf, hfull, Bool.false_eq_true, if_false, if_true]
  have hvb : c.srcV 32 1 = { val := wide 0, conds := tagConds c (.s 0) 1 } := by
    have h32 : (32 : BitVec 7).getLsbD 5 = true ∧ (32 : BitVec 7) &&& 0x5F = 0 := by decide
    rw [Core.srcV, h32.1, h32.2, if_pos rfl, srcS_full rfl]
    rfl
  simp only [fetchArgs, natOps, hva, hvb, hmerge, hmask, if_true, Bool.false_eq_true, if_false, Bool.false_or, List.append_nil, and_self]

/-- The mode word of an integer VR word names an element type and a width that every operation takes (R163). -/
theorem vecConds_vrMode (c : Core) (f : Form) (op : BitVec 6) (t : BitVec 2) : vecConds c .intg f op true (vrMode .intg t) = [] := by
  have hmode : etOk .intg (BitVec.ofNat 4 (mET (vrMode .intg t))) = true ∧ mW (vrMode .intg t) ≠ 3 := by revert t; decide
  simp [vecConds, kindRounds, hmode.1, hmode.2]

/-- `vor` in its carrying form. -/
theorem exec_vaiOr_carry {s : State} {f : Form} {src : Dst} {x : Args} (hx : fetchArgs vorRow { base := useMerge } f s.core = x)
    (hok : formOk vorRow f = true) (hg : s.core.guardOf f = true) (hk : s.core.check = none) (ho : s.core.overrunFound = [])
    (hsrc : carryV f = some src) (hb : x.block = false) (hv : vecConds s.core .intg f 0x9 true x.m = [])
    (hc : x.conds.filter (fun k => k.cls != 0x30 || k.code == 1) = []) :
    exec (.vaiOr f) s = .next (effCarry x 2 x.a (s.core.tagOf src) (s.onCore Core.beginIssue)) := by
  have hsem : semVaiOr f s =
      { block := x.block, conds := x.conds.filter fun k => k.cls != 0x30 || k.code == 1
        eff := effCarry x 2 x.a (s.core.tagOf src) } := by
    simp only [semVaiOr, semLanes, Sem.carry, hsrc, hx, hv, List.append_nil]
  show issueOp (.vaiOr f) (semVaiOr f s) s = _
  rw [hsem]
  exact issueOp_commit rfl hok hg hk ho hb rfl rfl hc rfl rfl rfl rfl

theorem vorCarriesItsTag (s : State) (slot : BitVec 3) (gn : BitVec 1) (g : BitVec 4) (addr : Word) (hk : s.core.check = none)
    (d : BitVec 5) (a : BitVec 7) (t : BitVec 2) :
    let f : Form := .nat slot gn g (.vr d a 32 t)
    formOk vorRow f = true → s.core.guardOf f = true → a.getLsbD 5 = false →
    s.core.ctx.fullV (a.setWidth 5) = true → s.core.outstanding (.v d) = false → s.core.overrunFound = [] →
    s.core.ownBad (.s 0) = false → s.core.ownBad (.v (a.setWidth 5)) = false → s.core.tagOf (.v (a.setWidth 5)) = some addr →
    exec (.vaiOr f) s = .next (s.onCore fun c => { c.beginIssue with pend := c.pend ++
      [{ gen := c.sheetGen, due := s.now + 2, dst := .v d, val := c.ctx.rdV (a.setWidth 5), flags := 0, tag := some addr }] }) := by
  intro f hok hg ha hfull hout hover h0 hown htag
  have hcarry : carryV f = some (.v (a.setWidth 5)) := by
    have hba : (bits a 0 5 : BitVec 5) = a.setWidth 5 := (BitVec.setWidth_eq_extractLsb' (by decide)).symm
    have h32 : (bits (32 : BitVec 7) 0 6 : BitVec 6) = 32 := by decide
    simp only [f, carryV, h32, if_true, ha, Bool.false_eq_true, if_false, hba]
  obtain ⟨hblock, hconds, hval, hdst, hmode⟩ := fetchArgs_vorS0 (c := s.core) (slot := slot) (gn := gn) (g := g) (d := d) (t := t) ha hfull
  rw [exec_vaiOr_carry rfl hok hg hk hover hcarry (hblock.trans hout)]
  · simp only [effCarry_begun, f, hval, hdst, htag]
    rfl
  · simp only [f, hmode, vecConds_vrMode]
  · simp only [f, hconds, List.filter_append, filter_tagConds_sound h0, filter_tagConds_sound hown, List.append_nil]

/-- Settles O8: the guard, the full bits, and the three ways a tagged value is read. -/
theorem guardsHoldsAndTags : Obligations.GuardsHoldsAndTags :=
  ⟨falseGuardHasNoEffect, emptyRegisterHoldsOrFaults, fun s slot gn g addr hk =>
    ⟨orCarriesItsTag s slot gn g addr hk, andStopsOnATag s slot gn g addr hk, vorCarriesItsTag s slot gn g addr hk⟩⟩

end Sys2Proof.Claims
end

section
/-! SUPPORT. The control registers: who may write them, what a write stores, and what is read back (R69, R70, R186). -/

namespace Sys2Proof.Machine

/-! ## The table of R69 -/

/-- The control registers that R69 defines are those with an access. -/
theorem crAccess_isSome : ∀ i : BitVec 8, (crAccess i).isSome = true ↔ (i.toNat ≤ 0x16 ∨ (0x40 ≤ i.toNat ∧ i.toNat ≤ 0x44)) := by
  decide +kernel

theorem crAccess_handler : ∀ i : BitVec 8, crAccess i = some .handler ↔ i ∈ ([0x08, 0x14, 0x15] : List (BitVec 8)) := by
  decide +kernel

theorem crAccess_supervisor : ∀ i : BitVec 8,
    crAccess i = some .supervisor ↔ i ∈ ([0x06, 0x0E, 0x0F, 0x10, 0x11, 0x12, 0x41] : List (BitVec 8)) := by
  decide +kernel

end Sys2Proof.Machine

namespace Sys2Proof.Claims
open Machine

theorem crAccess_deviceCrs : ∀ i ∈ deviceCrs, crAccess i = some .ro ∧ crIsFlags i = false ∧ crIsMx i = false := by
  decide +kernel

/-- A control register that is stored whole is no read-only one and holds no flags, and every bit of it is written. -/
theorem crAccess_wholeCrs : ∀ i ∈ wholeCrs, crAccess i ≠ some .ro ∧ (crAccess i).isSome = true ∧ crIsFlags i = false ∧ crIsMx i = false ∧
    crMasks i = (BitVec.allOnes 64, 0) := by
  decide +kernel

end Sys2Proof.Claims

namespace Sys2Proof.Claims
open Machine

section
variable {s : State} {row : OpRow} {f : Form} {x : Args}

/-! ## Reads (R186) -/

theorem crConds_read {c : Core} {i : BitVec 8} (h : crDefined i) (o : BitVec 4) : crConds c i false o = [] := by
  obtain ⟨a, ha⟩ := Option.isSome_iff_exists.mp ((crAccess_isSome i).mpr h)
  simp [crConds, ha]

theorem crConds_undefined {c : Core} {i : BitVec 8} (h : ¬ crDefined i) (w : Bool) (o : BitVec 4) :
    crConds c i w o = [condPriv 2 o (i.setWidth 64)] := by
  have ha : crAccess i = none := Option.not_isSome_iff_eq_none.mp fun e => h ((crAccess_isSome i).mp e)
  simp [crConds, ha]

/-- A control register in sound storage reads without a data error. -/
theorem crBadConds_sound {c : Core} {i : BitVec 8} (h : c.ownBad (.cr i) = false) (hm : i = 0x42 → c.mxBad = []) (o : BitVec 4) :
    crBadConds c i o = [] := by
  unfold crBadConds
  split
  · next hi => exact mxConds_nil fun k _ => by rw [hm (by simpa [crIsMx] using hi)]; exact List.not_mem_nil
  · exact ownConds_sound h o

theorem semCrrd_eq (h : Issues (.crrd f) (readsNumber f) s row f x) :
    semCrrd f s =
      { block := x.block
        conds := crConds s.core (numberOf f x) false (if isWy f then 4 else 15) ++ crBadConds s.core (numberOf f x) (if isWy f then 4 else 15)
        mx := crIsMx (numberOf f x), eff := effY x 1 (wide (s.crRead (numberOf f x))) } := by
  have hx := h.given
  obtain rfl := h.row_eq rfl
  have hargs := h.args
  cases f <;> simp only [semCrrd, readsNumber, isWy, numberOf, Bool.not_true, Bool.not_false, Bool.false_eq_true, if_true, if_false] at hargs ⊢ <;>
    rw [hargs, hx] <;> rfl

theorem controlRegistersRead : ControlRegistersRead := by
  intro s row f x h hbad
  refine ⟨fun hd hm => ?_, fun hd => ?_, fun hi habs hmx => ?_⟩
  · show issueOp (.crrd f) (semCrrd f s) s = _
    have hacc : crIsMx (numberOf f x) = true → s.core.accAbsent = false := fun hi => (hm (by simpa [crIsMx] using hi)).1
    rw [semCrrd_eq h, crConds_read hd, crBadConds_sound hbad fun hi => (hm hi).2,
      issueOp_clear h h.ready rfl rfl rfl rfl rfl hacc]
    simp only [effY_begun]
  · have hne : numberOf f x ≠ 0x42 := fun e => hd (by rw [e]; exact .inr (by decide))
    have hmx : crIsMx (numberOf f x) = false := by simpa [crIsMx] using hne
    show issueOp (.crrd f) (semCrrd f s) s = _
    rw [semCrrd_eq h, crConds_undefined hd, crBadConds_sound hbad fun hi => absurd hi hne]
    exact issueOp_stop h h.ready rfl (by simp [hmx]) rfl ⟨by simp, by simp⟩
  · have hdef : crDefined (numberOf f x) := by rw [hi]; exact .inr (by decide)
    show issueOp (.crrd f) (semCrrd f s) s = _
    rw [semCrrd_eq h, crConds_read hdef, crBadConds_sound hbad fun _ => hmx]
    exact issueOp_absent h h.ready rfl (by rw [hi]; rfl) (bne_iff_ne.mp habs) nofun

end

end Sys2Proof.Claims

namespace Sys2Proof.Claims
open Machine

section
variable {s : State} {row : OpRow} {f : Form} {x : Args} {i : Instr}

/-! ## Writes (R186, R187) -/

/-- Whether a context may write a control register is what R69 and R70 say by its index. -/
theorem mayWriteCr_iff {c : Core} {j : BitVec 8} : mayWriteCr c j ↔ ∀ a, crAccess j = some a → c.mayWrite a = true := by
  unfold mayWriteCr
  rw [← crAccess_handler, ← crAccess_supervisor]
  constructor
  · rintro ⟨hh, hs⟩ a ha
    cases a with
    | ro => rfl
    | task => rfl
    | handler => simpa [Core.mayWrite] using hh ha
    | supervisor => exact hs ha
  · intro h
    exact ⟨fun ha => by simpa [Core.mayWrite] using h _ ha, fun ha => h _ ha⟩

theorem crConds_allowed {c : Core} {j : BitVec 8} (hs : (crAccess j).isSome = true) (hm : mayWriteCr c j) (o : BitVec 4) :
    crConds c j true o = [] := by
  obtain ⟨a, ha⟩ := Option.isSome_iff_exists.mp hs
  simp [crConds, ha, mayWriteCr_iff.mp hm a ha]

theorem crConds_forbidden {c : Core} {j : BitVec 8} (hm : ¬ mayWriteCr c j) (o : BitVec 4) :
    crConds c j true o = [condPriv 1 o (j.setWidth 64)] := by
  obtain ⟨a, ha, hw⟩ : ∃ a, crAccess j = some a ∧ ¬ c.mayWrite a = true := by simpa [mayWriteCr_iff] using hm
  simp [crConds, ha, hw]

/-- A write of a control register as the issue logic sees it, its index being the low byte of b. -/
theorem semCrWrite_eq {use : Use} (h : Issues i use s row f x) (hu : use = {}) (y : Bool) (g : BitVec 8 → Word → Word → Word) :
    let j : BitVec 8 := x.b64.setWidth 8
    semCrWrite row y g f s =
      { block := x.block
        conds := crConds s.core j true 1 ++ (if y then crBadConds s.core j 1 else [])
        mx := crIsMx j
        early := if crIsFlags j then fun t => (t.crUpdate j fun _ => g j (s.crRead j) x.a64).afterWrite j else id
        late := if crIsFlags j then id else fun t => t.crUpdate j fun _ => g j (s.crRead j) x.a64
        eff := if y then effY x 1 (wide (s.crRead j)) else effNone x } := by
  have hj : (x.b64.setWidth 8 : BitVec 8) = bits x.b64 0 8 := BitVec.setWidth_eq_extractLsb' (by decide)
  subst hu
  simp only [semCrWrite, h.args, h.given, List.nil_append, hj]

/-- A write of a register without flags that the context may do follows the other effects of its bundle. -/
theorem issueOp_crWrite (h : Issues i {} s row f x) (y : Bool) (g : BitVec 8 → Word → Word → Word) {j : BitVec 8}
    (hj : j = x.b64.setWidth 8) (hs : (crAccess j).isSome = true) (hm : mayWriteCr s.core j) (hf : crIsFlags j = false)
    (hx : crIsMx j = false) (hb : y = true → s.core.ownBad (.cr j) = false) :
    issueOp i (semCrWrite row y g f s) s =
      .next ((if y then answered s x 1 (wide (s.crRead j)) 0 else begun s x).crUpdate j fun _ => g j (s.crRead j) x.a64) := by
  have hbad : (if y then crBadConds s.core j 1 else []) = [] := by
    cases y with
    | false => rfl
    | true => exact crBadConds_sound (hb rfl) (fun e => by subst e; exact absurd hx (by decide)) 1
  rw [semCrWrite_eq h rfl, ← hj, issueOp_late h h.ready (by rw [crConds_allowed hs hm, hbad]; rfl) (by simp [hf]) rfl rfl (by simp [hx]) rfl]
  cases y <;> simp only [hf, Bool.false_eq_true, if_true, if_false, effNone_begun, effY_begun]

/-- A write that the context may not do stops (R70, R426). -/
theorem issueOp_crForbidden (h : Issues i {} s row f x) (g : BitVec 8 → Word → Word → Word)
    (hm : ¬ mayWriteCr s.core (x.b64.setWidth 8)) (hx : x.b64.setWidth 8 ≠ (0x42 : BitVec 8)) :
    issueOp i (semCrWrite row false g f s) s =
      .next (s.onCore fun c => c.stopWith (onlyTrap s row f ⟨4, 0x12, 1, 1, (x.b64.setWidth 8 : BitVec 8).setWidth 64, 0⟩)) := by
  rw [semCrWrite_eq h rfl, crConds_forbidden hm]
  exact issueOp_stop h h.ready rfl (fun e => absurd (by simpa [crIsMx] using e) hx) rfl ⟨by simp, by simp⟩

/-- What a control register that is stored whole is replaced with, ORed with or cleared of. -/
theorem crWritten_whole {j : BitVec 8} (h : j ∈ wholeCrs) (old v : Word) : crWritten j old v = v := by
  obtain ⟨-, -, -, -, hmask⟩ := crAccess_wholeCrs j h
  simp only [crWritten, hmask, BitVec.and_allOnes]
  simp

theorem crSetBits_whole {j : BitVec 8} (h : j ∈ wholeCrs) (old m : Word) : crSetBits j old m = old ||| m := by
  obtain ⟨-, -, -, -, hmask⟩ := crAccess_wholeCrs j h
  simp only [crSetBits, hmask, BitVec.and_allOnes]

theorem crClearBits_whole {j : BitVec 8} (h : j ∈ wholeCrs) (old m : Word) : crClearBits j old m = old &&& ~~~m := by
  obtain ⟨-, -, -, -, hmask⟩ := crAccess_wholeCrs j h
  simp only [crClearBits, hmask]
  rw [show BitVec.allOnes 64 ||| 0 = BitVec.allOnes 64 from rfl, BitVec.and_allOnes]

theorem crUpdate_writable {t : State} {j : BitVec 8} (h : crAccess j ≠ some .ro) (v : Word → Word) :
    t.crUpdate j v = t.onCore (Core.crStore · j (v (t.crRead j))) := if_neg h

/-- A write of a whole register stores what the operation makes of its old value. -/
theorem issueOp_crWhole (h : Issues i {} s row f x) (y : Bool) (g : BitVec 8 → Word → Word → Word) {j : BitVec 8}
    (hj : j = x.b64.setWidth 8) (hw : j ∈ wholeCrs) (hm : mayWriteCr s.core j) (hb : y = true → s.core.ownBad (.cr j) = false) :
    issueOp i (semCrWrite row y g f s) s =
      .next ((if y then answered s x 1 (wide (s.crRead j)) 0 else begun s x).onCore (Core.crStore · j (g j (s.crRead j) x.a64))) := by
  obtain ⟨hro, hs, hf, hx, -⟩ := crAccess_wholeCrs j hw
  rw [issueOp_crWrite h y g hj hs hm hf hx hb, crUpdate_writable hro]

end

end Sys2Proof.Claims

/-! ## A write of FSTAT comes before the start of its issue (R187) -/

namespace Sys2Proof

theorem RF.put_comm {n : Nat} {α : Type} (r : RF n α) {i j : BitVec n} (x y : α) (h : i ≠ j) :
    (r.put i x).put j y = (r.put j y).put i x := by
  have : i.toNat ≠ j.toNat := fun e => h (BitVec.eq_of_toNat_eq e)
  exact Vector.set_comm _ _ this

namespace Machine

/-- A core with FSTAT holding `w`, and the tags `ts`. -/
def Core.withFstat (c : Core) (w : Word) (ts : List RegTag) : Core := { c with ctx := c.ctx.setCreg crFSTAT w, tags := ts }

theorem Core.withFstat_creg (c : Core) (w : Word) (ts : List RegTag) {i : BitVec 5} (h : i ≠ crFSTAT) :
    (c.withFstat w ts).creg i = c.creg i := Ctx.creg_setCreg_ne _ _ h.symm

theorem Core.withFstat_depth (c : Core) (w : Word) (ts : List RegTag) : (c.withFstat w ts).depth = c.depth :=
  congrArg (BitVec.extractLsb' 0 2) (c.withFstat_creg w ts (by decide))

theorem Core.stampLate_withFstat (c : Core) (w : Word) (ts : List RegTag) : (c.withFstat w ts).stampLate = c.stampLate.withFstat w ts := by
  have hlate : (c.withFstat w ts).setLate = c.setLate.withFstat w ts := by
    have hput := RF.put_comm c.ctx.cr w (c.creg crPSTAT ||| 1) (show crFSTAT ≠ crPSTAT by decide)
    simp only [Core.setLate, c.withFstat_creg w ts (show crPSTAT ≠ crFSTAT by decide)]
    simp only [Core.withFstat, Core.setCreg, Ctx.setCreg, hput]
  have hhold : (c.withFstat w ts).hold = c.hold := rfl
  simp only [Core.stampLate, hhold, c.withFstat_creg w ts (show crSFC ≠ crFSTAT by decide), hlate]
  cases c.hold with
  | issueAt t => simp only; split <;> rfl
  | _ => rfl

theorem Core.beginSheet_withFstat (c : Core) (w : Word) (ts : List RegTag) : (c.withFstat w ts).beginSheet = c.beginSheet.withFstat w ts := by
  have hsheet : (c.withFstat w ts).sheet = c.sheet := by rw [Core.sheet, Core.sheet, c.withFstat_depth]; rfl
  simp only [Core.beginSheet, hsheet]
  cases c.sheet with
  | none => rfl
  | some sh =>
    simp only
    split
    · rfl
    · rw [Core.setSheet, c.withFstat_depth]; rfl

theorem Core.beginIssue_withFstat (c : Core) (w : Word) (ts : List RegTag) : (c.withFstat w ts).beginIssue = c.beginIssue.withFstat w ts := by
  simp only [Core.beginIssue, c.stampLate_withFstat]
  exact Core.beginSheet_withFstat { c.stampLate with hold := .none, waitsIssue := false, stalled := false, holding := false, hung := 0,
                                                     armHeld := false, descAt := none } w ts

theorem Core.voidPorts_withFstat (c : Core) (x : Args) (w : Word) (ts : List RegTag) :
    (c.withFstat w ts).voidPorts x = (c.voidPorts x).withFstat w ts := by
  have hbank : (c.withFstat w ts).bank = c.bank := by rw [Core.bank, Core.bank, c.withFstat_depth]; rfl
  unfold Core.voidPorts
  split
  · rfl
  · simp only [Core.setPort, Core.port, hbank, c.withFstat_depth]; rfl

/-- What a store to FSTAT and the flags that land after it come to. -/
theorem Core.crStore_fstat (c : Core) (v : Word) :
    (c.crStore 3 v).orFstat c.landedFlags = c.withFstat (v ||| c.landedFlags.setWidth 64) (retagged c.tags (.cr 3) none) := by
  have hstore : c.crStore 3 v = (c.setCreg crFSTAT v).retag (.cr 3) none := rfl
  rw [hstore]
  simp only [Core.orFstat, Core.withFstat, Core.retag, Core.setCreg, Core.creg, Ctx.setCreg, Ctx.creg, RF.get_put_same, RF.put_put]

/-- What a commit of one part comes to that writes flags before its other effect (R187). -/
theorem commitParts_early {p : Part} {s : State} (hl : p.sem.late = id) (hx : p.sem.xfer = none) (hs : p.sem.soft = none) :
    s.commitParts [p] id = p.sem.eff ((p.sem.early s).onCore Core.beginIssue) := by
  simp [State.commitParts, applyParts, applyXfers, State.softTrap, hl, hx, hs]

end Machine
end Sys2Proof

namespace Sys2Proof.Claims
open Machine

section
variable {s : State} {row : OpRow} {f : Form} {x : Args}

theorem exec_crwr_fmode (h : Issues (.crwr f) {} s row f x) (hj : x.b64.setWidth 8 = (0x02 : BitVec 8)) :
    exec (.crwr f) s = .next ((begun s x).onCore (Core.crStore · 2 ((x.a64 &&& 7) ||| (s.crRead 2 &&& ~~~7)))) := by
  have hmask : crMasks 2 = (7, 0#64) := rfl
  have hwritten : crWritten 2 (s.crRead 2) x.a64 = (x.a64 &&& 7) ||| (s.crRead 2 &&& ~~~7) := by
    simp only [crWritten, hmask, BitVec.and_zero, BitVec.not_zero, BitVec.and_allOnes]
  have hmay : mayWriteCr s.core 2 := mayWriteCr_iff.mpr fun a ha => by cases ha; rfl
  obtain rfl := h.row_eq rfl
  show issueOp (.crwr f) (semCrWrite _ false crWritten f s) s = _
  rw [issueOp_crWrite h false crWritten hj.symm (by decide) hmay (by decide) (by decide) nofun, crUpdate_writable (by decide), hwritten]
  rfl

theorem exec_crwr_fstat (h : Issues (.crwr f) {} s row f x) (hj : x.b64.setWidth 8 = (0x03 : BitVec 8)) :
    exec (.crwr f) s = .next ((begun s x).onCore fun c =>
      (c.crStore 3 (s.crRead 3 &&& ~~~(x.a64 &&& 0x1F))).orFstat c.landedFlags) := by
  have hwritten : crWritten 3 (s.crRead 3) x.a64 = s.crRead 3 &&& ~~~(x.a64 &&& 0x1F) := by
    have hmask : crMasks 3 = (0#64, 0x1F) := rfl
    simp only [crWritten, hmask, BitVec.and_zero, BitVec.zero_or, BitVec.not_zero, BitVec.and_allOnes]
  have hconds : crConds s.core 3 true 1 = [] := by simp [crConds, crAccess, Core.mayWrite]
  obtain rfl := h.row_eq rfl
  show issueOp (.crwr f) (semCrWrite _ false crWritten f s) s = _
  rw [semCrWrite_eq h rfl, hj, issueOp_next h.op h.shape,
    issueSem_commit h.guard h.ready rfl h.sound (by simp only [hconds]; rfl) (by simp [crIsMx]) h.onTime,
    commitParts_early rfl rfl rfl]
  show Host.Outcome.next (effNone x (((s.crUpdate 3 fun _ => crWritten 3 (s.crRead 3) x.a64).afterWrite 3).onCore Core.beginIssue)) = _
  rw [hwritten, crUpdate_writable (by decide)]
  have hafter (t : State) : t.afterWrite 3 = t.onCore fun c => c.orFstat c.landedFlags := rfl
  have hland (c : Core) : (c.crStore 3 (s.crRead 3 &&& ~~~(x.a64 &&& 0x1F))).landedFlags = c.landedFlags := rfl
  have hflags (c : Core) : (c.beginIssue.voidPorts x).landedFlags = c.landedFlags := by rw [Core.voidPorts_eq, Core.beginIssue_eq]
  have htags (c : Core) : (c.beginIssue.voidPorts x).tags = c.tags := by rw [Core.voidPorts_eq, Core.beginIssue_eq]
  simp only [hafter, effNone, begun, State.onCore_onCore, Function.comp_def, hland, Core.crStore_fstat, Core.beginIssue_withFstat,
    Core.voidPorts_withFstat, hflags, htags]

theorem controlRegistersWrite : ControlRegistersWrite := by
  intro s row f x j old
  refine ⟨fun h hw hm => ?_, fun h hw hm hb => ?_, fun h hw hm hb => ?_, fun h hj => ?_, fun h hj => ?_, fun h hd => ?_,
    fun h _ hx hm => ?_⟩
  · obtain rfl := h.row_eq rfl
    have hexec := issueOp_crWhole h false crWritten rfl hw hm nofun
    rwa [crWritten_whole hw] at hexec
  · obtain rfl := h.row_eq rfl
    have hexec := issueOp_crWhole h true crSetBits rfl hw hm fun _ => hb
    rwa [crSetBits_whole hw] at hexec
  · obtain rfl := h.row_eq rfl
    have hexec := issueOp_crWhole h true crClearBits rfl hw hm fun _ => hb
    rwa [crClearBits_whole hw] at hexec
  · simp only [old, hj]
    exact exec_crwr_fmode h hj
  · simp only [old, hj]
    exact exec_crwr_fstat h hj
  · obtain ⟨hro, hf, hx⟩ := crAccess_deviceCrs j hd
    have hmay : mayWriteCr s.core j := mayWriteCr_iff.mpr fun a ha => by obtain rfl := Option.some.inj (hro.symm.trans ha); rfl
    obtain rfl := h.row_eq rfl
    refine (issueOp_crWrite h false crWritten rfl (by rw [hro]; rfl) hmay hf hx nofun).trans ?_
    rw [State.crUpdate, if_pos hro]
    rfl
  · obtain rfl := h.row_eq rfl
    exact issueOp_crForbidden h crWritten hm hx

/-! ## What a write leaves of the others (R69) -/

/-- A control register of the context is read from its file. -/
theorem crRead_context (s : State) {i : BitVec 8} (h : i.toNat ≤ 0x16) : s.crRead i = s.core.creg (i.setWidth 5) := by
  unfold State.crRead
  split
  all_goals first | exact absurd h (by decide) | exact if_pos h

/-- What is read beside the context's own control registers hangs on what no store of one of them changes. -/
theorem crRead_beside {s t : State} (hp : t.plat = s.plat) (hcur : t.cur = s.cur) (hm : t.core.mstat = s.core.mstat)
    (hb : t.core.cycBase = s.core.cycBase) {i : BitVec 8} (h : 0x16 < i.toNat) (ha : i = 0x41 → t.core.aown = s.core.aown) :
    t.crRead i = s.crRead i := by
  have hi : ¬ i.toNat ≤ 0x16 := by omega
  unfold State.crRead
  split
  case h_2 => exact ha rfl
  all_goals simp only [hi, hcur, hm, State.mtime, hp, State.cyc, hb, if_false]

theorem crStore_context (c : Core) {i : BitVec 8} (h : i.toNat ≤ 0x16) (v : Word) :
    c.crStore i v = (c.setCreg (i.setWidth 5) v).retag (.cr i) none := by
  unfold Core.crStore
  split
  all_goals first | exact absurd h (by decide) | exact if_pos h

/-- A store of one of the context's control registers changes that register alone. -/
theorem crRead_crStore_context (s : State) {i : BitVec 8} (hi : i.toNat ≤ 0x16) (v : Word) (j : BitVec 8) :
    (s.onCore (Core.crStore · i v)).crRead j = if j = i then v else s.crRead j := by
  simp only [crStore_context _ hi]
  by_cases hj : j.toNat ≤ 0x16
  · rw [crRead_context _ hj, crRead_context _ hj, State.core_onCore]
    show (s.core.setCreg (i.setWidth 5) v).creg (j.setWidth 5) = _
    split
    · next e => subst e; exact Core.creg_setCreg_same ..
    · next e => exact Core.creg_setCreg_ne _ _ (by bv_omega)
  · rw [if_neg (by rintro rfl; exact hj hi)]
    have hcore : (s.onCore fun c => (c.setCreg (i.setWidth 5) v).retag (.cr i) none).core =
        (s.core.setCreg (i.setWidth 5) v).retag (.cr i) none := State.core_onCore ..
    exact crRead_beside (by rfl) (by rfl) (by exact (congrArg Core.mstat hcore).trans rfl)
      (by exact (congrArg Core.cycBase hcore).trans rfl) (Nat.lt_of_not_le hj)
      fun _ => by exact (congrArg Core.aown hcore).trans rfl

theorem setAown_keeps (c : Core) (v : Word) : (c.setAown v).aown = v ∧ (c.setAown v).ctx = c.ctx ∧ (c.setAown v).mstat = c.mstat ∧
    (c.setAown v).cycBase = c.cycBase := by
  unfold Core.setAown
  split
  · next h => exact ⟨h.symm, rfl, rfl, rfl⟩
  · exact ⟨rfl, rfl, rfl, rfl⟩

/-- A store of AOWN changes that register alone of those that are read. -/
theorem crRead_crStore_aown (s : State) (v : Word) (j : BitVec 8) :
    (s.onCore (Core.crStore · 0x41 v)).crRead j = if j = 0x41 then v else s.crRead j := by
  obtain ⟨haown, hctx, hmstat, hcyc⟩ := setAown_keeps s.core v
  have hcore : (s.onCore (Core.crStore · 0x41 v)).core = (s.core.setAown v).retag (.cr 0x41) none := State.core_onCore ..
  by_cases hj : j.toNat ≤ 0x16
  · rw [crRead_context _ hj, crRead_context _ hj, hcore, if_neg (by rintro rfl; exact absurd hj (by decide))]
    exact congrArg (Ctx.creg · _) hctx
  · split
    · next e => subst e; exact (congrArg Core.aown hcore).trans haown
    · next e =>
      exact crRead_beside (by rfl) (by rfl) (by exact (congrArg Core.mstat hcore).trans hmstat)
        (by exact (congrArg Core.cycBase hcore).trans hcyc)
        (Nat.lt_of_not_le hj) fun e' => absurd e' e

theorem controlRegisterFileKeepsOthers : ControlRegisterFileKeepsOthers := by
  intro s i v hi
  rcases (show i = 0x41 ∨ i.toNat ≤ 0x16 by revert i; decide) with rfl | hc
  · exact ⟨(crRead_crStore_aown s v _).trans (if_pos rfl), fun j hj => (crRead_crStore_aown s v j).trans (if_neg hj)⟩
  · exact ⟨(crRead_crStore_context s hc v _).trans (if_pos rfl), fun j hj => (crRead_crStore_context s hc v j).trans (if_neg hj)⟩

/-- Settles O12: reads, writes, and the file that they go to. -/
theorem controlRegistersReadAndWrite : Obligations.ControlRegistersReadAndWrite :=
  ⟨controlRegistersRead, controlRegistersWrite, controlRegisterFileKeepsOthers⟩

end

end Sys2Proof.Claims
end

section
/-! SUPPORT. What the stores of a core through its caches leave as it was: all but the memory system, the core's L1 and the
clocks it has heard (R293, R294, R318). -/

namespace Sys2Proof.Machine

/-- A core but for its L1 and the clocks that it has heard. -/
def Core.besideL1 (c : Core) : Core := { c with l1 := [], clock := none }

/-- What an access of core `n` through its caches leaves on the way from `s` to `t`. -/
structure State.Caches (n : CoreNo) (s t : State) : Prop where
  fab : t.fab = s.fab
  dist : t.dist = s.dist
  plat : t.plat = s.plat
  cur : t.cur = s.cur
  core : (t.coreAt n).besideL1 = (s.coreAt n).besideL1
  others : ∀ m, m ≠ n → t.coreAt m = s.coreAt m

namespace State.Caches
variable {n : CoreNo} {s t u : State}

theorem refl (n : CoreNo) (s : State) : s.Caches n s := ⟨rfl, rfl, rfl, rfl, rfl, fun _ _ => rfl⟩

theorem trans (h : s.Caches n t) (k : t.Caches n u) : s.Caches n u where
  fab := k.fab.trans h.fab
  dist := k.dist.trans h.dist
  plat := k.plat.trans h.plat
  cur := k.cur.trans h.cur
  core := k.core.trans h.core
  others m hm := (k.others m hm).trans (h.others m hm)

theorem withMem (n : CoreNo) (s : State) (m : MemSys) : s.Caches n { s with mem := m } := ⟨rfl, rfl, rfl, rfl, rfl, fun _ _ => rfl⟩

theorem setCore (s : State) (n : CoreNo) {c : Core} (h : c.besideL1 = (s.coreAt n).besideL1) : s.Caches n (s.setCoreAt n c) :=
  ⟨rfl, rfl, rfl, rfl, by rw [State.coreAt_setCoreAt_same]; exact h, fun _ hm => State.coreAt_setCoreAt_ne _ _ hm.symm⟩

theorem setL1 (n : CoreNo) (s : State) (ls : List Line) : s.Caches n (s.setCoreAt n { s.coreAt n with l1 := ls }) := setCore s n rfl

theorem hear (n : CoreNo) (s : State) (k : Option Clock) : s.Caches n (s.setCoreAt n ((s.coreAt n).hear k)) := setCore s n rfl

theorem changeMem (n : CoreNo) (s : State) (f : MemSys → MemSys) : s.Caches n (s.withMem f) := withMem n s _

theorem ctx (h : s.Caches n t) : (t.coreAt n).ctx = (s.coreAt n).ctx := congrArg (·.ctx) h.core

theorem dropL1 (n : CoreNo) (s : State) (line : Nat) : s.Caches n (dropL1 s n line) := setL1 n s _

theorem putL1 (n : CoreNo) (s : State) (l : Line) : s.Caches n (s.putL1 n l) := by
  unfold State.putL1
  simp only
  split
  · exact setL1 n s _
  · exact ((withMem n s _).trans (dropL1 n _ _)).trans (setL1 n _ _)

theorem fillL1 {k : Option Clock} {line : Nat} (h : fillL1 s n k line = some t) : s.Caches n t := by
  unfold Machine.fillL1 at h
  simp only at h
  split at h
  · cases h; exact refl n s
  · split at h
    · split at h
      · cases h
      · split at h
        · cases h
        · cases h; exact ((withMem n s _).trans (hear n _ _)).trans (putL1 n _ _)
    · split at h
      · cases h
      · cases h; exact (changeMem n s _).trans (putL1 n _ _)

theorem storeLine {nc : Bool} {pa : Nat} {bs : List Byte} (h : storeLine s n nc pa bs = some t) : s.Caches n t := by
  unfold Machine.storeLine at h
  simp only at h
  split at h
  · cases h
  · split at h
    · split at h
      · cases h
      · next hf =>
        split at h
        · cases h
        · cases h; exact (fillL1 hf).trans (setL1 n _ _)
    · cases h; exact changeMem n s _

theorem storePieces {nc : Bool} {ps : List (Nat × List Byte)} (h : storePieces s n nc ps = some t) : s.Caches n t := by
  induction ps generalizing s with
  | nil => cases h; exact refl n _
  | cons p r ih =>
    unfold Machine.storePieces at h
    split at h
    · cases h
    · next hl => exact (storeLine hl).trans (ih h)

theorem storeRuns {rs : List (Nat × Nat × Bool)} {bs : List Byte} (h : storeRuns s n rs bs = some t) : s.Caches n t := by
  induction rs generalizing s bs with
  | nil => cases h; exact refl n _
  | cons p r ih =>
    unfold Machine.storeRuns at h
    split at h
    · cases h
    · next hl => exact (storePieces hl).trans (ih h)

theorem ctxStore {va : Word} {bs : List Byte} (h : s.ctxStore n va bs = .ok (some t)) : s.Caches n t := by
  unfold State.ctxStore at h
  split at h
  · cases h
  · split at h
    · cases h
    · exact storeRuns (by simpa using h)

end State.Caches
end Sys2Proof.Machine
end

section
/-! SUPPORT. The entry of a trap: its registers, its frame and the handler that it comes to (R88-R90). -/

namespace Sys2Proof.Machine

/-! ## The trap registers (R88, R89) -/

/-- TCAUSE as the entry of a trap sets it, for the supervisor's level or not. -/
def TrapInfo.cause (t : TrapInfo) (sup : Bool) : Word :=
  (BitVec.ofBool sup).setWidth 64 <<< 63 ||| (t.cls.setWidth 64 <<< 16) ||| t.code.setWidth 64

/-- Its fields lie apart. -/
theorem TrapInfo.cause_eq_add (t : TrapInfo) (sup : Bool) :
    t.cause sup = (if sup then 0x8000000000000000 else 0) + t.cls.setWidth 64 * 0x10000 + t.code.setWidth 64 := by
  have hshift : t.cls.setWidth 64 * (0x10000 : Word) = t.cls.setWidth 64 <<< 16 := by
    rw [BitVec.shiftLeft_eq_mul_twoPow]; rfl
  have hlow : (t.cls.setWidth 64 <<< 16 : Word) &&& t.code.setWidth 64 = 0#64 := by
    ext i hi
    by_cases h : i < 16
    · simp [h]
    · simp [BitVec.getLsbD_of_ge t.code i (by omega)]
  have hhigh : (1#64 <<< 63 : Word) &&& (t.cls.setWidth 64 <<< 16 ||| t.code.setWidth 64) = 0#64 := by
    refine BitVec.eq_of_getLsbD_eq fun i hi => ?_
    rw [BitVec.getLsbD_and, getLsbD_oneBit hi]
    by_cases h : 63 = i
    · subst h
      simp
    · simp [h]
  rw [hshift, BitVec.add_assoc, BitVec.add_eq_or_of_and_eq_zero _ _ hlow, TrapInfo.cause, BitVec.or_assoc]
  cases sup
  · exact (BitVec.zero_or ..).trans (BitVec.zero_add _).symm
  · exact (BitVec.add_eq_or_of_and_eq_zero _ _ hhigh).symm

/-- A core with the trap registers of a trap, in sound storage from then on. -/
def Core.withTrapRegs (c : Core) (t : TrapInfo) (cause : Word) : Core :=
  let c1 := ((((c.setCreg crTCAUSE cause).setCreg crTVPC t.tvpc).setCreg crTSLOT t.tslot).setCreg crTINFO t.tinfo).setCreg crTMOVE t.tmove
  { c1 with tags := c1.tags.filter fun x => !trapRegs.contains x.reg }

/-- Each of them holds what the trap says, and no other control register changes. -/
theorem Core.withTrapRegs_creg (c : Core) (t : TrapInfo) (w : Word) (i : BitVec 5) :
    (c.withTrapRegs t w).creg i = if i = crTMOVE then t.tmove else if i = crTINFO then t.tinfo else if i = crTSLOT then t.tslot
      else if i = crTVPC then t.tvpc else if i = crTCAUSE then w else c.creg i := by
  have hput (c : Core) (j : BitVec 5) (v : Word) : (c.setCreg j v).creg i = if i = j then v else c.creg i := by
    split
    · next h => subst h; exact Core.creg_setCreg_same ..
    · next h => exact Core.creg_setCreg_ne _ _ (Ne.symm h)
  refine (hput _ _ _).trans ?_
  simp only [hput]

theorem Core.withTrapRegs_s (c : Core) (t : TrapInfo) (w : Word) : (c.withTrapRegs t w).ctx.s = c.ctx.s := rfl

theorem Core.withTrapRegs_v (c : Core) (t : TrapInfo) (w : Word) : (c.withTrapRegs t w).ctx.v = c.ctx.v := rfl

theorem Core.withTrapRegs_p (c : Core) (t : TrapInfo) (w : Word) : (c.withTrapRegs t w).ctx.p = c.ctx.p := rfl

/-- The address of the frame of a trapped depth (R90). -/
def Core.frameAddr (c : Core) (d : BitVec 2) : Word := c.creg crTFBASE + (d.setWidth 64 <<< 8)

theorem Core.frameAddr_eq (c : Core) (d : BitVec 2) : c.frameAddr d = c.creg crTFBASE + 256 * d.setWidth 64 := by
  have : (d.setWidth 64 <<< 8 : Word) = 256 * d.setWidth 64 := by revert d; decide
  rw [Core.frameAddr, this]

/-! ## The handler (R89) -/

/-- A core whose frame has been written, in the handler that its trap comes to. -/
def Core.inHandler (c : Core) (t : TrapInfo) (d : BitVec 2) (sup : Bool) : Core :=
  let hst : Word := (if sup then 4 else c.creg crHSTAT &&& 4) ||| (d + 1).setWidth 64
  let c := ((c.setCreg crHSTAT hst).setCreg crFMODE 0).setCreg crFSTAT 0
  { c with
    pendTrap := none, entryPc := c.entryPc.put d t.tvpc, group := [], hold := .none, waitsIssue := false
    savedTags := c.savedTags.put d (c.tags.filter tagKept)
    tags := c.tags.filter (fun t => match t.reg with | .y _ | .z _ => false | d => !frameRegs.contains d)
    banks := c.banks.put (d + 1) (RF.fill {})
    ctx := { c.ctx with pc := c.creg (if sup then crSVEC else crTVEC), brkSkip := false } }

/-- A core with what a trace may have recorded of it left out. -/
def Core.besideTrace (c : Core) : Core := { c with traceNow := [], traceStop := false }

theorem Core.traceAdd_beside (c : Core) (kind num : BitVec 8) (val cyc : Word) :
    (c.traceAdd kind num val cyc).besideTrace = c.besideTrace := by
  unfold Core.traceAdd Core.traceAddFor; split <;> rfl

theorem Core.traceFreeze_beside (c : Core) : c.traceFreeze.besideTrace = c.besideTrace := by
  unfold Core.traceFreeze; split <;> rfl

theorem Core.traceFreeze_or_beside {p : Prop} [Decidable p] (c : Core) : (if p then c.traceFreeze else c).besideTrace = c.besideTrace := by
  split
  · exact Core.traceFreeze_beside c
  · rfl

/-- A trap of depth 0 or 1 that is no data error and no time fault, with nothing on its way and its frame written, enters its handler. -/
theorem State.enterTrap_enters {s s2 : State} {n : CoreNo} {t : TrapInfo} (hp : (s.coreAt n).pendTrap = some t) (h30 : t.cls ≠ 0x30)
    (h42 : t.cls ≠ 0x42) (ho : (s.coreAt n).outst = []) (hpend : (s.coreAt n).pend = []) (hd : (s.coreAt n).depth.toNat < 2) :
    let c := s.coreAt n
    let sup := t.sup || decide (c.creg crTVEC = 0)
    let c1 := c.withTrapRegs t (t.cause sup)
    (s.setCoreAt n c1).ctxStore n (c.frameAddr c.depth) c1.frame = .ok (some s2) →
    ∃ e, s.enterTrap n = s2.setCoreAt n e ∧ e.besideTrace = ((s2.coreAt n).inHandler t c.depth sup).besideTrace := by
  intro c sup c1 hs
  have hd2 : ¬ (c.depth = 2 ∨ c.depth = 3) := by
    rintro (h | h) <;> simp only [c] at h <;> rw [h] at hd <;> exact absurd hd (by decide)
  have hc : ¬ (c.outst ≠ [] ∨ c.pend ≠ []) := by simp [c, ho, hpend]
  unfold State.enterTrap
  simp only [hp]
  rw [if_neg hc, if_neg hd2]
  simp only [c1, Core.withTrapRegs, TrapInfo.cause, Core.frameAddr, sup, c] at hs
  simp only [hs, if_neg h30, if_neg h42]
  exact ⟨_, rfl, (Core.traceFreeze_or_beside _).trans (Core.traceAdd_beside ..)⟩

/-! ## What the handler finds -/

theorem Core.inHandler_creg (c : Core) (t : TrapInfo) (d : BitVec 2) (sup : Bool) {i : BitVec 5} (hh : i ≠ crHSTAT) (hm : i ≠ crFMODE)
    (hf : i ≠ crFSTAT) : (c.inHandler t d sup).creg i = c.creg i :=
  (Core.creg_setCreg_ne _ _ hf.symm).trans <| (Core.creg_setCreg_ne _ _ hm.symm).trans (Core.creg_setCreg_ne _ _ hh.symm)

theorem Core.inHandler_hstat (c : Core) (t : TrapInfo) (d : BitVec 2) (sup : Bool) :
    (c.inHandler t d sup).creg crHSTAT = (if sup then 4 else c.creg crHSTAT &&& 4) ||| (d + 1).setWidth 64 :=
  (Core.creg_setCreg_ne _ _ (by decide)).trans <| (Core.creg_setCreg_ne _ _ (by decide)).trans (Core.creg_setCreg_same ..)

theorem Core.inHandler_fmode (c : Core) (t : TrapInfo) (d : BitVec 2) (sup : Bool) : (c.inHandler t d sup).creg crFMODE = 0 :=
  (Core.creg_setCreg_ne _ _ (by decide)).trans (Core.creg_setCreg_same ..)

theorem Core.inHandler_fstat (c : Core) (t : TrapInfo) (d : BitVec 2) (sup : Bool) : (c.inHandler t d sup).creg crFSTAT = 0 :=
  Core.creg_setCreg_same ..

theorem Core.inHandler_pc (c : Core) (t : TrapInfo) (d : BitVec 2) (sup : Bool) :
    (c.inHandler t d sup).ctx.pc = c.creg (if sup then crSVEC else crTVEC) := by
  refine (Core.creg_setCreg_ne _ _ ?_).trans ((Core.creg_setCreg_ne _ _ ?_).trans (Core.creg_setCreg_ne _ _ ?_)) <;>
    cases sup <;> decide

theorem Core.inHandler_s (c : Core) (t : TrapInfo) (d : BitVec 2) (sup : Bool) : (c.inHandler t d sup).ctx.s = c.ctx.s := by
  rw [Core.inHandler]; rfl

theorem Core.inHandler_v (c : Core) (t : TrapInfo) (d : BitVec 2) (sup : Bool) : (c.inHandler t d sup).ctx.v = c.ctx.v := by
  rw [Core.inHandler]; rfl

theorem Core.inHandler_p (c : Core) (t : TrapInfo) (d : BitVec 2) (sup : Bool) : (c.inHandler t d sup).ctx.p = c.ctx.p := by
  rw [Core.inHandler]; rfl

/-- The depth in HSTAT as the entry writes it. -/
theorem hstat_depth (h : Word) (d : BitVec 2) (sup : Bool) :
    (((if sup then 4 else h &&& 4) ||| d.setWidth 64 : Word)).extractLsb' 0 2 = d := by
  refine BitVec.eq_of_getLsbD_eq fun i hi => ?_
  have : i = 0 ∨ i = 1 := by omega
  rcases this with rfl | rfl <;> cases sup <;> simp

/-- The privilege in HSTAT as the entry writes it. -/
theorem hstat_priv (h : Word) (d : BitVec 2) (sup : Bool) :
    (((if sup then 4 else h &&& 4) ||| d.setWidth 64 : Word)).getLsbD 2 = (sup || h.getLsbD 2) := by
  cases sup <;> simp

/-- What the trap says and the old depth's control registers, as a handler's core finds them. -/
theorem Core.handler_finds {c c2 e : Core} {t : TrapInfo} {w : Word} {sup : Bool} (h2 : c2.ctx = (c.withTrapRegs t w).ctx)
    (he : e.ctx = (c2.inHandler t c.depth sup).ctx) :
    e.ctx.pc = (if sup then c.creg crSVEC else c.creg crTVEC) ∧ e.depth = c.depth + 1 ∧ e.priv = (sup || c.priv) ∧
    e.creg crTCAUSE = w ∧ e.creg crTVPC = t.tvpc ∧ e.creg crTSLOT = t.tslot ∧ e.creg crTINFO = t.tinfo ∧ e.creg crTMOVE = t.tmove ∧
    e.creg crFMODE = 0 ∧ e.creg crFSTAT = 0 := by
  have hreg (i : BitVec 5) : e.creg i = (c2.inHandler t c.depth sup).creg i := congrArg (Ctx.creg · i) he
  have hold (i : BitVec 5) : c2.creg i = (c.withTrapRegs t w).creg i := congrArg (Ctx.creg · i) h2
  have hkept {i : BitVec 5} (hh : i ≠ crHSTAT) (hm : i ≠ crFMODE) (hf : i ≠ crFSTAT) : e.creg i = (c.withTrapRegs t w).creg i :=
    (hreg i).trans <| (Core.inHandler_creg _ _ _ _ hh hm hf).trans (hold i)
  have hstat : e.creg crHSTAT = (if sup then 4 else c.creg crHSTAT &&& 4) ||| (c.depth + 1).setWidth 64 := by
    rw [hreg, Core.inHandler_hstat, hold, Core.withTrapRegs_creg]; rfl
  refine ⟨?pc, ?depth, ?priv, ?tcause, ?tvpc, ?tslot, ?tinfo, ?tmove, ?fmode, ?fstat⟩
  case pc =>
    rw [congrArg Ctx.pc he, Core.inHandler_pc, hold, Core.withTrapRegs_creg]
    cases sup <;> rfl
  case depth => rw [Core.depth, hstat, hstat_depth]
  case priv => rw [Core.priv, hstat, hstat_priv]; rfl
  case tcause => rw [hkept (by decide) (by decide) (by decide), Core.withTrapRegs_creg]; rfl
  case tvpc => rw [hkept (by decide) (by decide) (by decide), Core.withTrapRegs_creg]; rfl
  case tslot => rw [hkept (by decide) (by decide) (by decide), Core.withTrapRegs_creg]; rfl
  case tinfo => rw [hkept (by decide) (by decide) (by decide), Core.withTrapRegs_creg]; rfl
  case tmove => rw [hkept (by decide) (by decide) (by decide), Core.withTrapRegs_creg]; rfl
  case fmode => rw [hreg, Core.inHandler_fmode]
  case fstat => rw [hreg, Core.inHandler_fstat]

/-- The scalar, vector and predicate registers go on into the handler. -/
theorem Core.handler_keeps {c c2 e : Core} {t : TrapInfo} {d : BitVec 2} {w : Word} {sup : Bool} (h2 : c2.ctx = (c.withTrapRegs t w).ctx)
    (he : e.ctx = (c2.inHandler t d sup).ctx) :
    (∀ i, e.ctx.rdS i = c.ctx.rdS i) ∧ (∀ i, e.ctx.rdV i = c.ctx.rdV i) ∧ (∀ i, e.ctx.rdP i = c.ctx.rdP i) := by
  have hs : e.ctx.s = c.ctx.s := by rw [he, Core.inHandler_s, h2, Core.withTrapRegs_s]
  have hv : e.ctx.v = c.ctx.v := by rw [he, Core.inHandler_v, h2, Core.withTrapRegs_v]
  have hp : e.ctx.p = c.ctx.p := by rw [he, Core.inHandler_p, h2, Core.withTrapRegs_p]
  exact ⟨fun i => by rw [Ctx.rdS, hs, Ctx.rdS], fun i => by rw [Ctx.rdV, hv, Ctx.rdV], fun i => by rw [Ctx.rdP, hp, Ctx.rdP]⟩

end Sys2Proof.Machine

namespace Sys2Proof.Claims
open Machine Obligations

theorem execTrapEntry_alive {s : State} {n : CoreNo} (hn : coreOk n = true) (ha : s.alive n = true) :
    exec (.trapEntry n) s = .next (match (s.coreAt n).pendTrap with
      | none => s
      | some t => if s.faultHeld n t then s else s.enterTrap n) :=
  coreEvent_alive hn ha fun s => match (s.coreAt n).pendTrap with
    | none => s
    | some t => if s.faultHeld n t then s else s.enterTrap n

/-- Settles O14: the entry waits while a result is outstanding; else its frame is stored by reads and stores that leave the core's own
context alone, and the core comes into its handler. -/
theorem trapEntrySavesState : Obligations.TrapEntrySavesState := by
  intro s n t hn ha hp
  have hexec : exec (.trapEntry n) s = .next (if s.faultHeld n t then s else s.enterTrap n) :=
    (execTrapEntry_alive hn ha).trans (by rw [hp])
  constructor
  · intro hw
    have : s.enterTrap n = s := by
      unfold State.enterTrap
      simp only [hp]
      rw [if_pos hw]
    rw [hexec, this, ite_self]
  · intro h30 h42 hf ho hpend hd c sup cause c1 c2 s2 hs
    have hc2 : c2 = c.withTrapRegs t (t.cause sup) := by rw [TrapInfo.cause_eq_add]; rfl
    rw [hc2, ← Core.frameAddr_eq] at hs
    have hsup : sup = (t.sup || decide (c.creg crTVEC = 0)) := rfl
    rw [hsup] at hs
    obtain ⟨e, he, hb⟩ := State.enterTrap_enters hp h30 h42 ho hpend hd hs
    rw [← hsup] at hs hb
    have hs2 : (s2.coreAt n).ctx = (c.withTrapRegs t (t.cause sup)).ctx :=
      (State.Caches.ctxStore hs).ctx.trans (congrArg Core.ctx (State.coreAt_setCoreAt_same ..))
    have hctx : e.ctx = ((s2.coreAt n).inHandler t c.depth sup).ctx := congrArg (·.ctx) hb
    obtain ⟨hpc, hdepth, hpriv, hcause, hfinds⟩ := Core.handler_finds hs2 hctx
    have hexec' : exec (.trapEntry n) s = .next (s2.setCoreAt n e) := by rw [hexec, hf, if_neg Bool.false_ne_true, he]
    refine ⟨_, hexec', rfl, ?_⟩
    rw [State.coreAt_setCoreAt_same]
    refine ⟨congrArg (·.pendTrap) hb, hpc, hdepth, hpriv, hcause.trans (TrapInfo.cause_eq_add ..), ?_⟩
    obtain ⟨htvpc, htslot, htinfo, htmove, hfmode, hfstat⟩ := hfinds
    exact ⟨htvpc, htslot, htinfo, htmove, hfmode, hfstat, Core.handler_keeps hs2 hctx⟩

end Sys2Proof.Claims
end

section
/-! SUPPORT. A TRET that a result on its way to s1-s15 holds (R76, R189). -/

namespace Sys2Proof.Claims
open Machine Obligations

/-- A native TRET word. -/
def tretWord : Form := .nat 0 0 0 (.sg 0 0)

/-- A core at depth 0 with a load's result on its way to s1. -/
def awaitingS1 : State := State.reset.onCore fun c => { c with outst := [{ dst := .s 1, awaits := .ready 0 none }] }

/-- TRET reads no operand, and nothing else holds or stops it. -/
theorem tret_issues_awaitingS1 : ∃ row x, Issues (.tret tretWord) { a := false, b := noB } awaitingS1 row tretWord x :=
  ⟨_, _, { op := rfl, shape := by decide +kernel, guard := by decide +kernel, args := rfl, ready := by decide +kernel,
           given := by decide +kernel, onTime := by decide +kernel, sound := by decide +kernel }⟩

/-- TRET writes s1-s15, and so its bundle is held: no trap is pending. -/
theorem tret_awaitingS1 : (match exec (.tret tretWord) awaitingS1 with | .next t => t.core.pendTrap | _ => none) = none := by decide +kernel

/-- Refutes O15: at depth 0 TRET stops only once what is outstanding to s1-s15 has landed; the hypothesis that nothing is on its way to them
stands in the second part of the statement alone. -/
theorem not_trapReturnRestoresItsFrame : ¬ Obligations.TrapReturnRestoresItsFrame := by
  intro h
  obtain ⟨row, x, hissues⟩ := tret_issues_awaitingS1
  obtain ⟨hstops, -⟩ := h awaitingS1 row tretWord x hissues (by decide +kernel) (by decide +kernel)
  have hexec := hstops (by decide +kernel)
  have hheld := tret_awaitingS1
  rw [hexec] at hheld
  exact absurd hheld nofun

end Sys2Proof.Claims
end

section
/-! SUPPORT. A loop that starts at a virtual PC that is no word's (R85). -/

namespace Sys2Proof.Claims
open Machine Obligations

/-- The Wyilo trigger of unit 0. -/
def triggerWord : Form := .wy 0

/-- A core whose latches give one pass of one stage from p1 in engine 0, with a virtual PC that is not a multiple of 4. -/
def loopOffWord : State := State.reset.onCore fun c => { c with
  banks := c.banks.put c.depth (RF.fill { a := some 1, b := some 4, y := .val 0 })
  ctx := { c.ctx with pc := 1 } }

theorem loop_issues_offWord : ∃ row, Issues (.loop triggerWord) {} loopOffWord row triggerWord
    (fetchArgs row {} triggerWord loopOffWord.core) ∧ (fetchArgs row {} triggerWord loopOffWord.core).a64 = 1 ∧
    (fetchArgs row {} triggerWord loopOffWord.core).b64 = 4 :=
  ⟨_, { op := rfl, shape := by decide +kernel, guard := by decide +kernel, args := rfl, ready := by decide +kernel,
        given := by decide +kernel, onTime := by decide +kernel, sound := by decide +kernel },
    by decide +kernel, by decide +kernel⟩

/-- The loop register holds bits 56:2 of its kernel's address, and so control comes to address 0. -/
theorem loop_offWord : (match exec (.loop triggerWord) loopOffWord with | .next t => t.core.ctx.pc | _ => 1) = 0 := by decide +kernel

/-- Refutes O10: a loop's first pass begins at the address that its register holds, which has bits 56:2 of the virtual PC alone; the statement
does not ask that the PC be such an address. -/
theorem not_loopsStartAndExit : ¬ Obligations.LoopsStartAndExit := by
  rintro ⟨hstart, -⟩
  obtain ⟨row, hissues, ha, hb⟩ := loop_issues_offWord
  obtain ⟨hidle, -⟩ := hstart loopOffWord row 0 _ hissues (by decide +kernel) (by decide +kernel)
    (by rw [loopEngine, hb]; decide +kernel)
  obtain ⟨t, hexec, hpc, -⟩ := hidle (by rw [loopEngine, hb]; decide +kernel) (by rw [loopPB, hb]; decide)
    (by rw [loopPB, loopStages, hb]; decide) (by rw [ha]; decide) (by rw [ha]; decide)
  have hloop := loop_offWord
  rw [show exec (.loop triggerWord) loopOffWord = .next t from hexec] at hloop
  exact absurd (hpc.symm.trans hloop) (by decide +kernel)

end Sys2Proof.Claims
end

section
/-! SUPPORT. What stops a load or store before it accesses anything (R79, R245, R425, R427, R444). -/

namespace Sys2Proof.Machine

/-- An access of a load or store has at least one byte. -/
theorem accessSize_pos {m : BitVec 32} {n : Nat} {sx : Bool} (h : accessSize m = some (n, sx)) : 0 < n := by
  unfold accessSize at h
  split at h
  · split at h
    · cases h
    · cases h
      unfold widthBits
      split <;> decide
  · split at h <;> cases h <;> decide

section
variable {a : Word} {n align : Nat}

theorem accessConds_misaligned (h : a.toNat % align ≠ 0) (hin : a.toNat + n ≤ 2 ^ 57) (hn : 0 < n) :
    accessConds a n align (2 ^ 57) = [condAccess 1 a] := by
  rw [accessConds, if_pos h, if_neg (by omega), if_neg (by omega)]
  rfl

theorem accessConds_outside (h : a.toNat % align = 0) (hout : 2 ^ 57 ≤ a.toNat) : accessConds a n align (2 ^ 57) = [condAccess 2 a] := by
  rw [accessConds, if_neg (by simp [h]), if_pos hout]
  rfl

theorem accessConds_ok (h : a.toNat % align = 0) (hin : a.toNat + n ≤ 2 ^ 57) (hn : 0 < n) : accessConds a n align (2 ^ 57) = [] := by
  rw [accessConds, if_neg (by simp [h]), if_neg (by omega), if_neg (by omega)]
  rfl

end

/-- The fields of a page fault's CODE (R444). -/
theorem pageFaultCode_read (e : TrErr) : pageFaultCode .read e = e.lvl.setWidth 16 * 16 + e.cond.setWidth 16 := by
  obtain ⟨l, c⟩ := e
  revert l c
  decide

theorem pageFaultCode_write (e : TrErr) : pageFaultCode .write e = 0x100 + e.lvl.setWidth 16 * 16 + e.cond.setWidth 16 := by
  obtain ⟨l, c⟩ := e
  revert l c
  decide

end Sys2Proof.Machine

namespace Sys2Proof.Claims
open Machine

/-- The one condition that stops an access of kind `k` with mode `m` at `va`. -/
inductive AccessStops (s : State) (k : AccKind) (m : BitVec 32) (va : Word) : Cond → Prop
  | size (h : accessSize m = none) : AccessStops s k m va (condReserved 3 (m.setWidth 64))
  | misaligned {n sx} (hn : accessSize m = some (n, sx)) (h : va.toNat % accessAlign m n ≠ 0) (hin : va.toNat + n ≤ 2 ^ 57) :
      AccessStops s k m va (condAccess 1 va)
  | outside {n sx} (hn : accessSize m = some (n, sx)) (h : va.toNat % accessAlign m n = 0) (hout : 2 ^ 57 ≤ va.toNat) :
      AccessStops s k m va (condAccess 2 va)
  | page {n sx e} (hn : accessSize m = some (n, sx)) (h : va.toNat % accessAlign m n = 0) (hin : va.toNat + n ≤ 2 ^ 57)
      (ht : translateRange s s.cur s.core.tenant s.core.priv va n k = .error e) : AccessStops s k m va (condPage k e)

/-- Each of them is decided before any access (R434). -/
theorem AccessStops.rank {s : State} {k : AccKind} {m : BitVec 32} {va : Word} {q : Cond} (h : AccessStops s k m va q) :
    2 ≤ q.rank ∧ q.rank ≤ 8 := by
  cases h <;> simp [condReserved, condOperand, condAccess, condOwn, condPage]

section
variable {s : State} {row : OpRow} {f : Form} {q : Cond}

/-- A load with one of them has that condition alone. -/
theorem semLoad_stops (h : let x := fetchArgs row {} f s.core; AccessStops s .read x.m (x.a64 + x.b64) q) :
    let x := fetchArgs row {} f s.core
    let m := semLoad row f s
    m.block = x.block ∧ m.conds = x.conds ++ [q] ∧ m.mx = false ∧ m.fills = false := by
  cases h with
  | size h => simp only [semLoad, h, and_self]
  | misaligned hn h hin =>
    simp only [semLoad, hn, accessConds_misaligned h hin (accessSize_pos hn), List.cons_ne_nil, if_false, List.append_assoc, true_and,
      and_true]
    split <;> rfl
  | outside hn h hout =>
    simp only [semLoad, hn, accessConds_outside h hout, List.cons_ne_nil, if_false, List.append_assoc, true_and, and_true]
    split <;> rfl
  | page hn h hin ht =>
    simp only [semLoad, hn, accessConds_ok h hin (accessSize_pos hn), ht, if_true, List.append_nil, and_self]

/-- A store with one of them has that condition alone. -/
theorem semStore_stops (h : let x := fetchArgs row { c := true } f s.core; AccessStops s .write x.m (x.a64 + x.b64) q) :
    let x := fetchArgs row { c := true } f s.core
    let m := semStore row f s
    m.block = x.block ∧ m.conds = x.conds ++ [q] ∧ m.mx = false ∧ m.fills = false := by
  cases h with
  | size h => simp only [semStore, h, and_self]
  | misaligned hn h hin =>
    simp only [semStore, hn, accessConds_misaligned h hin (accessSize_pos hn), List.cons_ne_nil, if_false,
      List.append_assoc, true_and, and_true]
    split <;> rfl
  | outside hn h hout =>
    simp only [semStore, hn, accessConds_outside h hout, List.cons_ne_nil, if_false, List.append_assoc, true_and, and_true]
    split <;> rfl
  | page hn h hin ht =>
    simp only [semStore, hn, accessConds_ok h hin (accessSize_pos hn), ht, if_true, List.append_nil, and_self]

variable {x : Args}

/-- A load stops with it. -/
theorem ld_stops (hi : Issues (.ld f) {} s row f x) (h : AccessStops s .read x.m (x.a64 + x.b64) q) : StopsWith (.ld f) s row f q := by
  obtain rfl := hi.row_eq rfl
  obtain rfl := hi.args
  obtain ⟨hb, hc, hm, hf⟩ := semLoad_stops h
  exact issueOp_stop hi (hb.trans hi.ready) (hc.trans (congrArg (· ++ [q]) hi.given)) (by rw [semLd, hm]; exact nofun) hf h.rank

/-- A store stops with it. -/
theorem st_stops (hi : Issues (.st f) readsStore s row f x) (h : AccessStops s .write x.m (x.a64 + x.b64) q) :
    StopsWith (.st f) s row f q := by
  obtain rfl := hi.row_eq rfl
  obtain rfl := hi.args
  obtain ⟨hb, hc, hm, hf⟩ := semStore_stops h
  exact issueOp_stop hi (hb.trans hi.ready) (hc.trans (congrArg (· ++ [q]) hi.given)) (by rw [semSt, hm]; exact nofun) hf h.rank

end

/-- Settles O31: the checks of the size, the alignment, the space and the translation come before any access, each alone. -/
theorem accessFaultsStoreNothing : Obligations.AccessFaultsStoreNothing := by
  intro s row f x va
  refine ⟨fun h => ⟨fun hi => ld_stops hi (.size h), fun hi => st_stops hi (.size h)⟩, fun n sx hn => ⟨?_, ?_, ?_⟩⟩
  · exact fun h hin => ⟨fun hi => ld_stops hi (.misaligned hn h hin), fun hi => st_stops hi (.misaligned hn h hin)⟩
  · exact fun h hout => ⟨fun hi => ld_stops hi (.outside hn h hout), fun hi => st_stops hi (.outside hn h hout)⟩
  · rintro ⟨h, hin⟩
    refine ⟨fun a e hi ht => ?_, fun a e hi ht => ?_⟩
    · have hstops := ld_stops hi (.page hn h hin ht)
      rw [condPage, pageFaultCode_read] at hstops
      exact hstops
    · have hstops := st_stops hi (.page hn h hin ht)
      rw [condPage, pageFaultCode_write] at hstops
      exact hstops

end Sys2Proof.Claims
end

section
/-! SUPPORT. Streams: their descriptors, their status word, and binding and freeing them (R80, R81, R252, R428). -/

namespace Sys2Proof.Machine

/-! ## Where the elements lie (R81) -/

theorem sdCnt_pos (d : BitVec 256) (j : Nat) : 0 < sdCnt d j := Nat.succ_pos _

/-- The indices of the element with index `i0` innermost, `i1` and `i2` (R81). -/
theorem sdAddr_indices (d : BitVec 256) {i0 i1 : Nat} (i2 : Nat) (h0 : i0 < sdCnt d 0) (h1 : i1 < sdCnt d 1) :
    sdAddr d (i0 + sdCnt d 0 * (i1 + sdCnt d 1 * i2)) =
      sdBase d + BitVec.ofNat 64 i0 * (sdStr d 0).signExtend 64 + BitVec.ofNat 64 i1 * (sdStr d 1).signExtend 64 +
        BitVec.ofNat 64 i2 * (sdStr d 2).signExtend 64 := by
  have hrow : (i0 + sdCnt d 0 * (i1 + sdCnt d 1 * i2)) / sdCnt d 0 = i1 + sdCnt d 1 * i2 := by
    rw [Nat.add_mul_div_left _ _ (sdCnt_pos d 0), Nat.div_eq_of_lt h0, Nat.zero_add]
  have hplane : (i1 + sdCnt d 1 * i2) / sdCnt d 1 = i2 := by
    rw [Nat.add_mul_div_left _ _ (sdCnt_pos d 1), Nat.div_eq_of_lt h1, Nat.zero_add]
  simp only [sdAddr, ← Nat.div_div_eq_div_mul, hrow, hplane, Nat.add_mul_mod_self_left, Nat.mod_eq_of_lt h0, Nat.mod_eq_of_lt h1]

/-! ## The status word (R252) -/

theorem sdPos_lt (d : BitVec 256) : sdPos d < 2 ^ 32 := (d.extractLsb' 224 32).isLt

/-- The fields of the status word of a bound stream lie apart. -/
theorem streamStatus_fields (w : Bool) {held pos : Nat} (hh : held ≤ 8) (hp : pos < 2 ^ 32) :
    let v : Word := 1#64 <<< 63 ||| (BitVec.ofBool w).setWidth 64 <<< 62 ||| (BitVec.ofNat 64 held <<< 32) ||| BitVec.ofNat 64 pos
    v.getLsbD 63 = true ∧ v.getLsbD 62 = w ∧ (v.extractLsb' 0 32 : BitVec 32).toNat = pos ∧
      (v.extractLsb' 32 30 : BitVec 30).toNat = held := by
  intro v
  have hbit (i : Nat) (hi : i < 64) : v.getLsbD i = (decide (63 = i) || (decide (i = 62) && w) || (decide (32 ≤ i) && held.testBit (i - 32)) ||
      pos.testBit i) := by
    have htop : (1#64 <<< 63).getLsbD i = decide (63 = i) := getLsbD_oneBit hi
    have hflag : ((BitVec.ofBool w).setWidth 64 <<< 62 : Word).getLsbD i = (decide (i = 62) && w) := by
      by_cases h : i < 62
      · simp [h, show i ≠ 62 by omega]
      · have : i = 62 ∨ i = 63 := by omega
        rcases this with rfl | rfl <;> simp
    simp only [v, BitVec.getLsbD_or, htop, hflag, BitVec.getLsbD_shiftLeft, BitVec.getLsbD_ofNat]
    by_cases h : i < 32
    · simp [h, hi, show ¬ 32 ≤ i by omega]
    · simp [h, hi, show i - 32 < 64 by omega, show 32 ≤ i by omega]
  have hpos (i : Nat) (h : 32 ≤ i) : pos.testBit i = false :=
    Nat.testBit_lt_two_pow (hp.trans_le (Nat.pow_le_pow_right (by decide) h))
  have hheld (i : Nat) (h : 4 ≤ i) : held.testBit i = false :=
    Nat.testBit_lt_two_pow ((show held < 2 ^ 4 by omega).trans_le (Nat.pow_le_pow_right (by decide) h))
  refine ⟨?_, ?_, Nat.eq_of_testBit_eq fun i => ?_, Nat.eq_of_testBit_eq fun i => ?_⟩
  · rw [hbit 63 (by decide)]
    rfl
  · rw [hbit 62 (by decide), hpos 62 (by decide), hheld (62 - 32) (by decide)]
    simp
  · rw [BitVec.testBit_toNat, BitVec.getLsbD_extractLsb']
    by_cases h : i < 32
    · simp [h, hbit i (by omega), show i ≠ 62 by omega, show 63 ≠ i by omega, show ¬ 32 ≤ i by omega]
    · simp [h, hpos i (by omega)]
  · rw [BitVec.testBit_toNat, BitVec.getLsbD_extractLsb']
    by_cases h : i < 30
    · simp [h, hbit (32 + i) (by omega), show 32 + i ≠ 62 by omega, show 63 ≠ 32 + i by omega, hpos (32 + i) (by omega)]
    · simp [h, hheld i (by omega)]

/-- The status word of a stream: its bits, and 0 for an unbound one. -/
theorem Core.streamStatus_spec (c : Core) (q : BitVec 3) (hh : c.streamHeld q ≤ 8) :
    let d := (c.ctx.q.get q).desc
    let v := c.streamStatus q
    v.getLsbD 63 = sdBound d ∧ v.getLsbD 62 = (sdBound d && sdWrite d) ∧
      (sdBound d = true → (v.extractLsb' 0 32 : BitVec 32).toNat = sdPos d ∧ (v.extractLsb' 32 30 : BitVec 30).toNat = c.streamHeld q) ∧
      (sdBound d = false → v = 0) := by
  intro d v
  cases hb : sdBound d with
  | false =>
    have hv : v = 0 := if_neg (by rw [hb]; exact nofun)
    simp [hv]
  | true =>
    obtain ⟨h63, h62, hpos, hheld⟩ := streamStatus_fields (sdWrite d) hh (sdPos_lt d)
    have hv : v = _ := if_pos hb
    rw [hv]
    exact ⟨h63, h62, fun _ => ⟨hpos, hheld⟩, nofun⟩

/-! ## Binding (R252, R428) -/

section
variable {s : State} {d : BitVec 256}

theorem bindReason_space (h : sdSpace d = 3) : bindReason s d = some 1 := if_pos h

theorem bindReason_past (h : sdSpace d ≠ 3) (ht : sdTotal d < 2 ^ 32) (hp : sdTotal d ≤ sdPos d) : bindReason s d = some 3 := by
  rw [bindReason, if_neg h, if_neg (by omega), if_pos hp]

end

/-- The low three bits of an operand name a stream. -/
theorem bits_low3 (w : Word) : (bits w 0 3 : BitVec 3) = w.setWidth 3 := by
  ext i hi
  simp

/-- A change that answers the same at the current core gives the same state. -/
theorem State.onCore_congr {s : State} {f g : Core → Core} (h : f s.core = g s.core) : s.onCore f = s.onCore g := congrArg s.setCore h

end Sys2Proof.Machine

namespace Sys2Proof.Claims
open Machine

section
variable {s : State} {row : OpRow} {f : Form} {x : Args}

theorem sbind_binds (h : Issues (.sbind f) {} s row f x) (hb : sdBound (s.core.ctx.q.get (x.b64.setWidth 3)).desc = false)
    (hr : bindReason s (x.a.setWidth 256) = none) :
    exec (.sbind f) s = .next ((begun s x).onCore fun c =>
      { c with ctx := { c.ctx with
          q := c.ctx.q.put (x.b64.setWidth 3)
            { desc := sdSetBound (x.a.setWidth 256) true, fetched := [], base := List.replicate 8 s.now } } }.gate
        (.streamBind (x.b64.setWidth 3))) := by
  obtain rfl := h.row_eq rfl
  obtain rfl := h.args
  refine (issueOp_effect (m := semSbind f s) h rfl ?_ rfl rfl rfl rfl nofun).trans ?_
  · simp only [semSbind, bits_low3, hb, hr, Bool.false_eq_true, if_false, List.append_nil]
  · simp only [semSbind, bits_low3, effNone_begun, State.now_onCore_beginIssue, streamDepth]

theorem sbind_stops (h : Issues (.sbind f) {} s row f x) :
    let q : BitVec 3 := x.b64.setWidth 3
    (sdBound (s.core.ctx.q.get q).desc = true → bindReason s (x.a.setWidth 256) = none →
      StopsWith (.sbind f) s row f (condStream 6 1 (q.setWidth 64))) ∧
    ∀ r, sdBound (s.core.ctx.q.get q).desc = false → bindReason s (x.a.setWidth 256) = some r →
      StopsWith (.sbind f) s row f (condStream 7 4 (q.setWidth 64 ||| BitVec.ofNat 64 (256 * r))) := by
  obtain rfl := h.row_eq rfl
  obtain rfl := h.args
  refine ⟨fun hb hr => ?_, fun r hb hr => ?_⟩
  · refine issueOp_stop (m := semSbind f s) h h.ready ?_ nofun rfl (by simp [condStream, condOwn])
    simp only [semSbind, bits_low3, hb, hr, h.given, if_true, List.nil_append, List.append_nil]
  · refine issueOp_stop (m := semSbind f s) h h.ready ?_ nofun rfl (by simp [condStream, condOwn])
    simp only [semSbind, bits_low3, hb, hr, h.given, Bool.false_eq_true, if_false, List.nil_append, List.append_nil]

theorem sfree_frees (h : Issues (.sfree f) { b := noB } s row f x) :
    let q : BitVec 3 := x.a64.setWidth 3
    let st := s.core.ctx.q.get q
    (sdBound st.desc = true → exec (.sfree f) s = .next ((begun s x).onCore fun c =>
      { c with ctx := { c.ctx with q := c.ctx.q.put q { desc := sdSetBound st.desc false } } }.gate (.streamFree q))) ∧
    (sdBound st.desc = false → exec (.sfree f) s = .next (begun s x)) := by
  obtain rfl := h.row_eq rfl
  obtain rfl := h.args
  have hexec : exec (.sfree f) s = _ := issueOp_effect (m := semSfree f s) h rfl rfl rfl rfl rfl rfl nofun
  have hq (q : BitVec 3) (x : Args) : (begun s x).core.ctx.q.get q = s.core.ctx.q.get q := by
    rw [begun_core, Core.voidPorts_ctx, Core.beginIssue_eq]
  refine ⟨fun hb => hexec.trans ?_, fun hb => hexec.trans ?_⟩
  · simp only [semSfree, bits_low3, effNone_begun]
    refine congrArg _ (State.onCore_congr ?_)
    rw [hq, if_pos hb]
  · simp only [semSfree, bits_low3, effNone_begun]
    refine congrArg _ ((State.onCore_congr (g := id) ?_).trans (State.onCore_onCore ..))
    rw [hq, if_neg (by rw [hb]; exact nofun)]
    rfl

theorem sstat_answers (h : Issues (.sstat f) { b := noB } s row f x) :
    exec (.sstat f) s = .next (answered s x 2 (wide (s.core.streamStatus (x.a64.setWidth 3))) 0) := by
  obtain rfl := h.row_eq rfl
  obtain rfl := h.args
  exact issueOp_value h (by simp only [semSstat, bits_low3])

end

theorem streamRegisterOperations : StreamRegisterOperations := by
  intro s row f x
  refine ⟨fun h => ⟨sbind_binds h, (sbind_stops h).1, fun hb hs => ?_, fun hb hs ht hp => ?_⟩, sfree_frees,
    fun h hheld => ⟨_, sstat_answers h, s.core.streamStatus_spec _ hheld⟩⟩
  · exact (sbind_stops h).2 1 hb (bindReason_space hs)
  · exact (sbind_stops h).2 3 hb (bindReason_past hs ht hp)

/-- Settles O34: binding and freeing have their effect alone, and an element's address takes its indices apart. -/
theorem streamsBindAndFree : Obligations.StreamsBindAndFree :=
  ⟨streamRegisterOperations, fun d _ _ i2 h0 h1 _ => sdAddr_indices d i2 h0 h1⟩

end Sys2Proof.Claims
end

section
/-! SUPPORT. A bundle whose operations nothing holds and nothing stops (R73-R79, R150, R334). -/

namespace Sys2Proof.Machine

/-- An operation of a bundle of which issue takes the effect alone: nothing holds or stops it, and it transfers no control. -/
structure Sem.Plain (m : Sem) (c : Core) : Prop where
  block : m.block = false
  fills : m.fills = false
  conds : m.conds = []
  mx : m.mx = true → c.accAbsent = false
  early : m.early = id
  late : m.late = id
  xfer : m.xfer = none
  soft : m.soft = none
  ctl : m.ctl = false

/-- Changes that each leave a state as it is. -/
theorem foldl_of_id {ps : List Part} {f : Part → State → State} (h : ∀ p ∈ ps, f p = id) (s : State) :
    ps.foldl (fun s p => f p s) s = s := by
  induction ps with
  | nil => rfl
  | cons p ps ih =>
    rw [List.foldl_cons, h p List.mem_cons_self]
    exact ih fun q hq => h q (List.mem_cons_of_mem _ hq)

section
variable {c : Core} {ps : List Part} (h : ∀ p ∈ ps, p.sem.Plain c)
include h

theorem Part.found_plain : ps.flatMap (Part.found c) = [] := by
  refine List.flatMap_eq_nil_iff.mpr fun p hp => ?_
  have hmx : (p.sem.mx && c.accAbsent) = false := by
    cases hm : p.sem.mx
    · rfl
    · exact (h p hp).mx hm
  simp [Part.found, hmx, (h p hp).conds]

theorem heldBy_plain : heldBy ps = none := by
  have : ps.filter (fun p => p.sem.block) = [] := List.filter_eq_nil_iff.mpr fun p hp => by rw [(h p hp).block]; exact nofun
  simp [heldBy, this]

/-- Nothing holds or stops a bundle of them. -/
theorem Core.judge_plain (hk : c.check = none) (ho : c.overrunFound = []) : c.judge ps [] = .clear := by
  have hfills : (ps.any fun p => p.sem.fills) = false := List.any_eq_false.mpr fun p hp => by rw [(h p hp).fills]; exact nofun
  simp only [Core.judge, heldBy_plain h, hfills, Bool.false_and, Bool.false_eq_true, if_false, Part.found_plain h, ho, Core.checkFound, hk]
  rfl

/-- The effects of a bundle of them follow one another from where its issue has begun. -/
theorem applyParts_plain (s : State) :
    applyParts ps s = ((ps.map fun p => p.sem.eff).foldl (fun t f => f t) (s.onCore Core.beginIssue)) := by
  have hearly : ps.foldl (fun s p => p.sem.early s) s = s := foldl_of_id (fun p hp => (h p hp).early) s
  have hlate (t : State) : ps.foldl (fun s p => p.sem.late s) t = t := foldl_of_id (fun p hp => (h p hp).late) t
  rw [applyParts, hearly, hlate, List.foldl_map]

/-- Control falls on behind a bundle of them. -/
theorem commitParts_plain (s : State) (fall : State → State) :
    s.commitParts ps fall = fall ((ps.map fun p => p.sem.eff).foldl (fun t f => f t) (s.onCore Core.beginIssue)) := by
  have hx : ps.filterMap (fun p => p.sem.xfer) = [] := List.filterMap_eq_nil_iff.mpr fun p hp => (h p hp).xfer
  have hs : ps.findSome? (fun p => p.sem.soft.map fun k => (p.move, k)) = none :=
    List.findSome?_eq_none_iff.mpr fun p hp => by rw [(h p hp).soft]; rfl
  simp only [State.commitParts, applyXfers, hx, List.isEmpty_nil, if_true, State.softTrap, hs, applyParts_plain h]

end

/-! ## Commit -/

/-- A commit in whose lines no other core holds a reservation, of a sheet that no upset has spoiled, is that of its parts. -/
theorem State.commitChecked_plain {s s0 : State} (ps : List Part) (fall : State → State) (hc : s.cur = s0.cur)
    (hl : ∀ l, s0.mem.lineHolder s0.cur l = none) (hs : ∀ sh, s0.core.sheet = some sh → sh.spoiled = false) :
    s.commitChecked s0 ps fall = s.commitParts ps fall := by
  have hmeets (t : State) : s0.commitMeets t s0.cur = none := by
    unfold State.commitMeets
    simp only
    split
    · exact List.findSome?_eq_none_iff.mpr fun l _ => hl l
    · rfl
  have hspoilt (t : State) : s0.spoilt t s0.cur = none := by
    unfold State.spoilt
    split
    · next sh hsh => simp [hs sh hsh]
    · rfl
  simp only [State.commitChecked, hc, hmeets, hspoilt]

/-! ## The parts of a bundle -/

/-- The part of a bundle that a slot is. -/
def State.slotPart (s : State) (ws : List (BitVec 32)) (x : BitVec 3 × SlotRead) : Option Part :=
  match x.2 with
  | .idle => none
  | .bad code => some { slot := x.1, move := 0xFF, sem := { conds := [condDecode code] } }
  | .op i => (semOf i s).map fun m =>
    { slot := x.1, move := 0xFF, sem := { m with conds := m.conds ++ ownConds s.core (.p (bits (ws.getD x.1.toNat 0) 0 4)) 15 } }

/-- The effect of what a slot holds. -/
def State.slotEff (s : State) (x : BitVec 3 × SlotRead) : Option (State → State) :=
  match x.2 with
  | .op i => (semOf i s).map Sem.eff
  | _ => none

/-- A slot that is idle or holds an operation of which issue takes the effect alone, its guard's storage sound. -/
def State.slotPlain (s : State) (ws : List (BitVec 32)) (x : BitVec 3 × SlotRead) : Prop :=
  match x.2 with
  | .bad _ => False
  | .idle => True
  | .op i => s.core.ownBad (.p (bits (ws.getD x.1.toNat 0) 0 4)) = false ∧ ∃ m, semOf i s = some m ∧ m.Plain s.core

section
variable {s : State} {ws : List (BitVec 32)}

/-- The part of such a slot has its effect alone. -/
theorem State.slotPart_plain {x : BitVec 3 × SlotRead} (h : s.slotPlain ws x) :
    (∀ p, s.slotPart ws x = some p → p.sem.Plain s.core) ∧ (s.slotPart ws x).map (fun p => p.sem.eff) = s.slotEff x := by
  obtain ⟨slot, r⟩ := x
  cases r with
  | idle => exact ⟨nofun, rfl⟩
  | bad code => exact h.elim
  | op i =>
    obtain ⟨hown, m, hm, hp⟩ := h
    have hpart : s.slotPart ws (slot, .op i) = some { slot := slot, move := 0xFF, sem := m } := by
      simp only [State.slotPart, hm, Option.map_some, ownConds_sound hown, hp.conds, List.append_nil]
      rw [← hp.conds]
    refine ⟨fun p e => ?_, ?_⟩
    · obtain rfl := Option.some.inj (hpart.symm.trans e)
      exact hp
    · rw [hpart]
      simp only [State.slotEff, hm, Option.map_some]

variable (h : ∀ x ∈ readSlots s.core ws, s.slotPlain ws x)
include h

theorem State.bundleParts_plain : s.bundleParts ws = (readSlots s.core ws).filterMap (s.slotPart ws) ∧
    (∀ p ∈ s.bundleParts ws, p.sem.Plain s.core) ∧
    (s.bundleParts ws).map (fun p => p.sem.eff) = (readSlots s.core ws).filterMap s.slotEff := by
  have hplain : ∀ p ∈ (readSlots s.core ws).filterMap (s.slotPart ws), p.sem.Plain s.core := fun p hp => by
    obtain ⟨x, hx, he⟩ := List.mem_filterMap.mp hp
    exact (State.slotPart_plain (h x hx)).1 p he
  have hctl : ((readSlots s.core ws).filterMap (s.slotPart ws)).filter (fun p => p.sem.ctl || p.sem.soft.isSome) = [] :=
    List.filter_eq_nil_iff.mpr fun p hp => by rw [(hplain p hp).ctl, (hplain p hp).soft]; exact nofun
  have hparts : s.bundleParts ws = (readSlots s.core ws).filterMap (s.slotPart ws) := by
    show (if 1 < (((readSlots s.core ws).filterMap (s.slotPart ws)).filter (fun p => p.sem.ctl || p.sem.soft.isSome)).length then _
      else (readSlots s.core ws).filterMap (s.slotPart ws)) = _
    rw [hctl]
    rfl
  refine ⟨hparts, hparts ▸ hplain, ?_⟩
  rw [hparts, List.map_filterMap]
  exact List.filterMap_congr fun x hx => (State.slotPart_plain (h x hx)).2

end

/-! ## The next bundle -/

/-- A native bundle of them issues them all and falls on. -/
theorem State.issueNative_plain {s : State} {im : ImageRef} {e : SheetMapEntry} {k : Nat} {ws : List (BitVec 32)}
    (hn : s.holdsNext s.core = false) (hb : s.core.breakAhead = false) (hw : s.bundleWords s.cur im k = some ws)
    (ho : s.core.overrunFound = []) (hk : s.core.check = none) (hs : ∀ sh, s.core.sheet = some sh → sh.spoiled = false)
    (hl : ∀ l, s.mem.lineHolder s.cur l = none) (h : ∀ x ∈ readSlots s.core ws, s.slotPlain ws x) :
    let begins (c : Core) : Core := ({ c with ctx := { c.ctx with brkSkip := false }, check := none }).beginIssue
    let t := (((readSlots s.core ws).filterMap s.slotEff).foldl (fun t f => f t) (s.onCore begins)).nativeFall s.cur im e k
    s.issueNative s.cur im e k = t.setCoreAt s.cur ((t.coreAt s.cur).holdNext (s.now + 1)) := by
  intro begins t
  obtain ⟨-, hplain, heffs⟩ := State.bundleParts_plain h
  have hsoft : ((s.bundleParts ws).any fun p => p.sem.soft.isSome) = false :=
    List.any_eq_false.mpr fun p hp => by rw [(hplain p hp).soft]; exact nofun
  have hcommit (fall : State → State) : (s.onCore fun c => { c with ctx := { c.ctx with brkSkip := false }, check := none }).commitChecked s
      (s.bundleParts ws) fall = fall (((readSlots s.core ws).filterMap s.slotEff).foldl (fun t f => f t) (s.onCore begins)) := by
    rw [State.commitChecked_plain _ _ (by rfl) hl hs, commitParts_plain hplain, heffs, State.onCore_onCore]
    rfl
  unfold State.issueNative
  simp only [hn, hb, hw, Bool.false_eq_true, if_false, Core.judge_plain hplain hk ho, hsoft, hcommit, t]

end Sys2Proof.Machine

namespace Sys2Proof.Claims
open Machine

/-- What the statement says of a slot, as the lemmas about bundles say it. -/
theorem slotPlain_of {s : State} {ws : List (BitVec 32)} {x : BitVec 3 × SlotRead} (h : match x.2 with
    | .bad _ => False
    | .idle => True
    | .op i => s.core.ownBad (.p (bits (ws.getD x.1.toNat 0) 0 4)) = false ∧ ∃ m, semOf i s = some m ∧ m.block = false ∧ m.fills = false ∧
        m.conds = [] ∧ (m.mx = true → s.core.accAbsent = false) ∧ m.early = id ∧ m.late = id ∧ m.xfer = none ∧ m.soft = none ∧
        m.ctl = false) : s.slotPlain ws x := by
  obtain ⟨slot, r⟩ := x
  cases r with
  | idle => trivial
  | bad code => exact h
  | op i =>
    obtain ⟨hown, m, hm, hblock, hfills, hconds, hmx, hearly, hlate, hxfer, hsoft, hctl⟩ := h
    exact ⟨hown, m, hm, ⟨hblock, hfills, hconds, hmx, hearly, hlate, hxfer, hsoft, hctl⟩⟩

/-- Settles O57: a bundle of operations that nothing holds or stops commits the effects of all of them, each found in the state before it. -/
theorem bundlesRunTheirOperations : Obligations.BundlesRunTheirOperations := by
  rintro s n hn rfl
  have hexec : exec (.bundleIssue s.cur) s = .next (s.issueNext s.cur) := if_pos hn
  refine ⟨fun hc => ?_, fun im e k ws hc hnat hnext ho hk hs hb hw hl h => ?_, fun sh g gn d src hc hnat hsh hg hgr hwf => ?_⟩
  · rw [hexec, State.issueNext, hc]
    rfl
  · have hplain : ∀ x ∈ readSlots s.core ws, s.slotPlain ws x := fun x hx => slotPlain_of (h x hx)
    rw [hexec, State.issueNext, hc, hnat]
    exact congrArg _ (State.issueNative_plain hnext hb hw ho hk hs hl hplain)
  · have hsheet : (s.coreAt s.cur).sheet = some sh := hsh
    have hgroup : (s.coreAt s.cur).group = [] := hg
    have hread : groupAt sh.text ((s.coreAt s.cur).sheetOff sh) = .group [⟨gn, g, 0, d, src, 0⟩] 1 := hgr
    have hmove : exec (.moveRegister 1 gn g d src) s = .next (s.takeMove 1 ⟨gn, g, 0, d, src, 0⟩) := if_pos hwf
    rw [hexec, hmove]
    simp only [State.issueNext, hc, hnat, hsheet, hgroup, hread, State.takeMove, hg]
    rfl

end Sys2Proof.Claims
end

section
/-! SUPPORT. What happens at a core beside the issue of its bundles: results, stream elements and gated entries (R68, R82, R83, R339). -/

namespace Sys2Proof.Machine

/-! ## Results (R68, R352) -/

/-- What a long-latency result changes of the context as it lands (R68). -/
theorem Core.land_ctx (c : Core) (o : Outst) (v : Vec) : (c.land o v).ctx = ((c.wrDst o.dst v).orFstat o.flags).ctx := by
  show (Core.wrDst _ o.dst v |>.orFstat o.flags).ctx = _
  cases o.dst <;> rfl

theorem Core.land_outst (c : Core) (o : Outst) (v : Vec) : (c.land o v).outst = c.outst := by
  show (Core.wrDst _ o.dst v |>.orFstat o.flags).outst = _
  cases o.dst <;> rfl

/-- A result in a scalar register leaves the others. -/
theorem Core.wrDst_rdS_ne (c : Core) {d : Dst} (v : Vec) {j : BitVec 6} (h : d ≠ .s j) : (c.wrDst d v).ctx.rdS j = c.ctx.rdS j := by
  cases d with
  | s i => exact Ctx.rdS_wrS_ne _ _ fun e => h (e ▸ rfl)
  | v i => rfl
  | p i =>
    show (Ctx.wrP ..).rdS j = _
    unfold Ctx.wrP
    split <;> rfl
  | _ => rfl

/-- An outstanding result whose value is known lands at its cycle and no earlier. -/
theorem State.landResult_ready {s : State} {n : CoreNo} {i : Nat} {o : Outst} {v : Vec} {due : Option Nat}
    (h : (s.coreAt n).outst[i]? = some o) (ha : o.awaits = .ready v due) :
    ((∀ d, due = some d → d ≤ s.nowOf n) →
      s.landResult n i = s.setCoreAt n ({ s.coreAt n with outst := (s.coreAt n).outst.eraseIdx i }.land o v)) ∧
    (∀ d, due = some d → s.nowOf n < d → s.landResult n i = s) := by
  refine ⟨fun hd => ?_, fun d hd hlt => ?_⟩
  · have : o.landable (s.nowOf n) = some v := by
      cases due with
      | none => simp only [Outst.landable, ha]
      | some d => simp only [Outst.landable, ha, if_pos (hd d rfl)]
    simp only [State.landResult, h, this]
  · have : o.landable (s.nowOf n) = none := by
      simp only [Outst.landable, ha, hd, if_neg (Nat.not_le_of_lt hlt)]
    simp only [State.landResult, h, this]

/-! ## Stream elements (R82, R83) -/

/-- A fetched element joins those that the stream holds and takes its credit. -/
theorem Core.addElement_spec (c : Core) (q : BitVec 3) (e : StreamElem) (lat : Nat) :
    ∃ e', ((c.addElement q e lat).ctx.q.get q).fetched = (c.ctx.q.get q).fetched ++ [e'] ∧ e'.val = e.val ∧
      ((c.addElement q e lat).ctx.q.get q).base = (c.ctx.q.get q).base.drop 1 ∧
      ((c.addElement q e lat).ctx.q.get q).desc = (c.ctx.q.get q).desc := by
  have hq : (c.addElement q e lat).ctx.q.get q = { c.ctx.q.get q with
      fetched := (c.ctx.q.get q).fetched ++ [{ e with due := if c.pin then (c.ctx.q.get q).base.headD 0 + lat else 0 }]
      base := (c.ctx.q.get q).base.drop 1 } := RF.get_put_same ..
  exact ⟨_, congrArg Stream.fetched hq, rfl, congrArg Stream.base hq, (congrArg Stream.desc hq).trans rfl⟩

/-- A scratchpad element is there to be fetched. -/
theorem State.fetchElement_scratch {s : State} {n : CoreNo} {q : BitVec 3} (a : Word) (h : sdSpace ((s.coreAt n).ctx.q.get q).desc = 1) :
    ∃ e lat, s.fetchElement n q a = some (s.setCoreAt n ((s.coreAt n).addElement q e lat)) ∧
      e.val = BitVec.ofNat 1024 (leNat (s.scratchRead n n a.toNat (sdBytes ((s.coreAt n).ctx.q.get q).desc))) := by
  refine ⟨_, _, by simp only [State.fetchElement, h]; rfl, rfl⟩

/-- The oldest element of a write stream to a scratchpad, in the free regime, is written there and leaves its place. -/
theorem Core.nextWrite_scratch {c : Core} {q : BitVec 3} {w : StreamWrite} {rest : List StreamWrite} (hb : c.wbuf = w :: rest) (hq : w.q = q)
    (hw : w.written = false) (hs : w.space = 1) : c.nextWrite q = some w := by
  simp [Core.nextWrite, hb, hq, hw, hs]

theorem markWritten_free {q : BitVec 3} {w : StreamWrite} {rest : List StreamWrite} (hq : w.q = q) (hw : w.written = false) (hd : w.due = 0) :
    markWritten q (w :: rest) = rest := by
  simp [markWritten, hq, hw, hd]

/-! ## Gated entries (R339) -/

/-- An entry that reads nothing and need not wait for what precedes it takes effect, or stays. -/
theorem State.drainOne_eq {s : State} {n : CoreNo} {d : BitVec 2} {g : Gated} {r : List (BitVec 2 × Gated)} (hf : s.plat.failStop = false)
    (hc : (s.coreAt n).committed = (d, g) :: r) (he : (s.coreAt n).early g = false) (hr : g.reads = []) (hg : ∀ pa bs, g ≠ .resv pa bs) :
    s.drainOne n = ((s.setCoreAt n { s.coreAt n with committed := r }).drainEntry n g).getD s := by
  have hnote : s.noteHolds n none g.reads = s := by rw [hr]; rfl
  unfold State.drainOne
  simp only [hc]
  cases g with
  | resv pa bs => exact absurd rfl (hg pa bs)
  | _ => simp only [hf, he, hnote, Bool.false_eq_true, or_self, if_false]

/-- What a core has committed says nothing of what a release of its own covers (R311). -/
theorem State.copyReady_committed (s : State) (n : CoreNo) (r : List (BitVec 2 × Gated)) (no : Nat) :
    (s.setCoreAt n { s.coreAt n with committed := r }).copyReady n no = s.copyReady n no := by
  simp only [State.copyReady, State.releaseReady, State.coreAt_setCoreAt_same, State.setCoreAt_mem]

/-- Nor of a meeting. -/
theorem State.mayMeet_committed (s : State) (n : CoreNo) (r : List (BitVec 2 × Gated)) (m : CoreNo) (k : Nat) :
    (s.setCoreAt n { s.coreAt n with committed := r }).mayMeet (.scratch m) k = s.mayMeet (.scratch m) k := by
  by_cases h : n = m
  · subst h
    simp only [State.mayMeet, State.coreAt_setCoreAt_same, State.setCoreAt_plat]
  · simp only [State.mayMeet, State.coreAt_setCoreAt_ne _ _ h, State.setCoreAt_plat]

theorem State.meetAt_cores (s : State) (m : Meeting) (k : Nat) (n : CoreNo) : (s.meetAt m k).coreAt n = s.coreAt n := by
  unfold State.meetAt
  split <;> rfl

theorem State.meetAt_mem (s : State) (m : Meeting) (k : Nat) : (s.meetAt m k).mem = s.mem := by
  unfold State.meetAt
  split <;> rfl

/-- A barrier that counts a copy's bytes, and the others. -/
theorem Core.barrierAdd_pending (c : Core) (i k : BitVec 3) (v : Nat) :
    ((c.barrierAdd i v).bb.get k).pending = (c.bb.get k).pending + if k = i then BitVec.ofNat 63 v else 0 := by
  simp only [Core.barrierAdd, RF.get_put]
  by_cases h : i = k
  · subst h
    simp
  · rw [if_neg h, if_neg (Ne.symm h)]
    exact (BitVec.add_zero _).symm

/-- A copy that leaves the gated entries joins its core's queue, and its barrier counts it from then on (R254). -/
theorem State.queueCopy_spec (s : State) (n : CoreNo) (e : CopyEntry) :
    let t := s.queueCopy n e
    (t.coreAt n).committed = (s.coreAt n).committed ∧ (t.coreAt n).copyQ = (s.coreAt n).copyQ ++ [{ e with seq := s.plat.copySeq }] ∧
      t.plat.copySeq = s.plat.copySeq + 1 ∧ ∀ k, ((t.coreAt n).bb.get k).pending = ((s.coreAt n).bb.get k).pending +
        if ccBbe e.cmd ∧ k = ccBb e.cmd then BitVec.ofNat 63 (ccLen e.cmd) else 0 := by
  intro t
  have hcore : t.coreAt n = { (if ccBbe e.cmd then (s.coreAt n).barrierAdd (ccBb e.cmd) (ccLen e.cmd) else s.coreAt n) with
      copyQ := (if ccBbe e.cmd then (s.coreAt n).barrierAdd (ccBb e.cmd) (ccLen e.cmd) else s.coreAt n).copyQ ++
        [{ e with seq := s.plat.copySeq }] } := State.coreAt_setCoreAt_same ..
  rw [hcore]
  cases hb : ccBbe e.cmd with
  | true =>
    refine ⟨rfl, rfl, rfl, fun k => ?_⟩
    simp only [if_true, true_and]
    exact Core.barrierAdd_pending ..
  | false =>
    refine ⟨rfl, rfl, rfl, fun k => ?_⟩
    simp only [Bool.false_eq_true, if_false, false_and]
    exact (BitVec.add_zero _).symm

end Sys2Proof.Machine

namespace Sys2Proof.Claims
open Machine Obligations

/-! ## Results -/

theorem resultsLand : ResultsLand := by
  intro s n i o v due hn ha ho haw
  have hexec : exec (.resultLanding n i) s = .next (s.landResult n i) := coreEvent_alive hn ha fun s => s.landResult n i
  obtain ⟨hlands, hwaits⟩ := State.landResult_ready ho haw
  refine ⟨fun hd => ⟨_, hexec.trans (congrArg _ (hlands hd)), ?_⟩, fun d hd hlt => hexec.trans (congrArg _ (hwaits d hd hlt))⟩
  have hcreg : (({ s.coreAt n with outst := (s.coreAt n).outst.eraseIdx i } : Core).land o v).creg crFSTAT =
      (s.coreAt n).creg crFSTAT ||| o.flags.setWidth 64 := by
    rw [Core.creg, Core.land_ctx]
    exact (Core.orFstat_creg ..).trans (by rw [Core.wrDst_creg]; rfl)
  rw [State.coreAt_setCoreAt_same]
  refine ⟨Core.land_outst .., rfl, hcreg, fun d hdst h0 => ?_, fun d hdst => ?_, fun j hj => ?_⟩
  · rw [Core.land_ctx, hdst]
    exact ⟨Ctx.rdS_wrS_same _ _ h0, (Ctx.fullS_wrS _ _ h0 d).trans (by simp)⟩
  · rw [Core.land_ctx, hdst]
    exact ⟨Ctx.rdV_wrV_same .., Ctx.fullV_wrV_same _ _ v⟩
  · rw [Core.land_ctx]
    exact Core.wrDst_rdS_ne _ v hj

/-! ## Stream elements -/

theorem execStreamFetch_alive {s : State} {n : CoreNo} {q : BitVec 3} (hn : coreOk n = true) (ha : s.alive n = true) :
    exec (.streamFetch n q) s = .next (match s.nextElement n q with
      | none => s
      | some a => (s.fetchElement n q a).getD s) :=
  coreEvent_alive hn ha fun s => match s.nextElement n q with
    | none => s
    | some a => (s.fetchElement n q a).getD s

theorem execStreamWriteElement_alive {s : State} {n : CoreNo} {q : BitVec 3} (hn : coreOk n = true) (ha : s.alive n = true) :
    exec (.streamWriteElement n q) s = .next (match (s.coreAt n).nextWrite q with
      | none => s
      | some w => match s.writeElement n w with
        | none => s
        | some t => t.setCoreAt n { t.coreAt n with wbuf := markWritten q (t.coreAt n).wbuf }) :=
  coreEvent_alive hn ha fun s => match (s.coreAt n).nextWrite q with
    | none => s
    | some w => match s.writeElement n w with
      | none => s
      | some t => t.setCoreAt n { t.coreAt n with wbuf := markWritten q (t.coreAt n).wbuf }

theorem streamsMoveElements : StreamsMoveElements := by
  intro s n q hn ha st a
  have hfetch := execStreamFetch_alive (q := q) hn ha
  refine ⟨fun hb hw hsp hbase hpos hbad => ?_, fun hbase => ?_, fun w rest off k nc hwb hq hwr hsp hruns hdue hwf => ?_⟩
  · have hnext : s.nextElement n q = some a := by
      have : ¬ sdTotal st.desc ≤ sdPos st.desc + st.fetched.length := by omega
      simp only [State.nextElement]
      rw [if_neg]
      simp [st, a, hb, hw, hbase, hbad, this]
    obtain ⟨e, lat, hstate, hval⟩ := State.fetchElement_scratch (s := s) (n := n) (q := q) a hsp
    obtain ⟨e', hfetched, hval', hbase', hdesc⟩ := (s.coreAt n).addElement_spec q e lat
    have hexec : exec (.streamFetch n q) s = .next (s.setCoreAt n ((s.coreAt n).addElement q e lat)) := by
      rw [hfetch, hnext]
      simp only [hstate, Option.getD_some]
    refine ⟨_, e', hexec, ?_⟩
    rw [State.coreAt_setCoreAt_same]
    exact ⟨hfetched, hval'.trans hval, hbase', hdesc, rfl⟩
  · have hnext : s.nextElement n q = none := by
      simp [State.nextElement, show ((s.coreAt n).ctx.q.get q).base = [] from hbase]
    rw [hfetch, hnext]
  · have hwrite : s.writeElement n w = some (s.setCoreAt n ((s.coreAt n).scratchWrite off w.bytes)) := by
      unfold State.writeElement
      rw [hsp, hruns]
      rfl
    have hexec : exec (.streamWriteElement n q) s = .next (s.setCoreAt n { (s.coreAt n).scratchWrite off w.bytes with wbuf := rest }) := by
      refine (execStreamWriteElement_alive hn ha).trans ?_
      have hbuf : ((s.coreAt n).scratchWrite off w.bytes).wbuf = w :: rest := hwb
      simp only [Core.nextWrite_scratch hwb hq hwr hsp, hwrite, State.coreAt_setCoreAt_same, State.setCoreAt_setCoreAt, hbuf,
        markWritten_free hq hwr hdue]
    refine ⟨_, hexec, ?_⟩
    rw [State.coreAt_setCoreAt_same]
    exact ⟨rfl, fun i => Memory.get_write off i w.bytes hwf, rfl⟩

/-! ## Gated entries -/

/-- A scratchpad store that nothing holds takes effect where it goes. -/
theorem scratchStore_leaves {s : State} {n m : CoreNo} {off : Nat} {bs : List Byte} (r : List (BitVec 2 × Gated))
    (hfree : (s.setCoreAt n { s.coreAt n with committed := r }).granHolder n m (granRange off bs.length) = none)
    (hmeet : s.mayMeet (.scratch m) (portKey n m) = true) (hwf : Memory.wf (s.coreAt m).scratch = true) :
    ∃ t, (s.setCoreAt n { s.coreAt n with committed := r }).drainEntry n (.scratch m off bs) = some t ∧ (t.coreAt n).committed = r ∧
      (∀ i, Memory.get (t.coreAt m).scratch i = if off ≤ i ∧ i < off + bs.length then bs.getD (i - off) 0
        else Memory.get (s.coreAt m).scratch i) ∧ t.mem = s.mem := by
  have hdrain : (s.setCoreAt n { s.coreAt n with committed := r }).drainEntry n (.scratch m off bs) = _ :=
    if_neg (by rw [hfree, State.mayMeet_committed, hmeet]; exact nofun)
  refine ⟨_, hdrain, ?_, fun i => ?_, ?_⟩
  · rw [State.meetAt_cores]
    by_cases h : m = n
    · subst h
      rw [State.coreAt_setCoreAt_same, State.coreAt_setCoreAt_same]
      rfl
    · rw [State.coreAt_setCoreAt_ne _ _ h, State.coreAt_setCoreAt_same]
  · rw [State.meetAt_cores, State.coreAt_setCoreAt_same]
    by_cases h : n = m
    · subst h
      rw [State.coreAt_setCoreAt_same]
      exact Memory.get_write off i bs hwf
    · rw [State.coreAt_setCoreAt_ne _ _ h]
      exact Memory.get_write off i bs hwf
  · rw [State.meetAt_mem]
    rfl

theorem gatedEntriesLeaveInOrder : GatedEntriesLeaveInOrder := by
  intro s n d g r hn hf hc
  have hexec : exec (.gatedEntryDrain n) s = .next (s.drainOne n) := if_pos hn
  have hdrain (he : (s.coreAt n).early g = false) (hr : g.reads = []) (hg : ∀ pa bs, g ≠ .resv pa bs) :
      exec (.gatedEntryDrain n) s = .next (((s.setCoreAt n { s.coreAt n with committed := r }).drainEntry n g).getD s) :=
    hexec.trans (congrArg _ (State.drainOne_eq hf hc he hr hg))
  refine ⟨?scratch, ?held, ?tagw, ?push, ?copy⟩
  case scratch =>
    rintro m off bs rfl hfree hmeet hwf
    obtain ⟨t, ht, hcom, hscr, hmem⟩ := scratchStore_leaves r hfree hmeet hwf
    exact ⟨t, (hdrain rfl rfl nofun).trans (by rw [ht]; rfl), hcom, hscr, hmem⟩
  case held =>
    rintro m off bs h rfl hheld
    rw [hdrain rfl rfl nofun, State.drainEntry, hheld]
    rfl
  case tagw =>
    rintro i v rfl
    rw [hdrain rfl rfl nofun, State.drainEntry]
    simp only [State.coreAt_setCoreAt_same, State.setCoreAt_setCoreAt, Option.getD_some]
  case push =>
    rintro w rfl
    rw [hdrain rfl rfl nofun, State.drainEntry]
    simp only [State.coreAt_setCoreAt_same, State.setCoreAt_setCoreAt, streamDepth]
    by_cases hroom : ((s.coreAt n).wbuf.filter fun x => x.q == w.q).length < 8
    · rw [if_pos hroom, if_neg (by omega), Option.getD_some]
    · rw [if_neg hroom, if_pos (by omega), Option.getD_none]
  case copy =>
    rintro e rfl
    refine ⟨fun hready => ?_, fun hready => ?_⟩
    · have hleaves : exec (.gatedEntryDrain n) s = .next ((s.setCoreAt n { s.coreAt n with committed := r }).queueCopy n e) := by
        rw [hdrain rfl rfl nofun, State.drainEntry, State.copyReady_committed, hready]
        rfl
      obtain ⟨hcom, hq, hseq, hcount⟩ := State.queueCopy_spec (s.setCoreAt n { s.coreAt n with committed := r }) n e
      rw [State.coreAt_setCoreAt_same] at hcom hq hcount
      exact ⟨_, hleaves, hcom, hq, hseq, hcount⟩
    · rw [hdrain rfl rfl nofun, State.drainEntry, State.copyReady_committed, hready]
      rfl

end Sys2Proof.Claims
end

section
/-! SUPPORT. Translations and descriptors that arrive at a core (R236, R333, R334, R441, R442). -/

namespace Sys2Proof.Machine

/-! ## Room in an atlas (R333, R442) -/

section
variable {mayGo : AtlasEntry → Bool}

theorem mem_of_mem_dropLast {x : AtlasEntry} : ∀ {es : List AtlasEntry}, x ∈ dropLast mayGo es → x ∈ es
  | e :: r, h => by
    rw [dropLast] at h
    split at h
    · rcases List.mem_cons.mp h with rfl | h
      · exact List.mem_cons_self
      · exact List.mem_cons_of_mem _ (mem_of_mem_dropLast h)
    · split at h
      · exact List.mem_cons_of_mem _ h
      · exact h

/-- What may not go stays. -/
theorem mem_dropLast {x : AtlasEntry} (hx : mayGo x = false) : ∀ {es : List AtlasEntry}, x ∈ es → x ∈ dropLast mayGo es
  | e :: r, h => by
    rw [dropLast]
    split
    · rcases List.mem_cons.mp h with rfl | h
      · exact List.mem_cons_self
      · exact List.mem_cons_of_mem _ (mem_dropLast hx h)
    · split
      · next hgo =>
        rcases List.mem_cons.mp h with rfl | h
        · rw [hx] at hgo
          exact absurd hgo nofun
        · exact h
      · exact h

/-- Each time one of those that may go does. -/
theorem countP_dropLast : ∀ es : List AtlasEntry, (dropLast mayGo es).countP mayGo = es.countP mayGo - 1
  | [] => rfl
  | e :: r => by
    rw [dropLast]
    split
    · next hr =>
      obtain ⟨y, hy, hgo⟩ := List.any_eq_true.mp hr
      have hpos : 0 < r.countP mayGo := List.countP_pos_iff.mpr ⟨y, hy, hgo⟩
      simp only [List.countP_cons, countP_dropLast r]
      omega
    · next hr =>
      have hzero : r.countP mayGo = 0 := by
        rw [List.countP_eq_zero]
        exact fun y hy hgo => hr (List.any_eq_true.mpr ⟨y, hy, hgo⟩)
      split
      · next hgo => simp [hzero, hgo]
      · next hgo => simp [hzero, hgo]

theorem mem_of_mem_atlasFit {room : Nat} {x : AtlasEntry} : ∀ {fuel : Nat} {es : List AtlasEntry},
    x ∈ atlasFit mayGo room fuel es → x ∈ es
  | 0, _, h => h
  | fuel + 1, es, h => by
    rw [atlasFit] at h
    split at h
    · exact h
    · exact mem_of_mem_dropLast (mem_of_mem_atlasFit h)

theorem mem_atlasFit {room : Nat} {x : AtlasEntry} (hx : mayGo x = false) : ∀ {fuel : Nat} {es : List AtlasEntry},
    x ∈ es → x ∈ atlasFit mayGo room fuel es
  | 0, _, h => h
  | fuel + 1, es, h => by
    rw [atlasFit]
    split
    · exact h
    · exact mem_atlasFit hx (mem_dropLast hx h)

/-- With enough fuel the rest fits, or all that may go has gone. -/
theorem atlasFit_fits {room : Nat} : ∀ {fuel : Nat} {es : List AtlasEntry}, es.countP mayGo ≤ fuel →
    ((atlasFit mayGo room fuel es).map fun e => Config.atlasBytes e.text).sum ≤ room ∨ ∀ x ∈ atlasFit mayGo room fuel es, mayGo x = false
  | 0, es, h => .inr fun x hx => Bool.eq_false_iff.mpr (List.countP_eq_zero.mp (Nat.le_zero.mp h) x hx)
  | fuel + 1, es, h => by
    rw [atlasFit]
    split
    · next hfit => exact .inl hfit
    · exact atlasFit_fits (by rw [countP_dropLast]; omega)

end

/-- The sheet that enters a die's atlas comes first, and takes the room of sheets that may go. -/
theorem State.putAtlas_spec (s : State) (d : BitVec 3) (e : AtlasEntry) :
    ∃ rest, (s.putAtlas d e).plat.atlas.get d = e :: rest ∧ (∀ x ∈ rest, x ∈ s.plat.atlas.get d) ∧
      (∀ x ∈ s.plat.atlas.get d, x.lock.isSome ∨ s.sheetRuns d x = true →
        x ∈ rest ∨ x.tenant = e.tenant ∧ x.code = e.code ∧ x.entry = e.entry ∧ x.pin = e.pin) ∧
      (Config.atlasBytes e.text ≤ atlasSize → ((e :: rest).map fun x => Config.atlasBytes x.text).sum ≤ atlasSize ∨
        ∀ x ∈ rest, x.lock.isSome ∨ s.sheetRuns d x = true) := by
  have hstays {x : AtlasEntry} : (x.lock.isNone && !s.sheetRuns d x) = false ↔ x.lock.isSome ∨ s.sheetRuns d x = true := by
    cases x.lock <;> cases s.sheetRuns d x <;> simp
  refine ⟨_, RF.get_put_same .., fun x hx => List.mem_of_mem_filter (mem_of_mem_atlasFit hx), fun x hx hkeep => ?_, fun hsize => ?_⟩
  · by_cases hsame : x.tenant = e.tenant ∧ x.code = e.code ∧ x.entry = e.entry ∧ x.pin = e.pin
    · exact .inr hsame
    · refine .inl (mem_atlasFit (hstays.mpr hkeep) (List.mem_filter.mpr ⟨hx, ?_⟩))
      simpa [-not_and, not_and_or, or_assoc] using hsame
  · refine (atlasFit_fits (Nat.le_succ_of_le List.countP_le_length)).imp (fun hfit => ?_) (fun hall x hx => hstays.mp (hall x hx))
    rw [List.map_cons, List.sum_cons]
    exact (Nat.add_le_add_left hfit _).trans (Nat.add_sub_cancel' hsize).le

/-! ## Attempts that fail (R441) -/

/-- What a record leaves of a state on its way to the logs, where it takes nothing out of service. -/
def State.Recorded (s t : State) : Prop := ∃ regs history errors tests,
  t = { s with plat := { s.plat with regs := regs, history := history, errors := errors, tests := tests } }

/-- A record of a translation's failure changes no core, no memory and nothing of the code. -/
theorem State.report_translation (s : State) {r : ErrRec} (hsrc : r.src = 0x12) (hsev : r.sev.toNat < 4) : s.Recorded (s.report r) := by
  have htest (u : SelfTest) (hu : u.src = 0x12) (t : State) : t.beginTest u = t := by
    simp [State.beginTest, SelfTest.way, srcCoreTest, hu]
  have hbump : ∃ regs, (if r.sev = 0 then s.bumpReg 0x128 else s) = { s with plat := { s.plat with regs := regs } } := by
    split
    · exact ⟨_, rfl⟩
    · exact ⟨_, rfl⟩
  obtain ⟨regs, hregs⟩ := hbump
  have hno : ¬ 4 ≤ r.sev.toNat := by omega
  unfold State.report
  refine iteInduction (motive := s.Recorded) (fun _ => ⟨_, _, _, _, rfl⟩) (fun _ => ?_)
  simp only [hno, if_false, hregs]
  exact iteInduction (motive := s.Recorded) (fun _ => ⟨regs, _, _, _, htest _ hsrc _⟩) (fun _ => ⟨regs, _, _, _, rfl⟩)

/-- What a translation's failed attempt reports. -/
def State.retryRec (s : State) (n : CoreNo) (sev : BitVec 8) : ErrRec :=
  { src := 0x12, sev := sev, unit := (dieOf n).setWidth 16, ten := some (s.coreAt n).tenant, vpc := (s.coreAt n).ctx.pc
    task := (s.coreAt n).creg crTASK }

theorem State.retry_recorded (s : State) (n : CoreNo) {sev : BitVec 8} (h : sev.toNat < 4) : s.Recorded (s.report (s.retryRec n sev)) :=
  s.report_translation rfl h

namespace State.Recorded
variable {s t : State}

theorem cores (h : s.Recorded t) : t.cores = s.cores := by obtain ⟨_, _, _, _, rfl⟩ := h; rfl
theorem mem (h : s.Recorded t) : t.mem = s.mem := by obtain ⟨_, _, _, _, rfl⟩ := h; rfl
theorem faultPoints (h : s.Recorded t) : t.plat.faultPoints = s.plat.faultPoints := by obtain ⟨_, _, _, _, rfl⟩ := h; rfl
theorem objAt (h : s.Recorded t) (k : BitVec 5) (a : Word) : t.objAt k a = s.objAt k a := by obtain ⟨_, _, _, _, rfl⟩ := h; rfl
theorem coreAt (h : s.Recorded t) (n : CoreNo) : t.coreAt n = s.coreAt n := by obtain ⟨_, _, _, _, rfl⟩ := h; rfl

end State.Recorded

/-- A core that waits for a translation stands in an object's text. -/
theorem State.objAt_of_awaits {s : State} {n : CoreNo} (h : s.awaitsSheet n = true) :
    ∃ o, s.objAt (s.coreAt n).tenant (s.coreAt n).ctx.pc = some o := by
  cases ho : s.objAt (s.coreAt n).tenant (s.coreAt n).ctx.pc with
  | none => simp [State.awaitsSheet, ho] at h
  | some o => exact ⟨o, rfl⟩

theorem State.atlasAt_putAtlas {s : State} {n : CoreNo} {o : CodeObj} {va : Word} {e : AtlasEntry} {rest : List AtlasEntry} (k : Nat)
    (ha : (s.putAtlas (dieOf n) e).plat.atlas.get (dieOf n) = e :: rest) (ht : e.tenant = (s.coreAt n).tenant) (hc : e.code = o.code)
    (hv : e.entry = va) (hp : e.pin = (s.coreAt n).pin) : ((s.putAtlas (dieOf n) e).setPipes n k).atlasAt n o va = some e := by
  have hfind : ((s.putAtlas (dieOf n) e).setPipes n k).atlasAt n o va = (e :: rest).find? fun x => x.tenant == (s.coreAt n).tenant &&
      x.code == o.code && x.entry == va && x.pin == (s.coreAt n).pin := congrArg (List.find? _) ha
  rw [hfind]
  exact List.find?_cons_of_pos (by simp [ht, hc, hv, hp])

/-! ## Descriptors (R236) -/

/-- The entry that was filled is found, and so is each other one of a cache that has room. -/
theorem Core.useDesc_descOf (c : Core) {ds : List (BitVec 16)} {g : Nat} (b : Bool) (hroom : c.descCache.length < 64) :
    let e : DescEntry := { tid := mcfgTid c.mcfg b, group := BitVec.ofNat 16 g, desc := ds }
    (c.useDesc e).descOf b g = some e ∧ ∀ b', (c.descOf b' g).isSome = true → ((c.useDesc e).descOf b' g).isSome = true := by
  intro e
  have hcache : (c.useDesc e).descCache = e :: c.descCache.filter fun x => !(x.tid == e.tid && x.group == e.group) :=
    List.take_of_length_le (by
      have := List.length_filter_le (fun x : DescEntry => !(x.tid == e.tid && x.group == e.group)) c.descCache
      rw [List.length_cons]
      omega)
  have hmcfg : (c.useDesc e).mcfg = c.mcfg := rfl
  refine ⟨?_, fun b' hb' => ?_⟩
  · rw [Core.descOf, hcache, hmcfg]
    exact List.find?_cons_of_pos (by simp [e])
  · rw [Core.descOf, hcache, hmcfg, List.find?_isSome]
    obtain ⟨x, hx, hfind⟩ := List.find?_isSome.mp hb'
    by_cases hsame : (x.tid == e.tid && x.group == e.group) = true
    · refine ⟨e, List.mem_cons_self, ?_⟩
      simp only [Bool.and_eq_true, beq_iff_eq] at hsame hfind ⊢
      exact ⟨hsame.1 ▸ hfind.1, hsame.2 ▸ hfind.2⟩
    · exact ⟨x, List.mem_cons_of_mem _ (List.mem_filter.mpr ⟨hx, by simp [hsame]⟩), hfind⟩

/-- A plane whose entry is there needs no fill. -/
theorem State.fillPlane_present {s : State} {n : CoreNo} {b : Bool} {g : Nat} (w : Nat) (h : ((s.coreAt n).descOf b g).isSome = true) :
    s.fillPlane n b g w = s := by
  obtain ⟨e, he⟩ := Option.isSome_iff_exists.mp h
  simp only [State.fillPlane, he]

/-- A plane whose entry is missing gets the one that was read. -/
theorem State.fillPlane_absent {s u : State} {n : CoreNo} {b : Bool} {g w : Nat} {ds : List (BitVec 16)}
    (h : (s.coreAt n).descOf b g = none) (hr : readDescs s n b g w (List.range 32) = .entry ds u)
    (hm : (u.coreAt n).mcfg = (s.coreAt n).mcfg) :
    s.fillPlane n b g w = u.setCoreAt n ((u.coreAt n).useDesc
      { tid := mcfgTid (u.coreAt n).mcfg b, group := BitVec.ofNat 16 g, desc := ds }) := by
  simp only [State.fillPlane, h, hr, hm]

end Sys2Proof.Machine

namespace Sys2Proof.Claims
open Machine Obligations

section
variable {s : State} {n : CoreNo}

theorem execTranslationComplete_alive (hn : coreOk n = true) (ha : s.alive n = true) (k : Nat) :
    exec (.translationComplete (dieOf n) n k) s = .next
      (if s.awaitsSheet n ∧ k = s.sheetGroups n (s.coreAt n).ctx.pc then
        (s.translateSheet n (s.coreAt n).ctx.pc k).setPipes n 0 else s) := by
  refine (coreEvent_alive hn ha fun s => if dieOf n = dieOf n ∧ s.awaitsSheet n ∧ k = s.sheetGroups n (s.coreAt n).ctx.pc then
    (s.translateSheet n (s.coreAt n).ctx.pc k).setPipes n 0 else s).trans ?_
  simp only [true_and]

/-- The first part: a translation of any other number of groups does not complete, and one of the text's puts the sheet in its place. -/
theorem translation_completes (hn : coreOk n = true) (ha : s.alive n = true) {o : CodeObj} {ws : List (BitVec 32)} :
    let c := s.coreAt n
    let groups := s.sheetGroups n c.ctx.pc
    s.awaitsSheet n = true → s.objAt c.tenant c.ctx.pc = some o → ws ≠ [] →
    s.sheetFrom n o (o.words + 1) ((c.ctx.pc.toNat - o.text.toNat) / 4) (min groups 256) (0, 0, 0) = (ws, none) →
    exec (.translationComplete (dieOf n) n groups) s = .next ((s.putAtlas (dieOf n)
      { tenant := c.tenant, code := o.code, entry := c.ctx.pc, pin := c.pin, text := ws }).setPipes n 0) := by
  intro c groups hw ho hws hsheet
  have htr : s.translateSheet n c.ctx.pc groups = s.putAtlas (dieOf n)
      { tenant := c.tenant, code := o.code, entry := c.ctx.pc, pin := c.pin, text := ws } := by
    unfold State.translateSheet
    simp only [c, groups] at ho hsheet
    simp only [c, groups, ho, hsheet, if_neg hws]
  rw [execTranslationComplete_alive hn ha, if_pos ⟨hw, rfl⟩, htr]

end

/-- What a failed attempt of a translation that a core waits for comes to: the first three are counted, the fourth leaves a fault point. -/
theorem execTranslationRetry_awaited (hn : coreOk n = true) (ha : s.alive n = true) (hw : s.awaitsSheet n = true) :
    let k := Tbl.get 0 s.plat.pipesFailed n.toNat
    (k < 3 → exec (.translationRetry (dieOf n) n) s = .next ((s.report (s.retryRec n 0)).setPipes n (k + 1))) ∧
    (k = 3 → exec (.translationRetry (dieOf n) n) s = .next
      (let u := s.report (s.retryRec n 1)
      match u.objAt (s.coreAt n).tenant (s.coreAt n).ctx.pc with
      | none => u
      | some o => (u.putPoint (u.pointAt n o (o.regionOf (((s.coreAt n).ctx.pc.toNat - o.text.toNat) / 4)).1 0x20 3 (tmoveOf 15 0xFF) 0
          true)).setPipes n 0)) := by
  intro k
  have hexec : exec (.translationRetry (dieOf n) n) s = execTranslationRetry (dieOf n) n s := rfl
  rw [hexec, execTranslationRetry, coreEvent_alive hn ha]
  simp only [ne_eq, not_true_eq_false, hw, or_self, if_false]
  refine ⟨fun hk => ?_, fun hk => ?_⟩
  · have h4 : Tbl.get 0 s.plat.pipesFailed n.toNat + 1 < 4 := by omega
    simp only [h4, if_true]
    rfl
  · have h4 : ¬ Tbl.get 0 s.plat.pipesFailed n.toNat + 1 < 4 := by omega
    simp only [h4, if_false]
    rfl

/-- A free-regime beat that waits for descriptors has both planes filled. -/
theorem execDescriptorCacheFill_free (hn : coreOk n = true) (ha : s.alive n = true) {f : Form} {t : State}
    (hw : s.waitingBeat n = some (f, t)) (hp : (s.coreAt n).pin = false) :
    exec (.descriptorCacheFill n) s = .next ((s.fillPlane n false (beatGroup (s.coreAt n).mcfg) (beatWidth f t)).fillPlane n true
      (beatGroup (s.coreAt n).mcfg) (beatWidth f t)) := by
  have hexec : exec (.descriptorCacheFill n) s = execDescriptorCacheFill n s := rfl
  rw [hexec, execDescriptorCacheFill, coreEvent_alive hn ha]
  simp only [hw, hp, Bool.false_eq_true, false_and, if_false]

theorem translationsAndDescriptorsArrive : TranslationsAndDescriptorsArrive := by
  intro s n hn ha c groups old
  refine ⟨fun k hk => ?other, fun o ws hw ho hws hsheet => ?complete, fun hw hk => ?retry, fun hw hk => ?fourth,
    fun f t0 ds u hpin hwait htrue hfalse hread hmcfg hcache hroom => ?fill⟩
  case other =>
    rw [execTranslationComplete_alive hn ha, if_neg fun h => hk h.2]
  case complete =>
    obtain ⟨rest, hatlas, hold, hkeep, hroom⟩ := s.putAtlas_spec (dieOf n)
      { tenant := c.tenant, code := o.code, entry := c.ctx.pc, pin := c.pin, text := ws }
    refine ⟨_, _, rest, translation_completes hn ha hw ho hws hsheet, hatlas, rfl, hold, hkeep, hroom, ?_, rfl, rfl⟩
    exact State.atlasAt_putAtlas 0 hatlas rfl rfl rfl rfl
  case retry =>
    have hrec := s.retry_recorded n (sev := 0) (by decide)
    exact ⟨_, (execTranslationRetry_awaited hn ha hw).1 hk, Tbl.get_put_same .., hrec.faultPoints, hrec.cores, hrec.mem⟩
  case fourth =>
    have hrec := s.retry_recorded n (sev := 1) (by decide)
    obtain ⟨o, ho⟩ := State.objAt_of_awaits hw
    have hexec := (execTranslationRetry_awaited hn ha hw).2 hk
    simp only [hrec.objAt, ho] at hexec
    exact ⟨_, hexec, Tbl.get_put_same .., _, List.mem_cons_self, rfl, congrArg Core.tenant (hrec.coreAt n), rfl, rfl, rfl⟩
  case fill =>
    obtain ⟨hfound, hothers⟩ := (u.coreAt n).useDesc_descOf (ds := ds) (g := beatGroup c.mcfg) false (hcache ▸ hroom)
    have htrue' : ((u.coreAt n).descOf true (beatGroup c.mcfg)).isSome = true := by
      rw [Core.descOf, hcache, hmcfg]
      exact htrue
    have hfirst := State.fillPlane_absent hfalse hread hmcfg
    have hsecond := State.fillPlane_present (b := true) (g := beatGroup c.mcfg) (beatWidth f t0)
      (s := u.setCoreAt n ((u.coreAt n).useDesc _)) (by rw [State.coreAt_setCoreAt_same]; exact hothers true htrue')
    have hexec := execDescriptorCacheFill_free hn ha hwait hpin
    rw [hfirst, hsecond] at hexec
    refine ⟨_, { tid := mcfgTid (u.coreAt n).mcfg false, group := BitVec.ofNat 16 (beatGroup c.mcfg), desc := ds }, hexec, ?_⟩
    rw [State.coreAt_setCoreAt_same]
    exact ⟨hfound, rfl, hothers true htrue', rfl⟩

/-- Settles O45: what each event at a core comes to, by the kind of the event. -/
theorem coreEventsTakeEffect : Obligations.CoreEventsTakeEffect :=
  ⟨resultsLand, streamsMoveElements, gatedEntriesLeaveInOrder, translationsAndDescriptorsArrive⟩

end Sys2Proof.Claims
end

section
/-! SUPPORT. Exact sums over integer values: sums, differences and products stand for those of the integers, and the seven recombined
products of a tile come to its classical sum (R107, R114-R117). -/

namespace Sys2Proof.Machine

/-! ## Values that stand for integers -/

/-- A value met on the way of no invalid case that stands for an integer, at exponent 0; a zero may have either sign. -/
def StandsFor (v : FVn) (z : Int) : Prop := ∃ n m, v = (.fin n m 0, false) ∧ FV.sig (.fin n m 0) = z

theorem FV.sig_eq_zero {n : Bool} {m : Nat} {e : Int} : FV.sig (.fin n m e) = 0 ↔ m = 0 := by
  cases n <;> simp [FV.sig]

theorem FV.sig_negate (v : FV) : v.negate.sig = -v.sig := by
  cases v with
  | fin n m e => cases n <;> simp [FV.negate, FV.sig]
  | nan => rfl
  | inf n => rfl

theorem standsFor_ofInt (z : Int) : StandsFor (FV.ofInt z 0, false) z := by
  refine ⟨_, _, rfl, ?_⟩
  by_cases h : z < 0
  · simp only [FV.sig, h, decide_true, if_true]; omega
  · simp only [FV.sig, h, decide_false, Bool.false_eq_true, if_false]; omega

namespace StandsFor
variable {v w : FVn} {y z : Int}

theorem add (hv : StandsFor v y) (hw : StandsFor w z) : StandsFor (fvAdd v w) (y + z) := by
  obtain ⟨n, m, rfl, rfl⟩ := hv
  obtain ⟨k, l, rfl, rfl⟩ := hw
  by_cases hm : m = 0
  · by_cases hl : l = 0
    · exact ⟨if n = k then n else false, 0, by simp only [fvAdd, FV.add, hm, hl, and_self, if_true, Bool.or_false], by
        rw [FV.sig_eq_zero.mpr hm, FV.sig_eq_zero.mpr hl, FV.sig_eq_zero.mpr rfl, add_zero]⟩
    · exact ⟨k, l, by simp only [fvAdd, FV.add, hm, hl, and_false, if_false, if_true, Bool.or_false], by
        rw [FV.sig_eq_zero.mpr hm, zero_add]⟩
  · by_cases hl : l = 0
    · exact ⟨n, m, by simp only [fvAdd, FV.add, hm, hl, false_and, if_false, if_true, Bool.or_false], by
        rw [FV.sig_eq_zero.mpr hl, add_zero]⟩
    · have hadd (a b : Int) : addSig a 0 b 0 = (a + b, 0) := by simp [addSig]
      by_cases hs : FV.sig (.fin n m 0) + FV.sig (.fin k l 0) = 0
      · exact ⟨false, 0, by simp only [fvAdd, FV.add, hm, hl, false_and, if_false, hadd, hs, if_true, Bool.or_false], by rw [hs]; rfl⟩
      · obtain ⟨n', m', heq, hsig⟩ := standsFor_ofInt (FV.sig (.fin n m 0) + FV.sig (.fin k l 0))
        exact ⟨n', m', by simpa only [fvAdd, FV.add, hm, hl, false_and, if_false, hadd, hs, Bool.or_false] using heq, hsig⟩

theorem negate (hv : StandsFor v z) : StandsFor (v.1.negate, v.2) (-z) := by
  obtain ⟨n, m, rfl, rfl⟩ := hv
  exact ⟨!n, m, rfl, FV.sig_negate (.fin n m 0)⟩

theorem sub (hv : StandsFor v y) (hw : StandsFor w z) : StandsFor (fvSub v w) (y - z) := by
  rw [Int.sub_eq_add_neg]
  exact hv.add hw.negate

theorem mul (hv : StandsFor v y) (hw : StandsFor w z) : StandsFor (fvMul v w) (y * z) := by
  obtain ⟨n, m, rfl, rfl⟩ := hv
  obtain ⟨k, l, rfl, rfl⟩ := hw
  refine ⟨n != k, m * l, rfl, ?_⟩
  cases n <;> cases k <;> simp [FV.sig]

/-- Pre-addition leaves an integer as it is (R116). -/
theorem preAdd {et : Nat} (het : 5 ≤ et) (hv : StandsFor v z) : StandsFor (preAdd et v) z := by
  rwa [Machine.preAdd, if_neg (Nat.not_lt.mpr het)]

/-- Two values that stand for one integer are equal. -/
theorem eqv (hv : StandsFor v z) (hw : StandsFor w z) : v.1.eqv w.1 = true := by
  obtain ⟨n, m, rfl, rfl⟩ := hv
  obtain ⟨k, l, rfl, hs⟩ := hw
  simp [FV.eqv, FV.isNan, FV.lt, addSig, FV.exp, hs]

theorem valid (hv : StandsFor v z) : v.2 = false := by
  obtain ⟨n, m, rfl, -⟩ := hv
  rfl

/-- The exact sum of products of integers (R107). -/
theorem dot {l r : Nat → FVn} {a b : Nat → Int} (hl : ∀ k, StandsFor (l k) (a k)) (hr : ∀ k, StandsFor (r k) (b k)) (h : Nat) :
    StandsFor (fvDot l r (List.range h)) (∑ k ∈ Finset.range h, a k * b k) := by
  induction h with
  | zero => exact ⟨false, 0, rfl, rfl⟩
  | succ h ih =>
    rw [Finset.sum_range_succ, fvDot, List.range_succ, List.foldl_append]
    exact ih.add ((hl h).mul (hr h))

end StandsFor

/-! ## Beats of integer elements -/

/-- The integer element of a beat operand at line `i` and inner index `k` (R237). -/
def beatInt (et : Nat) (v : Vec) (i k : Nat) : Int := laneI (etSigned et) (etBits et) (32 * k + i) v

section
variable {et : Nat} (het : 5 ≤ et) (a b : Vec)
include het

theorem standsFor_beatElem (v : Vec) (i k : Nat) : StandsFor (beatElem et v i k, false) (beatInt et v i k) := by
  rw [beatElem, if_neg (Nat.not_lt.mpr het)]
  exact standsFor_ofInt _

theorem standsFor_classicalSum (kc i j : Nat) :
    StandsFor (classicalSum et a b kc i j) (∑ k ∈ Finset.range kc, beatInt et a i k * beatInt et b j k) :=
  StandsFor.dot (standsFor_beatElem het a i) (standsFor_beatElem het b j) kc

/-- The four blocks of the post-additions come to the blocks of the product (R114, R115). -/
theorem standsFor_recombinedSum (h : Nat) {i j : Nat} (hi : i < 32) (hj : j < 32) :
    StandsFor (recombinedSum et a b h i j)
      (∑ k ∈ Finset.range h, (beatInt et a i k * beatInt et b j k + beatInt et a i (h + k) * beatInt et b j (h + k))) := by
  have hA := standsFor_beatElem het a
  have hB := standsFor_beatElem het b
  have hp {v w : Nat → FVn} {y z : Nat → Int} (hv : ∀ k, StandsFor (v k) (y k)) (hw : ∀ k, StandsFor (w k) (z k)) (k : Nat) :=
    ((hv k).add (hw k)).preAdd het
  have hm {v w : Nat → FVn} {y z : Nat → Int} (hv : ∀ k, StandsFor (v k) (y k)) (hw : ∀ k, StandsFor (w k) (z k)) (k : Nat) :=
    ((hv k).sub (hw k)).preAdd het
  obtain ⟨p, hpi⟩ : ∃ p, i % 16 = p := ⟨_, rfl⟩
  obtain ⟨q, hqj⟩ : ∃ q, j % 16 = q := ⟨_, rfl⟩
  have q1 : StandsFor (product et a b h 1 p q) _ := .dot (hp (hA p) fun k => hA (16 + p) (h + k)) (hp (hB q) fun k => hB (16 + q) (h + k)) h
  have q2 : StandsFor (product et a b h 2 p q) _ := .dot (hp (hA (16 + p)) fun k => hA (16 + p) (h + k)) (hB q) h
  have q3 : StandsFor (product et a b h 3 p q) _ := .dot (hA p) (hm (hB (16 + q)) fun k => hB (16 + q) (h + k)) h
  have q4 : StandsFor (product et a b h 4 p q) _ := .dot (fun k => hA (16 + p) (h + k)) (hm (fun k => hB q (h + k)) (hB q)) h
  have q5 : StandsFor (product et a b h 5 p q) _ := .dot (hp (hA p) fun k => hA p (h + k)) (fun k => hB (16 + q) (h + k)) h
  have q6 : StandsFor (product et a b h 6 p q) _ := .dot (hm (hA (16 + p)) (hA p)) (hp (hB q) (hB (16 + q))) h
  have q7 : StandsFor (product et a b h 7 p q) _ :=
    .dot (hm (fun k => hA p (h + k)) fun k => hA (16 + p) (h + k)) (hp (fun k => hB q (h + k)) fun k => hB (16 + q) (h + k)) h
  simp only [recombinedSum, hpi, hqj]
  by_cases hi' : i < 16 <;> by_cases hj' : j < 16
  · obtain ⟨rfl, rfl⟩ : p = i ∧ q = j := by omega
    rw [if_pos hi', if_pos hj']
    convert ((q1.add q4).sub q5).add q7 using 1
    simp only [← Finset.sum_add_distrib, ← Finset.sum_sub_distrib]
    exact Finset.sum_congr rfl fun k _ => by ring
  · obtain ⟨rfl, rfl⟩ : p = i ∧ 16 + q = j := by omega
    rw [if_pos hi', if_neg hj']
    convert q3.add q5 using 1
    simp only [← Finset.sum_add_distrib]
    exact Finset.sum_congr rfl fun k _ => by ring
  · obtain ⟨rfl, rfl⟩ : 16 + p = i ∧ q = j := by omega
    rw [if_neg hi', if_pos hj']
    convert q2.add q4 using 1
    simp only [← Finset.sum_add_distrib]
    exact Finset.sum_congr rfl fun k _ => by ring
  · obtain ⟨rfl, rfl⟩ : 16 + p = i ∧ 16 + q = j := by omega
    rw [if_neg hi', if_neg hj']
    convert ((q1.sub q2).add q3).add q6 using 1
    simp only [← Finset.sum_add_distrib, ← Finset.sum_sub_distrib]
    exact Finset.sum_congr rfl fun k _ => by ring

end

/-- A sum over both inner blocks, block by block. -/
theorem sum_range_blocks (h : Nat) (f : Nat → Int) :
    ∑ k ∈ Finset.range (2 * h), f k = ∑ k ∈ Finset.range h, (f k + f (h + k)) := by
  rw [two_mul, Finset.sum_range_add, Finset.sum_add_distrib]

end Sys2Proof.Machine

namespace Sys2Proof.Claims
open Machine

/-- Settles O27: both orders stand for one integer, block by block. -/
theorem recombinedIntegerSumsAreClassical : Obligations.RecombinedIntegerSumsAreClassical := by
  intro et h a b i j het _ hi hj
  have het : 5 ≤ et := by omega
  have hc := standsFor_classicalSum het a b (2 * h) i j
  rw [sum_range_blocks] at hc
  have hr := standsFor_recombinedSum het a b h hi hj
  exact ⟨hr.eqv hc, hr.valid, hc.valid⟩

end Sys2Proof.Claims
end

section
/-! SUPPORT. Packed lanes: what each lane of a packed vector reads, and what stands above the last (R204, R207). -/

namespace Sys2Proof.Machine

/-- Lanes of `e` bits as one number, lane 0 lowest, each cut to its low bits. -/
def packNat (e : Nat) (ls : List Nat) : Nat := ls.foldr (fun x acc => x % 2 ^ e + 2 ^ e * acc) 0

theorem packLanes_eq (e : Nat) (ls : List Nat) : packLanes e ls = BitVec.ofNat 1024 (packNat e ls) := rfl

theorem packNat_lt (e : Nat) (ls : List Nat) : packNat e ls < 2 ^ (e * ls.length) := by
  induction ls with
  | nil => exact Nat.one_pos
  | cons x xs ih =>
    have hx : x % 2 ^ e < 2 ^ e := Nat.mod_lt _ (Nat.two_pow_pos e)
    calc x % 2 ^ e + 2 ^ e * packNat e xs < 2 ^ e * (packNat e xs + 1) := by rw [Nat.mul_succ]; omega
      _ ≤ 2 ^ e * 2 ^ (e * xs.length) := Nat.mul_le_mul_left _ ih
      _ = 2 ^ (e * (x :: xs).length) := by rw [← Nat.pow_add, List.length_cons, Nat.mul_succ, Nat.add_comm]

theorem packNat_lt_of_le {e w : Nat} {ls : List Nat} (h : e * ls.length ≤ w) : packNat e ls < 2 ^ w :=
  (packNat_lt e ls).trans_le (Nat.pow_le_pow_right (by decide) h)

theorem toNat_ofNat_packNat {e w : Nat} {ls : List Nat} (h : e * ls.length ≤ w) :
    (BitVec.ofNat w (packNat e ls)).toNat = packNat e ls := by
  rw [BitVec.toNat_ofNat, Nat.mod_eq_of_lt (packNat_lt_of_le h)]

/-- Each lane reads what was packed there. -/
theorem packNat_lane (e : Nat) (ls : List Nat) (i : Nat) : packNat e ls / 2 ^ (e * i) % 2 ^ e = ls.getD i 0 % 2 ^ e := by
  induction ls generalizing i with
  | nil => simp [packNat]
  | cons x xs ih =>
    have hx : x % 2 ^ e < 2 ^ e := Nat.mod_lt _ (Nat.two_pow_pos e)
    show (x % 2 ^ e + 2 ^ e * packNat e xs) / 2 ^ (e * i) % 2 ^ e = _
    cases i with
    | zero => simp
    | succ i =>
      rw [Nat.mul_succ, Nat.add_comm, Nat.pow_add, Nat.mul_comm (2 ^ (e * i)), ← Nat.div_div_eq_div_mul,
        Nat.mul_add_div (Nat.two_pow_pos e), Nat.div_eq_of_lt hx, Nat.add_zero, ih, List.getD_cons_succ]

section
variable {e : Nat} {ls : List Nat} (h : e * ls.length ≤ 1024)
include h

theorem toNat_packLanes : (packLanes e ls).toNat = packNat e ls := by
  rw [packLanes_eq, toNat_ofNat_packNat h]

theorem laneN_packLanes (i : Nat) : laneN e i (packLanes e ls) = ls.getD i 0 % 2 ^ e := by
  rw [laneN, toNat_packLanes h, packNat_lane]

/-- Nothing stands above the last lane. -/
theorem getLsbD_packLanes_above {j : Nat} (hj : e * ls.length ≤ j) : (packLanes e ls).getLsbD j = false := by
  rw [BitVec.getLsbD, toNat_packLanes h]
  exact Nat.testBit_lt_two_pow (packNat_lt_of_le hj)

end

theorem laneN_lt (e i : Nat) (v : Vec) : laneN e i v < 2 ^ e := Nat.mod_lt _ (Nat.two_pow_pos e)

theorem getD_map_range {α : Type} (f : Nat → α) {n i : Nat} (d : α) (hi : i < n) : ((List.range n).map f).getD i d = f i := by
  simp [List.getD, hi]

end Sys2Proof.Machine
end

section
/-! SUPPORT. Rounding by the core's registers: the conditions that sound ones do not meet, and what an issue leaves of them (R98, R102,
R104, R209, R395). -/

namespace Sys2Proof.Machine

theorem Core.fmodeRm_eq_of_creg {c d : Core} (h : c.creg crFMODE = d.creg crFMODE) : c.fmodeRm = d.fmodeRm := by
  rw [Core.fmodeRm, h, Core.fmodeRm]

/-- An operation rounds by SEED and QCFG beside its mode (R102, R104). -/
theorem rndOf_eq_of_creg {c d : Core} (hs : c.creg crSEED = d.creg crSEED) (hq : c.creg crQCFG = d.creg crQCFG) (rm : BitVec 3) :
    rndOf c rm = rndOf d rm := by
  simp only [rndOf, Core.f8sat, hs, hq]

@[simp] theorem rndOf_beginIssue (c : Core) (rm : BitVec 3) : rndOf c.beginIssue rm = rndOf c rm :=
  rndOf_eq_of_creg (c.beginIssue_creg (by decide)) (c.beginIssue_creg (by decide)) rm

theorem Core.seedStep_seed (c : Core) : (c.seedStep 4).creg crSEED = c.creg crSEED + 1 := Core.creg_setCreg_same ..

theorem Core.seedStep_other (c : Core) {rm : BitVec 3} (h : rm ≠ 4) : c.seedStep rm = c := if_neg h

end Sys2Proof.Machine

namespace Sys2Proof.Claims
open Machine

section
variable {c : Core} (h : ModesSound c)
include h

theorem ModesSound.fmode : c.ownBad (.cr (crFMODE.setWidth 8)) = false := h _ (by simp)
theorem ModesSound.seed : c.ownBad (.cr (crSEED.setWidth 8)) = false := h _ (by simp)
theorem ModesSound.qcfg : c.ownBad (.cr (crQCFG.setWidth 8)) = false := h _ (by simp)

/-- Sound registers to round by meet no data error (R395). -/
theorem ModesSound.roundConds_nil (m : BitVec 32) (dest : Nat) : roundConds c m dest = [] := by
  simp only [roundConds, ownConds_sound h.fmode, ownConds_sound h.seed, ownConds_sound h.qcfg, ite_self, List.append_nil]

theorem ModesSound.beatRmConds_nil (hrm : c.fmodeRm.toNat < 5) : beatRmConds c = [] := by
  simp only [beatRmConds, if_neg (Nat.not_le.mpr hrm), h.roundConds_nil, List.append_nil]

end

/-- An admitted mode of an operation that rounds meets no condition; where it has no width field, any width does (R209, R226, R395,
R425). -/
theorem vecConds_nil {c : Core} {k : VKind} {m : BitVec 32} {useW : Bool} (het : etOk k (BitVec.ofNat 4 (mET m)) = true)
    (hw : useW = true → mW m ≠ 3) (hr : mRM m ≠ 5 ∧ mRM m ≠ 6 ∧ (mRM m = 7 → c.fmodeRm.toNat < 5) ∧ ModesSound c) (f : Form)
    (op : BitVec 6) : vecConds c k f op useW m = [] := by
  obtain ⟨h5, h6, h7, hsound⟩ := hr
  have hdyn : mRM m = 7 → ¬ 5 ≤ c.fmodeRm.toNat := fun hm => Nat.not_le.mpr (h7 hm)
  simp only [vecConds, het, hsound.roundConds_nil, ite_self, List.append_nil]
  generalize (kindRounds k && _) = rounds
  cases rounds
  · simpa using hw
  · simpa using (⟨⟨hw, h5, h6⟩, hdyn⟩ : (_ ∧ _ ∧ _) ∧ _)

end Sys2Proof.Claims
end

section
/-! SUPPORT. Beats: the accumulator that a beat leaves, what else it changes, and the steps of grouped beats (R107, R113, R238, R239). -/

namespace Sys2Proof.Machine

/-! ## What a beat changes -/

/-- The rows of patterns and flags of a beat: each accumulator element updated by its sum (R107). -/
def beatRows (old c : Core) (sum : Nat → Nat → FVn) : List (List (Nat × FFlags)) :=
  (List.range 32).map fun i => (List.range 32).map fun j =>
    accUpdate (rndOf c c.fmodeRm) (laneN 32 j (old.acc.get (BitVec.ofNat 5 i))) (sum i j) (32 * i + j)

/-- The accumulator of such rows. -/
def accOfRows (rows : List (List (Nat × FFlags))) : RF 5 Vec := Vector.ofFn fun i => packLanes 32 ((rows.getD i.val []).map Prod.fst)

/-- The flags of such rows. -/
def flagsOfRows (rows : List (List (Nat × FFlags))) : FFlags := orFlags (rows.map fun l => orFlags (l.map Prod.snd))

/-- A beat changes the accumulator, MSTAT and SEED alone (R238). -/
theorem beat_eq (old c : Core) (sum : Nat → Nat → FVn) : beat old c sum =
    { c with acc := accOfRows (beatRows old c sum)
             mstat := c.mstat ||| (flagsOfRows (beatRows old c sum) &&& 0x1D).setWidth 64
             ctx := { c.ctx with cr := (c.seedStep c.fmodeRm).ctx.cr } } := by
  have hstep (a : RF 5 Vec) (fl : FFlags) (rm : BitVec 3) : (Core.orMstat { c with acc := a } fl).seedStep rm =
      { c with acc := a, mstat := c.mstat ||| (fl &&& 0x1D).setWidth 64, ctx := { c.ctx with cr := (c.seedStep rm).ctx.cr } } := by
    unfold Core.seedStep
    split <;> rfl
  exact hstep _ _ _

/-- Every accumulator element is the update of the old one (R107). -/
theorem laneN_beat_acc (old c : Core) (sum : Nat → Nat → FVn) {i j : Nat} (hi : i < 32) (hj : j < 32) :
    laneN 32 j ((beat old c sum).acc.get (BitVec.ofNat 5 i)) =
      (accUpdate (rndOf c c.fmodeRm) (laneN 32 j (old.acc.get (BitVec.ofNat 5 i))) (sum i j) (32 * i + j)).1 % 2 ^ 32 := by
  have hi5 : (BitVec.ofNat 5 i).toNat = i := by rw [BitVec.toNat_ofNat]; omega
  rw [beat_eq, accOfRows, RF.get_ofFn]
  simp only [hi5, beatRows]
  rw [getD_map_range _ _ hi, List.map_map, laneN_packLanes (by simp), getD_map_range _ _ hj]
  rfl

/-- An exact zero leaves the old pattern (R107). -/
theorem accUpdate_zero {v : FVn} (h : v.1.isZero = true) (r : Rnd) (old idx : Nat) : (accUpdate r old v idx).1 = old := by
  rw [accUpdate, if_pos h]

theorem accUpdate_nonzero {v : FVn} (h : v.1.isZero = false) (r : Rnd) (old idx : Nat) :
    (accUpdate r old v idx).1 = (r.fmt fmtF32 (FV.add r.dn (fmtF32.decode old) v.1).1 idx).1 := by
  rw [accUpdate, if_neg (Bool.eq_false_iff.mp h)]

/-! ## The grouped steps (R236, R239) -/

theorem Core.touchDesc_eq (c : Core) (e : DescEntry) : c.touchDesc e = { c with descCache := (c.touchDesc e).descCache } := by
  unfold Core.touchDesc
  split <;> rfl

/-- The bits of MCFG other than KPOS. -/
def kposRest : Word := 0x0000FFFFFFFFFFFF

/-- MCFG with KPOS replaced. -/
def mcfgSetKpos (m : Word) (p : BitVec 16) : Word := (m &&& kposRest) ||| (p.setWidth 64 <<< 48)

theorem mcfgKpos_mcfgSetKpos (m : Word) (p : BitVec 16) : mcfgKpos (mcfgSetKpos m p) = p.toNat := by
  show ((mcfgSetKpos m p).extractLsb' 48 16).toNat = _
  rw [mcfgSetKpos, BitVec.extractLsb'_or, BitVec.extractLsb'_and, show kposRest.extractLsb' 48 16 = 0 by decide,
    extractLsb'_field_same p (by decide)]
  simp

theorem mcfgSetKpos_low (m : Word) (p : BitVec 16) : (mcfgSetKpos m p).extractLsb' 0 48 = m.extractLsb' 0 48 := by
  rw [mcfgSetKpos, BitVec.extractLsb'_or, BitVec.extractLsb'_and, show kposRest.extractLsb' 0 48 = BitVec.allOnes 48 by decide,
    extractLsb'_field_other p (.inl (by decide)), BitVec.and_allOnes]
  simp

/-- What a grouped beat with the descriptors `da` and `db` makes of a core: its sums, its descriptors used last, KPOS stepped and
MSTAT bit 7 set (R239). -/
def groupedBeat (old : Core) (x : Args) (da db : DescEntry) (c : Core) : Core :=
  let kc := 16 / etBits (mET x.m)
  let d := beat old c (groupedSum (mET x.m) x.a x.b old.legend (fun i => da.desc.getD i 0) (fun j => db.desc.getD j 0) kc)
  let d := (d.touchDesc da).touchDesc db
  { d with mcfg := mcfgSetKpos d.mcfg (BitVec.ofNat 16 (mcfgKpos old.mcfg + kc)), mstat := d.mstat ||| 0x80 }

theorem groupedBeat_acc (old c : Core) (x : Args) (da db : DescEntry) :
    (groupedBeat old x da db c).acc = (beat old c (groupedSum (mET x.m) x.a x.b old.legend (fun i => da.desc.getD i 0)
      (fun j => db.desc.getD j 0) (16 / etBits (mET x.m)))).acc := by
  simp only [groupedBeat]
  rw [Core.touchDesc_eq, Core.touchDesc_eq]

theorem groupedBeat_mcfg (old c : Core) (x : Args) (da db : DescEntry) :
    (groupedBeat old x da db c).mcfg = mcfgSetKpos c.mcfg (BitVec.ofNat 16 (mcfgKpos old.mcfg + 16 / etBits (mET x.m))) := by
  simp only [groupedBeat]
  rw [Core.touchDesc_eq, Core.touchDesc_eq, beat_eq]

theorem groupedBeat_mstat (old c : Core) (x : Args) (da db : DescEntry) : (groupedBeat old x da db c).mstat.getLsbD 7 = true := by
  have hbit : (0x80 : Word).getLsbD 7 = true := by decide
  simp only [groupedBeat, BitVec.getLsbD_or, hbit, Bool.or_true]

end Sys2Proof.Machine

namespace Sys2Proof.Claims
open Machine

section
variable {s t : State} {row : OpRow} {f : Form} {x : Args}

theorem begun_creg (s : State) (x : Args) {i : BitVec 5} (h : i ≠ crPSTAT) : (begun s x).core.creg i = s.core.creg i := by
  rw [begun_core, Core.creg, Core.voidPorts_ctx]
  exact s.core.beginIssue_creg h

theorem begun_fmodeRm (s : State) (x : Args) : (begun s x).core.fmodeRm = s.core.fmodeRm :=
  Core.fmodeRm_eq_of_creg (begun_creg s x (by decide))

theorem rndOf_begun (s : State) (x : Args) (rm : BitVec 3) : rndOf (begun s x).core rm = rndOf s.core rm :=
  rndOf_eq_of_creg (begun_creg s x (by decide)) (begun_creg s x (by decide)) rm

theorem begun_legend (s : State) (x : Args) : (begun s x).core.legend = s.core.legend := by
  rw [begun_core, Core.voidPorts_eq, Core.beginIssue_eq]

theorem begun_mcfg (s : State) (x : Args) : (begun s x).core.mcfg = s.core.mcfg :=
  congrArg (·.2.1) (begun_matrixState s x)

theorem begun_mem (s : State) (x : Args) : (begun s x).mem = s.mem := rfl

/-- A state with the accumulator of a beat accumulates the beat's sums. -/
theorem accumulates_beat {sum : Nat → Nat → FVn} (h : t.core.acc = (beat s.core (begun s x).core sum).acc) : Accumulates s t sum := by
  intro i j hi hj
  have hnew := laneN_beat_acc s.core (begun s x).core sum hi hj
  rw [← h, begun_fmodeRm, rndOf_begun] at hnew
  refine ⟨fun hz => ?_, fun hz => ?_⟩
  · exact hnew.trans (by rw [accUpdate_zero hz, Nat.mod_eq_of_lt (laneN_lt ..)])
  · exact hnew.trans (by rw [accUpdate_nonzero hz])

theorem mxConds_sound {c : Core} (h : c.mxBad = []) (items : List Nat) : mxConds c items = [] :=
  mxConds_nil fun i _ => by rw [h]; exact List.not_mem_nil

/-! ## mbeat (R238) -/

/-- The sum that mbeat adds to element (i, j): the classical one where mode bit 16 is set, else the recombined one (R107, R115, R238). -/
def beatSum (x : Args) (i j : Nat) : FVn :=
  let kc := 16 / etBits (mET x.m)
  if x.m.getLsbD 16 then classicalSum (mET x.m) x.a x.b kc i j else recombinedSum (mET x.m) x.a x.b kc i j

theorem exec_mbeat (h : Issues (.mbeat f) {} s row f x) (ha : s.core.accAbsent = false) (hb : s.core.mxBad = [])
    (hrm : s.core.fmodeRm.toNat < 5) (hm : ModesSound s.core) (het : [1, 2, 3, 4, 9, 10, 11, 12].contains (mET x.m) = true) :
    exec (.mbeat f) s = .next ((begun s x).onCore fun c => beat s.core c (beatSum x)) := by
  obtain rfl := h.row_eq rfl
  have hsum : beatSum x = if x.m.getLsbD 16 then classicalSum (mET x.m) x.a x.b (16 / etBits (mET x.m))
      else recombinedSum (mET x.m) x.a x.b (16 / etBits (mET x.m)) := by
    funext i j
    simp only [beatSum]
    split <;> rfl
  refine (issueOp_semMx h ha ?_).trans ?_
  · simp only [het, if_true, hm.beatRmConds_nil hrm, mxConds_sound hb, List.append_nil]
  · simp only [Core.mxRepair_nil, hsum]

end

/-- What a beat leaves of a core, and the step of SEED (R102, R238). -/
theorem beat_frame (s : State) (x : Args) (sum : Nat → Nat → FVn) :
    let c := beat s.core (begun s x).core sum
    c.legend = s.core.legend ∧ c.mcfg = s.core.mcfg ∧ c.ctx.s = s.core.ctx.s ∧ c.ctx.v = s.core.ctx.v ∧ c.ctx.pc = s.core.ctx.pc ∧
    (s.core.fmodeRm = 4 → c.creg crSEED = s.core.creg crSEED + 1) ∧ (s.core.fmodeRm ≠ 4 → c.creg crSEED = s.core.creg crSEED) := by
  intro c
  have hseed : c.creg crSEED = ((begun s x).core.seedStep s.core.fmodeRm).creg crSEED := by
    simp only [c, beat_eq, begun_fmodeRm, Core.creg, Ctx.creg]
  have hold : (begun s x).core.creg crSEED = s.core.creg crSEED := begun_creg s x (by decide)
  refine ⟨?_, ?_, ?_, ?_, ?_, fun h4 => ?_, fun h4 => ?_⟩
  · simp only [c, beat_eq, begun_legend]
  · simp only [c, beat_eq, begun_mcfg]
  · simp only [c, beat_eq, begun_core, Core.voidPorts_ctx, Core.beginIssue_s]
  · simp only [c, beat_eq, begun_core, Core.voidPorts_ctx, Core.beginIssue_v]
  · simp only [c, beat_eq, begun_core, Core.voidPorts_ctx, Core.beginIssue_pc]
  · rw [hseed, h4, Core.seedStep_seed, hold]
  · rw [hseed, Core.seedStep_other _ h4, hold]

/-- Settles O26: the beat's accumulator element by element, and the fields that a beat leaves. -/
theorem beatsAccumulate : Obligations.BeatsAccumulate := by
  intro s row f x h ha hb hrm hm het k
  refine ⟨_, exec_mbeat h ha hb hrm hm het, accumulates_beat (congrArg Core.acc (State.core_onCore ..)), begun_mem s x, ?_⟩
  rw [State.core_onCore]
  exact beat_frame s x _

/-! ## mbeatq (R239) -/

section
variable {s : State} {row : OpRow} {f : Form} {x : Args}

/-- What KPOS and the group size code of MCFG stop a grouped beat with (R430). -/
def mcfgStops (et : Nat) (m : Word) : List Cond :=
  (if m.toNat % 4 = 3 then [condOwn 0x16 1 15 m] else []) ++ (if mcfgKpos m % (16 / etBits et) ≠ 0 then [condOwn 0x16 3 15 m] else [])

/-- What a grouped beat that its MCFG does not stop finds of its two descriptor-cache entries (R236, R434). -/
def descWaits (s : State) (et : Nat) : List (Bool × List Cond) :=
  if (mcfgStops et s.core.mcfg).isEmpty then
    [descWait s false (beatGroup s.core.mcfg) (descWidth et), descWait s true (beatGroup s.core.mcfg) (descWidth et)] else []

theorem descWait_cached {b : Bool} {g : Nat} {e : DescEntry} (h : s.core.descOf b g = some e) (w : Nat) :
    descWait s b g w = (false, []) := by
  rw [descWait, h]

/-- What a grouped beat issues under: sound matrix state and rounding registers, INT8 or INT4 elements, and a group that lies in both
planes (R239, R430). -/
structure GroupedIssue (s : State) (x : Args) : Prop where
  matrix : s.core.mxBad = []
  dynamic : s.core.fmodeRm.toNat < 5
  modes : ModesSound s.core
  elem : mET x.m = 10 ∨ mET x.m = 12
  planeA : beatGroup s.core.mcfg ≤ mcfgGpl s.core.mcfg false
  planeB : beatGroup s.core.mcfg ≤ mcfgGpl s.core.mcfg true

/-- A grouped beat meets what its MCFG and its descriptors stop it with. -/
theorem semMbeatq_issue (h : Issues (.mbeatq f) {} s row f x) (g : GroupedIssue s x) :
    (semMbeatq f s).block = x.block ∧
    (semMbeatq f s).fills = ((descWaits s (mET x.m)).any Prod.fst && !((descWaits s (mET x.m)).any fun k => !k.2.isEmpty)) ∧
    (semMbeatq f s).conds = mcfgStops (mET x.m) s.core.mcfg ++ (descWaits s (mET x.m)).flatMap Prod.snd := by
  obtain rfl := h.row_eq rfl
  have hgpl : ¬ (mcfgGpl s.core.mcfg false < beatGroup s.core.mcfg ∨ mcfgGpl s.core.mcfg true < beatGroup s.core.mcfg) :=
    not_or.mpr ⟨Nat.not_lt.mpr g.planeA, Nat.not_lt.mpr g.planeB⟩
  have hok : (decide (mET x.m = 10) || decide (mET x.m = 12)) = true := by simpa using g.elem
  simp only [semMbeatq, h.args, h.given, hok, g.modes.beatRmConds_nil g.dynamic, mxConds_sound g.matrix, if_neg hgpl, if_true,
    Bool.true_and, List.nil_append, List.append_nil, List.isEmpty_nil, Bool.and_true, descWaits, mcfgStops, decide_eq_true_eq]
  exact ⟨trivial, rfl, rfl⟩

/-- With both descriptors cached, the effect of a grouped beat (R239). -/
theorem semMbeatq_eff {da db : DescEntry} (h : Issues (.mbeatq f) {} s row f x)
    (ha : s.core.descOf false (beatGroup s.core.mcfg) = some da) (hb : s.core.descOf true (beatGroup s.core.mcfg) = some db) (t : State) :
    (semMbeatq f s).eff t = (effNone x t).onCore (groupedBeat s.core x da db) := by
  obtain rfl := h.row_eq rfl
  simp only [semMbeatq, h.args, ha, hb]
  rfl

section
variable (h : Issues (.mbeatq f) {} s row f x) (g : GroupedIssue s x) (hacc : s.core.accAbsent = false)
include h g hacc

/-- The one condition of its MCFG stops a grouped beat, which then looks at no descriptor (R430, R434). -/
theorem exec_mbeatq_stopped {c : Cond} (hs : mcfgStops (mET x.m) s.core.mcfg = [c]) (hr : 2 ≤ c.rank ∧ c.rank ≤ 8) :
    StopsWith (.mbeatq f) s row f c := by
  obtain ⟨hblock, hfills, hconds⟩ := semMbeatq_issue h g
  have hwaits : descWaits s (mET x.m) = [] := by rw [descWaits, hs]; rfl
  rw [hwaits] at hfills hconds
  rw [hs] at hconds
  exact issueOp_stop h (hblock.trans h.ready) hconds (fun _ => hacc) hfills hr

/-- A grouped beat that nothing stops, with both descriptors cached, answers its effect (R236, R239). -/
theorem exec_mbeatq {da db : DescEntry} (hs : mcfgStops (mET x.m) s.core.mcfg = [])
    (ha : s.core.descOf false (beatGroup s.core.mcfg) = some da) (hb : s.core.descOf true (beatGroup s.core.mcfg) = some db) :
    exec (.mbeatq f) s = .next ((begun s x).onCore (groupedBeat s.core x da db)) := by
  obtain ⟨hblock, hfills, hconds⟩ := semMbeatq_issue h g
  have hwaits : descWaits s (mET x.m) = [(false, []), (false, [])] := by
    rw [descWaits, hs, descWait_cached ha, descWait_cached hb]; rfl
  rw [hwaits] at hfills hconds
  rw [hs] at hconds
  have hexec : exec (.mbeatq f) s = issueOp (.mbeatq f) (semMbeatq f s) s := rfl
  rw [hexec, issueOp_clear h (hblock.trans h.ready) hconds rfl rfl rfl rfl (fun _ => hacc) hfills, semMbeatq_eff h ha hb, effNone_begun]

end
end

/-- Settles O28: what MCFG stops a grouped beat with, and its effect where nothing does. -/
theorem groupedBeatsUseDescriptors : Obligations.GroupedBeatsUseDescriptors := by
  intro s row f x h hacc hb hrm hm het k m g
  refine ⟨fun h3 hk hga hgb da db hda hdb => ?beat, fun h3 hk hga hgb => ?size, fun h3 hk hga hgb => ?kpos⟩
  all_goals have hg : GroupedIssue s x := ⟨hb, hrm, hm, het, hga, hgb⟩
  case size =>
    have hs : mcfgStops (mET x.m) m = [⟨7, 0x16, 1, 15, m, 0⟩] := by rw [mcfgStops, if_pos h3, if_neg (not_not.mpr hk)]; rfl
    exact exec_mbeatq_stopped h hg hacc hs (by simp)
  case kpos =>
    have hs : mcfgStops (mET x.m) m = [⟨7, 0x16, 3, 15, m, 0⟩] := by rw [mcfgStops, if_neg h3, if_pos hk]; rfl
    exact exec_mbeatq_stopped h hg hacc hs (by simp)
  case beat =>
    have hs : mcfgStops (mET x.m) m = [] := by rw [mcfgStops, if_neg h3, if_neg (not_not.mpr hk)]; rfl
    refine ⟨_, exec_mbeatq h hg hacc hs hda hdb, ?_⟩
    rw [State.core_onCore]
    refine ⟨accumulates_beat ((congrArg Core.acc (State.core_onCore ..)).trans (groupedBeat_acc ..)), ?_, ?_, groupedBeat_mstat ..,
      begun_mem s x⟩
    · rw [groupedBeat_mcfg, mcfgKpos_mcfgSetKpos, BitVec.toNat_ofNat]
    · rw [groupedBeat_mcfg, mcfgSetKpos_low, begun_mcfg]

end Sys2Proof.Claims
end

section
/-! SUPPORT. A rounded value fits its format: the patterns that rounding to f32, f16 and bf16 gives (R94, R98-R101). -/

namespace Sys2Proof.Machine

/-! ## The rounded significand -/

theorem roundRat_le (rm : BitVec 3) (draw : Nat) (neg : Bool) (num den : Nat) : (roundRat rm draw neg num den).1 ≤ num / den + 1 := by
  have hup (up : Bool) : (if up then num / den + 1 else num / den) ≤ num / den + 1 := by cases up <;> simp
  simp only [roundRat]
  split
  · exact Nat.le_succ _
  · exact hup _

/-- A value rounded at most `w` places below its leading bit has at most `w + 1` bits, or is the next power of two. -/
theorem roundAt_le {rm : BitVec 3} {draw : Nat} {neg : Bool} {m w : Nat} {e q : Int} (h : (Nat.log2 m : Int) + e - w ≤ q) :
    (roundAt rm draw neg m e q).1 ≤ 2 ^ (w + 1) := by
  have hm : m < 2 ^ (Nat.log2 m + 1) := Nat.lt_log2_self
  unfold roundAt
  split
  · next hqe =>
    calc m * 2 ^ (e - q).toNat ≤ 2 ^ (Nat.log2 m + 1) * 2 ^ (e - q).toNat := Nat.mul_le_mul_right _ hm.le
      _ = 2 ^ (Nat.log2 m + 1 + (e - q).toNat) := (Nat.pow_add ..).symm
      _ ≤ 2 ^ (w + 1) := Nat.pow_le_pow_right (by decide) (by omega)
  · next hqe =>
    generalize hd : min (q - e).toNat (Nat.log2 m + 64) = d
    have hlt : m / 2 ^ d < 2 ^ (w + 1) := by
      refine Nat.div_lt_of_lt_mul (hm.trans_le ?_)
      rw [← Nat.pow_add]
      exact Nat.pow_le_pow_right (by decide) (by omega)
    exact (roundRat_le ..).trans hlt

/-! ## Patterns of a format -/

/-- The exponent field of all ones stands one unit of it below the sign bit. -/
theorem FFmt.allOnes_add (f : FFmt) : (2 ^ f.ew - 1) * 2 ^ f.fw + 2 ^ f.fw = f.signW := by
  have : 0 < 2 ^ f.ew := Nat.two_pow_pos _
  rw [← Nat.succ_mul, Nat.succ_eq_add_one, Nat.sub_add_cancel this, FFmt.signW, Nat.pow_add]

theorem FFmt.inf_lt (f : FFmt) (neg : Bool) : f.inf neg < 2 * f.signW := by
  have hall := f.allOnes_add
  have hpos : 0 < 2 ^ f.fw := Nat.two_pow_pos _
  simp only [FFmt.inf]
  split <;> omega

section
variable {f : FFmt} (hf : f.e4m3 = false)
include hf

theorem FFmt.nan_lt : f.nan < 2 * f.signW := by
  have hall := f.allOnes_add
  have hunit : 2 ^ (f.fw - 1) ≤ 2 ^ f.fw := Nat.pow_le_pow_right (by decide) (Nat.sub_le ..)
  have hpos : 0 < 2 ^ f.fw := Nat.two_pow_pos _
  simp only [FFmt.nan, hf, Bool.false_eq_true, if_false]
  omega

theorem FFmt.largest_lt (neg : Bool) : f.largest neg < 2 * f.signW := by
  have hall := f.allOnes_add
  have hpos : 0 < 2 ^ f.fw := Nat.two_pow_pos _
  simp only [FFmt.largest, hf, Bool.false_eq_true, if_false]
  split <;> omega

theorem overflowBits_lt (sat : Bool) (rm : BitVec 3) (neg : Bool) : overflowBits f sat rm neg < 2 * f.signW := by
  have hif (toInf : Bool) : (if toInf then f.inf neg else f.largest neg) < 2 * f.signW := by
    cases toInf
    · exact FFmt.largest_lt hf neg
    · exact f.inf_lt neg
  simp only [overflowBits, hf, Bool.false_eq_true, if_false]
  exact hif _

/-- A significand that does not overflow stands, with its exponent, below the sign bit. -/
theorem pattern_lt (hew : 2 ≤ f.ew) {q : Int} {k : Nat} (hk : k ≤ 2 ^ (f.fw + 1)) (hq : q ≤ f.topExp) :
    (q + f.fw - f.emin).toNat * 2 ^ f.fw + k < f.signW := by
  have hpos : 0 < 2 ^ f.fw := Nat.two_pow_pos _
  have hfour : 2 ^ 2 ≤ 2 ^ f.ew := Nat.pow_le_pow_right (by decide) hew
  have hfield : (q + f.fw - f.emin).toNat + 3 ≤ 2 ^ f.ew := by
    have hpow : ((2 ^ f.ew : Nat) : Int) = (2 : Int) ^ f.ew := by push_cast; rfl
    simp only [FFmt.topExp, hf, Bool.false_eq_true, if_false, ← hpow] at hq
    simp only [FFmt.emin]
    omega
  have hmul := Nat.mul_le_mul_right (2 ^ f.fw) hfield
  rw [Nat.add_mul, ← Nat.pow_add] at hmul
  rw [Nat.pow_succ] at hk
  rw [FFmt.signW]
  omega

/-- round_fmt gives a pattern of its format (R98-R101). -/
theorem roundFin_lt (hew : 2 ≤ f.ew) (sat : Bool) (rm : BitVec 3) (draw : Nat) (neg : Bool) (m : Nat) (e : Int) :
    (roundFin f sat rm draw neg m e).1 < 2 * f.signW := by
  have hk : (roundAt rm draw neg m e (max ((Nat.log2 m : Int) + e - f.fw) (f.emin - f.fw))).1 ≤ 2 ^ (f.fw + 1) :=
    roundAt_le (le_max_left _ _)
  simp only [roundFin]
  split
  · exact overflowBits_lt hf sat rm neg
  · next ho =>
    have hlt := pattern_lt hf hew hk (Int.not_lt.mp (not_or.mp ho).1)
    dsimp only
    split <;> omega

theorem roundFmt_lt (hew : 2 ≤ f.ew) (sat : Bool) (rm : BitVec 3) (draw : Nat) (v : FV) : (roundFmt f sat rm draw v).1 < 2 * f.signW := by
  cases v with
  | nan => exact FFmt.nan_lt hf
  | inf n =>
    simp only [roundFmt, hf, Bool.false_eq_true, if_false]
    exact f.inf_lt n
  | fin n m e =>
    have hpos : 0 < f.signW := Nat.two_pow_pos _
    simp only [roundFmt]
    split
    · split <;> omega
    · exact roundFin_lt hf hew sat rm draw n m e

end

/-- A value rounded to f32, f16 or bf16 fits its lane. -/
theorem Rnd.fmt_lt {et : Nat} (het : et < 3) (r : Rnd) (v : FV) (idx : Nat) : (r.fmt (fmtOf et) v idx).1 < 2 ^ etBits et := by
  obtain ⟨hf, hew, hbits⟩ : (fmtOf et).e4m3 = false ∧ 2 ≤ (fmtOf et).ew ∧ 2 * (fmtOf et).signW = 2 ^ etBits et := by
    interval_cases et <;> decide
  rw [← hbits]
  exact roundFmt_lt hf hew ..

end Sys2Proof.Machine
end

section
/-! SUPPORT. Floating lanes: each is its exact value rounded once, and the flags of the active lanes come together (R103, R207, R216). -/

namespace Sys2Proof.Machine

/-- The flags of lanes under a mask are those of the active ones. -/
theorem orFlags_masked (active : Nat → Bool) (fl : Nat → FFlags) (l : List Nat) :
    orFlags (l.map fun i => if active i then fl i else 0) = (l.filter active).foldl (fun a i => a ||| fl i) 0 := by
  rw [orFlags, List.foldl_map, List.foldl_filter]
  congr
  funext a i
  split
  · rfl
  · exact BitVec.or_zero

end Sys2Proof.Machine

namespace Sys2Proof.Claims
open Machine

/-- The lanes of a masked result: active ones are their value cut to the lane (R206, R207). -/
theorem lanes_maskedLanes {c : Core} {x : Args} {val : Nat → Nat} {ok : Nat → Nat → Prop}
    (h : ∀ i, i < laneCount x → laneActive c x.m i = true → ok i (val i % 2 ^ laneBits x)) :
    Lanes c x (maskedLanes c x.m (laneBits x) (laneCount x) x.base val) ok := by
  have hw : widthBits (mW x.m) ≤ 1024 := by unfold widthBits; split <;> decide
  let lane (i : Nat) : Nat := if laneActive c x.m i then val i else if mMRG x.m then laneN (laneBits x) i x.base else 0
  have hlen : ((List.range (laneCount x)).map lane).length = laneCount x := by simp
  have hfit : laneBits x * ((List.range (laneCount x)).map lane).length ≤ 1024 := by
    rw [hlen]
    exact (Nat.mul_div_le _ _).trans hw
  have hread {i : Nat} (hi : i < laneCount x) :
      laneN (laneBits x) i (maskedLanes c x.m (laneBits x) (laneCount x) x.base val) = lane i % 2 ^ laneBits x := by
    rw [maskedLanes, laneN_packLanes hfit, getD_map_range _ _ hi]
  refine ⟨fun i hi => ⟨fun ha => ?_, fun ha => ?_⟩, fun j hj => ?_⟩
  · rw [hread hi]
    simpa only [lane, ha, if_true] using h i hi ha
  · rw [hread hi]
    simp only [lane, ha, Bool.false_eq_true, if_false]
    split
    · exact Nat.mod_eq_of_lt (laneN_lt ..)
    · exact Nat.zero_mod _
  · exact getLsbD_packLanes_above hfit (by rwa [hlen])

/-- The floating types of the rounding operations are f32, f16 and bf16 (R209). -/
theorem ModeOk.float {c : Core} {rounds : Bool} {x : Args} (h : ModeOk c .fltR rounds x) : mET x.m < 3 := by
  obtain ⟨het, -, -⟩ := h
  have htypes : ∀ et < 16, etFlt (BitVec.ofNat 4 et) = true → et < 3 := by decide
  exact htypes _ (Nat.mod_lt _ (by decide)) het

section
variable {i : Instr} {use : Use} {s : State} {row : OpRow} {f : Form} {x : Args}
variable {val : Rnd → Args → FFmt → Nat → Nat → Nat × FFlags}

/-- A rounding lane operation answers its lanes, with the flags of the active ones and SEED stepped in mode 4. -/
theorem issueOp_semFloatLanes (h : Issues i { use with base := useMerge } s row f x) (hm : ModeOk s.core .fltR true x) :
    let r := rndOf s.core (effRm s.core x.m)
    let lane (i : Nat) : Nat × FFlags := val r x (fmtOf (mET x.m)) (laneBits x) i
    issueOp i (semFloatLanes row .fltR use true val f s) s =
      .next (answeredFlags s x 4 (maskedLanes s.core x.m (laneBits x) (laneCount x) x.base fun i => (lane i).1)
        (fun i => (lane i).2) r.rm) := by
  intro r lane
  obtain ⟨het, hw, hround⟩ := hm
  have hblock : (semFloatLanes row .fltR use true val f s).block = x.block := by simp only [semFloatLanes, h.args]
  have hconds : (semFloatLanes row .fltR use true val f s).conds = x.conds := by
    simp only [semFloatLanes, h.args, vecConds_nil het (fun _ => hw) (hround rfl), List.append_nil]
  rw [issueOp_effect h hblock hconds rfl rfl rfl rfl (by simp [semFloatLanes])]
  simp only [semFloatLanes, h.args, State.core_onCore, rndOf_beginIssue, effYF_begun, if_true, List.map_map, Function.comp_def,
    apply_ite Prod.fst, apply_ite Prod.snd, orFlags_masked]
  rfl

end

/-- A rounding operation of VFP gives its exact values rounded once. -/
theorem givesRounded_semFloatLanes {op : Form → Instr} {use : Use} {z : Rnd → Args → Nat → FV × Bool} {row : OpRow}
    {val : Rnd → Args → FFmt → Nat → Nat → Nat × FFlags}
    (hop : ∀ f s, opRow (op f) = some (row, f) ∧ exec (op f) s = issueOp (op f) (semFloatLanes row .fltR use true val f s) s)
    (hval : ∀ r x i, val r x (fmtOf (mET x.m)) (laneBits x) i = roundedLane r x (z r x i) i) : GivesRounded op use z := by
  intro f s row' x h hm r
  obtain ⟨hrow, hexec⟩ := hop f s
  obtain rfl := h.row_eq hrow
  refine ⟨_, (hexec.trans (issueOp_semFloatLanes h hm)).trans ?_, lanes_maskedLanes (val := fun i => (roundedLane r x (z r x i) i).1)
    fun i _ _ => Nat.mod_eq_of_lt (Rnd.fmt_lt hm.float ..)⟩
  simp only [hval]
  rfl

/-- The flags of a rounded lane are those of its rounding, with NV for an invalid operation (R96). -/
theorem roundedLane_eq (r : Rnd) (x : Args) (z : FV × Bool) (i : Nat) :
    roundedLane r x z i = ((r.fmt (fmtOf (mET x.m)) z.1 i).1, (r.fmt (fmtOf (mET x.m)) z.1 i).2 ||| nvIf z.2) := by
  simp only [roundedLane, nvIf]
  split
  · rfl
  · simp only [BitVec.ofNat_eq_ofNat, BitVec.or_zero]

/-- A fused form is rounded once (R216). -/
theorem fmaRounded_eq (r : Rnd) (x : Args) (negP negC : Bool) (a b c : FV) (i : Nat) :
    let p := FV.mul a b
    let q := FV.add r.dn (if negP then p.1.negate else p.1) (if negC then c.negate else c)
    fmaRounded r (fmtOf (mET x.m)) negP negC a b c i = roundedLane r x (q.1, p.2 || q.2) i := by
  intro p q
  exact (roundedLane_eq r x (q.1, p.2 || q.2) i).symm

/-- Settles O20: each operation is a lane operation whose lanes are rounded once. -/
theorem floatingLanesRoundOnce : Obligations.FloatingLanesRoundOnce := by
  refine ⟨?add, ?sub, ?mul, ?fma, ?fms, ?fnma, ?scal⟩ <;> refine givesRounded_semFloatLanes (fun _ _ => ⟨rfl, rfl⟩) fun r x i => ?_
  case add | sub | mul => exact (roundedLane_eq ..).symm
  case fma => exact fmaRounded_eq r x false false ..
  case fms => exact fmaRounded_eq r x false true ..
  case fnma => exact fmaRounded_eq r x true false ..
  case scal => rfl

end Sys2Proof.Claims
end

section
/-! SUPPORT. Quantising and dequantising a group: its codes, its two results and what does not stop it (R109-R112, R226-R228). -/

namespace Sys2Proof.Machine

/-- Each value of a group has its code (R110, R111). -/
theorem length_quantise (l : BitVec 256) (zidx qb : Nat) (r : Rnd) (xs : List FV) : (quantise l zidx qb r xs).1.length = xs.length := by
  simp only [quantise]
  split
  · exact List.length_map _
  · split
    · exact List.length_map _
    · simp only [List.length_map, List.length_zipIdx]

/-- Lanes packed into a number of two words read back from its upper and lower word. -/
theorem packNat_halves_lane {e w : Nat} {ls : List Nat} (h : e * ls.length ≤ w + w) (i : Nat) :
    ((BitVec.ofNat w (packNat e ls / 2 ^ w)).toNat * 2 ^ w + (BitVec.ofNat w (packNat e ls % 2 ^ w)).toNat) / 2 ^ (e * i) % 2 ^ e =
      ls.getD i 0 % 2 ^ e := by
  have hhi : packNat e ls / 2 ^ w < 2 ^ w := Nat.div_lt_of_lt_mul (by rw [← Nat.pow_add]; exact packNat_lt_of_le h)
  rw [BitVec.toNat_ofNat, BitVec.toNat_ofNat, Nat.mod_eq_of_lt hhi, Nat.mod_mod, Nat.mul_comm, Nat.div_add_mod, packNat_lane]

theorem orFlags_map_or (l : List Nat) (f g : Nat → FFlags) :
    orFlags (l.map fun i => f i ||| g i) = l.foldl (fun a i => a ||| f i ||| g i) 0 := by
  simp only [orFlags, List.foldl_map, BitVec.or_assoc]

/-- A group of an admitted size has at most 128 codes (R104, R226). -/
theorem quantGroup_le {c : Core} (h : (c.creg crQCFG).toNat / 2 ^ 8 % 4 ≠ 3) : quantGroup c ≤ 128 := by
  have hlt : (c.creg crQCFG).toNat / 2 ^ 8 % 4 < 4 := Nat.mod_lt _ (by decide)
  have hpow : 2 ^ ((c.creg crQCFG).toNat / 2 ^ 8 % 4) ≤ 2 ^ 2 := Nat.pow_le_pow_right (by decide) (by omega)
  rw [quantGroup]
  omega

theorem quantBits_le (m : BitVec 32) : quantBits m ≤ 8 := by
  unfold quantBits
  split <;> decide

@[simp] theorem Core.beginIssue_mstat (c : Core) : c.beginIssue.mstat = c.mstat := by rw [Core.beginIssue_eq]

/-! ## The mode word without its width (R226) -/

theorem and_extractLsb'_of_ones {n lo w : Nat} (m k : BitVec n) (h : k.extractLsb' lo w = BitVec.allOnes w) :
    (m &&& k).extractLsb' lo w = m.extractLsb' lo w := by
  rw [BitVec.extractLsb'_and, h, BitVec.and_allOnes]

/-- The bits of a mode word other than W. -/
def modeNoW : BitVec 32 := 0xFFFFFFCF

theorem mET_modeNoW (m : BitVec 32) : mET (m &&& modeNoW) = mET m := by
  have h (m : BitVec 32) : mET m = (m.extractLsb' 0 4).toNat := by simp [mET]
  rw [h, h, and_extractLsb'_of_ones m modeNoW (by decide)]

theorem mRM_modeNoW (m : BitVec 32) : mRM (m &&& modeNoW) = mRM m := and_extractLsb'_of_ones m modeNoW (by decide)

end Sys2Proof.Machine

namespace Sys2Proof.Claims
open Machine

/-- What quant and dqnt issue under: an admitted type and rounding mode, sound matrix state, and a group of admitted size that its two
operands hold (R226, R430). -/
structure QuantIssue (c : Core) (x : Args) : Prop where
  mode : ModeOk c .quant true { x with m := x.m &&& modeNoW }
  matrix : c.mxBad = []
  code : (c.creg crQCFG).toNat / 2 ^ 8 % 4 ≠ 3
  fits : quantGroup c * laneBits x ≤ 2048
  unmasked : mME x.m = false
  second : (x.nat && c.outstanding x.z) = false

theorem QuantIssue.conds {c : Core} {x : Args} (h : QuantIssue c x) (f : Form) (op : BitVec 6) : quantConds c f op x.m = [] := by
  obtain ⟨het, -, hround⟩ := h.mode
  have hr := hround rfl
  simp only [mET_modeNoW] at het
  simp only [mRM_modeNoW] at hr
  have ⟨_, _, _, hsound⟩ := hr
  have hsize : ¬ (2048 < quantGroup c * etBits (mET x.m) ∨ mME x.m = true) := by
    rw [h.unmasked]
    exact not_or.mpr ⟨Nat.not_lt.mpr h.fits, Bool.false_ne_true⟩
  simp only [quantConds, vecConds_nil (useW := false) het (by simp) hr, if_neg h.code, if_neg hsize, mxConds_sound h.matrix,
    ownConds_sound hsound.qcfg, List.append_nil]

section
variable {s : State} {row : OpRow} {f : Form} {x : Args}

/-- quant answers the codes of its group and their descriptor, and counts an all-zero group (R226, R233). -/
theorem exec_vquant (h : Issues (.vquant f) { b := fun c m => 1024 < quantGroup c * etBits (mET m) } s row f x)
    (g : QuantIssue s.core x) (ha : s.core.accAbsent = false) :
    let r := rndOf s.core (effRm s.core x.m)
    let qb := quantBits x.m
    let q := quantise s.core.legend ((s.core.creg crQCFG).toNat / 2 ^ 12 % 16) qb r ((List.range (quantGroup s.core)).map fun i =>
      (fmtOf (mET x.m)).decode ((x.b.toNat * 2 ^ 1024 + x.a.toNat) / 2 ^ (laneBits x * i) % 2 ^ laneBits x))
    exec (.vquant f) s = .next (s.onCore fun c =>
      let c := { c.beginIssue with mstat := if q.2.2.2.2 then bumpZgc c.mstat else c.mstat }
      (((c.voidPorts x).putResult x s.now 3 x.y (packLanes qb q.1) q.2.2.2.1).putResult x s.now 3 x.z
        (BitVec.ofNat 1024 (descriptor qb q.2.1 q.2.2.1)) 0).seedStep r.rm) := by
  intro r qb q
  obtain rfl := h.row_eq rfl
  have hblock : (semVquant f s).block = x.block := by simp only [semVquant, h.args, g.second, Bool.or_false]
  have hconds : (semVquant f s).conds = x.conds := by simp only [semVquant, h.args, g.conds, List.append_nil]
  have hcount (c : Core) (zg : Bool) : (if zg then { c.beginIssue with mstat := bumpZgc c.beginIssue.mstat } else c.beginIssue) =
      { c.beginIssue with mstat := if zg then bumpZgc c.mstat else c.mstat } := by
    cases zg
    · simp only [Bool.false_eq_true, if_false, ← Core.beginIssue_mstat c]
    · simp only [if_true, Core.beginIssue_mstat]
  refine (issueOp_effect h hblock hconds rfl rfl rfl rfl fun _ => ha).trans ?_
  simp only [semVquant, h.args, State.onCore_onCore, State.core_onCore, rndOf_beginIssue, State.now_onCore_beginIssue,
    Function.comp_def, hcount]
  rfl

/-- The values that dqnt rounds (R112, R227); a code equal to the zero point stands for +0 before the product, the model's choice (log
entry 68). -/
def dequantised (c : Core) (x : Args) (i : Nat) : FV × Bool :=
  let qb := quantBits x.m
  let d := x.b.toNat % 2 ^ (2 * qb)
  FV.mul (legendAt c.legend (d / 2 ^ qb % 16)) (FV.ofInt ((laneN qb i x.a : Int) - (d % 2 ^ qb : Nat)) 0)

/-- dqnt answers the lower and the upper half of its rounded values (R227). -/
theorem exec_vdqnt (h : Issues (.vdqnt f) {} s row f x) (g : QuantIssue s.core x) (ha : s.core.accAbsent = false) :
    let r := rndOf s.core (effRm s.core x.m)
    let y (i : Nat) : Nat × FFlags := r.fmt (fmtOf (mET x.m)) (dequantised s.core x i).1 i
    let v := packNat (laneBits x) ((List.range (quantGroup s.core)).map fun i => (y i).1)
    exec (.vdqnt f) s = .next (s.onCore fun c =>
      (((c.beginIssue.voidPorts x).putResult x s.now 3 x.y (BitVec.ofNat 1024 (v % 2 ^ 1024))
        ((List.range (quantGroup s.core)).foldl (fun a i => a ||| (y i).2 ||| nvIf (dequantised s.core x i).2) 0)).putResult x s.now 3
          x.z (BitVec.ofNat 1024 (v / 2 ^ 1024)) 0).seedStep r.rm) := by
  intro r y v
  obtain rfl := h.row_eq rfl
  have hblock : (semVdqnt f s).block = x.block := by simp only [semVdqnt, h.args, g.second, Bool.or_false]
  have hconds : (semVdqnt f s).conds = x.conds := by simp only [semVdqnt, h.args, g.conds, List.append_nil]
  refine (issueOp_effect h hblock hconds rfl rfl rfl rfl fun _ => ha).trans ?_
  simp only [semVdqnt, h.args, State.onCore_onCore, State.core_onCore, rndOf_beginIssue, State.now_onCore_beginIssue,
    Function.comp_def, List.map_map, List.foldr_map, orFlags_map_or, v, packNat]
  rfl

end

/-- Settles O23: the codes of quant lie packed in one vector, and the values of dqnt in two. -/
theorem quantisingGroups : Obligations.QuantisingGroups := by
  intro f s row x hmode hmx hcode hfits hme hacc hz r fm qb
  have g : QuantIssue s.core x := ⟨hmode, hmx, hcode, hfits, hme, by
    cases hn : x.nat
    · rfl
    · exact hz hn⟩
  refine ⟨fun h => ?quant, fun h => ?dqnt⟩
  case quant =>
    intro xs q
    have hlen : q.1.length = quantGroup s.core := by simp only [q, length_quantise, xs, List.length_map, List.length_range]
    have hfit : qb * q.1.length ≤ 1024 := by
      rw [hlen]
      exact (Nat.mul_le_mul (quantBits_le x.m) (quantGroup_le hcode)).trans (by decide)
    exact ⟨packLanes qb q.1, fun i _ => laneN_packLanes hfit i, exec_vquant h g hacc⟩
  case dqnt =>
    intro d z fl
    have hfit : laneBits x * ((List.range (quantGroup s.core)).map fun i => (r.fmt fm (z i).1 i).1).length ≤ 1024 + 1024 := by
      rw [List.length_map, List.length_range, Nat.mul_comm]
      exact hfits
    exact ⟨_, _, fun i hi => (packNat_halves_lane hfit i).trans (by rw [getD_map_range _ _ hi]), exec_vdqnt h g hacc⟩

end Sys2Proof.Claims
end

section
/-! SUPPORT. Words and bytes: the fields of a packed word read back, and so does a word from its bytes (R4). -/

namespace Sys2Proof

variable {v w lo n : Nat}

theorem bits_append_high (x : BitVec v) (y : BitVec w) (h : w ≤ lo) : bits (x ++ y) lo n = bits x (lo - w) n :=
  BitVec.extractLsb'_append_eq_of_le h

theorem bits_append_low (x : BitVec v) (y : BitVec w) (h : lo + n ≤ w) : bits (x ++ y) lo n = bits y lo n :=
  BitVec.extractLsb'_append_eq_of_add_le h

theorem bits_self (x : BitVec w) : bits x 0 w = x := BitVec.extractLsb'_eq_self

theorem bits_setWidth_self (x : BitVec w) (h : w ≤ v) : bits (x.setWidth v) 0 w = x := by
  rw [bits, BitVec.extractLsb'_setWidth_of_le (by omega), BitVec.extractLsb'_eq_self]

theorem wordOfBytes_bytesOfWord (k x : Nat) (h : x < 256 ^ k) : wordOfBytes (bytesOfWord k x) = x := by
  induction k generalizing x with
  | zero => simp only [pow_zero, Nat.lt_one_iff] at h; subst h; rfl
  | succ k ih =>
    rw [bytesOfWord, wordOfBytes, ih _ (Nat.div_lt_of_lt_mul (by rwa [← Nat.pow_succ']))]
    simp only [BitVec.toNat_ofNat, Nat.reducePow]
    omega

/-- The bytes of a word are taken off the front as that word (R4). -/
theorem takeWord_bytesOfWord {k x : Nat} (h : x < 256 ^ k) (r : List Byte) : takeWord k (bytesOfWord k x ++ r) = .ok (x, r) := by
  have hl : (bytesOfWord k x).length = k := Laws.bytesOfWord_length k x
  rw [takeWord, if_pos (by simp [hl]), List.take_left' hl, List.drop_left' hl, wordOfBytes_bytesOfWord k x h]

theorem takeWord_four (x : BitVec 32) (r : List Byte) : takeWord 4 (bytesOfWord 4 x.toNat ++ r) = .ok (x.toNat, r) :=
  takeWord_bytesOfWord x.isLt r

theorem takeWord_two (x : BitVec 16) (r : List Byte) : takeWord 2 (bytesOfWord 2 x.toNat ++ r) = .ok (x.toNat, r) :=
  takeWord_bytesOfWord x.isLt r

end Sys2Proof
end

section
/-! SUPPORT. Move words, transit instructions and triggers decode to what they encode (R139-R142, R156, R275). -/

namespace Sys2Proof
open Machine

/-! ## Moves (R139, R141) -/

section
variable (e n : BitVec 1) (g : BitVec 4) (form : BitVec 2) (d s : BitVec 12)

@[simp] theorem moveWord_e : bits (moveWord e n g form d s) 31 1 = e := by
  simp (disch := decide) only [moveWord, bits_append_high, Nat.reduceSub, bits_self]
@[simp] theorem moveWord_n : bits (moveWord e n g form d s) 30 1 = n := by
  simp (disch := decide) only [moveWord, bits_append_high, bits_append_low, Nat.reduceSub, bits_self]
@[simp] theorem moveWord_g : bits (moveWord e n g form d s) 26 4 = g := by
  simp (disch := decide) only [moveWord, bits_append_high, bits_append_low, Nat.reduceSub, bits_self]
@[simp] theorem moveWord_form : bits (moveWord e n g form d s) 24 2 = form := by
  simp (disch := decide) only [moveWord, bits_append_high, bits_append_low, Nat.reduceSub, bits_self]
@[simp] theorem moveWord_d : bits (moveWord e n g form d s) 12 12 = d := by
  simp (disch := decide) only [moveWord, bits_append_high, bits_append_low, Nat.reduceSub, bits_self]
@[simp] theorem moveWord_s : bits (moveWord e n g form d s) 0 12 = s := by
  simp (disch := decide) only [moveWord, bits_append_low, bits_self]
end

/-- A sound move word with its immediate in the bytes that follow it decodes to its move (R139, R141). -/
theorem decodeMove_word {w : BitVec 32} (hw : moveWordCheck w = .ok ()) {x : Nat} (hx : x < 256 ^ litBytes w) (tail : List Byte) :
    decodeMove (bytesOfWord 4 w.toNat ++ (bytesOfWord (litBytes w) x ++ tail)) = .ok (moveOfWords w x, tail) := by
  simp only [decodeMove, takeWord_four, BitVec.ofNat_toNat, BitVec.setWidth_eq, hw, takeWord_bytesOfWord hx]

theorem decodeMove_encodeMove {i : Instr} (hi : WellFormed i = true) {bs : List Byte} (h : encodeMove i = some bs)
    (tail : List Byte) : decodeMove (bs ++ tail) = .ok (i, tail) := by
  unfold encodeMove at h
  split at h <;> simp only [Option.some.injEq, reduceCtorEq] at h <;> subst h <;>
    simp only [WellFormed, Bool.and_eq_true] at hi
  case h_1 e n g d s =>
    obtain ⟨⟨hg, hd⟩, hs⟩ := hi
    have hw : moveWordCheck (moveWord e n g 0 d s) = .ok () := by simp [moveWordCheck, hg, hd, hs]
    have := decodeMove_word hw (x := 0) (by simp [litBytes]) tail
    simpa [litBytes, bytesOfWord, moveOfWords] using this
  case h_2 e n g d s =>
    have hw : moveWordCheck (moveWord e n g 1 d s) = .ok () := by simp [moveWordCheck, hi]
    have := decodeMove_word hw (x := 0) (by simp [litBytes]) tail
    simpa [litBytes, bytesOfWord, moveOfWords] using this
  case h_3 e n g d m =>
    have hw : moveWordCheck (moveWord e n g 2 d 0) = .ok () := by simp [moveWordCheck, hi]
    have := decodeMove_word hw (x := m.toNat) (by simpa [litBytes] using m.isLt) tail
    simpa [litBytes, moveOfWords] using this
  case h_4 e n g d m =>
    have hw : moveWordCheck (moveWord e n g 3 d 0) = .ok () := by simp [moveWordCheck, hi]
    have := decodeMove_word hw (x := m.toNat) (by simpa [litBytes] using m.isLt) tail
    simpa [litBytes, moveOfWords] using this

/-! ## Transit instructions (R275) -/

theorem transit_op (op : BitVec 6) (d : BitVec 10) : bits (op ++ d : BitVec 16) 10 6 = op := by
  simp (disch := decide) only [bits_append_high, Nat.reduceSub, bits_self]

theorem transit_operand (op : BitVec 6) (d : BitVec 10) : bits (op ++ d : BitVec 16) 0 10 = d := by
  simp (disch := decide) only [bits_append_low, bits_self]

theorem toNat_setWidth_lt {k m : Nat} (x : BitVec k) (h : k ≤ m) : (x.setWidth m).toNat < 2 ^ k := by
  rw [BitVec.toNat_setWidth_of_le h]
  exact x.isLt

theorem decodeTransit_encodeTransit {i : Instr} {w : BitVec 16} (h : encodeTransit i = some w) : decodeTransit w = .ok i := by
  cases i
  all_goals cases h
  all_goals unfold decodeTransit
  all_goals rw [transit_op, transit_operand]
  case pvadd t s => revert t s; decide
  case pushi | xtnd | addi | env | clon | least | park => rw [BitVec.setWidth_eq]; rfl
  case ldw | stw | pld | pst | comb | skz | sknz | skip | fwd =>
    refine (if_pos (toNat_setWidth_lt _ (by decide))).trans ?_
    rw [BitVec.setWidth_setWidth_of_le _ (by decide), BitVec.setWidth_eq]
  all_goals rfl

end Sys2Proof
end

section
/-! SUPPORT. The catalogue and the decoders' tables agree: each row's codes are those that its constructor is found under (R156, R164-R168). -/

namespace Sys2Proof
open Machine

/-- The class whose slots hold words of a shape (R72, R161, R163, R165, R166). -/
def shapeClass : Shape → SlotClass
  | .sr .. | .srv | .sk | .sb | .sd | .sc .. | .sg .. | .sl | .sel | .lea => .s
  | .v .. | .vfma | .vcmp _ | .sfn => .v
  | .xb _ | .xr _ | .xs .. | .mdsc => .x
  | _ => .m

/-- What the table of a class holds for an opcode. -/
def classCtor : SlotClass → BitVec 6 → Option ((Form → Instr) × BitVec 4)
  | .s => ctorS
  | .v => ctorV
  | .x => ctorX
  | .m => ctorM

/-- What the decoders' tables hold for a word of a shape, by its opcode and, in an SG word, its FN. -/
def slotCtor (sh : Shape) (op : BitVec 6) (fn : BitVec 4) : Option ((Form → Instr) × BitVec 4) :=
  match sh with
  | .sg .. => if op = 0x38 then (ctorFn fn).map (·, 0) else none
  | .ldLong => ctorLong false op
  | .stLong => ctorLong true op
  | sh => classCtor (shapeClass sh) op

/-- Row `row` of the catalogue is that of the operation `c`: the tables hold `c` at the row's trigger code and opcodes, its unit assigns
the code (R141), its shape is one of the unit's class, and where the shape has a form with an immediate of 32 bits, R162 allows its
opcodes there. -/
structure Catalogued (c : Form → Instr) (row : OpRow) : Prop where
  opRow_eq : ∀ f, opRow (c f) = some (row, f)
  trigger : row.code ≠ 0 → triggerCtor row.unit row.code = some c
  code_lt : row.code.toNat < triggerEnd row.unit
  class_eq : unitClass row.unit = shapeClass row.shape
  nsub_pos : 0 < row.nsub
  escape : row.shape = .sk ∨ row.shape = .sr .sreg true .any → ∀ k < row.nsub, escapeOk (row.op + BitVec.ofNat 6 k) = true
  slot : ∀ k < row.nsub, slotCtor row.shape (row.op + BitVec.ofNat 6 k) row.fn = some (c, BitVec.ofNat 4 k)

theorem opRow_catalogued {i : Instr} {row : OpRow} {f : Form} (h : opRow i = some (row, f)) : ∃ c, i = c f ∧ Catalogued c row := by
  cases i
  all_goals cases h
  case cmpn | ldLong | stLong =>
    refine ⟨_, rfl, fun _ => rfl, fun h => absurd rfl h, by decide, by decide, by decide, by decide, fun k hk => ?_⟩
    simp only at hk
    interval_cases k <;> rfl
  all_goals
    refine ⟨_, rfl, fun _ => rfl, fun _ => rfl, by decide, by decide, by decide, by decide, fun k hk => ?_⟩
    simp only at hk
    interval_cases k <;> rfl

end Sys2Proof
end

section
/-! SUPPORT. Triggers and native slot words decode to what they encode (R128, R140, R156, R158-R168). -/

namespace Sys2Proof
open Machine

/-- An operation is well formed where its form is. -/
theorem wellFormed_of_opRow {i : Instr} {row : OpRow} {f : Form} (h : opRow i = some (row, f)) : WellFormed i = formOk row f := by
  cases i
  all_goals cases h
  all_goals rfl

/-! ## Triggers (R128, R140) -/

theorem unitOfCode_unitCode (u : Unit13) : unitOfCode (unitCode u) = some u := by cases u <;> rfl

/-- The destination field of trigger `code` of one port of a unit (R140). -/
def triggerRef (u : Unit13) (inst : BitVec 2) (code : BitVec 5) : BitVec 12 := (1 : BitVec 1) ++ unitCode u ++ inst ++ code

section
variable (u : Unit13) (inst : BitVec 2) (code : BitVec 5)

theorem triggerRef_class : (triggerRef u inst code).getLsbD 11 = true := by
  simp only [triggerRef, BitVec.getLsbD_append]
  rfl
theorem triggerRef_unit : bits (triggerRef u inst code) 7 4 = unitCode u := by
  simp (disch := decide) only [triggerRef, bits_append_high, bits_append_low, Nat.reduceSub, bits_self]
theorem triggerRef_inst : bits (triggerRef u inst code) 5 2 = inst := by
  simp (disch := decide) only [triggerRef, bits_append_high, bits_append_low, Nat.reduceSub, bits_self]
theorem triggerRef_code : bits (triggerRef u inst code) 0 5 = code := by
  simp (disch := decide) only [triggerRef, bits_append_low, bits_self]
end

theorem decodeTrigger_triggerRef {c : Form → Instr} {row : OpRow} (hc : Catalogued c row) {inst : BitVec 2}
    (h : formOk row (.wy inst) = true) : decodeTrigger (triggerRef row.unit inst row.code) = some (c (.wy inst)) := by
  simp only [formOk, Bool.and_eq_true, decide_eq_true_eq] at h
  obtain ⟨hcode, hinst⟩ := h
  simp only [decodeTrigger, dstOk, portRefOk, triggerRef_class, triggerRef_unit, triggerRef_inst, triggerRef_code, unitOfCode_unitCode,
    hinst, hc.code_lt, hc.trigger hcode, decide_true, Bool.and_self, if_true, Option.map_some]

theorem decodeTrigger_encodeTrigger {i : Instr} (hi : WellFormed i = true) {d : BitVec 12} (h : encodeTrigger i = some d) :
    decodeTrigger d = some i := by
  unfold encodeTrigger at h
  split at h
  case h_2 => cases h
  next row inst hrow =>
    cases h
    rw [wellFormed_of_opRow hrow] at hi
    obtain ⟨c, rfl, hc⟩ := opRow_catalogued hrow
    exact decodeTrigger_triggerRef hc hi

/-! ## The fields of a slot word (R160-R166) -/

/-- Whether a word of a format is a long-immediate form of its operation (R162, R164, R166). -/
def immForm : Fmt → Bool
  | .se .. | .vx .. | .me .. | .my .. => true
  | _ => false

theorem subOf_lt {nsub : Nat} {sh : Shape} {f : Fmt} (h : shapeOk nsub sh f = true) (h0 : 0 < nsub) : (subOf f).toNat < nsub := by
  cases f
  case ma | mw | mg | atm | me | my =>
    cases sh
    all_goals simp only [shapeOk, Bool.and_eq_true, decide_eq_true_eq, Bool.false_eq_true] at h
    all_goals simp only [subOf]; omega
  all_goals exact h0

/-- Packed fields read back (R160-R166). -/
theorem parseFmt_packFmt {nsub : Nat} {sh : Shape} {f : Fmt} (h : shapeOk nsub sh f = true) (op : BitVec 6) (fn : BitVec 4)
    {x : BitVec 32} (hx : ∀ e ∈ (packFmt op fn f).ext, x = e) : parseFmt sh (immForm f) (subOf f) (packFmt op fn f).body x = f := by
  unfold shapeOk at h
  split at h
  case h_40 => cases h
  all_goals simp (disch := decide) only [packFmt, parseFmt, immForm, subOf, bits_append_high, bits_append_low, Nat.reduceSub, bits_self,
    if_true, if_false, Bool.false_eq_true, Option.mem_def, Option.some.injEq, forall_eq'] at hx ⊢
  all_goals subst hx
  all_goals simp (disch := decide) only [bits_append_high, bits_append_low, Nat.reduceSub, bits_self, bits_setWidth_self]

section
variable {slot : BitVec 3} {op : BitVec 6} {fn : BitVec 4} {c : Form → Instr} {k : BitVec 4}

/-- The word of a packed slot word with its guard (R72-R74). -/
def Packed.word (p : Packed) (gn : BitVec 1) (g : BitVec 4) : BitVec 32 := p.op ++ p.body ++ gn ++ g

@[simp] theorem word_op (p : Packed) (gn : BitVec 1) (g : BitVec 4) : bits (p.word gn g) 26 6 = p.op := by
  simp (disch := decide) only [Packed.word, bits_append_high, Nat.reduceSub, bits_self]
@[simp] theorem word_body (p : Packed) (gn : BitVec 1) (g : BitVec 4) : bits (p.word gn g) 5 21 = p.body := by
  simp (disch := decide) only [Packed.word, bits_append_high, bits_append_low, Nat.reduceSub, bits_self]
@[simp] theorem word_gn (p : Packed) (gn : BitVec 1) (g : BitVec 4) : bits (p.word gn g) 4 1 = gn := by
  simp (disch := decide) only [Packed.word, bits_append_high, bits_append_low, Nat.reduceSub, bits_self]
@[simp] theorem word_g (p : Packed) (gn : BitVec 1) (g : BitVec 4) : bits (p.word gn g) 0 4 = g := by
  simp (disch := decide) only [Packed.word, bits_append_low, bits_self]

/-- The fields of the word above its body's lowest bits: OPX and FN (R162, R166). -/
theorem word_opx7 (p : Packed) (gn : BitVec 1) (g : BitVec 4) : (bits (p.word gn g) 7 6 : BitVec 6) = bits p.body 2 6 := by
  simp (disch := decide) only [Packed.word, bits_append_high, bits_append_low, Nat.reduceSub]
theorem word_opx6 (p : Packed) (gn : BitVec 1) (g : BitVec 4) : (bits (p.word gn g) 6 6 : BitVec 6) = bits p.body 1 6 := by
  simp (disch := decide) only [Packed.word, bits_append_high, bits_append_low, Nat.reduceSub]
theorem word_fn (p : Packed) (gn : BitVec 1) (g : BitVec 4) : (bits (p.word gn g) 22 4 : BitVec 4) = bits p.body 17 4 := by
  simp (disch := decide) only [Packed.word, bits_append_high, bits_append_low, Nat.reduceSub]

/-- No class has an operation at its escape opcodes. -/
theorem ctorOf_short {w x : BitVec 32} (h : classCtor (slotClass slot) (bits w 26 6) = some (c, k)) :
    ctorOf slot w x = some (c, k, false) := by
  cases hs : slotClass slot <;> simp only [hs, classCtor] at h <;> simp only [ctorOf, hs]
  case s =>
    have h33 : ¬ (bits w 26 6 : BitVec 6) = 0x33 := fun e => by rw [e] at h; cases h
    have h38 : ¬ (bits w 26 6 : BitVec 6) = 0x38 := fun e => by rw [e] at h; cases h
    rw [if_neg h33, if_neg h38, h]; rfl
  case v =>
    have h3F : ¬ (bits w 26 6 : BitVec 6) = 0x3F := fun e => by rw [e] at h; cases h
    rw [if_neg h3F, h]; rfl
  case x => rw [h]; rfl
  case m =>
    have h3E : ¬ (bits w 26 6 : BitVec 6) = 0x3E := fun e => by rw [e] at h; cases h
    have h3F : ¬ (bits w 26 6 : BitVec 6) = 0x3F := fun e => by rw [e] at h; cases h
    rw [if_neg h3E, if_neg h3F, h]; rfl

theorem ctorOf_se (hc : slotClass slot = .s) (he : escapeOk op = true) (ht : ctorS op = some (c, k)) (d : BitVec 6) (a : BitVec 7)
    (imm x : BitVec 32) (gn : BitVec 1) (g : BitVec 4) :
    ctorOf slot ((packFmt op fn (.se d a imm)).word gn g) x = some (c, k, true) := by
  simp (disch := decide) only [ctorOf, hc, word_op, word_opx7, packFmt, bits_append_high, bits_append_low, Nat.reduceSub, bits_self,
    if_true, he, ht]
  rfl

theorem ctorOf_vx {x : BitVec 32} (hc : slotClass slot = .v) (ht : ctorV op = some (c, k)) {f : Fmt}
    (h : (packFmt op fn f).op = 0x3F) (hx : (bits x 26 6 : BitVec 6) = op) (gn : BitVec 1) (g : BitVec 4) :
    ctorOf slot ((packFmt op fn f).word gn g) x = some (c, k, true) := by
  simp only [ctorOf, hc, word_op, h, if_true, hx, ht]
  rfl

/-- The tables find a packed word's operation, and whether it is a long-immediate form (R162, R164, R166, R168). -/
theorem ctorOf_packFmt {nsub : Nat} {sh : Shape} {f : Fmt} (h : shapeOk nsub sh f = true) (hc : slotClass slot = shapeClass sh)
    (ht : slotCtor sh op fn = some (c, k)) (he : sh = .sk ∨ sh = .sr .sreg true .any → escapeOk op = true)
    {x : BitVec 32} (hx : ∀ e ∈ (packFmt op fn f).ext, x = e) (gn : BitVec 1) (g : BitVec 4) :
    ctorOf slot ((packFmt op fn f).word gn g) x = some (c, k, immForm f) := by
  unfold shapeOk at h
  split at h
  case h_40 => cases h
  case h_2 d a b fd fa imm =>
    simp only [Bool.and_eq_true, decide_eq_true_eq] at h
    obtain ⟨⟨rfl, rfl⟩, rfl⟩ := h
    exact ctorOf_se hc (he (.inr rfl)) ht fd fa imm x gn g
  case h_5 fd fa imm => exact ctorOf_se hc (he (.inl rfl)) ht fd fa imm x gn g
  case h_9 =>
    simp only [slotCtor] at ht
    split at ht
    case isFalse => cases ht
    next hop =>
      simp only [Option.map_eq_some_iff, Prod.mk.injEq] at ht
      obtain ⟨c, ht, rfl, rfl⟩ := ht
      simp (disch := decide) only [ctorOf, hc, shapeClass, word_op, word_fn, packFmt, bits_append_high, Nat.reduceSub, bits_self, hop,
        if_true, ht]
      rfl
  case h_14 | h_16 | h_18 =>
    refine ctorOf_vx hc ht rfl ?_ gn g
    rw [hx _ rfl]
    simp (disch := decide) only [bits_append_high, Nat.reduceSub, bits_self]
  case h_25 | h_27 =>
    simp (disch := decide) only [ctorOf, hc, shapeClass, word_op, word_opx7, word_opx6, packFmt, bits_append_high, bits_append_low,
      Nat.reduceSub, bits_self, BitVec.reduceEq, if_true, if_false, show ctorLong _ op = _ from ht]
    rfl
  all_goals exact ctorOf_short (by rw [word_op, hc]; exact ht)

end

/-! ## Slot words (R158-R168) -/

/-- The empty word names no operation. -/
theorem ctorOf_zero (slot : BitVec 3) (x : BitVec 32) : ctorOf slot 0 x = none := by
  rw [ctorOf]
  cases slotClass slot <;> rfl

/-- A long form has the word of its right slot (R75), and a long-immediate form of no operation is one of SFN (R164). -/
theorem ext_of_longForm {op : BitVec 6} {fn : BitVec 4} {f : Fmt} {x : BitVec 32} (hx : ∀ e ∈ (packFmt op fn f).ext, x = e)
    (h : longForm f = true) : (packFmt op fn f).ext = some x := by
  cases f
  case sl | sp | se | vx | me | my => exact congrArg some (hx _ rfl).symm
  all_goals cases h

theorem immForm_sfn {nsub : Nat} {f : Fmt} (h : shapeOk nsub .sfn f = true) : immForm f = false := by
  cases f
  case vr => rfl
  all_goals cases h

theorem decodeSlot_packFmt {c : Form → Instr} {row : OpRow} (hc : Catalogued c row) {slot : BitVec 3} {gn : BitVec 1} {g : BitVec 4}
    {f : Fmt} (hf : formOk row (.nat slot gn g f) = true) {x : BitVec 32}
    (hx : ∀ e ∈ (packFmt (row.op + (subOf f).setWidth 6) row.fn f).ext, x = e) :
    decodeSlot slot ((packFmt (row.op + (subOf f).setWidth 6) row.fn f).word gn g) x = .ok (some (c (.nat slot gn g f))) := by
  simp only [formOk, Bool.and_eq_true, Bool.not_eq_true'] at hf
  obtain ⟨⟨⟨hg, hslot⟩, hshape⟩, hover⟩ := hf
  have hclass : slotClass slot = shapeClass row.shape := by
    simp only [slotOk, Bool.and_eq_true, decide_eq_true_eq] at hslot
    rw [← hc.class_eq]
    exact hslot.1
  have hlt := subOf_lt hshape hc.nsub_pos
  have hsub := hc.slot _ hlt
  simp only [BitVec.ofNat_toNat, BitVec.setWidth_eq] at hsub
  have hctor : ctorOf slot ((packFmt (row.op + (subOf f).setWidth 6) row.fn f).word gn g) x = some (c, subOf f, immForm f) :=
    ctorOf_packFmt hshape hclass hsub (fun hs => by simpa using hc.escape hs _ hlt) hx gn g
  have hw : ¬ (packFmt (row.op + (subOf f).setWidth 6) row.fn f).word gn g = 0 := by
    intro h
    rw [h, ctorOf_zero] at hctor
    cases hctor
  have hsfn : ¬ (row.shape = .sfn ∧ immForm f = true) := by
    rintro ⟨hs, hi⟩
    rw [immForm_sfn (hs ▸ hshape)] at hi
    cases hi
  have hext : ¬ (longForm f = true ∧ (packFmt (row.op + (subOf f).setWidth 6) row.fn f).ext ≠ some x) := fun h =>
    h.2 (ext_of_longForm hx h.1)
  simp only [decodeSlot, hw, if_false, word_gn, word_g, hg, not_true_eq_false, hctor, hc.opRow_eq, word_body, word_op,
    parseFmt_packFmt hshape _ _ hx, hslot, hsfn, hshape, hover, hext, ne_eq, or_self, Bool.false_eq_true]

/-- The bytes of a slot word in front of any others decode to its instruction, and the right slot's word stays in front of the rest
(R72, R75). -/
theorem decode_encodeSlot {i : Instr} (hi : WellFormed i = true) {slot : BitVec 3} {w : BitVec 32} {ext : Option (BitVec 32)}
    (h : encodeSlot i = some (slot, w, ext)) {r : List Byte}
    (hr : ∀ e ∈ ext, BitVec.ofNat 32 (wordOfBytes (r.take 4)) = e) :
    decode (.slot slot) (bytesOfWord 4 w.toNat ++ r) = .ok (some i, r) := by
  unfold encodeSlot at h
  split at h
  case h_2 => cases h
  next row k gn g f hrow =>
    cases h
    rw [wellFormed_of_opRow hrow] at hi
    obtain ⟨c, rfl, hc⟩ := opRow_catalogued hrow
    have hdec := decodeSlot_packFmt hc hi hr
    rw [Packed.word] at hdec
    simp only [decode, takeWord_four, BitVec.ofNat_toNat, BitVec.setWidth_eq, hdec]

/-- What is no event is a move, a transit instruction or an operation, in a slot or started by a trigger. -/
theorem encoded_of_not_isEvent {i : Instr} (h : isEvent i = false) : (encode i).isSome = true ∨ (encodeTrigger i).isSome = true := by
  cases hm : encodeMove i with
  | some bs => simp [encode, hm]
  | none =>
    cases ht : encodeTransit i with
    | some w => simp [encode, hm, ht]
    | none =>
      simp only [isEvent, hm, ht, Option.isNone_none, Bool.and_true] at h
      obtain ⟨⟨row, f⟩, hrow⟩ : ∃ x, opRow i = some x := by
        rw [← Option.isSome_iff_exists, ← Option.not_isNone, h]
        rfl
      cases f with
      | wy inst => simp [encodeTrigger, hrow]
      | nat slot gn g f =>
        left
        simp only [encode, hm, ht, encodeSlot, hrow]
        cases (packFmt (row.op + (subOf f).setWidth 6) row.fn f).ext <;> rfl

end Sys2Proof

namespace Sys2Proof.Claims
open Machine

/-- Settles O56: a move, a transit instruction, a slot word with its right slot's word or without, and a trigger, each by its own
decoder. -/
theorem encodingsRoundTrip : Obligations.EncodingsRoundTrip := by
  intro i hi
  refine ⟨fun enc bs tail h => ?_, fun d h => decodeTrigger_encodeTrigger hi h, encoded_of_not_isEvent⟩
  unfold encode at h
  cases hm : encodeMove i with
  | some b =>
    simp only [hm, Option.some.injEq, Prod.mk.injEq] at h
    obtain ⟨rfl, rfl⟩ := h
    simp only [decode, decodeMove_encodeMove hi hm]
  | none =>
    cases ht : encodeTransit i with
    | some w =>
      simp only [hm, ht, Option.some.injEq, Prod.mk.injEq] at h
      obtain ⟨rfl, rfl⟩ := h
      simp only [decode, takeWord_two, BitVec.ofNat_toNat, BitVec.setWidth_eq,
        decodeTransit_encodeTransit ht]
    | none =>
      simp only [hm, ht] at h
      cases hs : encodeSlot i with
      | none => simp only [hs, reduceCtorEq] at h
      | some y =>
        obtain ⟨k, w, ext⟩ := y
        have h4 (w : BitVec 32) : (bytesOfWord 4 w.toNat).length = 4 := Laws.bytesOfWord_length _ _
        cases ext with
        | none =>
          simp only [hs, Option.some.injEq, Prod.mk.injEq] at h
          obtain ⟨rfl, rfl⟩ := h
          rw [decode_encodeSlot hi hs (by simp), List.drop_of_length_le (h4 w).le, List.nil_append]
        | some x =>
          simp only [hs, Option.some.injEq, Prod.mk.injEq] at h
          obtain ⟨rfl, rfl⟩ := h
          rw [List.append_assoc, decode_encodeSlot hi hs, List.drop_left' (h4 w)]
          simp [List.take_left' (h4 x), wordOfBytes_bytesOfWord 4 x.toNat x.isLt]

end Sys2Proof.Claims
end

section
/-! SUPPORT. What the source fields of a native word and the latches of a Wyilo unit read, whatever holds or stops the read (R137, R160,
R171, R172). -/

namespace Sys2Proof.Machine

@[simp] theorem srcOf_val (full w : Bool) (v : Vec) (o : BitVec 4) (tags : List Cond) : (srcOf full w v o tags).val = v := by
  unfold srcOf
  split
  · rfl
  · split <;> rfl

@[simp] theorem setWidth_wide (x : Word) : (wide x).setWidth 64 = x := by simp

section
variable (c : Core) (f : BitVec 7) (o : BitVec 4)

@[simp] theorem Core.srcS_val : (c.srcS f o).val = wide (c.ctx.rdS (f.setWidth 6)) := srcOf_val ..

/-- The index of a scalar in a vector field is the field's lower five bits (R160). -/
theorem scalarIndex_of_vectorField : (f &&& 0x5F).setWidth 6 = (f.setWidth 5).setWidth 6 := by
  revert f
  decide

@[simp] theorem Core.srcV_val : (c.srcV f o).val =
    if f.getLsbD 5 then wide (c.ctx.rdS ((f.setWidth 5).setWidth 6)) else c.ctx.rdV (f.setWidth 5) := by
  unfold Core.srcV
  split
  · rw [Core.srcS_val, scalarIndex_of_vectorField]
  · exact srcOf_val ..

theorem Core.srcBX_val (x : BitVec 1) :
    (c.srcBX f x).val = wide (if x = 1 then f.signExtend 64 else c.ctx.rdS (f.setWidth 6)) := by
  unfold Core.srcBX
  split
  · rfl
  · exact Core.srcS_val ..

end

theorem maskConds_untagged {c : Core} (h : c.tags = []) (row : OpRow) (m : BitVec 32) : maskConds row c m = [] := by
  simp [maskConds, h]

end Sys2Proof.Machine

namespace Sys2Proof.Claims
open Machine

/-- Settles O5: each field's value, whatever else its read meets. -/
theorem operandFieldsAreRead : Obligations.OperandFieldsAreRead := by
  intro c u code op
  refine ⟨fun slot gn g d a b x => ?scalar, fun k slot gn g d a b t => ?vector, fun sh inst va vb ha hb => ?latches,
    fun sh inst hb => ?void⟩
  case scalar =>
    refine ⟨?_, ?_, rfl, rfl⟩
    · exact (congrArg _ (Core.srcS_val c a 4)).trans (setWidth_wide _)
    · exact (congrArg _ (Core.srcBX_val c b x)).trans (setWidth_wide _)
  case vector => exact ⟨Core.srcV_val c a 4, Core.srcV_val c b 1, rfl, rfl⟩
  case latches =>
    simp only [fetchArgs, ha, hb, srcLatch, if_true, Bool.false_eq_true, if_false, List.append_nil, List.nil_append, true_and]
    exact fun htags => maskConds_untagged htags _ _
  case void =>
    simp [fetchArgs, hb, srcLatch, condOperand]

end Sys2Proof.Claims
end

section
/-! SUPPORT. What comes next: the act at the head of the agenda, and what a core and a router do in their turn (R139, R150, R274, R334). -/

namespace Sys2Proof.Machine

/-- An act's turn: the instruction that it executes, or the state that it leaves. -/
def Todo.outcome : Todo → Host.Outcome State Fault Refusal
  | .run i t => exec i t
  | .done t => .next t

variable {s : State} {n : CoreNo}

theorem step_of_agenda {a : Act} {rest : List Act} (h : s.agenda = a :: rest) :
    step s = (({ s with agenda := rest } : State).actBy a).outcome := by
  simp only [step, State.nextTodo, h]
  rfl

theorem step_of_no_agenda (h : s.agenda = []) : step s = (({ s with free := s.free + 1 } : State).actBy (Config.freeAct s.free)).outcome := by
  simp only [step, State.nextTodo, h]
  rfl

/-- A running core that does not depart turns to what is due at it, its pending trap first. -/
theorem coreAct_trap (hn : coreOk n = true) (ha : s.alive n = true) (hl : ((s.landed n).coreAt n).leaving = .none) {t : TrapInfo}
    (ht : ((s.landed n).coreAt n).pendTrap = some t) :
    s.coreAct n = .run (if (s.landed n).faultHeld n t then .pageFaultHold n else .trapEntry n) (s.landed n) := by
  simp [State.coreAct, hn, ha, hl, ht]

/-- A core with an open sheet and no trap pending issues from the sheet. -/
theorem coreAct_issue (hn : coreOk n = true) (ha : s.alive n = true) (hl : ((s.landed n).coreAt n).leaving = .none)
    (ht : ((s.landed n).coreAt n).pendTrap = none) (hi : (s.landed n).canIssue n = true) {sh : Sheet}
    (hs : ((s.landed n).coreAt n).sheet = some sh) : s.coreAct n = (s.landed n).issueAct n sh := by
  simp [State.coreAct, hn, ha, hl, ht, hi, hs]

theorem issueAct_native {sh : Sheet} (h : sh.bundle.isSome = true) : s.issueAct n sh = .run (.bundleIssue n) s := by
  simp [State.issueAct, h]

theorem issueAct_text {sh : Sheet} {i : Instr} {more : List Byte} (hb : sh.bundle = none) (ho : (s.coreAt n).sheetOff sh < sh.text.length)
    (hd : decodeMove ((s.coreAt n).nextBytes sh) = .ok (i, more)) : s.issueAct n sh = .run i { s with cur := n } := by
  simp [State.issueAct, hb, Nat.not_le.mpr ho, hd]

theorem fetch_of_decodeTransit {run : Run} {i : Instr} (hpc : run.p.pc < 16)
    (hd : decodeTransit (run.p.prog.get (BitVec.ofNat 4 run.p.pc)) = .ok i) : run.fetch = .ok i := by
  rw [Run.fetch, if_neg (by omega), hd]

theorem routerAct_run {r : RouterNo} {run : Run} {i : Instr} (hr : routerOk r = true) (hf : s.plat.failStop = false)
    (hrun : (s.routerAt r).run = some run) (hfetch : run.fetch = .ok i) (hl : s.combLate r run i = false) :
    s.routerAct r = .run i { s with curRouter := r } := by
  simp [State.routerAct, hr, hf, hrun, hfetch, hl]

end Sys2Proof.Machine

namespace Sys2Proof.Claims
open Machine

/-- Settles O54: the agenda's head has its turn, and a free act where there is none. -/
theorem stepRunsTheDecodedInstruction : Obligations.StepRunsTheDecodedInstruction := by
  intro s rest s0
  have turn {a : Act} (ha : s.agenda = a :: rest) : step s = (s0.actBy a).outcome := step_of_agenda ha
  have core {n : CoreNo} (h : s.halted = false) : s0.actBy (.core n) = s0.coreAct n := by
    simp only [State.actBy, show s0.halted = false from h, Bool.false_eq_true, if_false]
  refine ⟨?event, ?text, ?native, ?trap, ?router, ?free⟩
  case event =>
    intro i ha hi hh
    rw [turn ha]
    simp only [State.actBy, hi, show s0.halted = false from hh, Bool.not_false, Bool.true_or, Bool.and_self, if_true, Todo.outcome]
  case text =>
    intro n sh i more ha hh hn hal u hl ht hi hs hb ho hd
    rw [turn ha, core hh, coreAct_issue hn hal hl ht hi hs, issueAct_text hb ho hd]
    rfl
  case native =>
    intro n sh ha hh hn hal u hl ht hi hs hb
    rw [turn ha, core hh, coreAct_issue hn hal hl ht hi hs, issueAct_native hb]
    rfl
  case trap =>
    intro n t ha hh hn hal u hl ht
    rw [turn ha, core hh, coreAct_trap hn hal hl ht]
    rfl
  case router =>
    intro r run i ha hh hr hf hrun hl hpc hd
    have hact : s0.routerAct r = .run i { s0 with curRouter := r } :=
      routerAct_run hr hf hrun (fetch_of_decodeTransit hpc hd) hl
    rw [turn ha]
    simp only [State.actBy, show s0.halted = false from hh, Bool.false_eq_true, if_false, hact, Todo.outcome]
  case free =>
    intro ha
    rw [step_of_no_agenda ha, step_of_agenda (a := Config.freeAct s.free) (rest := []) rfl, ← ha]

end Sys2Proof.Claims
end

section
/-! SUPPORT. Sheets and ports where control moves: what a commit and a port boundary leave, and which native sheet a core is in (R136, R150,
R335, R339). -/

namespace Sys2Proof.Machine

/-! ## Sheets -/

@[simp] theorem Core.setSheet_sheet (c : Core) (o : Option Sheet) : (c.setSheet o).sheet = o := RF.get_put_same ..

@[simp] theorem Core.beginSheet_sheet (c : Core) : c.beginSheet.sheet = c.sheet.map fun sh => { sh with begun := true } := by
  unfold Core.beginSheet
  split
  next sh h =>
    split
    next hb => rw [h, Option.map_some, ← hb]
    · rw [Core.setSheet_sheet, h]; rfl
  next h => rw [h]; rfl

@[simp] theorem Core.beginIssue_sheet (c : Core) : c.beginIssue.sheet = c.sheet.map fun sh => { sh with begun := true } := by
  rw [← Core.beginSheet_sheet, Core.sheet, Core.beginIssue_depth, Core.beginIssue_eq, Core.sheet, Core.beginSheet_eq]
  rfl

@[simp] theorem Core.beginIssue_tenant (c : Core) : c.beginIssue.tenant = c.tenant :=
  congrArg (BitVec.setWidth 5) (Core.beginIssue_creg c (by decide))

@[simp] theorem Core.beginIssue_pin (c : Core) : c.beginIssue.pin = c.pin := by
  have h := congrArg (·.getLsbD 1) (Core.beginIssue_pstat c)
  simpa [Core.pin] using h

theorem Core.dropStale_eq (c : Core) : c.dropStale = { c with bcache := c.dropStale.bcache } := by
  unfold Core.dropStale
  split <;> rfl

/-! ## Native sheets (R150) -/

/-- Where a sheet lies, whatever it has gated. -/
def Sheet.place (sh : Sheet) : Word × Option Nat := (sh.entry, sh.bundle)

/-- The native sheet of a core hangs on the images, the place of the open sheet, the tenant and the pin. -/
theorem State.nativeSheet_congr {s t : State} {n : CoreNo} (hp : t.plat = s.plat)
    (hs : (t.coreAt n).sheet.map Sheet.place = (s.coreAt n).sheet.map Sheet.place) (ht : (t.coreAt n).tenant = (s.coreAt n).tenant)
    (hpin : (t.coreAt n).pin = (s.coreAt n).pin) : t.nativeSheet n = s.nativeSheet n := by
  have himage (va : Word) : t.imageAt n va = s.imageAt n va := by simp only [State.imageAt, State.objAt, hp, ht, hpin]
  unfold State.nativeSheet
  cases h : (t.coreAt n).sheet <;> cases h' : (s.coreAt n).sheet <;> simp only [h, h', Option.map_some, Option.map_none, reduceCtorEq] at hs
  · rfl
  next sh sh' =>
    simp only [Option.some.injEq, Sheet.place, Prod.mk.injEq] at hs
    obtain ⟨he, hb⟩ := hs
    simp only [he, hb, himage]

theorem State.nativeSheet_beginIssue (s : State) : (s.onCore Core.beginIssue).nativeSheet s.cur = s.nativeSheet s.cur := by
  have hc : (s.onCore Core.beginIssue).coreAt s.cur = s.core.beginIssue := State.core_onCore s _
  refine State.nativeSheet_congr rfl ?_ ?_ ?_
  · rw [hc, Core.beginIssue_sheet, Option.map_map]; rfl
  · rw [hc, Core.beginIssue_tenant]; rfl
  · rw [hc, Core.beginIssue_pin]; rfl

theorem State.nativeSheet_setLink (s : State) (i : BitVec 6) (v : Word) : (s.setLink true i v).nativeSheet s.cur = s.nativeSheet s.cur := by
  obtain ⟨p, hp⟩ : ∃ p, (s.setLink true i v).coreAt s.cur = { s.core with pend := p } := by
    by_cases hi : i = 0
    · exact ⟨s.core.pend, (State.core_onCore s _).trans (if_pos hi)⟩
    · exact ⟨_, (State.core_onCore s _).trans ((if_neg hi).trans (if_pos rfl))⟩
  refine State.nativeSheet_congr rfl ?_ ?_ ?_ <;> rw [hp] <;> rfl

/-! ## Commits and port boundaries (R136, R335, R339) -/

@[simp] theorem Core.portBoundary_port (c : Core) (i : BitVec 6) : c.portBoundary.port i = {} := by
  show ((c.banks.put c.depth (RF.fill {})).get c.depth).get i = {}
  rw [RF.get_put_same, RF.get_fill]

theorem State.commitSheet_sheetless {s : State} {n : CoreNo} (h : (s.coreAt n).sheet = none) : s.commitSheet n = s := by
  simp only [State.commitSheet, h]

theorem State.commitSheet_sheet {s : State} {n : CoreNo} {sh : Sheet} (h : (s.coreAt n).sheet = some sh) :
    let c := s.coreAt n
    let d := (s.commitSheet n).coreAt n
    d.sheet = none ∧ d.committed = c.committed ++ sh.gated.map (fun g => (c.depth, g.atCommit (s.plat.cycle - c.frozen) s.slotNow)) ∧
    d.ctx = c.ctx := by
  simp only [State.commitSheet, h, State.coreAt_setCoreAt_same, Core.setSheet_sheet, true_and]
  rw [Core.dropStale_eq]
  exact ⟨rfl, rfl⟩

theorem State.commitSheet_ctx (s : State) (n : CoreNo) : ((s.commitSheet n).coreAt n).ctx = (s.coreAt n).ctx := by
  cases h : (s.coreAt n).sheet with
  | none => rw [State.commitSheet_sheetless h]
  | some sh => exact (State.commitSheet_sheet h).2.2

theorem State.commitSheet_depth (s : State) (n : CoreNo) : ((s.commitSheet n).coreAt n).depth = (s.coreAt n).depth := by
  rw [Core.depth, Core.creg, State.commitSheet_ctx]
  rfl

@[simp] theorem State.commitSheet_mem (s : State) (n : CoreNo) : (s.commitSheet n).mem = s.mem := by
  cases h : (s.coreAt n).sheet <;> simp only [State.commitSheet, h, State.setCoreAt_mem]

/-! ## Transfers (R136, R182, R335) -/

/-- A core whose control has come to `a`, a port boundary (R136). -/
def Core.atTarget (c : Core) (a : Word) : Core := { c with ctx := { c.ctx with pc := a } }.portBoundary

/-- Whether an address lies in the text of an open sheet (R335). -/
def Sheet.Holds (sh : Sheet) (a : Word) : Prop :=
  sh.bundle = none ∧ sh.entry.toNat ≤ a.toNat ∧ a.toNat < sh.entry.toNat + 4 * sh.text.length

section
variable {s : State} {n : CoreNo} {a : Word}

theorem State.transfer_within {sh : Sheet} (h : (s.coreAt n).sheet = some sh) (ha : sh.Holds a) :
    s.transfer n a = s.setCoreAt n ((s.coreAt n).atTarget a) := by
  obtain ⟨hb, hlo, hhi⟩ := ha
  simp [State.transfer, h, hb, hlo, hhi, Core.atTarget]

theorem State.transfer_beyond (h : ∀ sh, (s.coreAt n).sheet = some sh → ¬ sh.Holds a) :
    s.transfer n a = (s.commitSheet n).setCoreAt n (((s.commitSheet n).coreAt n).atTarget a) := by
  cases hs : (s.coreAt n).sheet with
  | none => simp [State.transfer, hs, Core.atTarget]
  | some sh =>
    have hout : (sh.bundle.isNone && decide (sh.entry.toNat ≤ a.toNat) && decide (a.toNat < sh.entry.toNat + 4 * sh.text.length)) = false := by
      simpa [Sheet.Holds] using h sh hs
    simp [State.transfer, hs, hout, Core.atTarget]

end

end Sys2Proof.Machine
end

section
/-! SUPPORT. What the transfers of control answer, by address and by bundle (R137, R181, R182). -/

namespace Sys2Proof.Claims
open Machine

/-- The link register is written first, where a transfer has one (R182). -/
def linked (t : State) (nat : Bool) : Option (BitVec 6) → State
  | some j => t.setLink nat j t.nextGroup
  | none => t

theorem linked_cur (t : State) (nat : Bool) (j : Option (BitVec 6)) : (linked t nat j).cur = t.cur := by cases j <;> rfl

section
variable {i : Instr} {use : Use} {s : State} {row : OpRow} {f : Form} {x : Args} {link : Args → Option (BitVec 6)}

/-- What a transfer by address reads: its target and, natively, the second part of it, or in Wyilo the link index of a call. -/
def jumpUse (row : OpRow) : Form → Use
  | .wy _ => { b := fun _ _ => row.code = 6 || row.code = 7 }
  | .nat .. => { b := fun _ _ => row.shape ≠ .sb }

/-- A transfer by address continues at its target, its link register written. -/
theorem semJump_eq (hx : fetchArgs row (jumpUse row f) f s.core = x) : semJump row link f s =
    { block := x.block, conds := x.conds ++ targetConds s (targetOfJump f x), ctl := true, eff := effNone x
      xfer := some fun t => (linked t x.nat (link x)).transfer t.cur (targetOfJump f x) } := by
  have huse : (if semJump.isWyForm f = true then { b := fun _ _ => row.code = 6 || row.code = 7 }
      else { b := fun _ _ => row.shape ≠ .sb }) = jumpUse row f := by cases f <;> rfl
  have htarget : (if semJump.isWyForm f = true then x.a64 else x.a64 + x.b64) = targetOfJump f x := by cases f <;> rfl
  simp only [semJump, huse, hx, htarget]
  congr 2
  funext t
  cases link x <;> rfl

theorem exec_jump (he : exec i s = issueOp i (semJump row link f s) s) (h : Issues i (jumpUse row f) s row f x)
    (ht : s.targetOk s.core.tenant (targetOfJump f x) = true) :
    exec i s = .next ((linked (begun s x) x.nat (link x)).transfer s.cur (targetOfJump f x)) := by
  rw [he, semJump_eq h.args, issueOp_transfer h h.ready (by simp [h.given, targetConds, ht]) rfl rfl rfl rfl (by simp)]
  simp only [effNone_begun, begun_cur]

theorem stops_jump (he : exec i s = issueOp i (semJump row link f s) s) (h : Issues i (jumpUse row f) s row f x)
    (ht : s.targetOk s.core.tenant (targetOfJump f x) = false) : StopsWith i s row f ⟨7, 0x15, 1, 4, targetOfJump f x, 0⟩ := by
  rw [StopsWith, he, semJump_eq h.args]
  exact issueOp_stop h h.ready (by simp [h.given, targetConds, ht, condControl, condOwn]) (by simp) rfl (by norm_num)

/-- A native direct transfer counts bundles from its own, its link register written (R181, R182). -/
theorem exec_direct {im : ImageRef} {e : SheetMapEntry} {k : Nat} (he : exec i s = issueOp i (semDirect row link f s) s)
    (h : Issues i { b := noB } s row f x) (hnat : x.nat = true) (hk : s.nativeSheet s.cur = some (im, e, k)) :
    exec i s = .next ((linked (s.onCore Core.beginIssue) true (link x)).toBundle s.cur ((k : Int) + x.a64.toInt).toNat) := by
  have hsem : semDirect row link f s =
      { block := x.block, conds := x.conds, ctl := true
        xfer := some fun t => (linked t x.nat (link x)).directTo x.a64.toInt } := by
    simp only [semDirect, h.args]
    congr 2
  have hsheet : (linked (s.onCore Core.beginIssue) true (link x)).nativeSheet s.cur = some (im, e, k) := by
    rw [← hk, ← State.nativeSheet_beginIssue]
    cases link x
    · rfl
    · exact State.nativeSheet_setLink ..
  rw [he, hsem, issueOp_transfer h h.ready h.given rfl rfl rfl rfl (by simp), hnat]
  simp only [id, State.directTo, linked_cur, State.onCore_cur, hsheet]

end

theorem transfersByAddress : TransfersByAddress := by
  intro s row f x
  refine ⟨fun h ht => ?jmp, fun h ht => ?ret, fun hw h ht => ?br, fun h ht => ?callr, fun hw h ht => ?call, fun h ht => ?bad⟩
  all_goals obtain rfl := h.row_eq rfl
  case jmp => exact exec_jump (link := fun _ => none) rfl (by cases f <;> exact h) ht
  case ret => exact exec_jump (link := fun _ => none) rfl (by cases f <;> exact h) ht
  case br =>
    cases f with
    | nat => cases hw
    | wy inst => exact exec_jump (i := .br (.wy inst)) (f := .wy inst) (link := fun _ => none) rfl h ht
  case callr =>
    cases f with
    | nat slot gn g fm =>
      have := exec_jump (i := .callr (.nat slot gn g fm)) (link := fun x => some (bits x.c64 0 6)) rfl h ht
      simpa only [linked, isWy, Bool.false_eq_true, if_false] using this
    | wy inst =>
      have := exec_jump (i := .callr (.wy inst)) (link := fun x => some (bits x.b64 0 6)) rfl h ht
      simpa only [linked, isWy, if_true] using this
  case call =>
    cases f with
    | nat => cases hw
    | wy inst =>
      have := exec_jump (i := .call (.wy inst)) (link := fun x => some (bits x.b64 0 6)) rfl h ht
      simpa only [linked, targetOfJump, show x.nat = false from h.args ▸ rfl] using this
  case bad => exact stops_jump rfl (by cases f <;> exact h) ht

/-- The distance of a native direct transfer is its OFF (R181). -/
theorem toInt_offset {w : Nat} (off : BitVec w) (h : w ≤ 64) : ((wide (off.signExtend 64)).setWidth 64).toInt = off.toInt := by
  rw [setWidth_wide, BitVec.toInt_signExtend_of_le h]

theorem nativeTransfersCountBundles : NativeTransfersCountBundles := by
  intro s row slot gn g im e k hk
  constructor
  case left =>
    intro off x f h
    obtain rfl := h.row_eq rfl
    have hx := h.args
    have hoff : x.a64.toInt = off.toInt := hx ▸ toInt_offset off (by decide)
    have := exec_direct (i := .br f) (link := fun _ => none) rfl h (hx ▸ rfl) hk
    rwa [hoff] at this
  case right =>
    intro d off x f h
    obtain rfl := h.row_eq rfl
    have hx := h.args
    have hoff : x.a64.toInt = off.toInt := hx ▸ toInt_offset off (by decide)
    have hd : bits x.c64 0 6 = d := by
      rw [← hx]
      show bits ((d.setWidth 1024).setWidth 64) 0 6 = d
      rw [BitVec.setWidth_setWidth_of_le _ (by decide), bits_setWidth_self _ (by decide)]
    have := exec_direct (i := .call f) (link := fun x => some (bits x.c64 0 6)) rfl h (hx ▸ rfl) hk
    rwa [hoff, hd] at this

theorem transferIsAPortBoundary : TransferIsAPortBoundary := by
  intro s n a c t
  by_cases hin : ∃ sh, c.sheet = some sh ∧ sh.Holds a
  case pos =>
    obtain ⟨sh, hs, ha⟩ := hin
    have ht : t = c.atTarget a := by rw [← State.coreAt_setCoreAt_same s n (c.atTarget a), ← State.transfer_within hs ha]
    have hmem : (s.transfer n a).mem = s.mem := by rw [State.transfer_within hs ha]; rfl
    rw [ht]
    refine ⟨rfl, rfl, Core.portBoundary_port _, fun sh' hs' _ _ _ => ⟨hs', rfl⟩, fun sh' hs' hout => ?_, hmem⟩
    rw [hs] at hs'
    cases hs'
    exact absurd ha hout
  case neg =>
    have hout : ∀ sh, c.sheet = some sh → ¬ sh.Holds a := fun sh hs ha => hin ⟨sh, hs, ha⟩
    have ht : t = ((s.commitSheet n).coreAt n).atTarget a := by
      rw [← State.coreAt_setCoreAt_same (s.commitSheet n) n (((s.commitSheet n).coreAt n).atTarget a), ← State.transfer_beyond hout]
    have hmem : (s.transfer n a).mem = s.mem := by rw [State.transfer_beyond hout, State.setCoreAt_mem, State.commitSheet_mem]
    rw [ht]
    refine ⟨rfl, s.commitSheet_depth n, Core.portBoundary_port _, fun sh hs hb hlo hhi => absurd ⟨hb, hlo, hhi⟩ (hout sh hs),
      fun sh hs _ => ?_, hmem⟩
    obtain ⟨hsheet, hcommitted, -⟩ := State.commitSheet_sheet hs
    exact ⟨hsheet, hcommitted⟩

/-- Settles O9: by address, by bundle, and what each transfer leaves. -/
theorem transfersContinueAtTheirTarget : Obligations.TransfersContinueAtTheirTarget :=
  ⟨transfersByAddress, nativeTransfersCountBundles, transferIsAPortBoundary⟩

end Sys2Proof.Claims
end

section
/-! SUPPORT. Control that falls on outside loops, and a commit that takes no reservation with it (R135, R136, R335, R338). -/

namespace Sys2Proof.Machine

/-- The state with a port boundary at a core (R136). -/
def State.voidingPorts (s : State) (n : CoreNo) : State := s.setCoreAt n (s.coreAt n).portBoundary

theorem State.endsPass_unlooped {s : State} {n : CoreNo} (h : (s.coreAt n).ctx.loops = []) (was : Word) : s.endsPass n was = none := by
  simp only [State.endsPass, h]

/-- Outside loops control that falls on commits the sheet at its end, and meets a port boundary where a region begins. -/
theorem State.fallOn_unlooped {s : State} {n : CoreNo} (h : (s.coreAt n).ctx.loops = []) (was : Word) :
    ∃ u, (u = s ∨ u = s.commitSheet n) ∧ (s.fallOn n was = u ∨ s.fallOn n was = u.voidingPorts n) := by
  cases hs : (s.coreAt n).sheet with
  | none =>
    refine ⟨s, .inl rfl, ?_⟩
    simp only [State.fallOn, hs]
    split
    · exact .inr rfl
    · exact .inl rfl
  | some sh =>
    simp only [State.fallOn, hs, State.endsPass_unlooped h, Option.isSome_none, Bool.false_eq_true, if_false]
    split
    · split
      · exact ⟨s, .inl rfl, .inl rfl⟩
      · refine ⟨s.commitSheet n, .inr rfl, ?_⟩
        split
        · exact .inr rfl
        · exact .inl rfl
    · refine ⟨s, .inl rfl, ?_⟩
      split
      · exact .inr rfl
      · exact .inl rfl

@[simp] theorem Gated.atCommit_isReserved (now slot : Nat) (g : Gated) : (g.atCommit now slot).isReserved = g.isReserved := by
  cases g <;> rfl

/-- What control that falls on outside loops leaves as it was, and what of the sheet's entries it commits. -/
structure FellOn (s t : State) (n : CoreNo) : Prop where
  ctx : (t.coreAt n).ctx = (s.coreAt n).ctx
  group : (t.coreAt n).group = (s.coreAt n).group
  mem : t.mem = s.mem
  cur : t.cur = s.cur
  committed : ∃ gs, (t.coreAt n).committed = (s.coreAt n).committed ++ gs ∧
    ∀ g ∈ gs, g.2.isReserved = true → ∃ sh, (s.coreAt n).sheet = some sh ∧ sh.gated.any Gated.isReserved = true

theorem FellOn.refl (s : State) (n : CoreNo) : FellOn s s n := ⟨rfl, rfl, rfl, rfl, [], (List.append_nil _).symm, nofun⟩

theorem FellOn.boundary {s t : State} {n : CoreNo} (h : FellOn s t n) : FellOn s (t.voidingPorts n) n := by
  have hc : (t.voidingPorts n).coreAt n = (t.coreAt n).portBoundary := State.coreAt_setCoreAt_same ..
  exact ⟨hc ▸ h.ctx, hc ▸ h.group, h.mem, h.cur, hc ▸ h.committed⟩

theorem FellOn.commit (s : State) (n : CoreNo) : FellOn s (s.commitSheet n) n := by
  cases hs : (s.coreAt n).sheet with
  | none => rw [State.commitSheet_sheetless hs]; exact .refl s n
  | some sh =>
    obtain ⟨-, hcommitted, hctx⟩ := State.commitSheet_sheet hs
    refine ⟨hctx, ?_, State.commitSheet_mem s n, ?_, _, hcommitted, fun e he hr => ⟨sh, hs, ?_⟩⟩
    · simp only [State.commitSheet, hs, State.coreAt_setCoreAt_same]
      rw [Core.dropStale_eq]
      rfl
    · simp only [State.commitSheet, hs, State.setCoreAt_cur]
    · obtain ⟨g, hg, rfl⟩ := List.mem_map.mp he
      exact List.any_eq_true.mpr ⟨g, hg, by rwa [Gated.atCommit_isReserved] at hr⟩

theorem State.fallOn_fellOn {s : State} {n : CoreNo} (h : (s.coreAt n).ctx.loops = []) (was : Word) : FellOn s (s.fallOn n was) n := by
  obtain ⟨u, hu, ht⟩ := State.fallOn_unlooped h was
  have hu : FellOn s u n := by
    rcases hu with rfl | rfl
    · exact .refl u n
    · exact .commit s n
  rcases ht with ht | ht <;> rw [ht]
  · exact hu
  · exact hu.boundary

/-- A commit that takes no reservation with it, of a sheet that no upset has spoiled, is that of its parts. -/
theorem State.commitChecked_unreserved {s s0 : State} {ps : List Part} {fall : State → State} (hc : s.cur = s0.cur)
    (hs : ∀ sh, s0.core.sheet = some sh → sh.spoiled = false) {gs : List (BitVec 2 × Gated)}
    (hcom : ((s.commitParts ps fall).coreAt s0.cur).committed = s0.core.committed ++ gs) (hgs : ∀ g ∈ gs, ¬ g.2.isReserved = true) :
    s.commitChecked s0 ps fall = s.commitParts ps fall := by
  have hmeets : s0.commitMeets (s.commitParts ps fall) s0.cur = none := by
    have hany : (gs.map Prod.snd).any Gated.isReserved = false := by
      rw [List.any_map]
      exact List.any_eq_false.mpr hgs
    rw [State.commitMeets, hcom, show s0.coreAt s0.cur = s0.core from rfl, List.drop_left, hany]
    rfl
  have hspoilt (t : State) : s0.spoilt t s0.cur = none := by
    unfold State.spoilt
    split
    next sh hsh => simp [hs sh hsh]
    · rfl
  simp only [State.commitChecked, hc, hmeets, hspoilt]

end Sys2Proof.Machine
end

section
/-! SUPPORT. A group of one move to a scalar register (R130, R131, R133, R139). -/

namespace Sys2Proof.Machine

/-! ## A move to a scalar register (R133, R140) -/

theorem scalarRef (d : BitVec 6) : (d.setWidth 12 : BitVec 12).getLsbD 11 = false ∧ refClass (d.setWidth 12) = 0 ∧
    refIndex (d.setWidth 12) = d.setWidth 8 ∧ (d.setWidth 8 : BitVec 8).setWidth 6 = d ∧ ((d.setWidth 8 : BitVec 8) = 0 ↔ d = 0) := by
  revert d
  decide

section
variable {m : GMove} {d : BitVec 6} (hd : m.dst = d.setWidth 12)
include hd

theorem GMove.dstReg_scalar : m.dstReg = .s d := by
  obtain ⟨hbit, hclass, hindex, hback, -⟩ := scalarRef d
  simp only [GMove.dstReg, hd, hbit, hclass, hindex, hback, Bool.false_eq_true, if_false]
  rfl

theorem GMove.isTrigger_scalar : m.isTrigger = false := by
  simp only [GMove.isTrigger, hd, (scalarRef d).1, Bool.false_and]

theorem GMove.spawns_scalar : m.spawns = false := by
  simp only [GMove.spawns, portOf, hd, (scalarRef d).1, Bool.false_eq_true, if_false]

/-- A write of a scalar register makes it full and untagged (R68, R396). -/
theorem Core.writeMove_scalar (c : Core) (v : Word) :
    ∃ ts, c.writeMove m (wide v) none = { c with ctx := c.ctx.wrS d v, tags := ts } := by
  obtain ⟨hbit, hclass, hindex, hback, hzero⟩ := scalarRef d
  have hw : c.writeMove m (wide v) none =
      if (d.setWidth 8 : BitVec 8) = 0 then c else (c.wrDst (.s d) (wide v)).retag (.s d) none := by
    simp only [Core.writeMove, hd, hbit, hclass, hindex, hback, Bool.false_eq_true, if_false]
    rfl
  by_cases h0 : d = 0
  · refine ⟨c.tags, ?_⟩
    rw [hw, if_pos (hzero.mpr h0), h0, Ctx.wrS_zero]
  · refine ⟨retagged c.tags (.s d) none, ?_⟩
    rw [hw, if_neg (mt hzero.mp h0), Core.retag, Core.wrDst, setWidth_wide]

/-- The part of such a move holds and stops nothing but through its source, and has no effect at commit (R76). -/
theorem State.movePart_scalar {s : State} {v : Vec} (ho : s.core.outstanding (.s d) = false) (slot : BitVec 3) (idx : Nat) :
    s.movePart s.cur slot idx m { val := v } = { slot := slot, move := idx, sem := {} } := by
  have hout : (s.coreAt s.cur).outstanding m.dstReg = false := by rw [GMove.dstReg_scalar hd]; exact ho
  simp [State.movePart, hd, (scalarRef d).2.1, hout]

end

/-! ## Its group (R76, R79, R130) -/

theorem executing_single (c : Core) (m : GMove) : executing c [m] = if c.ctx.guard m.n m.g then [(0, m)] else [] := by
  simp only [executing, List.length_singleton, List.range_one, List.zip_cons_cons, List.zip_nil_left, List.filter_cons, List.filter_nil]

/-- A group of one move, to a scalar register, that its guard lets execute (R131). -/
theorem State.groupParts_scalar {s : State} {m : GMove} {d : BitVec 6} {v : Word} (hd : m.dst = d.setWidth 12)
    (hg : s.core.ctx.guard m.n m.g = true) (hr : s.readMove s.cur s.core m = ({ val := wide v }, s.core))
    (ho : s.core.outstanding (.s d) = false) :
    ∃ ts slot, s.groupParts s.cur [m] =
      (s.setCore { s.core with ctx := s.core.ctx.wrS d v, tags := ts }, [{ slot := slot, move := 0, sem := {} }], []) := by
  obtain ⟨ts, hw⟩ := Core.writeMove_scalar hd s.core v
  refine ⟨ts, slotOfMove (triggerSlots [m]) m, ?_⟩
  have hreads : s.readMoves s.cur (s.coreAt s.cur) (executing (s.coreAt s.cur) [m]) = ([(0, m, { val := wide v })], s.core) := by
    rw [executing_single, if_pos (by exact hg)]
    simp only [State.readMoves]
    rw [show s.coreAt s.cur = s.core from rfl, hr]
  rw [← hw, ← State.movePart_scalar hd ho]
  simp only [State.groupParts, hreads, GMove.isTrigger_scalar hd, GMove.spawns_scalar hd, List.map_cons, List.map_nil, List.foldl_cons,
    List.foldl_nil, List.filterMap_cons, List.filterMap_nil, Bool.false_eq_true, false_and, if_false, List.append_nil, id]
  rfl

theorem State.groupParts_unguarded {s : State} {m : GMove} (hg : s.core.ctx.guard m.n m.g = false) :
    s.groupParts s.cur [m] = (s.setCore s.core, [], []) := by
  have hexec : executing (s.coreAt s.cur) [m] = [] := by
    rw [executing_single, show s.coreAt s.cur = s.core from rfl, hg]
    exact if_neg nofun
  rw [State.groupParts, hexec]
  rfl

/-! ## Its issue -/

theorem Ctx.wrS_loops (c : Ctx) (i : BitVec 6) (v : Word) : (c.wrS i v).loops = c.loops := by unfold Ctx.wrS; split <;> rfl
theorem Ctx.wrS_rdV (c : Ctx) (i : BitVec 6) (v : Word) (j : BitVec 5) : (c.wrS i v).rdV j = c.rdV j := by unfold Ctx.wrS; split <;> rfl
theorem Ctx.wrS_rdP (c : Ctx) (i : BitVec 6) (v : Word) (j : BitVec 4) : (c.wrS i v).rdP j = c.rdP j := by unfold Ctx.wrS; split <;> rfl

theorem Ctx.rdS_wrS_if (c : Ctx) (d : BitVec 6) (v : Word) : (c.wrS d v).rdS d = if d = 0 then 0 else v := by
  split
  next h => rw [h]; rfl
  next h => exact Ctx.rdS_wrS_same c v h

/-- The core past a group of one move, with the register that it wrote (register 0 where it wrote none). -/
def Core.pastMove (c : Core) (d : BitVec 6) (v : Word) (ts : List RegTag) (words : Nat) : Core :=
  { c with ctx := { c.ctx.wrS d v with pc := c.ctx.pc + BitVec.ofNat 64 (4 * words), brkSkip := false }, tags := ts, group := [] }

theorem Core.pastMove_sheet (c : Core) (d : BitVec 6) (v : Word) (ts : List RegTag) (words : Nat) :
    (c.pastMove d v ts words).sheet = c.sheet := by
  simp only [Core.sheet, Core.pastMove, Core.depth, Core.creg, Ctx.creg, Ctx.wrS_cr]

/-- Parts without any effect of their own hold and stop nothing. -/
theorem Sem.plain_empty (c : Core) : ({} : Sem).Plain c := ⟨rfl, rfl, rfl, nofun, rfl, rfl, rfl, rfl, rfl⟩

theorem Core.checkOver_unchecked {c : Core} (h : c.check = none) (a : Word) : c.checkOver a = c := by
  simp only [Core.checkOver, h]

theorem guardFound_sound {c : Core} {m : GMove} (h : c.ownBad (.p m.g) = false) : guardFound c [m] = [] := by
  simp only [guardFound, List.length_singleton, List.range_one, List.zip_cons_cons, List.zip_nil_left, List.flatMap_cons, List.flatMap_nil,
    ownConds_sound h, List.map_nil, List.append_nil]

section
variable {s : State} {m : GMove} {d : BitVec 6} {v : Word} {ts : List RegTag} {ps : List Part} {words : Nat}

/-- A group of one move that nothing holds or stops commits where its move is written. -/
theorem State.issueGroup_single (hparts : s.groupParts s.cur [m] = (s.setCore { s.core with ctx := s.core.ctx.wrS d v, tags := ts }, ps, []))
    (hps : ∀ p ∈ ps, p.sem = {}) (hg : s.core.ownBad (.p m.g) = false) (hk : s.core.check = none) (hn : s.holdsNext s.core = false)
    (hb : s.core.breakpoint = none) (hp : s.core.pend = []) (ho : s.core.overrunFound = []) :
    s.issueGroup s.cur [m] words =
      (s.setCore (s.core.pastMove d v ts words)).commitChecked s ps fun t => t.fallOn s.cur s.core.ctx.pc := by
  have hplain : ∀ p ∈ ps, p.sem.Plain s.core := fun p h => by rw [hps p h]; exact Sem.plain_empty _
  have hjudge : s.core.judgeGroup [m] ps [] = .clear := by
    simp only [Core.judgeGroup, hp, ne_eq, not_true_eq_false, if_false, guardFound_sound hg, ite_self, List.append_nil]
    exact Core.judge_plain hplain hk ho
  rw [State.issueGroup, show ({ s with cur := s.cur } : State) = s from rfl]
  simp only [hn, hb, hparts, hjudge, Bool.false_eq_true, if_false, List.append_nil, State.onCore, State.core_setCore, State.setCore_setCore]
  rw [Core.checkOver_unchecked (by exact hk)]
  rfl

/-- What its parts leave to be done is that control falls on. -/
theorem State.commitParts_pastMove (hps : ∀ p ∈ ps, p.sem = {}) (fall : State → State) :
    (s.setCore (s.core.pastMove d v ts words)).commitParts ps fall =
      fall (s.setCore (s.core.pastMove d v ts words).beginIssue) := by
  rw [commitParts_plain (c := s.core) fun p h => by rw [hps p h]; exact Sem.plain_empty _]
  have heff (t : State) : (ps.map fun p => p.sem.eff).foldl (fun t f => f t) t = t := by
    rw [List.foldl_map]
    exact foldl_of_id (fun p hp => by rw [hps p hp]) t
  rw [heff, State.onCore, State.core_setCore, State.setCore_setCore]

/-- Such a group leaves the move's register written and control behind its words, and no group. -/
theorem State.issueGroup_past (hparts : s.groupParts s.cur [m] = (s.setCore { s.core with ctx := s.core.ctx.wrS d v, tags := ts }, ps, []))
    (hps : ∀ p ∈ ps, p.sem = {}) (hg : s.core.ownBad (.p m.g) = false) (hk : s.core.check = none) (hn : s.holdsNext s.core = false)
    (hb : s.core.breakpoint = none) (hp : s.core.pend = []) (ho : s.core.overrunFound = []) (hl : s.core.ctx.loops = [])
    (hs : ∀ sh, s.core.sheet = some sh → sh.gated.any Gated.isReserved = false ∧ sh.spoiled = false) :
    ∃ cr, (s.issueGroup s.cur [m] words).core.ctx =
        { s.core.ctx.wrS d v with pc := s.core.ctx.pc + BitVec.ofNat 64 (4 * words), brkSkip := false, cr := cr } ∧
      (s.issueGroup s.cur [m] words).core.group = [] ∧ (s.issueGroup s.cur [m] words).mem = s.mem := by
  set past := s.core.pastMove d v ts words
  set u := s.setCore past.beginIssue
  have hcore : u.coreAt s.cur = past.beginIssue := State.coreAt_setCoreAt_same ..
  have hloops : (u.coreAt s.cur).ctx.loops = [] := by
    rw [hcore, Core.beginIssue_eq]
    exact (s.core.ctx.wrS_loops d v).trans hl
  have hfell : FellOn u (u.fallOn s.cur s.core.ctx.pc) s.cur := State.fallOn_fellOn hloops _
  obtain ⟨gs, hcommitted, hgs⟩ := hfell.committed
  have hunreserved : ∀ g ∈ gs, ¬ g.2.isReserved = true := by
    intro g hmem hres
    obtain ⟨sh, hsh, hany⟩ := hgs g hmem hres
    rw [hcore, Core.beginIssue_sheet, Core.pastMove_sheet] at hsh
    obtain ⟨sh', hsh', rfl⟩ := Option.map_eq_some_iff.mp hsh
    exact absurd ((hs sh' hsh').1.symm.trans hany) Bool.false_ne_true
  have hparted : (s.setCore past).commitParts ps (fun t => t.fallOn s.cur s.core.ctx.pc) = u.fallOn s.cur s.core.ctx.pc :=
    State.commitParts_pastMove hps _
  have hissue : s.issueGroup s.cur [m] words = u.fallOn s.cur s.core.ctx.pc := by
    rw [State.issueGroup_single hparts hps hg hk hn hb hp ho]
    refine (State.commitChecked_unreserved (s := s.setCore past) (s0 := s) rfl (fun sh h => (hs sh h).2) ?_ hunreserved).trans hparted
    rw [hparted, hcommitted, hcore, Core.beginIssue_eq]
    rfl
  have hcur : (u.fallOn s.cur s.core.ctx.pc).core = (u.fallOn s.cur s.core.ctx.pc).coreAt s.cur := by
    rw [State.core, hfell.cur]
    rfl
  rw [hissue, hcur, hfell.ctx, hfell.group, hfell.mem, hcore, Core.beginIssue_eq]
  exact ⟨_, rfl, rfl, rfl⟩

end

/-! ## The four forms (R139) -/

/-- Whatever its form, a move is taken with its end mark, guard and destination, and reads its value with no fault or wait. -/
structure Taken (s : State) (e n : BitVec 1) (g : BitVec 4) (d : BitVec 12) (i : Instr) (words : Nat) (v : Word) (m : GMove) : Prop where
  run : exec i s = .next (s.takeMove e m)
  words : m.words = words
  dst : m.dst = d
  neg : m.n = n
  guard : m.g = g
  read : s.readMove s.cur s.core m = ({ val := wide v }, s.core)

theorem State.readMove_immediate {s : State} {c : Core} {m : GMove} (h : m.form ≠ 0) : s.readMove s.cur c m = ({ val := wide m.imm }, c) :=
  if_pos h

/-- A full, untagged and sound scalar register is read without any condition. -/
theorem State.readMove_scalar {s : State} {c : Core} {m : GMove} {r : BitVec 6} (hf : m.form = 0) (hsrc : m.src = r.setWidth 12)
    (hfull : c.ctx.fullS r = true) (htag : c.tagOf (.s r) = none) (hbad : c.ownBad (.s r) = false) :
    s.readMove s.cur c m = ({ val := wide (c.ctx.rdS r) }, c) := by
  obtain ⟨hbit, hclass, hindex, hback, -⟩ := scalarRef r
  have hread : s.readMove s.cur c m = (MRead.tagged { val := wide (c.ctx.rdS r), block := !c.ctx.fullS r } m c (.s r), c) := by
    simp only [State.readMove, hf, hsrc, hbit, hclass, hindex, hback, ne_eq, not_true_eq_false, Bool.false_eq_true, if_false]
    rfl
  rw [hread, MRead.tagged, hfull, htag, ownConds_sound hbad]
  rfl

end Sys2Proof.Machine

namespace Sys2Proof.Claims
open Machine

theorem MoveReads.taken {s : State} {e n : BitVec 1} {g : BitVec 4} {d : BitVec 12} {i : Instr} {words : Nat} {v : Word}
    (h : MoveReads s e n g d i words v) (hw : WellFormed i = true) : ∃ m, Taken s e n g d i words v m := by
  obtain ⟨r, rfl, rfl, rfl, hfull, htag, hbad⟩ | ⟨x, rfl, rfl, rfl⟩ | ⟨x, rfl, rfl, rfl⟩ | ⟨x, rfl, rfl, rfl⟩ := h
  · exact ⟨⟨n, g, 0, d, r.setWidth 12, 0⟩, if_pos hw, rfl, rfl, rfl, rfl, State.readMove_scalar rfl rfl hfull htag hbad⟩
  · exact ⟨⟨n, g, 1, d, x, x.signExtend 64⟩, if_pos hw, rfl, rfl, rfl, rfl, State.readMove_immediate (show (1 : BitVec 2) ≠ 0 by decide)⟩
  · exact ⟨⟨n, g, 2, d, 0, x.signExtend 64⟩, if_pos hw, rfl, rfl, rfl, rfl, State.readMove_immediate (show (2 : BitVec 2) ≠ 0 by decide)⟩
  · exact ⟨⟨n, g, 3, d, 0, v⟩, if_pos hw, rfl, rfl, rfl, rfl, State.readMove_immediate (show (3 : BitVec 2) ≠ 0 by decide)⟩

end Sys2Proof.Claims

namespace Sys2Proof.Machine

theorem State.takeMove_last {s : State} {m : GMove} (h : s.core.group = []) : s.takeMove 1 m = s.issueGroup s.cur [m] m.words := by
  simp only [State.takeMove, h, List.nil_append, List.map_cons, List.map_nil, List.sum_cons, List.sum_nil, Nat.add_zero]
  rfl

end Sys2Proof.Machine
end

section
/-! LAW. A move joins its group, and the group's end commits it (R130, R131, R133, R139). -/

namespace Sys2Proof.Claims
open Machine

/-- Settles O40: a group of one move commits the register that it writes, and control falls on past it with the sheet's entries. -/
theorem movesWriteTheirDestination : Obligations.MovesWriteTheirDestination := by
  intro s e n g d i words v hbad hk hs hreads hw
  obtain ⟨m, hrun, hwords, hdst, hneg, hguard, hread⟩ := MoveReads.taken hreads hw
  subst hwords hneg hguard
  refine ⟨?joins, ?commits, ?passes⟩
  case joins =>
    rintro rfl
    exact ⟨m, hrun, rfl, hdst, rfl, rfl⟩
  case commits =>
    rintro rfl hgroup hn hb hp ho hout hl hg
    obtain ⟨ts, slot, hparts⟩ := State.groupParts_scalar hdst hg hread hout
    have hps : ∀ p ∈ [({ slot := slot, move := 0, sem := {} } : Part)], p.sem = {} := fun p h => by rw [List.mem_singleton.mp h]
    obtain ⟨cr, hctx, hempty, hmem⟩ := State.issueGroup_past (words := m.words) hparts hps hbad hk hn hb hp ho hl hs
    refine ⟨_, hrun.trans (congrArg _ (State.takeMove_last hgroup)), ?_, fun j hj => ?_, fun j => ?_, fun j => ?_, ?_, hempty, hmem⟩
      <;> rw [hctx]
    · exact Ctx.rdS_wrS_if s.core.ctx d v
    · exact Ctx.rdS_wrS_ne _ _ (Ne.symm hj)
    · exact Ctx.wrS_rdV _ d v j
    · exact Ctx.wrS_rdP _ d v j
  case passes =>
    rintro rfl hgroup hn hb hp ho hl hg
    obtain ⟨cr, hctx, -, hmem⟩ := State.issueGroup_past (d := 0) (v := 0) (ts := s.core.tags) (words := m.words)
      (State.groupParts_unguarded hg) nofun hbad hk hn hb hp ho hl hs
    refine ⟨_, hrun.trans (congrArg _ (State.takeMove_last hgroup)), fun j => ?_, ?_, hmem⟩ <;> rw [hctx]
    rfl

end Sys2Proof.Claims
end

section
/-! SUPPORT. Integer values: what the model computes on integers and naturals, as operations on words (R174, R175). -/

namespace Sys2Proof.Machine

/-- By a divisor other than 0 the signed quotient is truncated toward zero (R174). -/
theorem divS_of_ne {a b : Word} (hb : b ≠ 0) : divS a b = a.sdiv b := by
  rw [divS, if_neg hb]
  exact BitVec.eq_of_toInt_eq (by rw [BitVec.toInt_ofInt, BitVec.toInt_sdiv])

theorem divU_of_ne {a b : Word} (hb : b ≠ 0) : divU a b = a.udiv b := by
  rw [divU, if_neg hb]
  exact BitVec.eq_of_toNat_eq (by simp [Nat.mod_eq_of_lt (Nat.lt_of_le_of_lt (Nat.div_le_self ..) a.isLt)])

/-- What the quotient leaves has the sign of the dividend (R174). -/
theorem remS_of_ne {a b : Word} (hb : b ≠ 0) : remS a b = a.srem b := by
  have hmod : a.toInt - b.toInt * a.toInt.tdiv b.toInt = a.toInt.tmod b.toInt := by rw [Int.tmod_def]
  rw [remS, if_neg hb, divS_of_ne hb]
  apply BitVec.eq_of_toInt_eq
  rw [BitVec.toInt_sub, BitVec.toInt_mul, BitVec.toInt_sdiv, Int.mul_bmod_bmod, Int.sub_bmod_bmod, hmod, ← BitVec.toInt_srem,
    BitVec.toInt_bmod_cancel]

theorem remU_of_ne {a b : Word} (hb : b ≠ 0) : remU a b = a.umod b := by
  rw [remU, if_neg hb]
  exact BitVec.eq_of_toNat_eq (by simp [Nat.mod_eq_of_lt (Nat.lt_of_le_of_lt (Nat.mod_le ..) a.isLt)])

/-- The quotient by a power of two, rounded down, keeps the high bits. -/
theorem ofInt_toInt_div (p : BitVec 128) : BitVec.ofInt 64 (p.toInt / 2 ^ 64) = p.extractLsb' 64 64 := by
  have hshift : p.toInt / 2 ^ 64 = (p.sshiftRight 64).toInt := by
    rw [BitVec.toInt_sshiftRight, Int.shiftRight_eq_div_pow]; rfl
  rw [hshift]
  show (p.sshiftRight 64).signExtend 64 = _
  ext i hi
  have h1 : i < 128 := by omega
  have h2 : 64 + i < 128 := by omega
  rw [BitVec.getElem_signExtend, dif_pos h1, BitVec.getElem_sshiftRight, dif_pos h2, BitVec.getElem_extractLsb', BitVec.getLsbD_eq_getElem h2]

/-- The high half of a product of signed words (R174). -/
theorem ofInt_highProduct (a b : Word) :
    BitVec.ofInt 64 (a.toInt * b.toInt / 2 ^ 64) = (a.signExtend 128 * b.signExtend 128).extractLsb' 64 64 := by
  have hprod : (a.signExtend 128 * b.signExtend 128).toInt = a.toInt * b.toInt := by
    rw [BitVec.toInt_mul, BitVec.toInt_signExtend_of_le (by decide), BitVec.toInt_signExtend_of_le (by decide)]
    have hhi := BitVec.toInt_mul_toInt_le (x := a) (y := b)
    have hlo := BitVec.le_toInt_mul_toInt (x := a) (y := b)
    norm_num at hhi hlo
    exact Int.bmod_eq_of_le (by norm_num; omega) (by norm_num; omega)
  rw [← hprod, ofInt_toInt_div]

theorem ofNat_highProduct (a b : Word) :
    BitVec.ofNat 64 (a.toNat * b.toNat / 2 ^ 64) = (a.setWidth 128 * b.setWidth 128).extractLsb' 64 64 := by
  apply BitVec.eq_of_toNat_eq
  have hlt : a.toNat * b.toNat < 2 ^ 128 := Nat.mul_lt_mul'' a.isLt b.isLt |>.trans_eq (by norm_num)
  rw [BitVec.toNat_ofNat, BitVec.extractLsb'_toNat, BitVec.toNat_mul, BitVec.toNat_setWidth_of_le (by decide),
    BitVec.toNat_setWidth_of_le (by decide), Nat.mod_eq_of_lt hlt, Nat.shiftRight_eq_div_pow]

/-- The 32-bit operations work on the low halves (R174). -/
theorem sext32_add (a b : Word) : sext32 (a + b) = (a.setWidth 32 + b.setWidth 32).signExtend 64 := by
  rw [sext32, BitVec.setWidth_add _ _ (by decide)]

theorem sext32_mul (a b : Word) : sext32 (a * b) = (a.setWidth 32 * b.setWidth 32).signExtend 64 := by
  rw [sext32, BitVec.setWidth_mul _ _ (by decide)]

theorem sext32_sub (a b : Word) : sext32 (a - b) = (a.setWidth 32 - b.setWidth 32).signExtend 64 := by
  rw [sext32, BitVec.sub_eq_add_neg, BitVec.setWidth_add _ _ (by decide), BitVec.setWidth_neg_of_le (by decide), ← BitVec.sub_eq_add_neg]

end Sys2Proof.Machine

namespace Sys2Proof.Claims
open Machine

/-- An operation of its 64-bit operands gives every value that equals its own. -/
theorem gives_of_semValue {op : Form → Instr} {use : Form → Use} {row : OpRow} {lat : Nat} {val val' : Args → Word}
    (hrow : ∀ f, opRow (op f) = some (row, f)) (hexec : ∀ f s, exec (op f) s = issueOp (op f) (semValue row (use f) lat val f s) s)
    (hval : ∀ x, val x = val' x) : Gives op use lat val' := by
  intro f s row' x h
  obtain rfl := h.row_eq (hrow f)
  rw [hexec, issueOp_semValue h, hval]

/-- The same where the result is given bit by bit. -/
theorem givesBits_of_semValue {op : Form → Instr} {use : Form → Use} {row : OpRow} {lat : Nat} {val : Args → Word} {bit : Args → Nat → Bool}
    (hrow : ∀ f, opRow (op f) = some (row, f)) (hexec : ∀ f s, exec (op f) s = issueOp (op f) (semValue row (use f) lat val f s) s)
    (hbit : ∀ x i, i < 64 → (val x).getLsbD i = bit x i) : GivesBits op use lat bit := by
  intro f s row' x h
  exact ⟨val x, gives_of_semValue hrow hexec (fun _ => rfl) f s row' x h, hbit x⟩

theorem integerArithmetic : IntegerArithmetic := by
  refine ⟨?_, ?_, ?_, ?_, ?_, ?_, ?_, ?_, ?_, ?_, ?_, ?_, ?_⟩
  all_goals refine gives_of_semValue (fun _ => rfl) (fun _ _ => rfl) fun x => ?_
  case refine_1 | refine_2 | refine_3 => rfl
  case refine_4 => exact ofInt_highProduct ..
  case refine_5 => exact ofNat_highProduct ..
  case refine_6 | refine_7 => simp only [BitVec.slt_iff_toInt_lt, ← Int.not_le, ite_not]
  case refine_8 | refine_9 => simp only [BitVec.ult_iff_lt, BitVec.lt_def, ← Nat.not_le, ite_not]
  case refine_10 => simp only [BitVec.msb_eq_toInt, decide_eq_true_eq]
  case refine_11 => exact sext32_add ..
  case refine_12 => exact sext32_sub ..
  case refine_13 => exact sext32_mul ..

theorem divisionAndRemainder : DivisionAndRemainder := by
  intro s row x hb
  refine ⟨fun f h => ?_, fun f h => ?_, fun f h => ?_, fun f h => ?_⟩ <;> obtain rfl := h.row_eq rfl
  · exact (issueOp_semValue h 1 fun x => divS x.a64 x.b64).trans (by rw [divS_of_ne hb])
  · exact (issueOp_semValue h 1 fun x => divU x.a64 x.b64).trans (by rw [divU_of_ne hb])
  · exact (issueOp_semValue h 1 fun x => remS x.a64 x.b64).trans (by rw [remS_of_ne hb])
  · exact (issueOp_semValue h 1 fun x => remU x.a64 x.b64).trans (by rw [remU_of_ne hb])

theorem addressAndSelect : AddressAndSelect := by
  refine ⟨gives_of_semValue (fun _ => rfl) (fun _ _ => rfl) fun x => ?_, gives_of_semValue (fun _ => rfl) (fun _ _ => rfl) fun _ => rfl⟩
  have hpow (n : Nat) : BitVec.twoPow 64 n = BitVec.ofNat 64 (2 ^ n) := BitVec.eq_of_toNat_eq (by simp [BitVec.toNat_twoPow])
  rw [BitVec.shiftLeft_eq_mul_twoPow, hpow]

/-- Settles O2: arithmetic, division by a divisor other than 0, lea and sel. -/
theorem integerOperations : Obligations.IntegerOperations :=
  ⟨integerArithmetic, divisionAndRemainder, addressAndSelect⟩

/-- Settles O1: what the model gives for a zero divisor, for the most negative dividend over -1, and for its magnitude. -/
theorem divisionCornersAreFixed : Obligations.DivisionCornersAreFixed := by
  intro s row f x
  refine ⟨fun hb => ⟨fun h => ?_, fun h => ?_, fun h => ?_, fun h => ?_⟩,
    fun ha hb => ⟨fun h => ?_, fun h => ?_, fun h => ?_, fun h => ?_⟩, fun ha h => ?_⟩ <;> obtain rfl := h.row_eq rfl
  · exact (issueOp_semValue h 1 fun x => divS x.a64 x.b64).trans (by rw [divS, if_pos hb]; rfl)
  · exact (issueOp_semValue h 1 fun x => divU x.a64 x.b64).trans (by rw [divU, if_pos hb]; rfl)
  · exact (issueOp_semValue h 1 fun x => remS x.a64 x.b64).trans (by rw [remS, if_pos hb])
  · exact (issueOp_semValue h 1 fun x => remU x.a64 x.b64).trans (by rw [remU, if_pos hb])
  · exact (issueOp_semValue h 1 fun x => divS x.a64 x.b64).trans (by rw [ha, hb]; rfl)
  · exact (issueOp_semValue h 1 fun x => divU x.a64 x.b64).trans (by rw [ha, hb]; rfl)
  · exact (issueOp_semValue h 1 fun x => remS x.a64 x.b64).trans (by rw [ha, hb]; rfl)
  · exact (issueOp_semValue h 1 fun x => remU x.a64 x.b64).trans (by rw [ha, hb]; rfl)
  · exact (issueOp_semValue h 1 fun x => if x.a64.toInt < 0 then -x.a64 else x.a64).trans (by rw [ha]; rfl)

end Sys2Proof.Claims
end

section
/-! SUPPORT. Shifts, fields, counts and byte reverse, bit by bit (R178-R180). -/

namespace Sys2Proof.Machine

/-! ## Shifts (R178) -/

theorem getLsbD_shl (a b : Word) {i : Nat} (hi : i < 64) : (if 64 ≤ b.toNat then 0 else a <<< b.toNat).getLsbD i =
    (decide (b.toNat < 64) && decide (b.toNat ≤ i) && a.getLsbD (i - b.toNat)) := by
  split
  · next h => simp [Nat.not_lt.mpr h]
  · next h => rw [BitVec.getLsbD_shiftLeft]; simp [Nat.lt_of_not_le h, hi, ← decide_not]

theorem getLsbD_shr (a b : Word) (i : Nat) : (if 64 ≤ b.toNat then 0 else a >>> b.toNat).getLsbD i =
    (decide (b.toNat < 64) && a.getLsbD (i + b.toNat)) := by
  split
  · next h => simp [Nat.not_lt.mpr h]
  · next h => simp [Nat.lt_of_not_le h, Nat.add_comm]

/-- A shift by 63 already leaves the sign alone, so that a greater count gives the same (R178). -/
theorem getLsbD_sar (a b : Word) {i : Nat} (hi : i < 64) : (a.sshiftRight (shiftCount b)).getLsbD i =
    if i + b.toNat < 64 then a.getLsbD (i + b.toNat) else a.getLsbD 63 := by
  rw [BitVec.getLsbD_sshiftRight, BitVec.msb_eq_getLsbD_last, decide_eq_false (by omega), Bool.not_false, Bool.true_and, shiftCount]
  by_cases hb : b.toNat ≤ 63
  · rw [Nat.min_eq_left hb, Nat.add_comm]
  · rw [Nat.min_eq_right (by omega), if_neg (by omega : ¬ i + b.toNat < 64)]
    split
    · next h => rw [show 63 + i = 63 by omega]
    · rfl

theorem getLsbD_rotr (a : Word) {r i : Nat} (hr : r < 64) (hi : i < 64) :
    (a.rotateRight r).getLsbD i = a.getLsbD ((i + r) % 64) := by
  rw [BitVec.getLsbD_rotateRight, Nat.mod_eq_of_lt hr]
  by_cases h : i < 64 - r
  · rw [decide_eq_true h, cond_true, Nat.mod_eq_of_lt (by omega), Nat.add_comm]
  · rw [decide_eq_false h, cond_false, decide_eq_true hi, Bool.true_and, Nat.mod_eq_sub_mod (by omega), Nat.mod_eq_of_lt (by omega)]
    congr 1
    omega

/-! ## Fields (R179) -/

theorem getLsbD_extractU (a : Word) (off w : Nat) {i : Nat} (hi : i < 64) :
    (extractU a off w).getLsbD i = (decide (i < fieldWidth off w) && a.getLsbD (off + i)) := by
  rw [extractU, BitVec.getLsbD_ofNat, decide_eq_true hi, Bool.true_and, Nat.testBit_mod_two_pow, Nat.testBit_div_two_pow,
    Nat.add_comm, BitVec.getLsbD]

/-- A field of `n` bits, moved to the top and back, repeats its last bit. -/
theorem getLsbD_sshiftRight_shiftLeft (v : Word) {n i : Nat} (hn : 0 < n) (hn' : n ≤ 64) (hi : i < 64) :
    ((v <<< (64 - n)).sshiftRight (64 - n)).getLsbD i = v.getLsbD (min i (n - 1)) := by
  rw [BitVec.getLsbD_sshiftRight, BitVec.msb_eq_getLsbD_last, decide_eq_false (by omega), Bool.not_false, Bool.true_and]
  by_cases h : i < n
  · rw [if_pos (by omega), Nat.min_eq_left (by omega)]
    simp [show 64 - n + i < 64 by omega, BitVec.getLsbD_eq_getElem hi]
  · rw [if_neg (by omega), Nat.min_eq_right (by omega)]
    simp [show ¬ 63 < 64 - n by omega, show 63 - (64 - n) = n - 1 by omega,
      BitVec.getLsbD_eq_getElem (show n - 1 < 64 by omega)]

theorem getLsbD_extractS (a : Word) (off w : Nat) {i : Nat} (hi : i < 64) :
    (extractS a off w).getLsbD i = (decide (fieldWidth off w ≠ 0) && a.getLsbD (off + min i (fieldWidth off w - 1))) := by
  have hle : fieldWidth off w ≤ 64 := by unfold fieldWidth; split <;> omega
  unfold extractS
  by_cases h : fieldWidth off w = 0
  · simp [h]
  · rw [if_neg h, getLsbD_sshiftRight_shiftLeft _ (by omega) hle hi, getLsbD_extractU _ _ _ (by omega), decide_eq_true h,
      decide_eq_true (by omega)]

theorem getLsbD_insertField (base a : Word) (off w : Nat) {i : Nat} (hi : i < 64) : (insertField base a off w).getLsbD i =
    if off ≤ i ∧ i < off + fieldWidth off w then a.getLsbD (i - off) else base.getLsbD i := by
  unfold insertField
  by_cases h : fieldWidth off w = 0
  · rw [if_pos h, if_neg (by omega)]
  · rw [if_neg h]
    have hmask : (BitVec.ofNat 64 (2 ^ fieldWidth off w - 1) <<< off).getLsbD i = decide (off ≤ i ∧ i < off + fieldWidth off w) := by
      rw [BitVec.getLsbD_shiftLeft, BitVec.getLsbD_ofNat, Nat.testBit_two_pow_sub_one]
      by_cases ho : i < off
      · simp [ho, Nat.not_le.mpr ho]
      · simp [ho, hi, Nat.le_of_not_lt ho, show i - off < 64 by omega, show i - off < fieldWidth off w ↔ i < off + fieldWidth off w by omega]
    simp only [BitVec.getLsbD_or, BitVec.getLsbD_and, BitVec.getLsbD_not, hmask, BitVec.getLsbD_shiftLeft, hi, decide_true, Bool.true_and]
    split
    · next hin => simp [hin, Nat.not_lt.mpr hin.1]
    · next hout => simp [hout]

/-! ## Counts and byte reverse (R180) -/

theorem popcount_eq (a : Word) (n : Nat) : popcount a n = ((List.range n).filter fun i => a.getLsbD i).length := by
  induction n with
  | zero => rfl
  | succ n ih =>
    rw [popcount, ih, List.range_succ, List.filter_append, List.length_append, Nat.add_comm]
    cases h : a.getLsbD n <;> simp [h]

/-- The bits above the leading zeros of the low `n` bits. -/
theorem leadingZeros_spec (a : Word) (n : Nat) : leadingZeros a n ≤ n ∧
    (∀ i, n - leadingZeros a n ≤ i → i < n → a.getLsbD i = false) ∧
    (leadingZeros a n < n → a.getLsbD (n - 1 - leadingZeros a n) = true) := by
  induction n with
  | zero => exact ⟨Nat.le_refl _, fun i _ h => absurd h (Nat.not_lt_zero i), fun h => absurd h (Nat.lt_irrefl _)⟩
  | succ n ih =>
    obtain ⟨hle, hzero, hone⟩ := ih
    unfold leadingZeros
    cases h : a.getLsbD n with
    | true => exact ⟨Nat.zero_le _, fun i h1 h2 => absurd h2 (by simpa using h1), fun _ => h⟩
    | false =>
      simp only [Bool.false_eq_true, if_false]
      refine ⟨by omega, fun i h1 h2 => ?_, fun hlt => ?_⟩
      · rcases Nat.lt_succ_iff_lt_or_eq.mp h2 with hi | rfl
        · exact hzero i (by omega) hi
        · exact h
      · rw [show n + 1 - 1 - (1 + leadingZeros a n) = n - 1 - leadingZeros a n by omega]
        exact hone (by omega)

theorem trailingZeros_spec (a : Word) (n k : Nat) : trailingZeros a k n ≤ n ∧
    (∀ i, k ≤ i → i < k + trailingZeros a k n → a.getLsbD i = false) ∧
    (trailingZeros a k n < n → a.getLsbD (k + trailingZeros a k n) = true) := by
  induction n generalizing k with
  | zero => exact ⟨Nat.le_refl _, fun i h1 h2 => absurd h2 (Nat.not_lt.mpr h1), fun h => absurd h (Nat.lt_irrefl _)⟩
  | succ n ih =>
    obtain ⟨hle, hzero, hone⟩ := ih (k + 1)
    unfold trailingZeros
    cases h : a.getLsbD k with
    | true => exact ⟨Nat.zero_le _, fun i h1 h2 => absurd h2 (by simpa using h1), fun _ => h⟩
    | false =>
      simp only [Bool.false_eq_true, if_false]
      refine ⟨by omega, fun i h1 h2 => ?_, fun hlt => ?_⟩
      · rcases Nat.eq_or_lt_of_le h1 with rfl | hi
        · exact h
        · exact hzero i hi (by omega)
      · rw [← Nat.add_assoc]
        exact hone (by omega)

/-- The bits of a word behind which a byte stands: those of the byte, and above them those of the word. -/
theorem getLsbD_append_byte_low {w r : Nat} (x : BitVec w) (y : Byte) (hr : r < 8) : (x ++ y).getLsbD (8 * 0 + r) = y.getLsbD r := by
  simp [BitVec.getLsbD_append, hr]

theorem getLsbD_append_byte_high {w : Nat} (x : BitVec w) (y : Byte) (q r : Nat) :
    (x ++ y).getLsbD (8 * (q + 1) + r) = x.getLsbD (8 * q + r) := by
  rw [BitVec.getLsbD_append, if_neg (by omega)]
  congr 1
  omega

theorem getLsbD_byteSwap (a : Word) {i : Nat} (hi : i < 64) : (byteSwap a).getLsbD i = a.getLsbD (8 * (7 - i / 8) + i % 8) := by
  have hmod := Nat.div_add_mod i 8
  have hr : i % 8 < 8 := Nat.mod_lt _ (by decide)
  have hq : i / 8 < 8 := by omega
  generalize i % 8 = r at *
  generalize i / 8 = q at *
  subst hmod
  interval_cases q <;> simp only [byteSwap, getLsbD_append_byte_high, getLsbD_append_byte_low _ _ hr] <;> simp [byteOf, hr]
/-- A count, at most 64, as a wide value. -/
theorem wide_ofNat {n : Nat} (h : n ≤ 64) : wide (BitVec.ofNat 64 n) = BitVec.ofNat 1024 n :=
  BitVec.eq_of_toNat_eq (by
    rw [BitVec.toNat_setWidth, BitVec.toNat_ofNat, BitVec.toNat_ofNat, Nat.mod_eq_of_lt (show n < 2 ^ 64 by omega)])

end Sys2Proof.Machine

namespace Sys2Proof.Claims
open Machine

/-- The amount of rotr is below 64 (R178). -/
theorem rotateAmount_lt (x : Args) : x.b64.toNat % 64 < 64 := Nat.mod_lt _ (by decide)

/-- The words of the carrying form of `or` (R396). -/
theorem carryS_some {f : Form} {src : Dst} (h : carryS f = some src) :
    ∃ slot gn g d a w, (w.setWidth 6 : BitVec 6) = 0 ∧ src = .s (a.setWidth 6) ∧ f = .nat slot gn g (.sr d a w 0) := by
  unfold carryS at h
  split at h
  · next slot gn g d a w =>
    have hlow (b : BitVec 7) : (bits b 0 6 : BitVec 6) = b.setWidth 6 := (BitVec.setWidth_eq_extractLsb' (by decide)).symm
    simp only [hlow] at h
    split at h
    · next hw => exact ⟨slot, gn, g, d, a, w, hw, (Option.some.inj h).symm, rfl⟩
    · cases h
  · cases h

/-- A scalar source that neither holds nor stops its bundle is full. -/
theorem fullS_of_srcS {c : Core} {a : BitVec 7} {o : BitVec 4} (hb : (c.srcS a o).block = false) (hc : (c.srcS a o).conds = []) :
    c.ctx.fullS (a.setWidth 6) = true := by
  by_contra hne
  obtain ⟨hblock, hconds⟩ := srcS_empty (c := c) (a := a) (by simpa using hne) o
  rw [hconds (hblock.symm.trans hb)] at hc
  cases hc

/-- A source without a data error has no tag. -/
theorem tagOf_of_tagConds {c : Core} {d : Dst} {o : BitVec 4} (h : tagConds c d o = []) : c.tagOf d = none := by
  cases htag : c.tagOf d with
  | none => rfl
  | some a => simp [tagConds, htag] at h

/-- Without a tag a carrying move puts a result on its way as any native operation does (R396). -/
theorem effCarry_native {x : Args} (hx : x.nat = true) (lat : Nat) (v : Vec) (s : State) :
    effCarry x lat v none s = effY x lat v s := by
  simp only [effCarry, effY, Core.voidPorts, Core.putResult, hx, if_true]

/-- Where no source is tagged, the carrying form of `or` is `or` itself: its other operand is s0, and its source has no tag. -/
theorem issueOp_semBitOr {s : State} {f : Form} {x : Args} (h : Issues (.bitOr f) {} s orRow f x) :
    issueOp (.bitOr f) (semBitOr f s) s = .next (answered s x 1 (wide (x.a64 ||| x.b64)) 0) := by
  cases hsrc : carryS f with
  | none =>
    rw [semBitOr, hsrc, Sem.carry]
    exact issueOp_semValue h 1 fun x => x.a64 ||| x.b64
  | some src =>
    obtain ⟨slot, gn, g, d, a, w, hw, rfl, rfl⟩ := carryS_some hsrc
    have hargs := h.args
    have hfull : s.core.ctx.fullS (a.setWidth 6) = true := by
      refine fullS_of_srcS (o := 4) ?_ ?_
      · have hblock := h.ready
        rw [← hargs] at hblock
        simp only [fetchArgs, natOps, if_true, Bool.or_eq_false_iff] at hblock
        exact hblock.1.1.1.1
      · have hconds := h.given
        rw [← hargs] at hconds
        simp only [fetchArgs, natOps, if_true, List.append_eq_nil_iff] at hconds
        exact hconds.1.1.1.1
    obtain ⟨hblock, hconds, hval, hdst⟩ := fetchArgs_withS0 (c := s.core) (row := orRow) (slot := slot) (gn := gn) (g := g) (d := d)
      rfl (.inr rfl) hw hfull
    have hb : (fetchArgs orRow {} (.nat slot gn g (.sr d a w 0)) s.core).b = wide 0 := by
      show (s.core.srcS w 1).val = _
      rw [srcS_full (by rw [hw]; rfl), hw, Ctx.rdS_zero]
    have hnat : x.nat = true := by rw [← hargs]; rfl
    rw [hargs] at hblock hconds hval hdst hb
    have htag : s.core.tagOf (.s (a.setWidth 6)) = none := by
      rw [h.given] at hconds
      exact tagOf_of_tagConds (List.append_eq_nil_iff.mp hconds.symm).1
    have hor : x.a = wide (x.a64 ||| x.b64) := by simp [Args.a64, Args.b64, hval, hb]
    rw [semBitOr, hsrc, semValue, hargs, Sem.carry, htag]
    refine (issueOp_effect h rfl (by simp only [h.given]; rfl) rfl rfl rfl rfl (by simp)).trans ?_
    simp only [effCarry_native hnat, effY_begun]
    rw [← hor]

/-- Settles O3, bit by bit. -/
theorem logicAndShifts : Obligations.LogicAndShifts := by
  refine ⟨?_, ?_, ?_, ?_, ?_, ?_, ?_⟩
  case refine_2 =>
    intro f s row x h
    obtain rfl := h.row_eq rfl
    exact ⟨x.a64 ||| x.b64, issueOp_semBitOr h, fun i _ => BitVec.getLsbD_or⟩
  all_goals refine givesBits_of_semValue (fun _ => rfl) (fun _ _ => rfl) fun x i hi => ?_
  · exact BitVec.getLsbD_and
  · exact BitVec.getLsbD_xor
  · exact getLsbD_shl _ _ hi
  · exact getLsbD_shr _ _ i
  · exact getLsbD_sar _ _ hi
  · exact getLsbD_rotr _ (rotateAmount_lt x) hi

/-! ## Fields (R179) -/

theorem fieldArgs_fst (x : Args) : (fieldArgs x).1 = fieldOff x := by
  simp [fieldArgs, fieldOff, bits, BitVec.extractLsb'_toNat]

theorem fieldWidth_fieldArgs (x : Args) : fieldWidth (fieldArgs x).1 (fieldArgs x).2 = fieldLen x := by
  have hcut (off w : Nat) : fieldWidth off w = cutWidth off w := by unfold fieldWidth cutWidth; split <;> omega
  rw [hcut, fieldArgs_fst, fieldLen]
  simp [fieldArgs, bits, BitVec.extractLsb'_toNat, Nat.shiftRight_eq_div_pow]

theorem bitFields : BitFields := by
  refine ⟨?_, ?_, ?_⟩ <;> refine givesBits_of_semValue (fun _ => rfl) (fun _ _ => rfl) fun x i hi => ?_
  · rw [getLsbD_extractU _ _ _ hi, fieldWidth_fieldArgs, fieldArgs_fst]
  · rw [getLsbD_extractS _ _ _ hi, fieldWidth_fieldArgs, fieldArgs_fst]
  · rw [getLsbD_insertField _ _ _ _ hi, fieldWidth_fieldArgs, fieldArgs_fst]
    simp [hi]

/-! ## Counts (R180) -/

section
variable {s : State} {row : OpRow} {f : Form} {x : Args}

theorem semCnt_eq (h : Issues (.cnt f) {} s row f x) : semCnt f s =
    { block := x.block, conds := if 2 < x.b64.toNat % 256 then [condReserved 1 x.b64] else []
      eff := effY x 1 (wide (countBits (x.b64.toNat % 256) x.a64)) } := by
  obtain rfl := h.row_eq rfl
  have hfn : (bits x.b64 0 8 : BitVec 8).toNat = x.b64.toNat % 256 := by simp [bits, BitVec.extractLsb'_toNat]
  simp only [semCnt, h.args, h.given, hfn, List.nil_append]

/-- A function that is not reserved answers its count. -/
theorem exec_cnt (h : Issues (.cnt f) {} s row f x) (hfn : x.b64.toNat % 256 ≤ 2) :
    exec (.cnt f) s = .next (answered s x 1 (wide (countBits (x.b64.toNat % 256) x.a64)) 0) :=
  issueOp_value h (by rw [semCnt_eq h, if_neg (Nat.not_lt.mpr hfn), h.given])

theorem exec_cnt_reserved (h : Issues (.cnt f) {} s row f x) (hfn : 2 < x.b64.toNat % 256) :
    StopsWith (.cnt f) s row f ⟨5, 0x11, 4, 1, x.b64, 0⟩ := by
  show issueOp (.cnt f) (semCnt f s) s = _
  rw [semCnt_eq h, if_pos hfn]
  exact issueOp_stop h h.ready rfl (by simp) rfl (by simp)

end

theorem countsAndByteSwap : CountsAndByteSwap := by
  refine ⟨fun f s row x h hfn => ?_, fun f s row x h hfn => ?_, fun f s row x h hfn => ?_, fun f s row x h hfn => exec_cnt_reserved h hfn,
    givesBits_of_semValue (fun _ => rfl) (fun _ _ => rfl) fun x i hi => getLsbD_byteSwap _ hi⟩
  · rw [exec_cnt h (by omega), hfn, countBits, popcount_eq, wide_ofNat]
    exact (List.length_filter_le ..).trans_eq List.length_range
  · obtain ⟨hle, hzero, hone⟩ := leadingZeros_spec x.a64 64
    refine ⟨leadingZeros x.a64 64, by rw [exec_cnt h (by omega), hfn, countBits, wide_ofNat hle], hle, fun i hi => ?_, hone⟩
    by_cases h64 : i < 64
    · exact hzero i hi h64
    · exact BitVec.getLsbD_of_ge _ _ (Nat.le_of_not_lt h64)
  · obtain ⟨hle, hzero, hone⟩ := trailingZeros_spec x.a64 64 0
    simp only [Nat.zero_add, Nat.zero_le, forall_const] at hzero hone
    exact ⟨trailingZeros x.a64 0 64, by rw [exec_cnt h (by omega), hfn]; exact congrArg (fun v => Host.Outcome.next (answered s x 1 v 0)) (wide_ofNat hle), hle, hzero, hone⟩

/-! ## Compares (R176) -/

/-- The condition of a compare code as the statement gives it, for a reserved code that of code 5. -/
theorem cmpCode_eq (code : BitVec 3) (a b : Word) : cmpCode code a b =
    if code.toNat = 0 then a == b else if code.toNat = 1 then a != b else if code.toNat = 2 then a.slt b
    else if code.toNat = 3 then !a.slt b else if code.toNat = 4 then a.ult b else !a.ult b := by
  have hcodes : ∀ c : BitVec 3, c = 0 ∨ c = 1 ∨ c = 2 ∨ c = 3 ∨ c = 4 ∨ c = 5 ∨ c = 6 ∨ c = 7 := by decide
  rw [Bool.eq_iff_iff]
  rcases hcodes code with rfl | rfl | rfl | rfl | rfl | rfl | rfl | rfl <;>
    simp [cmpCode, BitVec.slt, BitVec.ult]

theorem compareCode_toNat (x : Args) : (bits x.m 16 3 : BitVec 3).toNat = x.m.toNat / 2 ^ 16 % 8 := by
  simp [bits, BitVec.extractLsb'_toNat, Nat.shiftRight_eq_div_pow]

/-- A condition as a result (R176). -/
theorem ofNat_bool (b : Bool) : (BitVec.ofNat 1024 b.toNat : Vec) = if b = true then 1 else 0 := by cases b <;> rfl

theorem compareWritesItsCondition : CompareWritesItsCondition := by
  unfold CompareWritesItsCondition
  intro holds code f s row x
  have hcmp : cmpCode (bits x.m 16 3) x.a64 x.b64 = holds (code x) x.a64 x.b64 := by
    rw [cmpCode_eq, compareCode_toNat]
  have hsem (h : Issues (.cmp f) {} s row f x) : semCmp f s =
      { block := x.block, conds := if 6 ≤ code x then [condReserved 3 (x.m.setWidth 64)] else []
        eff := effY x 1 (if holds (code x) x.a64 x.b64 = true then 1 else 0) } := by
    obtain rfl := h.row_eq rfl
    simp only [semCmp, h.args, h.given, List.nil_append, compareCode_toNat, hcmp, ofNat_bool, code]
  refine ⟨fun hlt h => ?_, fun hge h => ?_, fun h => ?_⟩
  · exact issueOp_value h (by rw [hsem h, if_neg (Nat.not_le.mpr hlt), h.given])
  · show issueOp (.cmp f) (semCmp f s) s = _
    rw [hsem h, if_pos hge]
    exact issueOp_stop h h.ready rfl (by simp) rfl (by simp)
  · obtain rfl := h.row_eq rfl
    refine issueOp_value h ?_
    simp only [semCmpn, h.args, hcmp, ofNat_bool]
    cases holds (code x) x.a64 x.b64 <;> rfl

/-- Settles O4: the fields, the counts and bswap, and the compares. -/
theorem fieldsCountsAndCompares : Obligations.FieldsCountsAndCompares :=
  ⟨bitFields, countsAndByteSwap, compareWritesItsCondition⟩


end Sys2Proof.Claims
end

section
/-! SUPPORT. Issue times, trace markers, and the operations that change their core as they commit (R190-R194). -/

namespace Sys2Proof.Machine

@[simp] theorem Core.voidPorts_preempt (c : Core) (x : Args) : (c.voidPorts x).preempt = c.preempt := by rw [Core.voidPorts_eq]
@[simp] theorem Core.voidPorts_waitsIssue (c : Core) (x : Args) : (c.voidPorts x).waitsIssue = c.waitsIssue := by rw [Core.voidPorts_eq]
@[simp] theorem Core.beginIssue_preempt (c : Core) : c.beginIssue.preempt = c.preempt := by rw [Core.beginIssue_eq]
@[simp] theorem Core.beginIssue_waitsIssue (c : Core) : c.beginIssue.waitsIssue = false := by rw [Core.beginIssue_eq]

/-- A hold begins, and a request for pre-emption that stands waits for the held bundle (R192, log entry 74). -/
theorem Core.setHold_holds (c : Core) (h : NextHold) (hh : h ≠ .none) :
    c.setHold (h, false) = { c with hold := h, waitsIssue := c.preempt } := by
  simp only [Core.setHold, hh, ne_eq, not_false_eq_true, decide_true, Bool.and_true, Bool.false_eq_true, if_false]

theorem Core.setHold_late (c : Core) (h : NextHold) (hh : h ≠ .none) :
    c.setHold (h, true) = { c with hold := h, waitsIssue := c.preempt }.setLate :=
  congrArg Core.setLate (c.setHold_holds h hh)

/-- Without a hold the bundle is only late (R190). -/
theorem Core.setHold_none {c : Core} (hw : c.waitsIssue = false) : c.setHold (.none, true) = { c with hold := .none }.setLate := by
  simp only [Core.setHold, ne_eq, not_true_eq_false, decide_false, Bool.and_false, if_true]
  rw [← hw]

end Sys2Proof.Machine

namespace Sys2Proof.Claims
open Machine

variable {i : Instr} {use : Use} {s : State} {row : OpRow} {f : Form} {x : Args}

theorem begun_core_preempt (s : State) (x : Args) : (begun s x).core.preempt = s.core.preempt := by simp [begun_core]
theorem begun_core_waitsIssue (s : State) (x : Args) : (begun s x).core.waitsIssue = false := by simp [begun_core]

/-- An operation that changes its core once its bundle has begun answers that change. -/
theorem issueOp_onCore {g : Core → Core} (h : Issues i use s row f x) :
    issueOp i { block := x.block, conds := x.conds, eff := fun t => (effNone x t).onCore g } s = .next ((begun s x).onCore g) := by
  rw [issueOp_effect h rfl rfl rfl rfl rfl rfl (by simp)]
  simp only [effNone_begun]

/-- The stamp of an issueat lies ahead, or it has passed (R190). -/
theorem setHold_issueat (c : Core) (pin : Bool) (now t : Word) (hw : c.waitsIssue = false) : c.setHold (issueatHold pin now t) =
    if now.toNat < t.toNat then { c with hold := .issueAt t, waitsIssue := c.preempt }
    else if pin then { c with hold := .overrun 1 (t &&& 0x7FFFFFFFFFFFFFFF), waitsIssue := c.preempt }
    else { c with hold := .none }.setLate := by
  unfold issueatHold
  by_cases hlt : now.toNat < t.toNat
  · rw [if_pos hlt, if_pos hlt]
    exact c.setHold_holds _ (by simp)
  · rw [if_neg hlt, if_neg hlt]
    cases pin
    · exact Core.setHold_none hw
    · exact c.setHold_holds _ (by simp)

/-- The meridian time of a timeat lies ahead, or it has passed (R192). -/
theorem setHold_timeat (c : Core) (pin : Bool) (now : Nat) (t : Word) : c.setHold (timeatHold pin now t) =
    if now ≤ t.toNat then { c with hold := .timeAt t, waitsIssue := c.preempt }
    else if pin then { c with hold := .overrun 3 (t &&& 0x7FFFFFFFFFFFFFFF), waitsIssue := c.preempt }
    else { c with hold := .timeAt (BitVec.ofNat 64 (now + 1)), waitsIssue := c.preempt }.setLate := by
  unfold timeatHold
  by_cases hlt : t.toNat < now
  · rw [if_pos hlt, if_neg (Nat.not_le.mpr hlt)]
    cases pin
    · exact c.setHold_late _ (by simp)
    · exact c.setHold_holds _ (by simp)
  · rw [if_neg hlt, if_pos (Nat.not_lt.mp hlt)]
    exact c.setHold_holds _ (by simp)

theorem semFrmwait_eq (h : Issues (.frmwait f) (readsNumber f) s row f x) : semFrmwait f s =
    { block := x.block, conds := x.conds
      eff := fun t => (effNone x t).onCore fun d => d.setHold (.frmWait ((numberOf f x).toNat + 1), false) } := by
  obtain rfl := h.row_eq rfl
  cases f <;> rw [← h.args] <;> rfl

/-- Settles O16: what each operation sets to hold the next bundle, and the marker. -/
theorem issueTimesHoldTheNextBundle : Obligations.IssueTimesHoldTheNextBundle := by
  intro s row f x
  have hpre := begun_core_preempt s x
  have hwait := begun_core_waitsIssue s x
  refine ⟨fun h => ?_, fun h => ?_, fun h => ?_, fun h => ?_⟩
  · obtain rfl := h.row_eq rfl
    show issueOp (.issueat f) (semIssueat f s) s = _
    rw [semIssueat, h.args, issueOp_onCore h]
    refine congrArg _ (State.onCore_congr ?_)
    rw [setHold_issueat _ _ _ _ hwait, hpre]
  · show issueOp (.frmwait f) (semFrmwait f s) s = _
    rw [semFrmwait_eq h, issueOp_onCore h]
    refine congrArg _ (State.onCore_congr ?_)
    rw [Core.setHold_holds _ _ (by simp), hpre]
  · obtain rfl := h.row_eq rfl
    show issueOp (.timeat f) (semTimeat f s) s = _
    rw [semTimeat, h.args, issueOp_onCore h]
    refine congrArg _ (State.onCore_congr ?_)
    rw [setHold_timeat, hpre]
  · obtain rfl := h.row_eq rfl
    show issueOp (.mark f) (semMark f s) s = _
    rw [semMark, h.args, issueOp_onCore h, BitVec.setWidth_eq_extractLsb' (by decide)]

end Sys2Proof.Claims
end

section
/-! SUPPORT. Spills and fills of the accumulator and of the matrix state (R193, R232). -/

namespace Sys2Proof.Machine

/-! ## The images (R193, R232) -/

theorem leBytes_getElem?_toNat (n m : Nat) {k : Nat} (hk : k < n) : (leBytes n m)[k]? = some (BitVec.ofNat 8 (m / 2 ^ (8 * k))) := by
  induction n generalizing m k with
  | zero => exact absurd hk (Nat.not_lt_zero k)
  | succ n ih =>
    cases k with
    | zero => simp [leBytes]
    | succ k =>
      have h256 : 256 * 2 ^ (8 * k) = 2 ^ (8 * (k + 1)) := by rw [Nat.mul_add, Nat.pow_add, Nat.mul_comm]
      rw [leBytes, List.getElem?_cons_succ, ih _ (by omega), Nat.div_div_eq_div_mul, h256]

/-- Byte `k` of a word in an image (R4). -/
theorem ImageHas.byte {img : List Byte} {o n k w : Nat} {x : BitVec w} (h : ImageHas img o (leBytes n x.toNat)) (hk : k < n) :
    img[o + k]? = some (x.extractLsb' (8 * k) 8) := by
  obtain ⟨r, h⟩ := h
  rw [← List.getElem?_drop, h, List.getElem?_append_left (by rwa [leBytes_length]), leBytes_getElem?_toNat _ _ hk]
  exact congrArg some (BitVec.eq_of_toNat_eq (by rw [BitVec.toNat_ofNat, BitVec.extractLsb'_toNat, Nat.shiftRight_eq_div_pow]))

theorem length_accImage (c : Core) : (accImage c).length = 4096 := by
  simp [accImage, List.length_flatMap, leBytes_length]

theorem length_msImage (c : Core) : (msImage c).length = 64 := by
  simp [msImage, leBytes_length]

/-- Element j of row r stands at 128r + 4j (R193). -/
theorem accImage_byte (c : Core) {r j k : Nat} (hr : r < 32) (hj : j < 32) (hk : k < 4) :
    (accImage c)[128 * r + 4 * j + k]? = some ((c.acc.get (BitVec.ofNat 5 r)).extractLsb' (32 * j + 8 * k) 8) := by
  have hrow : ImageHas (accImage c) (0 + 128 * r) (leBytes 128 (c.acc.get (BitVec.ofNat 5 r)).toNat) :=
    (ImageHas.whole (accImage c)).entry (fun _ => leBytes_length 128 _) hr
  have hbyte := hrow.byte (k := 4 * j + k) (by omega)
  rwa [show 0 + 128 * r + (4 * j + k) = 128 * r + 4 * j + k by omega, show 8 * (4 * j + k) = 32 * j + 8 * k by omega] at hbyte

/-- Where the five registers of the matrix state stand in their image (R232). -/
theorem msImage_parts (c : Core) : ImageHas (msImage c) 0 (leBytes 32 c.legend.toNat) ∧ ImageHas (msImage c) 32 (leBytes 8 c.mstat.toNat) ∧
    ImageHas (msImage c) 40 (leBytes 8 c.mcfg.toNat) ∧ ImageHas (msImage c) 48 (leBytes 8 c.dsca.toNat) ∧
    ImageHas (msImage c) 56 (leBytes 8 c.dscb.toNat) := by
  have h := ImageHas.whole (msImage c)
  simpa [msImage, imageHas_append, leBytes_length, and_assoc] using h

/-! ## Addresses (R193, R427) -/

/-- At PRIV 1 an aligned address below 2^57 meets no condition. -/
theorem mxAddrConds_nil {c : Core} {a : Word} {n : Nat} (hp : c.priv = true) (ha : a.toNat % 64 = 0) (hn : 0 < n)
    (hle : a.toNat + n ≤ 2 ^ 57) : mxAddrConds c a n = [] := by
  simp only [mxAddrConds, hp, ha, if_true, ne_eq, not_true_eq_false, if_false, show ¬ 2 ^ 57 ≤ a.toNat by omega,
    show ¬ 2 ^ 57 < a.toNat + n by omega, List.append_nil]

/-- At PRIV 0 such an address meets the privilege fault alone (R426). -/
theorem mxAddrConds_priv {c : Core} {a : Word} {n : Nat} (hp : c.priv = false) (ha : a.toNat % 64 = 0) (hn : 0 < n)
    (hle : a.toNat + n ≤ 2 ^ 57) : mxAddrConds c a n = [condPriv 3 15 0] := by
  simp only [mxAddrConds, hp, ha, Bool.false_eq_true, ne_eq, not_true_eq_false, if_false, show ¬ 2 ^ 57 ≤ a.toNat by omega,
    show ¬ 2 ^ 57 < a.toNat + n by omega, List.append_nil]

end Sys2Proof.Machine

namespace Sys2Proof.Claims
open Machine

/-! ## Spills (R193) -/

section
variable {i : Instr} {s : State} {row : OpRow} {f : Form} {x : Args} {img : Core → List Byte} {conds : Core → List Cond}

/-- A spill that meets no condition gates the stores of its image. -/
theorem issueOp_semSpill {runs : List (Nat × Nat × Bool)} {es : List TlbEntry} (h : Issues i { b := noB } s row f x)
    (hc : conds s.core = []) (hp : s.core.priv = true) (ha : x.a64.toNat % 64 = 0) (hn : 0 < (img s.core).length)
    (hle : x.a64.toNat + (img s.core).length ≤ 2 ^ 57)
    (htr : translateRange s s.cur s.core.tenant true x.a64 (img s.core).length .write = .ok (runs, es)) :
    issueOp i (semSpill row img conds f s) s =
      .next (((begun s x).keepTlb s.cur es).onCore (Core.gateRuns · runs (img s.core))) := by
  have hsem : semSpill row img conds f s =
      { block := x.block, conds := x.conds
        eff := fun t => ((effNone x t).keepTlb t.cur es).onCore (Core.gateRuns · runs (img s.core)) } := by
    simp only [semSpill, h.args, hc, hp, mxAddrConds_nil hp ha hn hle, htr, ne_eq, not_true_eq_false, if_false, List.append_nil]
  rw [hsem, issueOp_effect h rfl rfl rfl rfl rfl rfl (by simp)]
  simp only [effNone_begun, State.onCore_cur]

/-- At PRIV 0 a spill stops (R426). -/
theorem issueOp_semSpill_priv (h : Issues i { b := noB } s row f x) (hc : conds s.core = []) (hp : s.core.priv = false)
    (ha : x.a64.toNat % 64 = 0) (hn : 0 < (img s.core).length) (hle : x.a64.toNat + (img s.core).length ≤ 2 ^ 57) :
    issueOp i (semSpill row img conds f s) s = .next (s.onCore fun c => c.stopWith (onlyTrap s row f ⟨4, 0x12, 3, 15, 0, 0⟩)) := by
  refine issueOp_stop h ?_ ?_ (by simp [semSpill]) rfl (by decide)
  · simp only [semSpill, h.args, h.ready]
  · simp only [semSpill, h.args, h.given, hc, mxAddrConds_priv hp ha hn hle, ne_eq, List.cons_ne_nil, not_false_eq_true, if_true,
      List.nil_append, List.append_nil]
    rfl

end

theorem spillsStoreTheMatrixState : SpillsStoreTheMatrixState := by
  intro s row f x
  have hacc := length_accImage s.core
  have hms := length_msImage s.core
  refine ⟨fun runs es h hp ha hle hb hs htr => ⟨accImage s.core, hacc, fun r j k hr hj hk => accImage_byte _ hr hj hk, ?_⟩,
    fun runs es h hp ha hle hb htr => ⟨msImage s.core, hms, fun k hk => ?_, fun k hk => ?_, ?_⟩,
    fun hp hb hs ha hle => ⟨fun h => ?_, fun h => ?_⟩⟩
  · obtain rfl := h.row_eq rfl
    exact issueOp_semSpill h (by simp only [mxConds_sound hb, hs, List.append_nil]) hp ha (by omega) (by omega) (by rw [hacc]; exact htr)
  · obtain ⟨hlegend, -⟩ := msImage_parts s.core
    simpa using hlegend.byte hk
  · obtain ⟨-, hmstat, hmcfg, hdsca, hdscb⟩ := msImage_parts s.core
    exact ⟨hmstat.byte hk, hmcfg.byte hk, hdsca.byte hk, hdscb.byte hk⟩
  · obtain rfl := h.row_eq rfl
    exact issueOp_semSpill h (by simp only [mxConds_sound hb]) hp ha (by omega) (by omega) (by rw [hms]; exact htr)
  · obtain rfl := h.row_eq rfl
    exact issueOp_semSpill_priv h (by simp only [mxConds_sound hb, hs, List.append_nil]) hp ha (by omega) (by omega)
  · obtain rfl := h.row_eq rfl
    exact issueOp_semSpill_priv h (by simp only [mxConds_sound hb]) hp ha (by omega) (by omega)

/-! ## Fills (R193) -/

section
variable {i : Instr} {s : State} {row : OpRow} {f : Form} {x : Args} {blocks n : Nat} {badInfo : Nat → Word} {items : List Nat}
  {fill : List Vec → Core → Core}

/-- From address 0 a fill resets its state and reads nothing. -/
theorem issueOp_semFill_zero (h : Issues i { b := noB } s row f x) (hp : s.core.priv = true) (ha : x.a64 = 0) :
    issueOp i (semFill row blocks n badInfo items fill f s) s = .next ((begun s x).onCore fun c => (fill [] c).mxRepair items) := by
  have hsem : semFill row blocks n badInfo items fill f s =
      { block := x.block, conds := x.conds, eff := fun t => (effNone x t).onCore fun c => (fill [] c).mxRepair items } := by
    simp only [semFill, h.args, ha, hp, if_true, List.append_nil]
  rw [hsem, issueOp_onCore h]

/-- From any other address it loads the blocks that it reads there. -/
theorem issueOp_semFill_blocks {vs : List Vec} (h : Issues i { b := noB } s row f x) (hp : s.core.priv = true) (hz : x.a64 ≠ 0)
    (ha : x.a64.toNat % 64 = 0) (hn : 0 < blocks * n) (hle : x.a64.toNat + blocks * n ≤ 2 ^ 57)
    (hr : readBlocks s x.a64 n (List.range blocks) = { data := vs }) :
    issueOp i (semFill row blocks n badInfo items fill f s) s = .next ((begun s x).onCore fun c => (fill vs c).mxRepair items) := by
  have hsem : semFill row blocks n badInfo items fill f s =
      { block := x.block, conds := x.conds, eff := fun t => (effNone x t).onCore fun c => (fill vs c).mxRepair items } := by
    simp only [semFill, h.args, hz, mxAddrConds_nil hp ha hn hle, hr, ne_eq, not_true_eq_false, if_false, Bool.false_and, Bool.or_false,
      List.append_nil]
  rw [hsem, issueOp_onCore h]

end

/-- The bits of MSTAT and of MCFG that a fill stores (R232). -/
theorem getLsbD_mstatMask (i : Nat) : (0xFFFF00000000009D : Word).getLsbD i = (decide (48 ≤ i ∧ i < 64) || decide (i ∈ [0, 2, 3, 4, 7])) := by
  by_cases h : i < 64
  · revert h i; decide
  · rw [BitVec.getLsbD_of_ge _ _ (by omega)]
    simp [h]
    omega

theorem getLsbD_mcfgMask {i : Nat} (h : i < 64) : (0xFFFFFFFFFFFFFF03 : Word).getLsbD i = (decide (i < 2) || decide (8 ≤ i)) := by
  revert h i; decide

theorem fillsLoadTheMatrixState : FillsLoadTheMatrixState := by
  intro s row f x hp
  refine ⟨fun h ha => ?_, fun h ha => ?_, fun vs h hz ha hle hr => ?_, fun v h hz ha hle hr => ?_⟩ <;> obtain rfl := h.row_eq rfl
  · exact (issueOp_semFill_zero h hp ha).trans rfl
  · refine (issueOp_semFill_zero h hp ha).trans ?_
    simp only [List.getD_nil, BitVec.ofNat_eq_ofNat, BitVec.extractLsb'_zero, BitVec.zero_and, BitVec.setWidth_zero]
  · refine ⟨_, issueOp_semFill_blocks h hp hz ha (by decide) hle hr, fun r hr => ?_, by rw [State.core_onCore]; rfl, rfl⟩
    rw [State.core_onCore]
    exact (RF.get_ofFn _ _).trans (by simp [Nat.mod_eq_of_lt hr])
  · refine ⟨_, issueOp_semFill_blocks (blocks := 1) h hp hz ha (by decide) hle hr, ?_⟩
    rw [State.core_onCore]
    refine ⟨rfl, fun i => ?_, fun i hi => ?_, rfl, rfl, rfl, rfl, rfl⟩
    · show (v.extractLsb' 256 64 &&& 0xFFFF00000000009D).getLsbD i = _
      rw [BitVec.getLsbD_and, getLsbD_mstatMask, BitVec.getLsbD_extractLsb', Bool.and_comm]
      by_cases hi : i < 64
      · simp [hi]
      · simp [hi]; omega
    · show (v.extractLsb' 320 64 &&& 0xFFFFFFFFFFFFFF03).getLsbD i = _
      rw [BitVec.getLsbD_and, getLsbD_mcfgMask hi, BitVec.getLsbD_extractLsb', Bool.and_comm]
      simp [hi]

/-- Settles O17: the spills and the fills. -/
theorem matrixStateSpillsAndFills : Obligations.MatrixStateSpillsAndFills := ⟨spillsStoreTheMatrixState, fillsLoadTheMatrixState⟩

end Sys2Proof.Claims
end

section
/-! SUPPORT. Delivery counters and the arms that an addition fires (R195, R196, R200-R202). -/

namespace Sys2Proof.Machine

/-! ## Arms (R196) -/

/-- The slots of a counter whose threshold a value has reached, by number (R196). -/
def hitSlots (arms : RF 2 Arm) (v : BitVec 32) : List Nat :=
  (List.range 4).filter fun i => let a := arms.get (BitVec.ofNat 2 i); a.armed && decide (a.thr.toNat ≤ v.toNat)

/-- Taking entries one by one into their places only rearranges them. -/
theorem foldl_insert_perm (key : Nat → Nat) (l acc : List Nat) :
    (l.foldl (fun acc i => acc.filter (fun j => key j ≤ key i) ++ [i] ++ acc.filter (fun j => key i < key j)) acc).Perm (acc ++ l) := by
  induction l generalizing acc with
  | nil => simp
  | cons i l ih =>
    refine (ih _).trans ?_
    have hsplit : (acc.filter (fun j => key j ≤ key i) ++ acc.filter (fun j => key i < key j)).Perm acc := by
      simpa [← decide_not] using List.filter_append_perm (fun j => decide (key j ≤ key i)) acc
    have hin : (acc.filter (fun j => key j ≤ key i) ++ [i] ++ acc.filter (fun j => key i < key j)).Perm (acc ++ [i]) := by
      rw [List.append_assoc]
      exact (List.perm_append_comm.append_left _ |>.trans (by rw [← List.append_assoc])).trans (hsplit.append_right [i])
    simpa using hin.append_right l

/-- The slots that fire are those that are hit, in some order. -/
theorem firingOrder_perm (arms : RF 2 Arm) (v : BitVec 32) :
    (firingOrder arms v).Perm ((hitSlots arms v).map (BitVec.ofNat 2)) :=
  (foldl_insert_perm (fun i => (arms.get (BitVec.ofNat 2 i)).thr.toNat) (hitSlots arms v) []).map _

theorem mem_firingOrder {arms : RF 2 Arm} {v : BitVec 32} {i : BitVec 2} :
    i ∈ firingOrder arms v ↔ (arms.get i).armed = true ∧ (arms.get i).thr.toNat ≤ v.toNat := by
  rw [(firingOrder_perm arms v).mem_iff]
  simp only [hitSlots, List.mem_map, List.mem_filter, List.mem_range, Bool.and_eq_true, decide_eq_true_eq]
  constructor
  · rintro ⟨k, ⟨-, h⟩, rfl⟩; exact h
  · intro h; exact ⟨i.toNat, ⟨i.isLt, by simpa using h⟩, by simp⟩

theorem firingOrder_nodup (arms : RF 2 Arm) (v : BitVec 32) : (firingOrder arms v).Nodup := by
  rw [(firingOrder_perm arms v).nodup_iff]
  refine List.Nodup.map_on (fun a ha b hb hab => ?_) (List.nodup_range.filter _)
  have h4 {k : Nat} (hk : k ∈ hitSlots arms v) : k < 4 := List.mem_range.mp (List.mem_filter.mp hk).1
  have hnat := congrArg BitVec.toNat hab
  simpa [Nat.mod_eq_of_lt (h4 ha), Nat.mod_eq_of_lt (h4 hb)] using hnat

theorem firingOrder_length (arms : RF 2 Arm) (v : BitVec 32) : (firingOrder arms v).length ≤ 4 := by
  rw [(firingOrder_perm arms v).length_eq, List.length_map]
  exact List.length_filter_le ..

/-- The action of an arm of a counter with the clock `k` (R196). -/
def Arm.action (a : Arm) (k : Option Clock) : Fired := { kind := a.kind, arg := a.arg, handle := a.ownHandle, tenant := a.ownTenant, clk := k }

/-- The core after slot `i` of counter `n` has fired. -/
def Core.fireSlot (n : BitVec 5) (c : Core) (i : BitVec 2) : Core :=
  { c with arms := c.arms.put n ((c.arms.get n).put i {}), fired := c.fired ++ [((c.arms.get n).get i).action (c.dcClk.get n)] }

theorem Core.fire_eq (c : Core) (n : BitVec 5) : c.fire n = (firingOrder (c.arms.get n) (c.dc.get n)).foldl (Core.fireSlot n) c := rfl

/-- What slots that fire change: they are emptied, and their actions are due. -/
theorem Core.foldl_fireSlot (n : BitVec 5) (l : List (BitVec 2)) (hl : l.Nodup) (c : Core) :
    let t := l.foldl (Core.fireSlot n) c
    t.dc = c.dc ∧ (∀ m, m ≠ n → t.arms.get m = c.arms.get m) ∧
    (∀ i, (t.arms.get n).get i = if i ∈ l then {} else (c.arms.get n).get i) ∧
    t.fired = c.fired ++ l.map fun i => ((c.arms.get n).get i).action (c.dcClk.get n) := by
  induction l generalizing c with
  | nil => simp
  | cons j l ih =>
    obtain ⟨hj, hl⟩ := List.nodup_cons.mp hl
    obtain ⟨hdc, hother, hslot, hfired⟩ := ih hl (Core.fireSlot n c j)
    have hput (i : BitVec 2) : ((Core.fireSlot n c j).arms.get n).get i = if j = i then {} else (c.arms.get n).get i := by
      simp only [Core.fireSlot, RF.get_put_same, RF.get_put]
    refine ⟨hdc, fun m hm => (hother m hm).trans (RF.get_put_ne _ _ hm.symm), fun i => ?_, ?_⟩
    · rw [List.foldl_cons, hslot, hput]
      by_cases hi : i ∈ l
      · simp [hi]
      · by_cases hij : j = i
        · simp [hij]
        · simp [hi, hij, Ne.symm hij]
    · rw [List.foldl_cons, hfired]
      have hkeep : l.map (fun i => (((Core.fireSlot n c j).arms.get n).get i).action ((Core.fireSlot n c j).dcClk.get n)) =
          l.map fun i => ((c.arms.get n).get i).action (c.dcClk.get n) :=
        List.map_congr_left fun i hi => by
          rw [hput, if_neg (fun e => hj (by rw [e]; exact hi))]
          rfl
      rw [hkeep]
      simp [Core.fireSlot]

/-! ## What the start of an issue leaves of the counters -/

@[simp] theorem Core.voidPorts_pin (c : Core) (x : Args) : (c.voidPorts x).pin = c.pin := by
  simp only [Core.pin, Core.creg, Core.voidPorts_ctx]

@[simp] theorem Core.beginIssue_dc (c : Core) : c.beginIssue.dc = c.dc := by rw [Core.beginIssue_eq]
@[simp] theorem Core.beginIssue_dcClk (c : Core) : c.beginIssue.dcClk = c.dcClk := by rw [Core.beginIssue_eq]

/-- A sheet that begins has gated nothing more. -/
theorem Core.beginSheet_gated (c : Core) (d : BitVec 2) :
    (c.beginSheet.sheets.get d).map Sheet.gated = (c.sheets.get d).map Sheet.gated := by
  unfold Core.beginSheet
  split
  · next sh h =>
    split
    · rfl
    · by_cases hd : c.depth = d
      · subst hd
        simp only [Core.setSheet, RF.get_put_same]
        rw [show c.sheets.get c.depth = some sh from h]
        rfl
      · simp only [Core.setSheet, RF.get_put_ne _ _ hd]
  · rfl

theorem Core.gatedAll_eq (c : Core) : c.gatedAll = (c.wbuf.filter fun w => !w.written).map Gated.push ++
    [0, 1, 2].flatMap fun d : BitVec 2 =>
      (c.committed.filter (fun e => e.1 == d)).map Prod.snd ++ ((c.sheets.get d).map Sheet.gated).getD [] := by
  refine congrArg _ (congrArg (List.flatMap · _) (funext fun d => congrArg _ ?_))
  cases c.sheets.get d <;> rfl

@[simp] theorem Core.beginIssue_gatedAll (c : Core) : c.beginIssue.gatedAll = c.gatedAll := by
  simp only [Core.gatedAll_eq, Core.beginIssue_eq, Core.beginSheet_gated]

@[simp] theorem Core.beginIssue_counterSeen (c : Core) (n : BitVec 5) : c.beginIssue.counterSeen n = c.counterSeen n := by
  simp only [Core.counterSeen, Core.beginIssue_gatedAll, Core.beginIssue_dc]

end Sys2Proof.Machine

namespace Sys2Proof.Claims
open Machine

theorem countersFireTheirArms : CountersFireTheirArms := by
  intro c n v t new hit
  have hnew : ({ c with dc := c.dc.put n (c.dc.get n + v) } : Core).dc.get n = new := RF.get_put_same ..
  have ht : t = (firingOrder (c.arms.get n) new).foldl (Core.fireSlot n) { c with dc := c.dc.put n (c.dc.get n + v) } := by
    rw [← hnew]; rfl
  obtain ⟨hdc, hother, hslot, hfired⟩ := Core.foldl_fireSlot n (firingOrder (c.arms.get n) new) (firingOrder_nodup _ _)
    { c with dc := c.dc.put n (c.dc.get n + v) }
  rw [← ht] at hdc hother hslot hfired
  refine ⟨by rw [hdc]; exact hnew, fun m hm => ⟨by rw [hdc]; exact RF.get_put_ne _ _ hm.symm, hother m hm⟩, fun i hi => ⟨?_, ?_⟩,
    fun i hi => ?_, ⟨_, hfired, ?_⟩, RF.get_put_same .., rfl, rfl⟩
  · rw [hslot, if_pos (mem_firingOrder.mpr hi)]
  · rw [hfired]
    exact List.mem_append_right _ (List.mem_map_of_mem (f := fun i => ((c.arms.get n).get i).action (c.dcClk.get n)) (mem_firingOrder.mpr hi))
  · rw [hslot, if_neg (fun h => hi (mem_firingOrder.mp h))]
  · rw [List.length_map]
    exact firingOrder_length _ _

/-! ## The operations (R200-R202) -/

section
variable {i : Instr} {use : Use} {s : State} {row : OpRow} {f : Form} {x : Args}

theorem counterArgs_eq (f : Form) (x : Args) :
    (counterArgs f x).1 = counterOf f x ∧ (counterArgs f x).2.setWidth 32 = amountOf f x := by
  cases f <;> simp [counterArgs, counterOf, amountOf, isWy, BitVec.setWidth_eq_extractLsb']

theorem useCounter_eq (f : Form) : useCounter f = readsCounter f := by cases f <;> rfl

/-- Outside the pinned regime a counter operation gates its release and then its own entry (R311, R337). -/
theorem issueOp_semRelease {conds : List Cond} {scope : BitVec 3} {g : Core → Core} (h : Issues i use s row f x) (hp : s.core.pin = false)
    (hc : conds = []) :
    issueOp i (semRelease x conds scope g) s = .next ((begun s x).onCore fun c => g (c.gate (.release scope c.ops))) := by
  have hpin : (begun s x).core.pin = false := by simp [begun_core, hp]
  have hsem : (semRelease x conds scope g).conds = x.conds := by rw [semRelease, hc, List.append_nil]
  rw [issueOp_effect h rfl hsem rfl rfl rfl rfl (by simp [semRelease])]
  simp only [semRelease, effNone_begun]
  refine congrArg _ (State.onCore_congr ?_)
  rw [hpin]
  rfl

theorem exec_dadd (h : Issues (.dadd f) (readsCounter f) s row f x) (hp : s.core.pin = false) :
    exec (.dadd f) s = .next ((begun s x).onCore fun c => (c.gate (.release 4 c.ops)).gate (.counterAdd (counterOf f x) (amountOf f x))) := by
  obtain rfl := h.row_eq rfl
  obtain ⟨hn, hv⟩ := counterArgs_eq f x
  show issueOp (.dadd f) (semDadd f s) s = _
  simp only [semDadd, useCounter_eq, h.args, hn, hv]
  exact issueOp_semRelease h hp rfl

theorem exec_dset (h : Issues (.dset f) (readsCounter f) s row f x) (hp : s.core.pin = false) :
    exec (.dset f) s = .next ((begun s x).onCore fun c => (c.gate (.release 4 c.ops)).gate (.counterSet (counterOf f x) (amountOf f x))) := by
  obtain rfl := h.row_eq rfl
  obtain ⟨hn, hv⟩ := counterArgs_eq f x
  show issueOp (.dset f) (semDset f s) s = _
  simp only [semDset, useCounter_eq, h.args, hn, hv]
  exact issueOp_semRelease h hp rfl

theorem semDwait_eq (h : Issues (.dwait f) (readsCounter f) s row f x) : semDwait f s =
    { block := (s.core.dc.get (counterOf f x)).toNat < (amountOf f x).toNat, waits := true
      why := some (.counter (counterOf f x) (amountOf f x)), conds := []
      eff := fun t => acquireAt (effNone x t) t.cur (t.core.dcClk.get (counterOf f x)) } := by
  obtain rfl := h.row_eq rfl
  obtain ⟨hn, hv⟩ := counterArgs_eq f x
  simp only [semDwait, useCounter_eq, h.args, hn, hv, h.ready, h.given]
  rfl

/-- Below its value a counter holds its dwait (R200, R338). -/
theorem exec_dwait_held (h : Issues (.dwait f) (readsCounter f) s row f x)
    (hlt : (s.core.dc.get (counterOf f x)).toNat < (amountOf f x).toNat) :
    exec (.dwait f) s = .next (s.holdCore s.cur { waits := true, why := some (.counter (counterOf f x) (amountOf f x))
                                                  whys := [some (.counter (counterOf f x) (amountOf f x))] }) := by
  show issueOp (.dwait f) (semDwait f s) s = _
  rw [semDwait_eq h, issueOp_next h.op h.shape, issueSem_held h.guard (decide_eq_true hlt)]
  rfl

/-- From its value on it lets it pass, as an acquire with the counter's clock (R200, R324). -/
theorem exec_dwait (h : Issues (.dwait f) (readsCounter f) s row f x)
    (hle : (amountOf f x).toNat ≤ (s.core.dc.get (counterOf f x)).toNat) :
    exec (.dwait f) s = .next (acquireAt (begun s x) s.cur (s.core.dcClk.get (counterOf f x))) := by
  show issueOp (.dwait f) (semDwait f s) s = _
  rw [semDwait_eq h, issueOp_clear h (decide_eq_false (Nat.not_lt.mpr hle)) rfl rfl rfl rfl rfl (by simp)]
  simp only [effNone_begun, State.onCore_cur, State.core_onCore, Core.beginIssue_dcClk]

/-- dread reads the counter as its core sees it, and acquires (R200, R337). -/
theorem exec_dread (h : Issues (.dread f) (readsNumber f) s row f x) (hp : s.core.pin = false) {d : BitVec 5}
    (hd : (numberOf f x).setWidth 5 = d) :
    exec (.dread f) s = .next ((acquireAt (s.onCore Core.beginIssue) s.cur (s.core.dcClk.get d)).onCore fun c =>
      c.produce x x.y (.ready ((s.core.counterSeen d).setWidth 1024) none) 0 none) := by
  have hsem : semDread f s =
      { block := x.block, conds := x.conds
        eff := fun t => (acquireAt t t.cur (t.core.dcClk.get d)).onCore fun c =>
          c.produce x x.y (.ready ((c.counterSeen d).setWidth 1024) (if c.pin then some (t.now + 8) else none)) 0 none } := by
    obtain rfl := h.row_eq rfl
    have hn : (if isWy f then bits x.a64 0 5 else bits x.b64 0 5) = d := by
      rw [← hd]
      cases f <;> simp [numberOf, isWy, BitVec.setWidth_eq_extractLsb']
    subst hn
    cases f <;> rw [← h.args] <;> rfl
  show issueOp (.dread f) (semDread f s) s = _
  rw [hsem, issueOp_effect h rfl rfl rfl rfl rfl rfl (by simp)]
  simp only [State.onCore_cur, State.core_onCore, Core.beginIssue_dcClk]
  refine congrArg _ (State.onCore_congr ?_)
  have hcore : (acquireAt (s.onCore Core.beginIssue) s.cur (s.core.dcClk.get d)).core = s.core.beginIssue := State.core_onCore ..
  rw [hcore, Core.beginIssue_pin, hp, Core.beginIssue_counterSeen]
  rfl

theorem exec_darm (h : Issues (.darm f) { c := true } s row f x) (hp : s.core.pin = false) (hc : darmConds s x.a64 x.b64 = []) :
    exec (.darm f) s = .next ((begun s x).onCore fun c => (c.gate (.release 3 c.ops)).gate
      (.arm (x.c64.setWidth 5) (x.b64.extractLsb' 32 2) (if x.b64.getLsbD 36 then {} else
        { armed := true, kind := x.b64.extractLsb' 34 2, thr := x.b64.setWidth 32, arg := x.a64,
          ownHandle := (s.core.creg crTASK).extractLsb' 32 32, ownTenant := s.core.tenant }))) := by
  obtain rfl := h.row_eq rfl
  show issueOp (.darm f) (semDarm f s) s = _
  simp only [semDarm, h.args, BitVec.setWidth_eq_extractLsb' (show 5 ≤ 64 by decide), BitVec.setWidth_eq_extractLsb' (show 32 ≤ 64 by decide)]
  exact issueOp_semRelease h hp hc

end

theorem deliveryCounterOperations : DeliveryCounterOperations := by
  intro s row f x hp n
  refine ⟨fun h => ⟨exec_dwait_held h, exec_dwait h⟩, fun h => ⟨exec_dread h hp rfl, fun hg => ?_⟩, fun h => exec_dadd h hp,
    fun h => exec_dset h hp, fun h hc => exec_darm h hp hc⟩
  rw [Core.counterSeen, hg, List.foldl_nil]

/-- Settles O38: the operations, and the arms that an addition fires. -/
theorem deliveryCountersAndArms : Obligations.DeliveryCountersAndArms := ⟨deliveryCounterOperations, countersFireTheirArms⟩

end Sys2Proof.Claims
end

section
/-! SUPPORT. Packets built from templates and sent (R197-R199, R269, R270, R432). -/

namespace Sys2Proof.Machine

@[simp] theorem State.keepTlb_nil (s : State) (n : CoreNo) : s.keepTlb n [] = s := if_pos (.inr rfl)

/-- The low word of a value replaced (R198). -/
theorem getLsbD_lowReplaced (v : Vec) (w : BitVec 32) (i : Nat) :
    (((v >>> 32) <<< 32) ||| w.setWidth 1024).getLsbD i = if i < 32 then w.getLsbD i else v.getLsbD i := by
  rw [BitVec.getLsbD_or, BitVec.getLsbD_shiftLeft, BitVec.getLsbD_ushiftRight, BitVec.getLsbD_setWidth]
  split
  · next hi => simp [hi, show i < 1024 by omega]
  · next hi =>
    by_cases h : i < 1024
    · simp [hi, h, show 32 + (i - 32) = i by omega, BitVec.getLsbD_of_ge w i (by omega)]
    · simp [h, BitVec.getLsbD_of_ge v i (by omega), hi]

/-- A read that answers no data error with its low word replaced answers what it reads without, but for that word (R198). -/
theorem performRead_low {t t' : State} {m : CoreNo} {r : LoadReq} {w : BitVec 32} {v : Vec} (hlow : r.low = some w) (hs : r.sext = none)
    (h : performRead t m r = some (t', v, none)) :
    ∃ v0, performRead t m { r with low := none } = some (t', v0, none) ∧ ∀ i, v.getLsbD i = if i < 32 then w.getLsbD i else v0.getLsbD i := by
  unfold performRead at h ⊢
  simp only [hlow, hs] at h ⊢
  cases hheld : r.held
  all_goals
    simp only [hheld] at h ⊢
    split at h
    · cases h
    · next hahead =>
      rw [if_neg hahead]
      split at h
      · obtain ⟨p, -, hp⟩ := Option.map_eq_some_iff.mp h
        cases hp
      · next s' hprep =>
        obtain ⟨rfl, hval⟩ := Prod.mk.inj (Option.some.inj h)
        obtain ⟨rfl, hbad⟩ := Prod.mk.inj hval
        simp only [hbad]
        exact ⟨_, rfl, getLsbD_lowReplaced _ w⟩

end Sys2Proof.Machine

namespace Sys2Proof.Claims
open Machine

/-! ## pbld (R198) -/

section
variable {s : State} {row : OpRow} {f : Form} {x : Args}

theorem exec_pbld {runs : List (Nat × Nat × Bool)} {es : List TlbEntry} (h : Issues (.pbld f) {} s row f x) (ha : x.a64.toNat % 128 = 0)
    (htr : translateRange s s.cur s.core.tenant s.core.priv x.a64 128 .read = .ok (runs, es)) :
    exec (.pbld f) s = .next (((s.onCore Core.beginIssue).keepTlb s.cur es).startRead x (piecesOf runs 0 x.a64) 0 none (padOf runs)
      (if x.b64.getLsbD 63 then some (x.b64.extractLsb' 0 32) else none)) := by
  obtain rfl := h.row_eq rfl
  show issueOp (.pbld f) (semPbld f s) s = _
  simp only [semPbld, h.args, ha, htr, ne_eq, not_true_eq_false, if_false, List.append_nil]
  exact issueOp_effect h rfl rfl rfl rfl rfl rfl (by simp)

/-- A template that is misaligned stops its pbld (R432). -/
theorem exec_pbld_misaligned {q : List (Nat × Nat × Bool) × List TlbEntry} (h : Issues (.pbld f) {} s row f x)
    (ha : x.a64.toNat % 128 ≠ 0) (htr : translateRange s s.cur s.core.tenant s.core.priv x.a64 128 .read = .ok q) :
    StopsWith (.pbld f) s row f ⟨7, 0x18, 3, 4, x.a64, 0⟩ := by
  obtain rfl := h.row_eq rfl
  show issueOp (.pbld f) (semPbld f s) s = _
  simp only [semPbld, h.args, h.given, ha, htr, ne_eq, not_false_eq_true, if_true, List.nil_append, List.append_nil]
  exact issueOp_stop h h.ready rfl (by simp) rfl (by simp)

end

/-! ## psend (R199, R270) -/

section
variable {s : State} {row : OpRow} {f : Form} {x : Args}

/-- A psend without payload and without a base-table entry reads no memory before it is gated. -/
theorem semPsend_eq (h : Issues (.psend f) { b := noB, c := true } s row f x) (hp : (packetOf x.a).plenField = 0)
    (ht : (packetOf x.a).tbx.getLsbD 7 = false) : semPsend f s =
    { block := 8 ≤ s.core.sendQ.length, queue := true
      conds := (hdrFault (packetOf x.a)).toList.map fun o => condPacket 5 4 (BitVec.ofNat 64 o)
      eff := fun t => (effNone x t).onCore (Core.gate · (.send
        { (packetOf x.a).stamped ((effNone x t).origin (effNone x t).cur) s.core.tenant s.core.pin with payload := [] } (x.c64.setWidth 5)
        x.b64 [] none s.core.ctx.pc 0)) } := by
  obtain rfl := h.row_eq rfl
  unfold semPsend
  have h0 : (0 : BitVec 16).toNat = 0 := rfl
  simp only [h.args, hp, ht, h0, h.ready, h.given, if_true, true_or, Bool.false_eq_true, if_false, ne_eq, not_true_eq_false, false_and,
    Bool.false_or, List.nil_append, List.append_nil, State.keepTlb_nil, List.replicate_zero, BitVec.setWidth_eq_extractLsb' (show 5 ≤ 64 by decide)]
  cases hdrFault (packetOf x.a) <;> rfl

theorem exec_psend (h : Issues (.psend f) { b := noB, c := true } s row f x) (hp : (packetOf x.a).plenField = 0)
    (ht : (packetOf x.a).tbx.getLsbD 7 = false) (hf : hdrFault (packetOf x.a) = none) (hq : s.core.sendQ.length < 8) :
    exec (.psend f) s = .next ((begun s x).onCore (Core.gate · (.send
      { (packetOf x.a).stamped (s.origin s.cur) s.core.tenant s.core.pin with payload := [] } (x.c64.setWidth 5) x.b64 [] none
      s.core.ctx.pc 0))) := by
  show issueOp (.psend f) (semPsend f s) s = _
  rw [semPsend_eq h hp ht, issueOp_clear h (decide_eq_false (Nat.not_le.mpr hq)) (by rw [hf]; rfl) rfl rfl rfl rfl (by simp)]
  simp only [effNone_begun]
  rfl

/-- A full send queue holds its bundle (R199). -/
theorem exec_psend_held (h : Issues (.psend f) { b := noB, c := true } s row f x) (hp : (packetOf x.a).plenField = 0)
    (ht : (packetOf x.a).tbx.getLsbD 7 = false) (hq : 8 ≤ s.core.sendQ.length) :
    exec (.psend f) s = .next (s.holdCore s.cur { queue := true, whys := [none] }) := by
  show issueOp (.psend f) (semPsend f s) s = _
  rw [semPsend_eq h hp ht, issueOp_next h.op h.shape, issueSem_held h.guard (decide_eq_true hq)]
  rfl

/-- An invalid header field stops its psend (R432). -/
theorem exec_psend_invalid {o : Nat} (h : Issues (.psend f) { b := noB, c := true } s row f x) (hp : (packetOf x.a).plenField = 0)
    (ht : (packetOf x.a).tbx.getLsbD 7 = false) (hf : hdrFault (packetOf x.a) = some o) (hq : s.core.sendQ.length < 8) :
    StopsWith (.psend f) s row f ⟨7, 0x18, 5, 4, BitVec.ofNat 64 o, 0⟩ := by
  show issueOp (.psend f) (semPsend f s) s = _
  rw [semPsend_eq h hp ht]
  exact issueOp_stop h (decide_eq_false (Nat.not_le.mpr hq)) (by rw [hf]; rfl) (by simp) rfl (by simp)

end

/-- Settles O39: the two ways of pbld, its read, and the three ways of psend. -/
theorem packetsAreBuiltAndSent : Obligations.PacketsAreBuiltAndSent := fun _ _ _ _ =>
  ⟨fun _ _ _ _ _ h ha htr => exec_pbld h ha htr, fun _ _ _ _ _ _ hlow hs h => performRead_low hlow hs h,
    fun _ h ha htr => exec_pbld_misaligned h ha htr, fun h hp ht => ⟨exec_psend h hp ht, fun _ hq => exec_psend_held h hp ht hq,
      fun _ hf hq => exec_psend_invalid h hp ht hf hq⟩⟩

end Sys2Proof.Claims
end

section
/-! SUPPORT. What a counter's rise, a message and a record leave of the package: cores, memory and fabric (R196, R202, R357, R405). -/

namespace Sys2Proof.Machine

/-! ## Wakes and messages (R196, R357) -/

/-- `t` is `s` but for wakes on their way and messages raised. -/
def State.Signals (s t : State) : Prop := ∃ ws ps ms,
  t = { s with dist := { s.dist with wakes := ws }, plat := { s.plat with msixPending := ps, msixSent := ms } }

namespace State.Signals
variable {s t u : State}

theorem refl (s : State) : s.Signals s := ⟨_, _, _, rfl⟩

theorem trans (h : s.Signals t) (k : t.Signals u) : s.Signals u := by
  obtain ⟨_, _, _, rfl⟩ := h
  obtain ⟨_, _, _, rfl⟩ := k
  exact ⟨_, _, _, rfl⟩

theorem mem (h : s.Signals t) : t.mem = s.mem := by obtain ⟨_, _, _, rfl⟩ := h; rfl
theorem fab (h : s.Signals t) : t.fab = s.fab := by obtain ⟨_, _, _, rfl⟩ := h; rfl
theorem coreAt (h : s.Signals t) (n : CoreNo) : t.coreAt n = s.coreAt n := by obtain ⟨_, _, _, rfl⟩ := h; rfl
theorem routerAt (h : s.Signals t) (r : RouterNo) : t.routerAt r = s.routerAt r := by obtain ⟨_, _, _, rfl⟩ := h; rfl

end State.Signals

theorem State.raiseTenantVec_signals (s : State) (t : BitVec 5) (n : Nat) : s.Signals (s.raiseTenantVec t n) := by
  obtain ⟨ps, ms, h⟩ := s.raiseMsix_eq ((bits (s.treg t 0) 16 11 : BitVec 11).toNat + n)
  exact ⟨_, ps, ms, h⟩

/-- The wakes and interrupts of arms start, and their sends and copies wait for their reads (R196). -/
theorem State.settleFired_signals (s : State) (n : CoreNo) :
    ∃ fs, (s.setCoreAt n { s.coreAt n with fired := fs }).Signals (s.settleFired n) := by
  unfold State.settleFired
  refine ⟨_, List.foldlRecOn _ _ (motive := State.Signals _) (State.Signals.refl _) fun u hu f _ => hu.trans ?_⟩
  refine iteInduction (motive := u.Signals) (fun _ => ⟨_, _, _, rfl⟩) (fun _ => ?_)
  exact iteInduction (motive := u.Signals) (fun _ => u.raiseTenantVec_signals _ _) (fun _ => State.Signals.refl u)

/-! ## Counters (R196, R202) -/

/-- What an addition to counter `i` makes of a core: the counter, its clock, its arms and what they have fired change (R196). -/
def Core.Counts (c : Core) (i : BitVec 5) (v : BitVec 32) (d : Core) : Prop := ∃ ks as fs,
  d = { c with dc := c.dc.put i (c.dc.get i + v), dcClk := ks, arms := as, fired := fs }

/-- A slot that fires changes the arms and what they have fired. -/
theorem Core.Counts.fireSlot {c d : Core} {i : BitVec 5} {v : BitVec 32} (h : c.Counts i v d) (n : BitVec 5) (j : BitVec 2) :
    c.Counts i v (Core.fireSlot n d j) := by
  obtain ⟨_, _, _, rfl⟩ := h
  exact ⟨_, _, _, rfl⟩

theorem Core.Counts.fired {c d : Core} {i : BitVec 5} {v : BitVec 32} (h : c.Counts i v d) (fs : List Fired) :
    c.Counts i v { d with fired := fs } := by
  obtain ⟨_, _, _, rfl⟩ := h
  exact ⟨_, _, _, rfl⟩

theorem Core.Counts.fire {c d : Core} {i : BitVec 5} {v : BitVec 32} (h : c.Counts i v d) (n : BitVec 5) : c.Counts i v (d.fire n) := by
  rw [Core.fire_eq]
  exact List.foldlRecOn _ _ (motive := c.Counts i v) h fun _ hd j _ => hd.fireSlot n j

/-- A core that has counted, once the signals of its arms have started. -/
theorem State.settleFired_setCoreAt_signals (s : State) (n : CoreNo) {d : Core} {i : BitVec 5} {v : BitVec 32} (h : (s.coreAt n).Counts i v d) :
    ∃ e, (s.coreAt n).Counts i v e ∧ (s.setCoreAt n e).Signals ((s.setCoreAt n d).settleFired n) := by
  obtain ⟨fs, hsig⟩ := (s.setCoreAt n d).settleFired_signals n
  rw [State.setCoreAt_setCoreAt, State.coreAt_setCoreAt_same] at hsig
  exact ⟨_, h.fired fs, hsig⟩

/-- A counter that rises changes its core's counters and arms, and sends what signals they cause (R202). -/
theorem State.countAt_signals (s : State) (n : CoreNo) (i : BitVec 5) (v : BitVec 32) (k : Option Clock) :
    ∃ d, (s.coreAt n).Counts i v d ∧ (s.setCoreAt n d).Signals (s.countAt n i v k) :=
  s.settleFired_setCoreAt_signals n (Core.Counts.fire ⟨_, _, _, rfl⟩ i)

theorem State.countAt_mem (s : State) (n : CoreNo) (i : BitVec 5) (v : BitVec 32) (k : Option Clock) : (s.countAt n i v k).mem = s.mem := by
  obtain ⟨_, -, h⟩ := s.countAt_signals n i v k
  exact h.mem

theorem State.countAt_routerAt (s : State) (n : CoreNo) (i : BitVec 5) (v : BitVec 32) (k : Option Clock) (r : RouterNo) :
    (s.countAt n i v k).routerAt r = s.routerAt r := by
  obtain ⟨_, -, h⟩ := s.countAt_signals n i v k
  exact h.routerAt r

theorem State.countAt_fab (s : State) (n : CoreNo) (i : BitVec 5) (v : BitVec 32) (k : Option Clock) : (s.countAt n i v k).fab = s.fab := by
  obtain ⟨_, -, h⟩ := s.countAt_signals n i v k
  exact h.fab

/-- A counter that rises leaves its core's queues as they are, and every other counter. -/
theorem State.countAt_core (s : State) (n : CoreNo) (i : BitVec 5) (v : BitVec 32) (k : Option Clock) :
    ((s.countAt n i v k).coreAt n).sendQ = (s.coreAt n).sendQ ∧ ((s.countAt n i v k).coreAt n).copyQ = (s.coreAt n).copyQ ∧
    ∀ j, ((s.countAt n i v k).coreAt n).dc.get j = (s.coreAt n).dc.get j + if i = j then v else 0 := by
  obtain ⟨_, ⟨_, _, _, rfl⟩, h⟩ := s.countAt_signals n i v k
  rw [h.coreAt, State.coreAt_setCoreAt_same]
  refine ⟨rfl, rfl, fun j => ?_⟩
  rw [RF.get_put]
  split
  · next hij => rw [hij]
  · exact (BitVec.add_zero _).symm

/-! ## Records (R405) -/

/-- A test of a location that takes nothing out of service (R410). -/
theorem State.beginTest_of_src {u : SelfTest} (hcore : srcCoreTest u.src = false)
    (hsrc : u.src ≠ 0x05 ∧ u.src ≠ 0x11 ∧ u.src ≠ 0x18 ∧ u.src ≠ 0x1A)
    (t : State) : t.beginTest u = t := by
  obtain ⟨h5, h11, h18, h1A⟩ := hsrc
  have hway : u.way = none := by rw [SelfTest.way, if_neg h5, if_neg h11]
  rw [State.beginTest, hway, hcore]
  exact if_neg (not_or.mpr ⟨h18, h1A⟩)

/-- A record that starts no test, or the test of a location that stays in service, changes the logs alone (R405). -/
theorem State.report_recorded (s : State) {r : ErrRec}
    (h : r.test = none → ∀ (u : SelfTest) (t : State), u.src = r.src → t.beginTest u = t) : s.Recorded (s.report r) := by
  by_cases hsev : 4 ≤ r.sev.toNat
  · obtain ⟨es, hes⟩ := s.report_eq hsev
    exact ⟨_, _, es, _, hes⟩
  · have hbump : ∃ regs, (if r.sev = 0 then s.bumpReg 0x128 else s) = { s with plat := { s.plat with regs := regs } } := by
      split <;> exact ⟨_, rfl⟩
    obtain ⟨regs, hregs⟩ := hbump
    unfold State.report
    refine iteInduction (motive := s.Recorded) (fun _ => ⟨_, _, _, _, rfl⟩) (fun _ => ?_)
    simp only [hsev, if_false, hregs]
    cases htest : r.test with
    | some v =>
      simp only [Option.isNone_some, Bool.and_false, Bool.false_and, Bool.false_eq_true, if_false]
      exact ⟨regs, _, _, _, rfl⟩
    | none =>
      exact iteInduction (motive := s.Recorded) (fun _ => ⟨regs, _, _, _, h htest _ _ rfl⟩) (fun _ => ⟨regs, _, _, _, rfl⟩)

theorem State.Recorded.fab {s t : State} (h : s.Recorded t) : t.fab = s.fab := by obtain ⟨_, _, _, _, rfl⟩ := h; rfl

end Sys2Proof.Machine
end

section
/-! PROOF. What fired arms queue, and the copy engines (R196, R253-R259, R270). -/

namespace Sys2Proof.Machine

/-! ## Fired sends (R270) -/

theorem State.tookFired_core (s : State) (n : CoreNo) (k : BitVec 2) :
    (s.tookFired n k).coreAt n = { s.coreAt n with fired := takeFired k (s.coreAt n).fired } := State.coreAt_setCoreAt_same ..

theorem State.freshBase_of_clear (s : State) (n : CoreNo) (t : BitVec 5) {ix : BitVec 8} (h : ix.getLsbD 7 = false) : s.freshBase n t ix = s :=
  if_neg (by rw [h]; exact Bool.false_ne_true)

theorem State.baseEntry_of_clear (s : State) (n : CoreNo) (t : BitVec 5) {ix : BitVec 8} (k : Option Clock) (h : ix.getLsbD 7 = false) :
    s.baseEntry n t ix k = .got s (leBytes 8 0) :=
  if_neg (by rw [h]; exact Bool.false_ne_true)

/-- A fired send without base-table entries and a payload joins the queue with what its descriptor read (R270). -/
theorem State.armedSend_got {s s1 : State} {n : CoreNo} {f : Fired} {bs : List Byte}
    (hf : (s.coreAt n).fired.find? (fun f => decide (f.kind = 1)) = some f) (hroom : (s.coreAt n).sendQ.length < 8)
    (hread : s.readRange n f.tenant false f.arg 128 f.clk = .got s1 bs) {p : Packet} (hp : packetOf (BitVec.ofNat 1024 (leNat bs)) = p)
    (htb : p.tbx.getLsbD 7 = false) (hpb : p.pbx.getLsbD 7 = false) (hlen : p.readLen = 0) :
    s.armedSend n = s1.queueSend n { p.stamped (s.origin n) f.tenant (s.ownerPinned f) with payload := [] } (f.slot.getD s.slotNow)
      (hdrFault p).isSome := by
  unfold State.armedSend
  simp only [hf, if_neg (Nat.not_le.mpr hroom), hread, hp, State.freshBase_of_clear _ _ _ htb, State.freshBase_of_clear _ _ _ hpb,
    State.baseEntry_of_clear _ _ _ _ htb, State.baseEntry_of_clear _ _ _ _ hpb, htb, hlen, if_true, Bool.false_eq_true, if_false]

theorem State.armedSend_full {s : State} {n : CoreNo} (f : Fired) (hf : (s.coreAt n).fired.find? (fun f => decide (f.kind = 1)) = some f)
    (hfull : 8 ≤ (s.coreAt n).sendQ.length) : s.armedSend n = s := by
  simp only [State.armedSend, hf, if_pos hfull]

theorem State.queueSend_core (s : State) (n : CoreNo) (p : Packet) (slot : Nat) (bad : Bool) :
    (s.queueSend n p slot bad).coreAt n = { s.coreAt n with
      fired := takeFired 1 (s.coreAt n).fired, sendQ := (s.coreAt n).sendQ ++ [{ p := p, count := none, slot := slot, bad := bad }] } := by
  simp only [State.queueSend, State.tookFired_core, State.coreAt_setCoreAt_same]

/-! ## Fired copy commands (R259) -/

theorem Barrier.fails_fail (b : Barrier) (code : BitVec 16) (addr : Word) : (b.fails code addr).fail = true := by
  unfold Barrier.fails
  split
  · assumption
  · rfl

/-- A fired copy command that passes its checks joins the copy queue. -/
theorem State.armedCopy_passes {s s1 : State} {n : CoreNo} {f : Fired} {bs : List Byte}
    (hf : (s.coreAt n).fired.find? (fun f => decide (f.kind = 2)) = some f) (hread : s.readRange n f.tenant false f.arg 32 f.clk = .got s1 bs)
    {d : BitVec 256} (hd : BitVec.ofNat 256 (leNat bs) = d) (hok : copyChecks (s1.tookFired n 2) f.tenant d = []) :
    ((s.armedCopy n).coreAt n).copyQ = (s1.coreAt n).copyQ ++
      [{ cmd := d, tenant := f.tenant, handle := f.handle, owner := 0, armed := true, seq := s1.plat.copySeq,
         left := copyGranules d, cmdAddr := f.arg }] ∧ ((s.armedCopy n).coreAt n).fired = takeFired 2 (s1.coreAt n).fired := by
  unfold State.armedCopy
  simp only [hf, hread, hd, hok, State.coreAt_withPlat, State.coreAt_setCoreAt_same, State.tookFired_core]
  exact ⟨rfl, trivial⟩

/-- One that fails its checks does not, and fails its barrier. -/
theorem State.armedCopy_refused {s s1 : State} {n : CoreNo} {f : Fired} {bs : List Byte}
    (hf : (s.coreAt n).fired.find? (fun f => decide (f.kind = 2)) = some f) (hread : s.readRange n f.tenant false f.arg 32 f.clk = .got s1 bs)
    {d : BitVec 256} (hd : BitVec.ofNat 256 (leNat bs) = d) (hbad : copyChecks (s1.tookFired n 2) f.tenant d ≠ []) :
    ((s.armedCopy n).coreAt n).copyQ = (s1.coreAt n).copyQ ∧ (ccBbe d = true → (((s.armedCopy n).coreAt n).bb.get (ccBb d)).fail = true) := by
  obtain ⟨⟨code, x⟩, r, hcode⟩ := List.exists_cons_of_ne_nil hbad
  unfold State.armedCopy
  simp only [hf, hread, hd, hcode]
  have hcore (u : State) (e : ErrRec) (he : 4 ≤ e.sev.toNat) : (u.report e).coreAt n = u.coreAt n := by
    rw [State.coreAt, State.report_cores he]; rfl
  rw [hcore _ _ (Nat.le_of_ble_eq_true rfl), State.coreAt_setCoreAt_same]
  cases ccBbe d
  · exact ⟨by rw [State.tookFired_core]; rfl, nofun⟩
  · rw [State.tookFired_core]
    exact ⟨rfl, fun _ => by simp only [if_true, RF.get_put_same, Barrier.fails_fail]⟩

theorem firedActionsAreQueued : Claims.FiredActionsAreQueued := by
  intro s n f s1 bs hn hfs
  have hsend : exec (.armedSend n) s = .next (s.armedSend n) := (if_pos hn).trans (by rw [hfs]; rfl)
  have hcopy : exec (.armedCopyQueue n) s = .next (s.armedCopy n) := (if_pos hn).trans (by rw [hfs]; rfl)
  refine ⟨fun hf hroom hread htb hpb hlen => ⟨_, hsend, ?_⟩, fun hf hfull => ?_,
    fun hf hread => ⟨fun hok => ⟨_, hcopy, ?_⟩, fun hbad => ⟨_, hcopy, ?_⟩⟩⟩
  · rw [State.armedSend_got hf hroom hread rfl htb hpb hlen, State.queueSend_core]
    exact ⟨rfl, rfl, rfl⟩
  · rw [hsend, State.armedSend_full f hf hfull]
  · exact State.armedCopy_passes hf hread rfl hok
  · exact State.armedCopy_refused hf hread rfl hbad

/-! ## The start of a copy (R259) -/

/-- A copy of some bytes that does not decrypt is marked started, and an armed one's barrier counts its length. -/
theorem State.startCopy_core (s : State) (n : CoreNo) (i : Nat) {e : CopyEntry} (hdec : ccDec e.cmd = false) (hlen : ccLen e.cmd ≠ 0) :
    let c := s.coreAt n
    s.startCopy n i e = s.setCoreAt n { (if e.armed ∧ ccBbe e.cmd then c.barrierAdd (ccBb e.cmd) (ccLen e.cmd) else c) with
      copyQ := c.copyQ.set i { e with started := true } } := by
  unfold State.startCopy
  simp only [hdec, Bool.false_eq_true, if_false, if_neg (fun h : ccLen e.cmd = 0 ∧ e.due.isNone = true => hlen h.1)]
  split
  · simp only [State.setCopy, State.coreAt_setCoreAt_same, State.setCoreAt_setCoreAt]
    rfl
  · rfl

/-! ## Bytes that land in a scratchpad (R248, R255, R285) -/

/-- The state in which bytes have landed in a core's scratchpad and filled the granule where they begin. -/
def State.landScratch (s : State) (n : CoreNo) (a : Nat) (bs : List Byte) : State :=
  let c := (s.coreAt n).scratchWrite a bs
  (s.setCoreAt n { c with emptyGran := granFill c.emptyGran [a / 16] }).meetAt (.scratch n) portLast

section landScratch
variable (s : State) (n : CoreNo) (a : Nat) (bs : List Byte)

theorem State.landScratch_coreAt : (s.landScratch n a bs).coreAt n =
    { (s.coreAt n).scratchWrite a bs with emptyGran := granFill (s.coreAt n).emptyGran [a / 16] } := by
  rw [State.landScratch, State.meetAt_cores, State.coreAt_setCoreAt_same]
  rfl

theorem State.landScratch_coreAt_ne {m : CoreNo} (h : m ≠ n) : (s.landScratch n a bs).coreAt m = s.coreAt m := by
  rw [State.landScratch, State.meetAt_cores, State.coreAt_setCoreAt_ne _ _ h.symm]

theorem State.landScratch_mem : (s.landScratch n a bs).mem = s.mem := State.meetAt_mem ..

theorem State.landScratch_fab : (s.landScratch n a bs).fab = s.fab := by
  unfold State.landScratch State.meetAt
  split <;> rfl

/-- The bytes read as they landed, and the others as before. -/
theorem State.landScratch_get (hwf : Memory.wf (s.coreAt n).scratch = true) (j : Nat) :
    Memory.get ((s.landScratch n a bs).coreAt n).scratch j =
      if a ≤ j ∧ j < a + bs.length then bs.getD (j - a) 0 else Memory.get (s.coreAt n).scratch j := by
  rw [State.landScratch_coreAt]
  exact Memory.get_write a j bs hwf

theorem State.landScratch_full : a / 16 ∉ ((s.landScratch n a bs).coreAt n).emptyGran := by
  rw [State.landScratch_coreAt]
  simp [granFill]

end landScratch

/-! ## The granules of a copy (R255-R257) -/

theorem State.scratchRead_length (s : State) (me n : CoreNo) (off k : Nat) : (s.scratchRead me n off k).length = k := by
  simp [State.scratchRead]

/-- A barrier that has fewer bytes to wait for, and the wake of one that waits for none (R257). -/
theorem State.barrierLess_signals (s : State) (n : CoreNo) (bb : BitVec 3) (k : Nat) :
    ∃ b : Barrier, b.pending = ((s.coreAt n).bb.get bb).pending - BitVec.ofNat 63 k ∧
      (s.setCoreAt n { s.coreAt n with bb := (s.coreAt n).bb.put bb b }).Signals (s.barrierLess n bb k) := by
  by_cases h0 : ((s.coreAt n).bb.get bb).pending - BitVec.ofNat 63 k = 0
  · refine ⟨{ (s.coreAt n).bb.get bb with pending := _, action := none }, rfl, ?_⟩
    simp only [State.barrierLess, if_pos h0]
    cases ((s.coreAt n).bb.get bb).action with
    | none => exact .refl _
    | some x => exact ⟨_, _, _, rfl⟩
  · refine ⟨{ (s.coreAt n).bb.get bb with pending := _ }, rfl, ?_⟩
    simp only [State.barrierLess, if_neg h0]
    exact .refl _

theorem State.setCopy_coreAt (s : State) (n : CoreNo) (i : Nat) (e : CopyEntry) :
    (s.setCopy n i e).coreAt n = { s.coreAt n with copyQ := (s.coreAt n).copyQ.set i e } := State.coreAt_setCoreAt_same ..

/-- A copy with one granule fewer to go. -/
def CopyEntry.less (e : CopyEntry) (g : Nat) : CopyEntry := { e with left := e.left.erase g }

/-- The state in which a granule of a copy counts as landed, before the copy's end. -/
def State.granCounted (s : State) (n : CoreNo) (i g : Nat) (e : CopyEntry) : State :=
  let t := s.setCopy n i (e.less g)
  if ccBbe e.cmd then t.barrierLess n (ccBb e.cmd) (granBytes e.cmd g) else t

/-- The granule leaves the copy's list, and its bytes the barrier's count. -/
theorem State.granCounted_signals (s : State) (n : CoreNo) (i g : Nat) (e : CopyEntry) :
    ∃ bbs : RF 3 Barrier, (bbs.get (ccBb e.cmd)).pending = ((s.coreAt n).bb.get (ccBb e.cmd)).pending -
        (if ccBbe e.cmd = true then BitVec.ofNat 63 (granBytes e.cmd g) else 0) ∧
      (s.setCoreAt n { s.coreAt n with copyQ := (s.coreAt n).copyQ.set i (e.less g), bb := bbs }).Signals (s.granCounted n i g e) := by
  unfold State.granCounted
  split
  · obtain ⟨b, hb, hsig⟩ := (s.setCopy n i (e.less g)).barrierLess_signals n (ccBb e.cmd) (granBytes e.cmd g)
    rw [State.setCopy_coreAt] at hb hsig
    rw [State.setCopy, State.setCoreAt_setCoreAt] at hsig
    exact ⟨_, by rw [RF.get_put_same]; exact hb, hsig⟩
  · exact ⟨(s.coreAt n).bb, (BitVec.sub_zero _).symm, .refl _⟩

/-- A granule of a copy that is not pinned has landed, and the last one completes the copy (R256). -/
theorem State.granLanded_eq (s : State) (n : CoreNo) (i g : Nat) {e : CopyEntry} (hdue : e.due = none) :
    s.granLanded n i g e =
      if (e.left.erase g).isEmpty then (s.granCounted n i g e).copyDone n i (e.less g) else s.granCounted n i g e :=
  if_neg (by simp [hdue])

/-- A copy that completes leaves the queue. -/
theorem State.copyDone_copyQ (s : State) (n : CoreNo) (i : Nat) {e : CopyEntry} (hdec : ccDec e.cmd = false) :
    ((s.copyDone n i e).coreAt n).copyQ = (s.coreAt n).copyQ.eraseIdx i := by
  have hdrop : ((s.dropCopy n i).coreAt n).copyQ = (s.coreAt n).copyQ.eraseIdx i := by rw [State.dropCopy, State.coreAt_setCoreAt_same]
  simp only [State.copyDone, hdec, Bool.false_eq_true, if_false]
  split
  · exact (State.countAt_core _ _ _ _ _).2.1.trans hdrop
  · exact hdrop

/-- After the last granule of a copy that is not pinned, it leaves the queue. -/
theorem State.granLanded_last (s : State) (n : CoreNo) (i g : Nat) {e : CopyEntry} (hdue : e.due = none) (hdec : ccDec e.cmd = false)
    (hlast : e.left.erase g = []) : ((s.granLanded n i g e).coreAt n).copyQ = (s.coreAt n).copyQ.eraseIdx i := by
  obtain ⟨bbs, -, hsig⟩ := s.granCounted_signals n i g e
  rw [State.granLanded_eq _ _ _ _ hdue, hlast, List.isEmpty_nil, if_pos rfl, State.copyDone_copyQ _ _ _ (e := e.less g) hdec, hsig.coreAt,
    State.coreAt_setCoreAt_same]
  exact List.eraseIdx_set_eq

/-- A granule of a copy from scratchpad to scratchpad in the free regime is read and lands at once (R255). -/
theorem execCopyGranule_scratch {s : State} {n : CoreNo} {i g : Nat} {e : CopyEntry} (hn : coreOk n = true) (hfs : s.plat.failStop = false)
    (he : (s.coreAt n).copyQ[i]? = some e) (hstart : e.started = true) (hg : g ∈ e.left) (hplain : e.plain = none) (hdue : e.due = none)
    (hq : (s.coreAt n).quiesced e = false) (hssp : ccSsp e.cmd = 1) (hdsp : ccDsp e.cmd = 1) {src dst k : Nat}
    (hsrc : (ccSrc e.cmd + BitVec.ofNat 64 (16 * g)).toNat = src) (hdst : (ccDst e.cmd + BitVec.ofNat 64 (16 * g)).toNat = dst)
    (hk : granBytes e.cmd g = k) (htag : s.scratchTag noCore n src k = none) (hfree : s.granHolder n n [dst / 16] = none)
    (hmeet : s.mayMeet (.scratch n) portLast = true) :
    exec (.copyGranule n i g) s = .next ((s.landScratch n dst (s.scratchRead noCore n src k)).granLanded n i g e) := by
  have hread : s.copySource n e g = .got s (s.scratchRead noCore n src k) := by
    simp only [State.copySource, hplain, State.copyRead, hssp, hsrc, hk, htag]
    rfl
  have hland : s.copyLand n e g (s.scratchRead noCore n src k) = .ok (some (s.landScratch n dst (s.scratchRead noCore n src k))) := by
    simp only [State.copyLand, hdsp, hdst, hfree, hmeet, hdue]
    rfl
  refine (if_pos hn).trans ?_
  simp only [he, hfs, hstart, hq, List.contains_iff_mem.mpr hg, hread, hland, Bool.false_eq_true, not_true, or_self, if_false]

theorem copiesRun : Claims.CopiesRun := by
  intro s n i e hn hfs
  have hstart : exec (.copyStart n) s = .next (match s.nextCopy n with | some (i, e) => s.startCopy n i e | none => s) :=
    (if_pos hn).trans (by rw [hfs]; rfl)
  refine ⟨fun hnext hdec hlen => ⟨s.startCopy n i e, by rw [hstart, hnext], ?_⟩, fun hnext => by rw [hstart, hnext], ?_⟩
  · rw [s.startCopy_core n i hdec hlen, State.coreAt_setCoreAt_same]
    by_cases h : e.armed = true ∧ ccBbe e.cmd = true
    · rw [if_pos h, if_pos h]
      exact ⟨rfl, rfl, (Core.barrierAdd_pending ..).trans (by rw [if_pos rfl])⟩
    · rw [if_neg h, if_neg h]
      exact ⟨rfl, rfl, (BitVec.add_zero _).symm⟩
  · intro g he hst hg hplain hdue hq hssp hdsp hdec hwf src dst k htag hfree hmeet
    have hexec := execCopyGranule_scratch hn hfs he hst hg hplain hdue hq hssp hdsp (src := src) (dst := dst) (k := k) rfl rfl rfl htag hfree hmeet
    refine ⟨fun hmore => ⟨_, hexec, ?_⟩, fun hlast => ⟨_, hexec, ?_⟩⟩
    · rw [State.granLanded_eq _ _ _ _ hdue, List.isEmpty_eq_false_iff.mpr hmore, if_neg Bool.false_ne_true]
      obtain ⟨bbs, hbb, hsig⟩ := (s.landScratch n dst (s.scratchRead noCore n src k)).granCounted_signals n i g e
      rw [hsig.coreAt, hsig.mem, State.coreAt_setCoreAt_same, State.setCoreAt_mem, State.landScratch_mem]
      have hget := s.landScratch_get n dst (s.scratchRead noCore n src k) hwf
      rw [State.scratchRead_length] at hget
      rw [State.landScratch_coreAt] at hbb
      exact ⟨by rw [State.landScratch_coreAt]; rfl, hget, s.landScratch_full n dst _, rfl, hbb⟩
    · rw [State.granLanded_last _ _ _ _ hdue hdec hlast, State.landScratch_coreAt]
      rfl

/-- Settles O48: a fired action joins its queue with what its read gives, and a copy's start and granules change their own entry, barrier
and bytes. -/
theorem copiesAndArmedActionsRun : Obligations.CopiesAndArmedActionsRun := ⟨firedActionsAreQueued, copiesRun⟩

end Sys2Proof.Machine
end

section
/-! PROOF. The fabric's events: injections, runs and what frees combine slots and park entries (R270, R274, R284, R286, R469, R474). -/

namespace Sys2Proof.Machine

/-! ## Injection (R270) -/

/-- The state in which an entry of a core's queue has entered the router of its cluster, before it is counted. -/
def State.entered (s : State) (n : CoreNo) (e : SendEntry) : State :=
  let r : RouterNo := BitVec.ofNat 8 (clusterOf n)
  let c := s.coreAt n
  (s.setCoreAt n { c with sendQ := takeEntry e c.sendQ, pinSlot := if e.p.pin then s.slotNow else c.pinSlot }).setRouterAt r
    { s.routerAt r with inj := (s.routerAt r).inj ++
        [{ p := e.p, adir := 10, time := if e.p.pin then s.slotNow * s.slotLen else s.mtime }] }

section inject
variable {s : State} {n : CoreNo} {e : SendEntry}

theorem State.inject_uncounted (hnext : s.nextInjection (s.coreAt n) = some e) (hbad : e.bad = false) (hcount : e.count = none) :
    s.inject n = s.entered n e := by
  simp only [State.inject, hnext, hbad, hcount]
  rfl

theorem State.inject_counted {k : BitVec 5} (hnext : s.nextInjection (s.coreAt n) = some e) (hbad : e.bad = false) (hcount : e.count = some k) :
    s.inject n = (s.entered n e).countAt n k 1 none := by
  simp only [State.inject, hnext, hbad, hcount]
  rfl

end inject

/-- An entered packet's core: its queue is shorter, its counters stand. -/
theorem State.entered_coreAt (s : State) (n : CoreNo) (e : SendEntry) :
    ((s.entered n e).coreAt n).sendQ = takeEntry e (s.coreAt n).sendQ ∧ ((s.entered n e).coreAt n).dc = (s.coreAt n).dc := by
  have hcore : (s.entered n e).coreAt n = _ := State.coreAt_setCoreAt_same s n _
  rw [hcore]
  exact ⟨rfl, rfl⟩

theorem packetsAreInjected : Claims.PacketsAreInjected := by
  intro s n hn hfs r
  have hexec : exec (.packetInjection n) s = .next (s.inject n) := (if_pos hn).trans (by rw [hfs]; rfl)
  refine ⟨fun hnone => hexec.trans ?_, fun e hnext hbad => ⟨_, hexec, ?_⟩⟩
  · rw [State.inject, hnone]
  · obtain ⟨hq, hdc⟩ := s.entered_coreAt n e
    have hsame : (s.entered n e).routerAt r = _ := State.routerAt_setRouterAt_same _ r _
    have hother (r' : RouterNo) (h : r' ≠ r) : (s.entered n e).routerAt r' = s.routerAt r' := State.routerAt_setRouterAt_ne _ _ h.symm
    cases hcount : e.count with
    | none =>
      rw [State.inject_uncounted hnext hbad hcount]
      exact ⟨hsame, hother, rfl, hq, fun k => by rw [hdc, if_neg nofun]; exact (BitVec.add_zero _).symm⟩
    | some k =>
      rw [State.inject_counted hnext hbad hcount]
      obtain ⟨hcq, -, hcdc⟩ := (s.entered n e).countAt_core n k 1 none
      refine ⟨(State.countAt_routerAt ..).trans hsame, fun r' h => (State.countAt_routerAt ..).trans (hother r' h), State.countAt_mem ..,
        hcq.trans hq, fun j => ?_⟩
      rw [hcdc, hdc]
      simp only [Option.some.injEq]

/-! ## Runs (R274) -/

theorem State.meetAt_routerAt (s : State) (m : Meeting) (k : Nat) (r : RouterNo) : (s.meetAt m k).routerAt r = s.routerAt r := by
  unfold State.meetAt
  split <;> rfl

theorem State.meetAt_cores_eq (s : State) (m : Meeting) (k : Nat) : (s.meetAt m k).cores = s.cores := by
  unfold State.meetAt
  split <;> rfl

theorem State.meetAt_fab (s : State) (m : Meeting) (k : Nat) : (s.meetAt m k).fab = s.fab := by
  unfold State.meetAt
  split <;> rfl

section startRun
variable (s : State) (r : RouterNo) (x : FPacket) (key : Nat)

/-- A run that starts is its router's, and nothing else of the router changes. -/
theorem State.startRun_routerAt : (s.startRun r x key).routerAt r = { s.routerAt r with run := some (Claims.runOf s r x) } := by
  rw [State.startRun, State.setRun, State.routerAt_setRouterAt_same, State.meetAt_routerAt]
  rfl

theorem State.startRun_routerAt_ne {q : RouterNo} (h : q ≠ r) : (s.startRun r x key).routerAt q = s.routerAt q := by
  rw [State.startRun, State.setRun, State.routerAt_setRouterAt_ne _ _ h.symm, State.meetAt_routerAt]

theorem State.startRun_cores : (s.startRun r x key).cores = s.cores := State.meetAt_cores_eq ..
theorem State.startRun_mem : (s.startRun r x key).mem = s.mem := State.meetAt_mem ..

/-- A run that starts leaves every link's queue as it is. -/
theorem State.startRun_linkQueue (l : LinkNo) : (s.startRun r x key).linkQueue l = s.linkQueue l := by
  unfold State.linkQueue
  by_cases h : l.router = r
  · rw [h, State.startRun_routerAt]
  · rw [State.startRun_routerAt_ne _ _ _ _ h]

end startRun

/-- A packet of a queue at the router begins a run in the router whose queue is without it. -/
theorem State.startRun_setRouterAt (s : State) (r : RouterNo) (x : FPacket) (key : Nat) (rt : Router) :
    let t := (s.setRouterAt r rt).startRun r x key
    t.routerAt r = { rt with run := some (Claims.runOf s r x) } ∧ (∀ q, q ≠ r → t.routerAt q = s.routerAt q) ∧
      t.cores = s.cores ∧ t.mem = s.mem := by
  refine ⟨?_, fun q hq => ?_, State.startRun_cores .., State.startRun_mem ..⟩
  · rw [State.startRun_routerAt, State.routerAt_setRouterAt_same]
    rfl
  · rw [State.startRun_routerAt_ne _ _ _ _ hq, State.routerAt_setRouterAt_ne _ _ hq.symm]

/-- The queue of a link at its router, and the router with another one. -/
def Router.queue (rt : Router) (l : LinkNo) : List FPacket := if l.dir = 10 then rt.inward.get l.die else rt.out.get l.dir
def Router.setQueue (rt : Router) (l : LinkNo) (q : List FPacket) : Router :=
  if l.dir = 10 then { rt with inward := rt.inward.put l.die q } else { rt with out := rt.out.put l.dir q }

theorem State.linkQueue_eq (s : State) (l : LinkNo) : s.linkQueue l = (s.routerAt l.router).queue l := rfl

theorem Router.queue_setQueue (rt : Router) (l : LinkNo) (q : List FPacket) : (rt.setQueue l q).queue l = q := by
  by_cases h : l.dir = 10
  · simp only [Router.queue, Router.setQueue, if_pos h, RF.get_put_same]
  · simp only [Router.queue, Router.setQueue, if_neg h, RF.get_put_same]

theorem State.linkQueue_setRouterAt (s : State) (l : LinkNo) (rt : Router) : (s.setRouterAt l.router rt).linkQueue l = rt.queue l := by
  rw [State.linkQueue_eq, State.routerAt_setRouterAt_same]

/-- A packet that leaves a link changes the fabric alone: it goes off the link's queue (R475). -/
theorem State.takeFromLink_eq (s : State) (l : LinkNo) (x : FPacket) :
    ∃ f, s.takeFromLink l x = { s with fab := f } ∧ (s.takeFromLink l x).linkQueue l = takeOf x (s.linkQueue l) := by
  let t := s.setRouterAt l.router ((s.routerAt l.router).setQueue l (takeOf x (s.linkQueue l)))
  have hqueue : t.linkQueue l = takeOf x (s.linkQueue l) := (State.linkQueue_setRouterAt ..).trans (Router.queue_setQueue ..)
  have htake : s.takeFromLink l x = t ∨ ∃ k, s.takeFromLink l x = t.setLink_ l k := by
    unfold t State.takeFromLink State.linkQueue Router.setQueue
    by_cases hdir : l.dir = 10
    · simp only [if_pos hdir]
      split
      · exact .inl rfl
      · exact .inr ⟨_, rfl⟩
    · simp only [if_neg hdir]
      split
      · exact .inl rfl
      · exact .inr ⟨_, rfl⟩
  obtain h | ⟨k, h⟩ := htake
  · exact ⟨_, h, h ▸ hqueue⟩
  · exact ⟨_, h, h ▸ hqueue⟩

theorem runsBegin : Claims.RunsBegin := by
  intro s r hr hfs rt
  have hexec (src : RunSource) : exec (.transitRun r src) s = .next (s.beginRun r src) := if_pos hr
  refine ⟨fun src h => ?_, fun hrun => ?_⟩
  · exact (hexec src).trans (congrArg _ (if_pos (Or.inr (h.imp_right fun h => by rw [h]; exact Bool.false_ne_true))))
  · have hopen {src : RunSource} (h : s.mayMeet (.runs r) (runKey r src) = true) :
        ¬ (s.plat.failStop = true ∨ (s.routerAt r).run.isSome = true ∨ ¬ s.mayMeet (.runs r) (runKey r src) = true) := by
      simp [hfs, h, show (s.routerAt r).run = none from hrun]
    refine ⟨fun x h hnext => ⟨_, hexec _, ?_⟩, fun a x q h hq => ⟨_, hexec _, ?_⟩, fun x q h hq => ⟨_, hexec _, ?_⟩,
      fun d l x hedge h hl hdead hnext => ⟨fun hretry => (hexec _).trans ?_, fun hretry => ⟨_, hexec _, ?_⟩⟩⟩
    · simp only [State.beginRun, if_neg (hopen h), show nextOf (s.routerAt r).inj = some x from hnext]
      exact s.startRun_setRouterAt r x _ _
    · simp only [State.beginRun, if_neg (hopen h), show (s.routerAt r).parkRel = x :: q from hq]
      exact (s.startRun_setRouterAt r x _ _).1
    · simp only [State.beginRun, if_neg (hopen h), show (s.routerAt r).combRel = x :: q from hq]
      exact (s.startRun_setRouterAt r x _ _).1
    · simp only [State.beginRun, if_neg (hopen h), hedge, hl, hnext, hretry, or_true, if_true, Bool.false_eq_true, if_false]
    · obtain ⟨f, hf, hqueue⟩ := s.takeFromLink_eq l x
      simp only [State.beginRun, if_neg (hopen h), hedge, hl, hnext, hdead, Nat.not_le.mpr hretry, or_self, Bool.false_eq_true, if_false]
      rw [State.startRun_routerAt, State.startRun_linkQueue, State.startRun_cores, State.startRun_mem, hqueue, hf]
      exact ⟨rfl, rfl, rfl, rfl⟩

end Sys2Proof.Machine
end

section
/-! PROOF. What frees combine slots and park entries (R284, R286, R469, R474). -/

namespace Sys2Proof.Machine

/-! ## Combine slots (R284, R474) -/

theorem State.Recorded.routerAt {s t : State} (h : s.Recorded t) (r : RouterNo) : t.routerAt r = s.routerAt r := by
  rw [State.routerAt, h.fab]
  rfl

/-- A slot that has something to release puts it on its way and is written; nothing else changes (R284). -/
theorem State.releaseSlot_some (s : State) (r : RouterNo) {i : BitVec 6} (complete : Bool) {f : FPacket}
    (h : ((s.routerAt r).slots.get i).released = some f) :
    let x := (s.routerAt r).slots.get i
    s.releaseSlot r i complete = s.setRouterAt r { s.routerAt r with
      combRel := (s.routerAt r).combRel ++ [f]
      slots := (s.routerAt r).slots.put i (if complete then {} else { x with st := .closed, entries := [], missing := x.key.m &&& ~~~x.have_ }) } := by
  simp only [State.releaseSlot, h]

/-- A release leaves memory, and every slot but its own. -/
theorem State.releaseSlot_slots (s : State) (r : RouterNo) (i : BitVec 6) (complete : Bool) :
    (s.releaseSlot r i complete).mem = s.mem ∧ ∀ y, ((s.releaseSlot r i complete).routerAt r).slots.put i y = (s.routerAt r).slots.put i y := by
  cases h : ((s.routerAt r).slots.get i).released with
  | none =>
    have hsame : s.releaseSlot r i complete = s := by simp only [State.releaseSlot, h]
    rw [hsame]
    exact ⟨rfl, fun _ => rfl⟩
  | some f =>
    rw [s.releaseSlot_some r complete h, State.routerAt_setRouterAt_same]
    exact ⟨rfl, fun y => RF.put_put ..⟩

/-- The record of a freed slot starts no test (R405). -/
theorem State.report_router (s : State) {e : ErrRec} (h : e.src = 0x22) : s.Recorded (s.report e) :=
  s.report_recorded fun _ u t hu => State.beginTest_of_src (by rw [hu, h]; decide) (by rw [hu, h]; decide) t

/-- A slot that is emptied, with a record or without. -/
theorem State.emptied_slots (s : State) (r : RouterNo) (i : BitVec 6) (c : Prop) [Decidable c] {e : ErrRec} (h : e.src = 0x22) :
    let u := s.setRouterAt r { s.routerAt r with slots := (s.routerAt r).slots.put i {} }
    let v := if c then u.report e else u
    v.mem = s.mem ∧ (v.routerAt r).slots = (s.routerAt r).slots.put i {} := by
  intro u v
  have hrec : u.Recorded v := iteInduction (motive := u.Recorded) (fun _ => u.report_router h) (fun _ => ⟨_, _, _, _, rfl⟩)
  rw [hrec.mem, hrec.routerAt, State.routerAt_setRouterAt_same]
  exact ⟨rfl, rfl⟩

/-- A slot that is freed is empty, and every other slot stands (R474). -/
theorem State.freeSlot_slots (s : State) (r : RouterNo) (t : BitVec 5) (i : BitVec 6) :
    (s.freeSlot r t i).mem = s.mem ∧ ((s.freeSlot r t i).routerAt r).slots = (s.routerAt r).slots.put i {} := by
  simp only [State.freeSlot]
  generalize hu : (if ((s.routerAt r).slots.get i).due s.plat.cycle = true then s.releaseSlot r i false else s) = u
  have hrel : u.mem = s.mem ∧ ∀ y, (u.routerAt r).slots.put i y = (s.routerAt r).slots.put i y := by
    rw [← hu]
    split
    · exact s.releaseSlot_slots r i false
    · exact ⟨rfl, fun _ => rfl⟩
  obtain ⟨hmem, hslots⟩ := hrel
  exact ⟨(u.emptied_slots r i _ (by rfl)).1.trans hmem, (u.emptied_slots r i _ (by rfl)).2.trans (hslots _)⟩

/-- The slots of a list of numbers are freed, and no other. -/
theorem State.foldl_freeSlot_slots (r : RouterNo) (t : BitVec 5) (l : List Nat) (s : State) :
    let u := l.foldl (fun s i => s.freeSlot r t (BitVec.ofNat 6 i)) s
    u.mem = s.mem ∧ ∀ j : BitVec 6, (u.routerAt r).slots.get j =
      if ∃ k ∈ l, BitVec.ofNat 6 k = j then {} else (s.routerAt r).slots.get j := by
  induction l generalizing s with
  | nil => exact ⟨rfl, fun j => by simp⟩
  | cons i l ih =>
    obtain ⟨hmem, hslots⟩ := s.freeSlot_slots r t (BitVec.ofNat 6 i)
    obtain ⟨hmem', hslots'⟩ := ih (s.freeSlot r t (BitVec.ofNat 6 i))
    refine ⟨hmem'.trans hmem, fun j => (hslots' j).trans ?_⟩
    rw [hslots, RF.get_put]
    by_cases hj : BitVec.ofNat 6 i = j <;> simp [hj]

/-- CSFREE frees the slots that its mask and the tenant's own mask name (R474). -/
theorem State.freeSlots_slots (s : State) (r : RouterNo) (t : BitVec 5) (v : Word) :
    (s.freeSlots r t v).mem = s.mem ∧ ∀ i : BitVec 6, ((s.freeSlots r t v).routerAt r).slots.get i =
      if v.getLsbD i.toNat = true ∧ (s.rreg r t 0x48).getLsbD i.toNat = true then {} else (s.routerAt r).slots.get i := by
  obtain ⟨hmem, hslots⟩ := State.foldl_freeSlot_slots r t ((List.range 64).filter fun i => v.getLsbD i && (s.rreg r t 0x48).getLsbD i) s
  refine ⟨hmem, fun i => (hslots i).trans (if_congr ?_ rfl rfl)⟩
  simp only [List.mem_filter, List.mem_range, Bool.and_eq_true]
  constructor
  · rintro ⟨k, ⟨hk, hv⟩, rfl⟩
    rwa [BitVec.toNat_ofNat, Nat.mod_eq_of_lt hk]
  · exact fun hv => ⟨i.toNat, ⟨i.isLt, hv⟩, BitVec.ofNat_toNat .. |>.trans (BitVec.setWidth_eq i)⟩

/-! ## Park entries (R286, R469) -/

/-- A parked packet as it is released: it runs from instruction 0, its payload as its header's PLEN says (R286). -/
def ParkEntry.rerun (e : ParkEntry) (time : Nat) : FPacket :=
  { p := { e.p with stack := [], pc := 0, payload := (e.p.payload ++ List.replicate 256 0).take (min 256 e.p.plenField.toNat) }
    adir := 12, time := time }

theorem ParkEntry.rerun_payload_length (e : ParkEntry) (time : Nat) : (e.rerun time).p.payload.length = min 256 e.p.plenField.toNat := by
  rw [ParkEntry.rerun, List.length_take, List.length_append, List.length_replicate]
  omega

theorem State.releaseParked_some (s : State) (r : RouterNo) (a : BitVec 4) {e : ParkEntry} (h : (s.routerAt r).park.get a = some e) :
    s.releaseParked r a = s.setRouterAt r { s.routerAt r with
      park := (s.routerAt r).park.put a none, parkRel := (s.routerAt r).parkRel ++ [e.rerun (s.slotCeil (s.mtime + 1))] } := by
  simp only [State.releaseParked, h]
  rfl

theorem slotsAndParksAreFreed : Claims.SlotsAndParksAreFreed := by
  intro s r hr hfs rt
  have hslot (i : BitVec 6) : exec (.combineDeadlineRelease r i) s = _ := if_pos hr
  have hfree (t : BitVec 5) (v : Word) : exec (.csfree r t v) s = .next (s.freeSlots r t v) := (if_pos hr).trans (by rw [hfs]; rfl)
  have hrelease (a : BitVec 4) : exec (.pkcmdRelease r a) s = .next (s.releaseParked r a) := (if_pos hr).trans (by rw [hfs]; rfl)
  have hdiscard (a : BitVec 4) : exec (.pkcmdDiscard r a) s = .next (s.discardParked r a) := (if_pos hr).trans (by rw [hfs]; rfl)
  refine ⟨fun i f hdue hrel => ?_, fun i hdue => ?_, fun t v => ⟨_, hfree t v, s.freeSlots_slots r t v⟩, fun a hnone => ?_, fun a e he => ?_,
    fun a => ⟨_, hdiscard a, State.routerAt_setRouterAt_same .., rfl, rfl⟩⟩
  · have hdue' : ((s.routerAt r).slots.get i).due s.plat.cycle = true := hdue
    refine ⟨_, (hslot i).trans (congrArg _ (if_neg (by simp [hfs, hdue']))), ?_⟩
    rw [State.meetAt_cores_eq, State.meetAt_mem, State.meetAt_routerAt, s.releaseSlot_some r false hrel, State.routerAt_setRouterAt_same]
    exact ⟨rfl, rfl, rfl⟩
  · have hdue' : ((s.routerAt r).slots.get i).due s.plat.cycle = false := hdue
    exact (hslot i).trans (congrArg _ (if_pos (by simp [hdue'])))
  · rw [hrelease, State.releaseParked, hnone]
  · rw [hrelease, s.releaseParked_some r a he]
    refine ⟨_, e.rerun (s.slotCeil (s.mtime + 1)), rfl, ?_⟩
    rw [State.routerAt_setRouterAt_same]
    exact ⟨rfl, rfl, rfl, rfl, rfl, rfl, rfl, e.rerun_payload_length _, rfl, rfl⟩

end Sys2Proof.Machine
end

section
/-! PROOF. Deliveries at their targets (R203, R285, R308, R319, R324, R338). -/

namespace Sys2Proof.Machine

/-! ## The clocks of the dies (R316, R319) -/

theorem MemSys.applyMsg_vc (m : MemSys) (d : BitVec 4) (p : BitVec 3) (x : ChanMsg) : (m.applyMsg d p x).vc = m.vc := by
  unfold MemSys.applyMsg
  refine iteInduction (motive := fun t : MemSys => t.vc = m.vc) (fun _ => rfl) (fun _ => ?_)
  cases x <;> rfl

theorem MemSys.send_vc (m : MemSys) (d : BitVec 4) (p : BitVec 3) (x : ChanMsg) : (m.send d p x).vc = m.vc := by
  unfold MemSys.send
  split
  · rfl
  · split
    · exact m.applyMsg_vc d p x
    · rfl

theorem MemSys.foldl_send_vc (d : BitVec 4) (x : ChanMsg) (l : List Nat) (m : MemSys) :
    (l.foldl (fun m p => m.send d (BitVec.ofNat 3 p) x) m).vc = m.vc := by
  induction l generalizing m with
  | nil => rfl
  | cons p l ih => exact (ih _).trans (m.send_vc ..)

/-- A release raises its die's own entry of its clock by 1. -/
theorem MemSys.marked_vc (m : MemSys) (d : BitVec 4) : ((m.marked d).vc.get d).get d = (m.vc.get d).get d + 1 := by
  rw [MemSys.marked, MemSys.foldl_send_vc, RF.get_put_same, RF.get_put_same]

/-- A release that nothing is queued before takes effect at once. -/
theorem MemSys.release_vc {m : MemSys} {d : BitVec 4} (hq : ¬ (d = 8 ∧ m.baseQ ≠ [])) (hmay : m.mayRelease d = true) :
    ((m.release d).vc.get d).get d = (m.vc.get d).get d + 1 := by
  unfold MemSys.release
  split
  · next h =>
    subst h
    have hnil : m.baseQ = [] := not_not.mp fun h => hq ⟨rfl, h⟩
    simp only [hnil, List.nil_append, MemSys.runBase, hmay, if_true]
    exact m.marked_vc 8
  · exact m.marked_vc d

/-! ## The list of deliveries -/

theorem setDeliv_some (x : Deliv) (i : Nat) (l : List Deliv) : setDeliv (some x) i l = l.set i x := by
  induction l generalizing i with
  | nil => cases i <;> rfl
  | cons y r ih => cases i with
    | zero => rfl
    | succ i => exact congrArg _ (ih i)

theorem setDeliv_none (i : Nat) (l : List Deliv) : setDeliv none i l = l.eraseIdx i := by
  induction l generalizing i with
  | nil => cases i <;> rfl
  | cons y r ih => cases i with
    | zero => rfl
    | succ i => exact congrArg _ (ih i)

/-! ## A step of a delivery (R285) -/

/-- The granule that lands next is one that has not landed. -/
theorem State.nextGranule_mem (s : State) {x : Deliv} (h : x.left ≠ []) : ∃ g ∈ x.left, s.nextGranule x = some g := by
  unfold State.nextGranule
  have hpos : 0 < x.left.length := List.length_pos_iff.mpr h
  split
  · exact ⟨x.left.head h, List.head_mem h, List.head?_eq_some_head h⟩
  · exact ⟨_, List.getElem_mem (Nat.mod_lt _ hpos), List.getElem?_eq_getElem (Nat.mod_lt _ hpos)⟩

theorem State.nextGranule_none (s : State) {x : Deliv} (h : x.left = []) : s.nextGranule x = none := by
  simp [State.nextGranule, h]

section step
variable {s : State} {i : Nat} {x : Deliv}

/-- Outside the pinned regime a delivery may take effect at any time. -/
theorem State.mayDeliver_free (hpin : x.p.pin = false) : s.mayDeliver i x = true := by
  simp [State.mayDeliver, Deliv.after, hpin]

theorem State.deliveryStep_granule (hx : s.fab.deliveries[i]? = some x) (hpin : x.p.pin = false) {g : Nat} (hg : s.nextGranule x = some g) :
    s.deliveryStep i = (s.deliverGranule i x g).getD s := by
  simp only [State.deliveryStep, hx, State.mayDeliver_free hpin, hg, Bool.not_true, Bool.false_eq_true, if_false]

theorem State.deliveryStep_end (hx : s.fab.deliveries[i]? = some x) (hpin : x.p.pin = false) (hleft : x.left = []) :
    s.deliveryStep i = s.deliverEnd i x := by
  simp only [State.deliveryStep, hx, State.mayDeliver_free hpin, s.nextGranule_none hleft, Bool.not_true, Bool.false_eq_true, if_false]

/-- A granule for a scratchpad that is reserved, or whose turn has passed, waits (R203, R338). -/
theorem State.landGranule_waits (htsp : x.p.tsp = 1) {g : Nat}
    (h : s.granHolder noCore x.p.tcore [(x.p.taddr.toNat + 16 * g) / 16] ≠ none ∨ s.mayMeet (.scratch x.p.tcore) portLast = false) :
    s.landGranule x g = none := by
  simp only [State.landGranule, htsp]
  exact if_pos (h.imp Option.isSome_iff_ne_none.mpr (by rintro h; rw [h]; exact Bool.false_ne_true))

theorem State.landGranule_lands (htsp : x.p.tsp = 1) {g : Nat} (hfree : s.granHolder noCore x.p.tcore [(x.p.taddr.toNat + 16 * g) / 16] = none)
    (hmeet : s.mayMeet (.scratch x.p.tcore) portLast = true) :
    s.landGranule x g = some (s.landScratch x.p.tcore (x.p.taddr.toNat + 16 * g) ((x.p.payload.drop (16 * g)).take 16)) := by
  simp only [State.landGranule, htsp, hfree, hmeet]
  rfl

end step

/-- A delivery that ends raises the counter it names, after the die's release (R319, R324). -/
theorem State.deliverEnd_counts {s : State} {i : Nat} {x : Deliv} (hce : x.p.ce = true)
    (hq : ¬ (deliveryDie x.router = 8 ∧ s.mem.baseQ ≠ [])) (hmay : s.mem.mayRelease (deliveryDie x.router) = true)
    (hturn : s.mayMeet (.counter x.p.tcore x.p.dcIx) (1 + x.adir.toNat) = true) :
    let d := deliveryDie x.router
    let u := (s.withMem fun m => m.release d).putDeliv i none
    s.deliverEnd i x = (u.countAt x.p.tcore x.p.dcIx 1 (some (u.mem.vc.get d))).meetAt (.counter x.p.tcore x.p.dcIx) (1 + x.adir.toNat) := by
  have hq' : ¬ (deliveryDie x.router = 8 ∧ ¬ s.mem.baseQ.isEmpty = true) := by simpa [List.isEmpty_iff] using hq
  simp only [State.deliverEnd, hce, hq', hmay, hturn, not_true, or_self, if_false]

/-- It waits for what the base die has to do before, for its die's clock and for its turn (R203, R319, R324). -/
theorem State.deliverEnd_waits {s : State} {x : Deliv} (i : Nat) (hce : x.p.ce = true)
    (h : (deliveryDie x.router = 8 ∧ s.mem.baseQ ≠ []) ∨ s.mem.mayRelease (deliveryDie x.router) = false ∨
      s.mayMeet (.counter x.p.tcore x.p.dcIx) (1 + x.adir.toNat) = false) : s.deliverEnd i x = s := by
  have hcond : (deliveryDie x.router = 8 ∧ ¬ s.mem.baseQ.isEmpty = true) ∨ ¬ s.mem.mayRelease (deliveryDie x.router) = true ∨
      ¬ s.mayMeet (.counter x.p.tcore x.p.dcIx) (1 + x.adir.toNat) = true := by simpa [List.isEmpty_iff] using h
  simp only [State.deliverEnd, hce, hcond, not_true, if_true, if_false]

theorem deliveriesLand : Claims.DeliveriesLand := by
  intro s i x hfs hx hpin
  have hexec : exec (.delivery i) s = .next (s.deliveryStep i) := by
    rw [show exec (.delivery i) s = .next (if s.plat.failStop then s else s.deliveryStep i) from rfl, hfs]
    rfl
  refine ⟨s.nextGranule_mem, ?granule, ?silent, ?counted⟩
  case granule =>
    intro g hg htsp hwf a bs may
    have hstep := hexec.trans (congrArg _ (State.deliveryStep_granule hx hpin hg))
    refine ⟨fun hwait => hstep.trans ?_, fun hfree hmay => ⟨_, hstep, ?_⟩⟩
    · rw [State.deliverGranule, State.landGranule_waits htsp hwait]
      rfl
    · rw [State.deliverGranule, State.landGranule_lands htsp hfree hmay, Option.map_some, Option.getD_some]
      refine ⟨?_, s.landScratch_mem x.p.tcore a bs, s.landScratch_get _ _ _ hwf, s.landScratch_full x.p.tcore a bs,
        fun m hm => s.landScratch_coreAt_ne _ _ _ hm⟩
      exact (setDeliv_some ..).trans (by rw [s.landScratch_fab])
  case silent =>
    intro hleft hce
    refine ⟨_, hexec.trans (congrArg _ (State.deliveryStep_end hx hpin hleft)), ?_⟩
    rw [State.deliverEnd, hce]
    exact ⟨setDeliv_none .., rfl, rfl⟩
  case counted =>
    intro hleft hce d turn queued
    have hstep := hexec.trans (congrArg _ (State.deliveryStep_end hx hpin hleft))
    refine ⟨fun hwait => hstep.trans ?_, fun hq hmay hturn => ⟨_, hstep, ?_⟩⟩
    · exact congrArg _ (State.deliverEnd_waits i hce hwait)
    · rw [State.deliverEnd_counts hce hq hmay hturn, State.meetAt_fab, State.meetAt_mem, State.meetAt_cores, State.countAt_fab, State.countAt_mem]
      obtain ⟨-, -, hdc⟩ := ((s.withMem fun m => m.release d).putDeliv i none).countAt_core x.p.tcore x.p.dcIx 1
        (some (((s.withMem fun m => m.release d).putDeliv i none).mem.vc.get d))
      refine ⟨setDeliv_none .., MemSys.release_vc hq hmay, fun k => (hdc k).trans ?_⟩
      simp only [eq_comm (a := k)]
      rfl

end Sys2Proof.Machine
end

section
/-! PROOF. Links that retry, retrain, spare their lanes and die (R411, R413, R475, R476). -/

namespace Sys2Proof.Machine

/-! ## The links and their queues -/

theorem State.linkAt_setLink_same (s : State) (l : LinkNo) (k : LinkState) : (s.setLink_ l k).linkAt l = k := by
  simp [State.linkAt, State.setLink_]

/-- `t` has the links of `s` and the packets on them. -/
def State.SameLinks (s t : State) : Prop := t.fab.links = s.fab.links ∧ ∀ l, t.linkQueue l = s.linkQueue l

namespace State.SameLinks
variable {s t u : State}

theorem trans (h : s.SameLinks t) (k : t.SameLinks u) : s.SameLinks u := ⟨k.1.trans h.1, fun l => (k.2 l).trans (h.2 l)⟩

theorem of_fab (h : t.fab = s.fab) : s.SameLinks t := by
  refine ⟨by rw [h], fun l => ?_⟩
  simp only [State.linkQueue, State.routerAt, h]

theorem linkAt (h : s.SameLinks t) (l : LinkNo) : t.linkAt l = s.linkAt l := by
  unfold State.linkAt
  rw [h.1]

end State.SameLinks

/-! ## Parking (R469) -/

theorem State.setPark_sameLinks (s : State) (r : RouterNo) (p : RF 4 (Option ParkEntry)) :
    s.SameLinks (s.setRouterAt r { s.routerAt r with park := p }) := by
  refine ⟨rfl, fun l => ?_⟩
  rw [State.linkQueue_eq, State.linkQueue_eq]
  by_cases h : r = l.router
  · rw [← h, State.routerAt_setRouterAt_same]
    rfl
  · rw [State.routerAt_setRouterAt_ne _ _ h]

/-- A packet that parks leaves every link as it is. -/
theorem State.parkAt_sameLinks (s : State) (r : RouterNo) (p : Packet) (adir : BitVec 4) (fault : Bool) (code : Reason) :
    s.SameLinks (s.parkAt r p adir fault code) := by
  have hmsix (u : State) (c : Prop) [Decidable c] (n : Nat) : u.SameLinks (if c then u.raiseMsix n else u) := by
    obtain ⟨ps, ms, h⟩ := u.raiseMsix_eq n
    exact iteInduction (motive := u.SameLinks) (fun _ => .of_fab (by rw [h])) (fun _ => .of_fab rfl)
  have hreport (u : State) {e : ErrRec} (he : 4 ≤ e.sev.toNat) : u.SameLinks (if fault then u.report e else u) := by
    obtain ⟨es, h⟩ := u.report_eq he
    exact iteInduction (motive := u.SameLinks) (fun _ => .of_fab (by rw [h])) (fun _ => .of_fab rfl)
  cases hfree : (List.range 16).find? fun i => ((s.routerAt r).park.get (BitVec.ofNat 4 i)).isNone with
  | none =>
    simp only [State.parkAt, hfree]
    exact .of_fab (s.report_router (by rfl)).fab
  | some i =>
    simp only [State.parkAt, hfree]
    exact ((s.setPark_sameLinks r _).trans (hreport _ (by exact Nat.le_of_ble_eq_true rfl))).trans (hmsix _ _ _)

/-! ## A link that dies (R475, R476) -/

theorem State.takeBound_fab (s : State) : s.takeBound.fab = s.fab := by
  unfold State.takeBound
  split
  · rfl
  · split <;> rfl

theorem State.takeBound_bearings_fab (s : State) (bs : List (BitVec 3 × Nat × Nat)) :
    ({ s with plat := { s.plat with bearings := bs } } : State).takeBound.fab = s.fab := State.takeBound_fab _

/-- The record of a link starts no test that takes anything out of service (R405). -/
theorem State.report_link (s : State) {e : ErrRec} (l : LinkNo) (h : e.src = (linkSrc l).1) : s.Recorded (s.report e) := by
  have hsrc : (linkSrc l).1 ∈ [0x28, 0x29, 0x2A, 0x2B] := by
    unfold linkSrc
    split_ifs <;> simp
  have hquiet : ∀ src ∈ [(0x28 : BitVec 8), 0x29, 0x2A, 0x2B],
      srcCoreTest src = false ∧ src ≠ 0x05 ∧ src ≠ 0x11 ∧ src ≠ 0x18 ∧ src ≠ 0x1A := by
    decide
  refine s.report_recorded fun _ u t hu => ?_
  obtain ⟨hcore, hway⟩ := hquiet u.src (by rw [hu, h]; exact hsrc)
  exact State.beginTest_of_src hcore hway t

/-- The link that dies is dead and its queue empty, what waited there having parked. -/
theorem State.killLink_dead (s : State) (l : LinkNo) (rep : Bool) : (s.killLink l rep).dead l = true ∧ (s.killLink l rep).linkQueue l = [] := by
  let u := (s.setLink_ l { s.linkAt l with dead := true }).setRouterAt l.router ((s.routerAt l.router).setQueue l [])
  have hpark (q : List FPacket) : u.SameLinks (q.foldl (fun s x => s.parkAt l.router x.before x.was true 0xD) u) :=
    List.foldlRecOn (motive := u.SameLinks) q _ (.of_fab rfl) fun _ h x _ => h.trans (State.parkAt_sameLinks ..)
  have hreport (t : State) (h : u.SameLinks t) (e : ErrRec) (he : e.src = (linkSrc l).1) : u.SameLinks (t.report e) :=
    h.trans (.of_fab (t.report_link l he).fab)
  have hkill : u.SameLinks (s.killLink l rep) := by
    unfold State.killLink
    refine iteInduction (motive := u.SameLinks) (fun _ => ?_) (fun _ => hreport _ (hpark _) _ rfl)
    exact (hreport _ (hpark _) _ rfl).trans (.of_fab (State.takeBound_bearings_fab ..))
  refine ⟨?_, (hkill.2 l).trans ?_⟩
  · rw [State.dead, hkill.linkAt]
    exact congrArg LinkState.dead (s.linkAt_setLink_same l { s.linkAt l with dead := true })
  · exact (State.linkQueue_setRouterAt ..).trans (Router.queue_setQueue ..)

/-! ## Lanes and wires that are spared (R411, R413) -/

section spare
variable (s : State) (l : LinkNo) (rep : Bool)

theorem State.spareRecord_spares (hdead : (s.linkAt l).dead = false) (h : (s.linkAt l).spared < linkSpares l) :
    (s.setLink_ l { s.linkAt l with retries := 0, retrains := 0, spared := (s.linkAt l).spared + 1 }).Recorded (s.spareRecord l rep) := by
  have hspare : s.spareLane l rep =
      (s.setLink_ l { s.linkAt l with retries := 0, retrains := 0, spared := (s.linkAt l).spared + 1 }, 2) := by
    simp only [State.spareLane, hdead, h, Bool.false_eq_true, if_false, if_true]
  simp only [State.spareRecord, hspare]
  exact State.report_link _ l rfl

theorem State.spareRecord_dies (hdead : (s.linkAt l).dead = false) (h : linkSpares l ≤ (s.linkAt l).spared) :
    s.spareRecord l rep = s.killLink l rep := by
  have hspare : s.spareLane l rep = (s.killLink l rep, 3) := by
    simp only [State.spareLane, hdead, Nat.not_lt.mpr h, Bool.false_eq_true, if_false]
  simp only [State.spareRecord, hspare]
  rfl

end spare

/-! ## The two events of a link -/

/-- A flit that fails its check on a live link with retries left is sent again, with a record of SEV 0. -/
theorem execLinkCrcRetry_again {s : State} {l : LinkNo} (hl : linkOk l = true)
    (h : ¬ (s.plat.failStop = true ∨ (s.linkAt l).dead = true ∨ 8 ≤ (s.linkAt l).retries ∨ (s.linkQueue l).isEmpty = true)) :
    ∃ t, exec (.linkCrcRetry l) s = .next t ∧ (s.setLink_ l { s.linkAt l with retries := (s.linkAt l).retries + 1 }).Recorded t :=
  ⟨_, (if_pos hl).trans (congrArg _ (if_neg h)), State.report_link _ l rfl⟩

/-- A live link whose retries are used up retrains, spares a lane or dies. -/
theorem execLinkRetrain_done {s : State} {l : LinkNo} (hl : linkOk l = true) (b : Bool)
    (h : ¬ (s.plat.failStop = true ∨ (s.linkAt l).dead = true ∨ (s.linkAt l).retries < 8)) :
    exec (.linkRetrain l b) s = .next (
      if Config.berHigh s.plat.cycle = true then s.spareRecord l true
      else if (s.linkAt l).retrains = 0 then s.setLink_ l { s.linkAt l with retries := 0, retrains := 1 }
      else if b = true then s.spareRecord l false else s.killLink l false) :=
  (if_pos hl).trans (congrArg _ (if_neg h))

theorem linksRetryRetrainAndDie : Claims.LinksRetryRetrainAndDie := by
  intro s l hl hfs k
  have hretry : exec (.linkCrcRetry l) s = _ := if_pos hl
  have hretrain (b : Bool) : exec (.linkRetrain l b) s = _ := if_pos hl
  refine ⟨fun hdead => ⟨?dead, fun b => ?deadToo⟩, fun hempty => ?idle, fun hdead hmore hq => ?retries, fun b hmore => ?left,
    fun hdead hdone b => ?retrains⟩
  case dead => exact hretry.trans (congrArg _ (if_pos (.inr (.inl hdead))))
  case deadToo => exact (hretrain b).trans (congrArg _ (if_pos (.inr (.inl hdead))))
  case idle => exact hretry.trans (congrArg _ (if_pos (.inr (.inr (.inr (by rw [hempty]; rfl))))))
  case left => exact (hretrain b).trans (congrArg _ (if_pos (.inr (.inr hmore))))
  case retries =>
    obtain ⟨t, ht, hrec⟩ := execLinkCrcRetry_again (s := s) hl
      (by simp [hfs, show (s.linkAt l).dead = false from hdead, show (s.linkAt l).retries < 8 from hmore, hq])
    exact ⟨t, ht, ((State.SameLinks.of_fab hrec.fab).linkAt l).trans (s.linkAt_setLink_same ..), hrec.cores, hrec.mem,
      (congrArg Fabric.routers hrec.fab).trans rfl⟩
  case retrains =>
    have hact := execLinkRetrain_done (s := s) hl b
      (by simp [hfs, show (s.linkAt l).dead = false from hdead, show 8 ≤ (s.linkAt l).retries from hdone])
    intro high
    refine ⟨fun hfirst hlow => ?first, fun hspare hroom => ?spares, fun hfail hlost => ?dies⟩
    case first => rw [hact, if_neg (by rw [show Config.berHigh s.plat.cycle = false from hlow]; exact Bool.false_ne_true), if_pos hfirst]
    case spares =>
      have hrep : ∃ rep, exec (.linkRetrain l b) s = .next (s.spareRecord l rep) := by
        rw [hact]
        obtain hhigh | ⟨hagain, rfl⟩ := hspare
        · exact ⟨true, congrArg _ (if_pos hhigh)⟩
        · by_cases hhigh : Config.berHigh s.plat.cycle = true
          · exact ⟨true, congrArg _ (if_pos hhigh)⟩
          · exact ⟨false, by rw [if_neg hhigh, if_neg hagain, if_pos rfl]⟩
      obtain ⟨rep, hrep⟩ := hrep
      have hrec := s.spareRecord_spares l rep hdead hroom
      exact ⟨_, hrep, ((State.SameLinks.of_fab hrec.fab).linkAt l).trans (s.linkAt_setLink_same ..), (congrArg Fabric.routers hrec.fab).trans rfl⟩
    case dies =>
      have hrep : ∃ rep, exec (.linkRetrain l b) s = .next (s.killLink l rep) := by
        rw [hact]
        by_cases hhigh : Config.berHigh s.plat.cycle = true
        · obtain ⟨hlow, -⟩ | hnone := hlost
          · exact absurd hhigh (by rw [show Config.berHigh s.plat.cycle = false from hlow]; exact Bool.false_ne_true)
          · exact ⟨true, by rw [if_pos hhigh, s.spareRecord_dies l true hdead hnone]⟩
        · rw [if_neg hhigh, if_neg (hfail.resolve_left hhigh)]
          cases b with
          | false => exact ⟨false, rfl⟩
          | true =>
            have hnone := hlost.resolve_left (fun h => Bool.noConfusion h.2)
            exact ⟨false, congrArg _ (s.spareRecord_dies l false hdead hnone)⟩
      obtain ⟨rep, hrep⟩ := hrep
      exact ⟨_, hrep, s.killLink_dead l rep⟩

end Sys2Proof.Machine
end

section
/-! PROOF. Bearing exchanges (R347, R483), and the fabric's events together. -/

namespace Sys2Proof.Machine

/-! ## The bound that a package takes (R347, R483) -/

theorem State.setBound_mem (s : State) (b : Nat) : (s.setBound b).mem = s.mem := rfl
theorem State.setBound_bearings (s : State) (b : Nat) : (s.setBound b).plat.bearings = s.plat.bearings := rfl
theorem State.setBound_slew (s : State) (b : Nat) : (s.setBound b).plat.slew = s.plat.slew := rfl

theorem State.setBound_reg (s : State) (b : Nat) : (s.setBound b).reg 0x008 = BitVec.ofNat 64 (min b 0xFFFFFFFF) :=
  State.reg_setReg_same s 0x008 _

theorem State.takeBound_keeps (s : State) :
    s.takeBound.mem = s.mem ∧ s.takeBound.plat.bearings = s.plat.bearings ∧ s.takeBound.plat.slew = s.plat.slew := by
  have hbound : ∃ b, s.takeBound = s.setBound b := by
    unfold State.takeBound
    split
    · exact ⟨_, rfl⟩
    · split
      · exact ⟨_, rfl⟩
      · exact ⟨_, rfl⟩
  obtain ⟨b, h⟩ := hbound
  rw [h]
  exact ⟨s.setBound_mem b, s.setBound_bearings b, s.setBound_slew b⟩

theorem State.takeBound_datum {s : State} (h : (s.reg 0x010).getLsbD 0 = true) : s.takeBound = s.setBound 0 := if_pos h

theorem State.takeBound_parent {s : State} (h : (s.reg 0x010).getLsbD 0 = false) {p : BitVec 3} {m : Nat}
    (hp : parentOf s.plat.bearings = some (p, m)) : s.takeBound = s.setBound m := by
  simp only [State.takeBound, h, hp, Bool.false_eq_true, if_false]

/-! ## An exchange (R347) -/

/-- The package with its bearings and slew. -/
def State.withBearings (s : State) (bs : List (BitVec 3 × Nat × Nat)) (slew : Int) : State :=
  { s with plat := { s.plat with bearings := bs, slew := slew } }

/-- The slew after an exchange over a port with an offset: the datum's is 0, and the parent's offset alone changes another's. -/
def State.slewAfter (s : State) (bs : List (BitVec 3 × Nat × Nat)) (port : BitVec 3) (off : Int) : Int :=
  if (s.reg 0x010).getLsbD 0 then 0
  else if (parentOf bs).any fun x => x.1 == port then max (-100) (min 100 (Config.slewFor off)) else s.plat.slew

theorem State.slewAfter_datum {s : State} (h : (s.reg 0x010).getLsbD 0 = true) (bs : List (BitVec 3 × Nat × Nat)) (port : BitVec 3) (off : Int) :
    s.slewAfter bs port off = 0 := if_pos h

theorem State.slewAfter_parent {s : State} (h : (s.reg 0x010).getLsbD 0 = false) {bs : List (BitVec 3 × Nat × Nat)} {p : BitVec 3} {m : Nat}
    (hp : parentOf bs = some (p, m)) (port : BitVec 3) (off : Int) :
    s.slewAfter bs port off = if p = port then max (-100) (min 100 (Config.slewFor off)) else s.plat.slew := by
  rw [State.slewAfter, if_neg (by rw [h]; exact Bool.false_ne_true), hp]
  simp only [Option.any_some, beq_iff_eq]

/-- An exchange over a live connected port in the first cycle of its tick: the bearings, the slew and then the bound (R347). -/
theorem execBearingExchange_live {s : State} {port : BitVec 3} {dist : BitVec 16} {bound : BitVec 32} {t1 t2 t3 t4 : Word}
    (hgo : ¬ (s.plat.failStop = true ∨ 6 ≤ port.toNat ∨ ¬ s.connected port.toNat = true ∨ s.dead (torusLink port.toNat) = true ∨
      s.mtime / (64 * s.tickPeriod) = (s.plat.mtimeMicro - s.cycleMicro) / 1000000 / (64 * s.tickPeriod)))
    {bs : List (BitVec 3 × Nat × Nat)}
    (hbs : (port, dist.toNat, if bound = 0xFFFFFFFF then 0xFFFFFFFF else (bearingOffset t1 t2 t3 t4).natAbs + bound.toNat + 16) ::
      s.plat.bearings.filter (fun x => x.1 != port) = bs) :
    exec (.bearingExchange port dist bound t1 t2 t3 t4) s =
      .next (s.withBearings bs (s.slewAfter bs port (bearingOffset t1 t2 t3 t4))).takeBound := by
  subst hbs
  refine congrArg Host.Outcome.next ((if_neg hgo).trans (congrArg State.takeBound ?_))
  unfold State.withBearings State.slewAfter
  cases parentOf _ <;> rfl

theorem bearingsAreExchanged : Claims.BearingsAreExchanged := by
  unfold Claims.BearingsAreExchanged
  intro s port dist bound t1 t2 t3 t4 hfs ticks first b bs
  refine ⟨fun hport hconn hlive hfirst => ?_, fun h => ?_⟩
  · have hgo : ¬ (s.plat.failStop = true ∨ 6 ≤ port.toNat ∨ ¬ s.connected port.toNat = true ∨ s.dead (torusLink port.toNat) = true ∨
        s.mtime / ticks = (s.plat.mtimeMicro - s.cycleMicro) / 1000000 / ticks) := by
      rintro (h | h | h | h | h)
      · exact Bool.false_ne_true (hfs.symm.trans h)
      · omega
      · exact h hconn
      · exact Bool.false_ne_true (hlive.symm.trans h)
      · exact hfirst h
    let u := s.withBearings bs (s.slewAfter bs port (bearingOffset t1 t2 t3 t4))
    have hexec : exec (.bearingExchange port dist bound t1 t2 t3 t4) s = .next u.takeBound := execBearingExchange_live hgo rfl
    obtain ⟨hmem, hbear, hslew⟩ := u.takeBound_keeps
    refine ⟨_, hexec, hbear, hmem, fun hdatum => ⟨?_, ?_⟩, fun hdatum p m hp => ⟨?_, ?_, ?_⟩⟩
    · rw [State.takeBound_datum (s := u) hdatum, State.setBound_reg]
      rfl
    · exact hslew.trans (State.slewAfter_datum hdatum ..)
    · rw [State.takeBound_parent (s := u) hdatum hp, State.setBound_reg]
    · intro hport
      rw [hslew, show u.plat.slew = _ from State.slewAfter_parent hdatum hp .., if_pos hport]
      omega
    · intro hport
      rw [hslew, show u.plat.slew = _ from State.slewAfter_parent hdatum hp .., if_neg hport]
  · refine congrArg _ (if_pos (.inr ?_))
    obtain h | h | h | h := h
    · exact .inl h
    · exact .inr (.inl (by rw [h]; exact Bool.false_ne_true))
    · exact .inr (.inr (.inl h))
    · exact .inr (.inr (.inr (not_not.mp h)))

/-- Settles O49: each event of the fabric by what it makes of its router, its link, its delivery or its port. -/
theorem fabricEventsTakeEffect : Obligations.FabricEventsTakeEffect :=
  ⟨packetsAreInjected, runsBegin, deliveriesLand, slotsAndParksAreFreed, linksRetryRetrainAndDie, bearingsAreExchanged⟩

end Sys2Proof.Machine
end
